-- ==== Sys2Proof/Word.lean ====
section
/-! DEFINITION. The word types of the Cydon CX9 (R3, R4, R195) and the sparse maps in which every store of the
machine is held. -/

namespace Sys2Proof

/-- A byte (R4). -/
abbrev Byte := BitVec 8
/-- A 32-bit lane register value (R195). -/
abbrev Word32 := BitVec 32
/-- A 64-bit value: an s register, a pointer or a hub register (R11, R195). -/
abbrev Word64 := BitVec 64
/-- A 128-bit value: an accumulator element or a quad (R191, R212). -/
abbrev Word128 := BitVec 128
/-- A 32-bit lane mask; bit l stands for lane l (R9). -/
abbrev Mask := BitVec 32

/-- A sparse map: pairs of key and value, keys strictly rising. A key that is not listed reads as the default that
the reader names. -/
abbrev SMap (α : Type) := List (Nat × α)

namespace SMap

/-- The value listed at a key. -/
def find? {α : Type} : SMap α → Nat → Option α
  | [], _ => none
  | (j, v) :: m, k => if k = j then some v else find? m k

/-- The value at a key, or the default of an unlisted key. -/
def get {α : Type} (d : α) (m : SMap α) (k : Nat) : α := (find? m k).getD d

/-- The map without a key. -/
def erase {α : Type} (m : SMap α) (k : Nat) : SMap α := m.filter (fun p => decide (p.1 ≠ k))

/-- The map with a key listed at a value. -/
def put {α : Type} : SMap α → Nat → α → SMap α
  | [], k, v => [(k, v)]
  | (j, w) :: m, k, v =>
    if k < j then (k, v) :: (j, w) :: m
    else if k = j then (k, v) :: m
    else (j, w) :: put m k v

/-- The map after a write: writing the default removes the entry, so that equal contents are equal lists. -/
def set {α : Type} [DecidableEq α] (d : α) (m : SMap α) (k : Nat) (v : α) : SMap α :=
  if v = d then erase m k else put m k v

/-- The canonical form: keys strictly rising, and no entry at the default. -/
def wf {α : Type} [DecidableEq α] (d : α) (m : SMap α) : Bool :=
  decide (m.Pairwise (fun x y => x.1 < y.1)) && m.all (fun x => decide (x.2 ≠ d))

/-- The values in key order. -/
def vals {α : Type} (m : SMap α) : List α := m.map Prod.snd

/-- The keys in rising order. -/
def keys {α : Type} (m : SMap α) : List Nat := m.map Prod.fst

end SMap

end Sys2Proof
end

