-- ==== Sys2Proof/Syntax.lean ====
section
/-! DEFINITION. The abstract syntax: one constructor of Instr for each row of spec/opcode_table.json. A Sarnos
instruction (R196) carries its operands (Opr) and its typed modifiers; an event of the package carries the plain data
that says which line, thread, request or record it concerns. -/

namespace Sys2Proof

/-- The type codes of R198. -/
inductive Ty where
  | b32 | s8 | s16 | s32 | s64 | n8 | n16 | n32 | n64 | b64 | b128 | h2
  | f64 | f32 | bf16 | f16 | e4m3 | e5m2 | e3m2 | e2m3 | e2m1 | mx
  deriving DecidableEq, Repr

/-- The rounding modes of R214. -/
inductive Rm where
  | rne | rz | rd | ru | rna | sr
  deriving DecidableEq, Repr

/-- The conditions of cmp (R241). -/
inductive Cond where
  | eq | ne | lt | le | gt | ge
  deriving DecidableEq, Repr

/-- The conditions of fcmp (R259). -/
inductive FCond where
  | eq | ne | lt | le | gt | ge | un | ord
  deriving DecidableEq, Repr

/-- The memory orders of R101. -/
inductive Ord where
  | rlx | acq | rel | ar | sc
  deriving DecidableEq, Repr

/-- The scopes of R101. -/
inductive Scope where
  | grp | blk | gang | die | pkg | fab
  deriving DecidableEq, Repr

/-- The 32-bit special registers of R163 and R193; %pt stands apart. -/
inductive SReg where
  | lane | group | block | gang | gangsize | core | cluster | die
  deriving DecidableEq, Repr

/-- An operand (R190, R193). `none` is an operand the entry does not use; `ix` names an index register directly
(R243). -/
inductive Opnd where
  | none
  | v (n : BitVec 8)
  | vix (m : BitVec 2) (off : BitVec 6)
  | s (n : BitVec 6)
  | sreg (r : SReg)
  | pt
  | pred (n : BitVec 3)
  | zero
  | imm
  | ix (m : BitVec 2)
  deriving DecidableEq, Repr

/-- The guard, flag select, operands and immediate that every instruction carries (R187). `imm` is IMM where it is a
source, an offset or a timeout; entries that put control fields into IMM carry those as typed arguments and keep
`imm` zero. -/
structure Opr where
  gn : Bool := false
  gp : BitVec 3 := 7
  fs : BitVec 2 := 0
  d : Opnd := .none
  a : Opnd := .none
  b : Opnd := .none
  c : Opnd := .none
  imm : BitVec 32 := 0
  deriving DecidableEq, Repr

/-- A code pointer of IMM (R188): lines relative to the instruction's line, and the slot. -/
structure CodePtr where
  line : BitVec 29
  slot : BitVec 3
  deriving DecidableEq, Repr

/-- A reconvergence pointer of cat(B, C) (R188). -/
structure JoinPtr where
  line : BitVec 13
  slot : BitVec 3
  deriving DecidableEq, Repr

/-- Modes of perm (R266). -/
inductive PermMode where
  | gat | rot | rev | swp
  deriving DecidableEq, Repr

/-- Modes of lmask (R267). -/
inductive LmaskMode where
  | msk | cnt | rank | lead
  deriving DecidableEq, Repr

/-- Modes of lgrp (R267). -/
inductive LgrpMode where
  | eqm | rep | num
  deriving DecidableEq, Repr

/-- Operations of lred and lpre (R268). -/
inductive LredOp where
  | add | min | max | and | or | xor
  deriving DecidableEq, Repr

/-- Operations of atom and red (R275). -/
inductive AtomOp where
  | add | min | max | and | or | xor | exch
  deriving DecidableEq, Repr

/-- Widths of a packed-pixel sample (R264). -/
inductive PxW where
  | w10 | w12 | w14
  deriving DecidableEq, Repr

/-- Widths of cas (R276). -/
inductive CasW where
  | b32 | b64 | b128
  deriving DecidableEq, Repr

/-- Levels of prefetch (R279). -/
inductive PfLevel where
  | l1 | l2 | l3
  deriving DecidableEq, Repr

/-- The arrival counters in the numbering of R281. -/
inductive AcCtr where
  | cpy | dcx | srd | col | rmt | rsd
  deriving DecidableEq, Repr

/-- Operand formats of the matrix instructions (R291). -/
inductive MFmt where
  | e4m3 | e5m2 | e3m2 | e2m3 | e2m1 | s8 | bf16 | f16 | s16
  deriving DecidableEq, Repr

/-- Kinds of acc.cvt (R305). -/
inductive CvtKind where
  | iToF | fToI | fToF | iToI
  deriving DecidableEq, Repr

/-- Compression formats of dcx (R322). -/
inductive DcxFmt where
  | zstd | lz4 | dfl
  deriving DecidableEq, Repr

/-- Kinds of a collective (R328). -/
inductive CollKind where
  | ar | rs | ag
  deriving DecidableEq, Repr

/-- Operations of a collective (R328). -/
inductive CollOp where
  | sum | max | min
  deriving DecidableEq, Repr

/-- Element types of a collective (R328). -/
inductive CollTy where
  | f32 | bf16 | f16 | s32 | ka
  deriving DecidableEq, Repr

/-- The trap causes of R9, with the codes of R369. -/
inductive Cause where
  | ill | line | pair | tgt | range | align | space | page | perm | poison | stale | quota | rsd | tree
  | kvmiss | migr | collAbort | svc | brk
  deriving DecidableEq, Repr

/-- The thread an event concerns: a context (host thread, cox or group) and one of its splits. -/
structure Who where
  cid : Nat
  k : Nat
  deriving DecidableEq, Repr

/-- A write that reaches a register of the system region: the writing host thread's device, the offset from
0xF_0000_0000_0000 and the 64-bit value (R108, R277, R396). -/
structure RegW where
  dev : Nat
  off : Nat
  val : BitVec 64
  deriving DecidableEq, Repr

/-- The collective an event concerns: virtual device, communicator and sequence count (R330). -/
structure CollId where
  vdev : Nat
  cid : Nat
  seq : Nat
  deriving DecidableEq, Repr

/-- What the members of a collective must agree in (R330): kind, operation, type, element count, and the communicator record's deadline
and members. -/
structure CollPar where
  kd : CollKind
  cop : CollOp
  ct : CollTy
  ne : Nat
  deadline : Nat
  members : List (Nat × Nat)
  deriving DecidableEq, Repr

/-- What another member's contribution carries (R329, R330): the parameters of its collective and its bytes. -/
structure CollMsg where
  par : CollPar
  data : List (BitVec 8)
  deriving DecidableEq, Repr

/-- What a remote access asks for (R420). -/
inductive FabKind where
  | load
  | store (data : List (BitVec 8))
  | atomic (op : AtomOp) (t : Ty) (data : List (BitVec 8))
  | cas (cmp new : List (BitVec 8))
  deriving DecidableEq, Repr

/-- A space-0x8 access that arrives from a package of the pod (R16, R420): source position and device, offset, size in
bytes and kind. -/
structure FabAcc where
  srow : Nat
  scol : Nat
  svdev : Nat
  off : Nat
  size : Nat
  kind : FabKind
  deriving DecidableEq, Repr

/-- How a remote access comes back to its issuer: the bytes read, or a fault with its qualifier and level (R16). -/
inductive FabReply where
  | done (data : List (BitVec 8))
  | fault (c : Cause) (qual level : Nat)
  deriving DecidableEq, Repr

/-- A management datagram's request, after the header of R426. -/
structure MgmtReq where
  ver : Nat
  code : Nat
  signed : Bool
  reserved : Nat
  mseq : Nat
  arg0 : BitVec 64
  arg1 : BitVec 64
  payload : List (BitVec 8)
  oppub : List (BitVec 8)
  sigR : List (BitVec 8)
  sigS : List (BitVec 8)
  deriving DecidableEq, Repr

/-- A boot image: header fields and body (R422). -/
structure Image where
  fwseq : Nat
  length : Nat
  bodyHash : List (BitVec 8)
  sigR : List (BitVec 8)
  sigS : List (BitVec 8)
  entry : Nat
  body : List (BitVec 8)
  deriving DecidableEq, Repr

/-- A claim on this package by the home of a rectangle launch (R363): the home's row and column, its number for the launch,
queue, LINDEX, virtual device and priority, and the launch record. -/
structure RectReq where
  row : Nat
  col : Nat
  id : Nat
  queue : Nat
  lindex : Nat
  vdev : Nat
  prio : Nat
  record : List (BitVec 8)
  deriving DecidableEq, Repr

/-- The operations and events of the part, one constructor per row of the table. -/
inductive Instr where
  -- class 000: integers, bits, predicates, index descriptors, register segments (R231)
  | add (o : Opr) (t : Ty) (sat : Bool)
  | sub (o : Opr) (t : Ty) (sat : Bool)
  | mul (o : Opr) (t : Ty) (sat : Bool)
  | mulhi (o : Opr) (t : Ty)
  | mad (o : Opr) (t : Ty) (sat : Bool)
  | div (o : Opr) (t : Ty)
  | rem (o : Opr) (t : Ty)
  | min (o : Opr) (t : Ty)
  | max (o : Opr) (t : Ty)
  | abs (o : Opr) (t : Ty) (sat : Bool)
  | neg (o : Opr) (t : Ty) (sat : Bool)
  | and (o : Opr) (t : Ty)
  | or (o : Opr) (t : Ty)
  | xor (o : Opr) (t : Ty)
  | not (o : Opr) (t : Ty)
  | shl (o : Opr) (t : Ty)
  | shr (o : Opr) (t : Ty)
  | sar (o : Opr) (t : Ty)
  | rol (o : Opr) (t : Ty)
  | ror (o : Opr) (t : Ty)
  | bfx (o : Opr) (t : Ty)
  | bfi (o : Opr) (t : Ty)
  | popc (o : Opr) (t : Ty)
  | clz (o : Opr) (t : Ty)
  | ctz (o : Opr) (t : Ty)
  | brev (o : Opr) (t : Ty)
  | sel (o : Opr) (t : Ty)
  | mov (o : Opr) (t : Ty)
  | lea (o : Opr) (t : Ty) (sh : BitVec 3)
  | cmp (o : Opr) (t : Ty) (cc : Cond)
  | pand (o : Opr) (nb : Bool)
  | por (o : Opr) (nb : Bool)
  | pxor (o : Opr) (nb : Bool)
  | pnot (o : Opr)
  | ixset (o : Opr)
  | ixinc (o : Opr)
  | ixget (o : Opr)
  | rgrow (o : Opr)
  | rshrink (o : Opr)
  -- class 001: floating point (R257, R262)
  | fadd (o : Opr) (t : Ty) (rm : Rm)
  | fsub (o : Opr) (t : Ty) (rm : Rm)
  | fmul (o : Opr) (t : Ty) (rm : Rm)
  | ffma (o : Opr) (t : Ty) (rm : Rm)
  | fmin (o : Opr) (t : Ty)
  | fmax (o : Opr) (t : Ty)
  | fabs (o : Opr) (t : Ty)
  | fneg (o : Opr) (t : Ty)
  | fcmp (o : Opr) (t : Ty) (cc : FCond)
  | fcvt (o : Opr) (t : Ty) (src : Ty) (rm : Rm) (q : BitVec 3)
  | fcvti (o : Opr) (t : Ty) (src : Ty) (rm : Rm) (q : BitVec 3)
  | icvtf (o : Opr) (t : Ty) (src : Ty) (rm : Rm) (q : BitVec 3)
  | frnd (o : Opr) (t : Ty) (rm : Rm)
  | fclass (o : Opr) (t : Ty)
  | frcp (o : Opr) (t : Ty)
  | frsqrt (o : Opr) (t : Ty)
  | fsqrt (o : Opr) (t : Ty) (rm : Rm)
  | fexp2 (o : Opr) (t : Ty)
  | flog2 (o : Opr) (t : Ty)
  | fsin (o : Opr) (t : Ty)
  | fcos (o : Opr) (t : Ty)
  | ftanh (o : Opr) (t : Ty)
  | fdiv (o : Opr) (t : Ty) (rm : Rm)
  -- class 010: int16 pairs, packed pixels, cross-lane, KA (R263 to R271)
  | hadd (o : Opr) (sat : Bool)
  | hsub (o : Opr) (sat : Bool)
  | hmul (o : Opr) (sat : Bool)
  | hmad (o : Opr) (sat : Bool)
  | hmin (o : Opr)
  | hmax (o : Opr)
  | hsar (o : Opr) (rnd : Bool)
  | hclamp (o : Opr)
  | pxunpk (o : Opr) (w : PxW)
  | pxpack (o : Opr) (w : PxW)
  | perm (o : Opr) (t : Ty) (m : PermMode)
  | lmask (o : Opr) (m : LmaskMode)
  | lgrp (o : Opr) (t : Ty) (m : LgrpMode)
  | lred (o : Opr) (t : Ty) (op : LredOp)
  | lpre (o : Opr) (t : Ty) (op : LredOp)
  | kaclr (o : Opr)
  | kaadd (o : Opr)
  | kamad (o : Opr)
  | karead (o : Opr) (t : Ty) (rm : Rm)
  | kast (o : Opr) (ord : Ord) (sc : Scope)
  | kald (o : Opr) (ord : Ord) (sc : Scope)
  | kaaddm (o : Opr) (ord : Ord) (sc : Scope)
  -- class 011: memory (R272 to R281)
  | ld (o : Opr) (t : Ty) (ord : Ord) (sc : Scope)
  | st (o : Opr) (t : Ty) (ord : Ord) (sc : Scope)
  | atom (o : Opr) (t : Ty) (op : AtomOp) (ord : Ord) (sc : Scope)
  | red (o : Opr) (t : Ty) (op : AtomOp) (ord : Ord) (sc : Scope)
  | cas (o : Opr) (w : CasW) (ord : Ord) (sc : Scope)
  | fence (o : Opr) (ord : Ord) (sc : Scope)
  | prefetch (o : Opr) (lv : PfLevel)
  | waitAc (o : Opr) (ac : AcCtr)
  | accLd (o : Opr) (t : Ty) (rm : Rm)
  -- class 100: transfers (R248)
  | bra (o : Opr) (tgt : CodePtr) (j : Option JoinPtr)
  | brx (o : Opr) (j : Option JoinPtr)
  | call (o : Opr) (tgt : CodePtr)
  | callx (o : Opr)
  | ret (o : Opr)
  | join (o : Opr)
  | joinT (o : Opr)
  | exit (o : Opr)
  | nop (o : Opr)
  -- class 101: matrix, residency, tree, KV table (R287)
  | mma (o : Opr) (fa fb : MFmt) (tile : BitVec 3) (z : Bool)
  | mmas (o : Opr) (fa fb : MFmt) (tile : BitVec 3) (z mx : Bool)
  | mmx (o : Opr) (fa fb : MFmt) (tile : BitVec 3) (z : Bool)
  | mmt (o : Opr) (fa fb : MFmt) (tile : BitVec 3) (z : Bool)
  | accClr (o : Opr) (tiles : BitVec 8)
  | accIn (o : Opr) (t : Ty) (tile : BitVec 3)
  | accOut (o : Opr) (t : Ty) (rm : Rm) (tile : BitVec 3)
  | accCvt (o : Opr) (kd : CvtKind) (rm : Rm) (tile : BitVec 3) (sh : BitVec 8)
  | mrpRd (o : Opr)
  | mrpWr (o : Opr)
  | rsdAlloc (o : Opr)
  | rsdLoad (o : Opr) (shard : Bool)
  | rsdPin (o : Opr)
  | rsdUnpin (o : Opr)
  | rsdFree (o : Opr)
  | rsdQuery (o : Opr)
  | treeClr (o : Opr)
  | treeAdd (o : Opr)
  | treeMask (o : Opr)
  | treePos (o : Opr)
  | treeAccept (o : Opr)
  | treePrune (o : Opr)
  | treeRd (o : Opr)
  | kvFind (o : Opr)
  | kvInsert (o : Opr)
  | kvDelete (o : Opr)
  -- class 110: engines (R318)
  | cpy (o : Opr) (chg : BitVec 6)
  | cpy2d (o : Opr) (chg : BitVec 6) (e : BitVec 8)
  | dcx (o : Opr) (chg : BitVec 6) (f : DcxFmt) (e : BitVec 8)
  | srd (o : Opr) (chg : BitVec 6)
  | coll (o : Opr) (chg : BitVec 6) (kd : CollKind) (op : CollOp) (ct : CollTy) (wcls : BitVec 3) (sig : Bool)
      (e : BitVec 8)
  | launch (o : Opr)
  -- class 110 and 111: synchronisation, tiers, system (R335, R338, R340 to R345)
  | barArrive (o : Opr) (n : BitVec 4)
  | barWait (o : Opr) (n : BitVec 4)
  | dqPush (o : Opr)
  | dqPop (o : Opr) (p : BitVec 3)
  | gangArrive (o : Opr) (n : BitVec 2)
  | gangWait (o : Opr) (n : BitVec 2)
  | tierHint (o : Opr)
  | tierPin (o : Opr)
  | tierUnpin (o : Opr)
  | tierQuery (o : Opr)
  | trap (o : Opr) (c : Cause) (q : BitVec 8)
  | svc (o : Opr) (n : BitVec 24)
  | brk (o : Opr) (n : BitVec 24)
  | tresume (o : Opr) (e : BitVec 8)
  | wrpriv (o : Opr) (num : BitVec 12)
  | rdpriv (o : Opr) (num : BitVec 12)
  | rdctr (o : Opr) (n : BitVec 8)
  -- events: fetch, results, memory system
  | variableLatencyResult (cid i : Nat)
  | accessConfirm (w : Who)
  | haRead (id : Nat)
  | haWrite (id : Nat)
  | counterWriteback (key : Nat)
  -- events: migration and pool
  | migAccept
  | chunkCopy (f : Nat)
  | catchSwap (f : Nat)
  | catchTimeout (f : Nat)
  | catchRetry (f : Nat)
  | migRetire (f : Nat)
  | pinRetry
  | potcmdRequest (w : RegW)
  | potcmdForce (w : RegW)
  | potcmdBadcmd (w : RegW)
  | handoverCommit (ppn : Nat)
  | handoverTimeout
  -- events: controllers and errors
  | sideQueueRelease (key : Nat)
  | eloglostRead (id : Nat)
  -- events: residencies and KV tables
  | fillComplete (vdev h : Nat)
  | rebuildComplete (vdev h : Nat)
  | rdtMirrorWrite (vdev h : Nat)
  | rcmdRevoke (w : RegW)
  | rcmdRevokeAll (w : RegW)
  | rcmdBadcmd (w : RegW)
  | rquotaWrite (w : RegW)
  | kvUpdate (w : Who)
  | quarantineRelease (i : Nat)
  -- events: launches, blocks, segments
  | launchTake (q : Nat)
  | tailWatch (q : Nat)
  | blockStart (l : Nat)
  | blockRetire (b : Nat)
  | joinTimeout (w : Who)
  | segmentRelocation (core : Nat)
  | rgrowGrant (cid : Nat)
  | rgrowDeny (core : Nat)
  | gangPeerAccess (id : Nat)
  | remoteWriteAck (id : Nat) (r : FabReply)
  -- events: engines and collectives
  | engineCountOut (id : Nat)
  | nvmeTimeout (id cmd : Nat)
  | chcfgWrite (w : RegW)
  | collDeadline (c : CollId)
  | collNodecision (c : CollId)
  -- events: queues, operating points, rectangles
  | qcfgWrite (w : RegW)
  | qevtRead (id : Nat)
  | oppStable (die : Nat)
  | rectClaimTimeout (l member : Nat)
  | rectStart (l : Nat)
  -- events: traps and pre-emption
  | heldRecordEnter (slot : Nat)
  | twselWrite (w : RegW)
  | twBindComplete (win : Nat)
  | twWrite (w : RegW)
  | sliceEnd (cl : Nat)
  | saveComplete (b : Nat)
  | blockResume (b : Nat)
  | preemptDeadline (cl : Nat)
  -- events: partition, interrupts, keys, host threads
  | reconfigCommand (w : RegW)
  | reconfigDone (dev : Nat)
  | qkill (w : RegW)
  | rreset (w : RegW)
  | ipendWrite (w : RegW)
  | iovfRead (id : Nat)
  | prestatRead (id : Nat)
  | halarmExpiry (n : Nat)
  | keyOff (w : RegW)
  | keyXts (w : RegW)
  | keyPlain (w : RegW)
  | keyBadcmd (w : RegW)
  | htcmdStart (w : RegW)
  | htcmdStop (w : RegW)
  | htcmdSwap (w : RegW)
  | htcmdBadcmd (w : RegW)
  | htcmdStopDone (n : Nat)
  -- events: fabric, links, package
  | fwinWrite (w : RegW)
  | linkTimeout (id : Nat)
  | identity (nonce : List (BitVec 8))
  | cert (i : Nat)
  | freeze
  | thaw
  | scan (c w : Nat)
  | coldresetCmd
  | update (img : Option Image)
  | commit
  | key0 (mode : Nat)
  | setcfg (rec : List (BitVec 8))
  | registerWrite (w : RegW)
  -- events: what rank 0 of a collective decides, and the home of a rectangle as a member
  | collCommit (c : CollId)
  | collAbortDecision (c : CollId) (qual : Nat)
  | rectClaim (r : RectReq)
  | rectRouteReport (l member : Nat) (good : Bool)
  -- events that only the world outside the model's own order brings about
  | lineFetch (w : Who)
  | translationLeaseExpiry (key : Nat)
  | leaseRenewal (key : Nat)
  | leaseExpiry (key : Nat)
  | ownershipRequest (die asid va vdev : Nat)
  | ownershipRecall (line : Nat)
  | ownershipExpiry (line : Nat)
  | l2Eviction (line : Nat)
  | directoryDrop (line : Nat)
  | handoverRequest (ppn frm : Nat)
  | handoverReply (ppn : Nat) (refused : Option Nat) (owner seq : Nat)
  | refreshWindowEnd (ctl : Nat)
  | correctableError (ctl pa : Nat)
  | patrolScrub (pa : Nat) (bad : Bool)
  | uncorrectableError (pa vdev cls : Nat)
  | cellError (vdev h : Nat)
  | kvLookupRestart (w : Who)
  | nvmeCompletion (id cmd status : Nat) (data : List (BitVec 8))
  | collData (c : CollId) (rank : Nat) (m : CollMsg)
  | collReady (c : CollId) (rank : Nat)
  | collAbortRequest (c : CollId) (qual : Nat)
  | rectMemberRetire (l member : Nat)
  | fabricAccessArrive (f : FabAcc)
  | flowStop (port tc : Nat)
  | flowGo (port tc : Nat)
  | linkStateChange (port : Nat) (width speed : Nat)
  | laneMarginRemove (port : Nat)
  | thermalStep (die : Nat)
  | thermtrip
  | coldReset
  | tftpRetry (img : Option Image)
  | mgmtRequest (r : MgmtReq)
  | releaseWaitEnd (w : Who)
  | powerLoss
  deriving DecidableEq, Repr

end Sys2Proof
end

