-- ==== Sys2Proof/Machine/Operands.lean ====
section
/-! DEFINITION. The operand forms of the instruction set: which operands each instruction uses, their widths and
directions (R190 to R193, R230, R231, R256 to R281, R287, R318, R335 to R345), the types it accepts, the streams that
may hold it (R196), its issue class and implicit state (R183). -/

namespace Sys2Proof

/-- What may stand in an operand position. -/
inductive OpClass where
  | src       -- a source of any kind of R190 and R193
  | srcM      -- a source of the MEM format: no IMM (R193)
  | dst       -- a destination: a register or a predicate (R230)
  | dstR      -- a destination register of the stream
  | laneR     -- a lane or indexed register, as source or destination
  | predD     -- a predicate destination
  | ixR       -- an index register named directly (R243)
  | addr      -- an address register: lane pair, indexed pair or s register (R272)
  | sR        -- a group of s registers (R286)
  | sI        -- an s register or a special source (R286)
  deriving DecidableEq, Repr

/-- One used operand: the operand, whether it is written, whether it is read, its width in bits, how many s registers
it names in the cox stream, and what may stand there. -/
structure Slot where
  op : Opnd
  wr : Bool
  rd : Bool
  w : Nat
  grp : Nat := 1
  cls : OpClass
  deriving DecidableEq, Repr

/-- The width W of a type's operand (R230, R256, R273). -/
def Ty.width : Ty → Nat
  | .s64 | .n64 | .b64 | .f64 => 64
  | .b128 => 128
  | _ => 32

/-- The size in bytes of a memory access of the type (R273). -/
def Ty.size : Ty → Nat
  | .s8 | .n8 | .e4m3 | .e5m2 | .e3m2 | .e2m3 | .e2m1 => 1
  | .s16 | .n16 | .bf16 | .f16 => 2
  | .s64 | .n64 | .b64 | .f64 => 8
  | .b128 => 16
  | _ => 4

/-- Signed integer types (R210). -/
def Ty.signed : Ty → Bool
  | .s8 | .s16 | .s32 | .s64 | .h2 => true
  | _ => false

/-- The floating-point types of vector arithmetic (R256). -/
def Ty.isFloat : Ty → Bool
  | .f64 | .f32 | .bf16 | .f16 => true
  | _ => false

/-- A source slot. -/
def Slot.s (op : Opnd) (w : Nat) : Slot := { op := op, wr := false, rd := true, w := w, cls := .src }
/-- A destination slot. -/
def Slot.d (op : Opnd) (w : Nat) : Slot := { op := op, wr := true, rd := false, w := w, cls := .dst }
/-- A destination that must be a register. -/
def Slot.dr (op : Opnd) (w : Nat) : Slot := { op := op, wr := true, rd := false, w := w, cls := .dstR }
/-- A lane or indexed destination. -/
def Slot.dl (op : Opnd) (w : Nat) : Slot := { op := op, wr := true, rd := false, w := w, cls := .laneR }
/-- A lane or indexed destination whose other bits are kept, so that it also counts as read (R260, R264). -/
def Slot.dk (op : Opnd) (w : Nat) : Slot := { op := op, wr := true, rd := true, w := w, cls := .laneR }
/-- A store or atomic operand (R272). -/
def Slot.m (op : Opnd) (w : Nat) : Slot := { op := op, wr := false, rd := true, w := w, cls := .srcM }
/-- An address register (R272). -/
def Slot.a (op : Opnd) : Slot := { op := op, wr := false, rd := true, w := 64, cls := .addr }
/-- A group of n s registers read. -/
def Slot.sr (op : Opnd) (n : Nat := 1) : Slot := { op := op, wr := false, rd := true, w := 64, grp := n, cls := .sR }
/-- A group of n s registers written. -/
def Slot.sd (op : Opnd) (n : Nat := 1) : Slot := { op := op, wr := true, rd := false, w := 64, grp := n, cls := .sR }
/-- An s register or special source (s/i). -/
def Slot.si (op : Opnd) : Slot := { op := op, wr := false, rd := true, w := 64, cls := .sI }

/-- The width in bits of an atomic compare and swap (R276). -/
def CasW.bits : CasW → Nat
  | .b32 => 32 | .b64 => 64 | .b128 => 128

/-- The type that a cas of the width moves. -/
def CasW.ty : CasW → Ty
  | .b32 => .b32 | .b64 => .b64 | .b128 => .b128

/-- A narrowing fcvt keeps the other bits of its destination (R260). -/
def Ty.fbits : Ty → Nat
  | .f64 => 64 | .f32 => 32 | .bf16 | .f16 => 16
  | .e4m3 | .e5m2 | .e3m2 | .e2m3 => 8
  | .e2m1 => 4
  | t => t.width

/-- The E operand, a register with the kind of A (R188). -/
def eOpnd (a : Opnd) (e : BitVec 8) : Opnd :=
  match a with
  | .vix _ _ => .vix (e.extractLsb' 6 2) (e.extractLsb' 0 6)
  | .s _ => .s (e.extractLsb' 0 6)
  | _ => .v e

/-- An E field names a register: for a cox register its bits [7:6] are zero (R190). -/
def eFieldOk (a : Opnd) (e : BitVec 8) : Bool := match a with | .s _ => e.extractLsb' 6 2 = 0 | _ => true

/-- The destination of an fcvt is the narrower side, so that it counts as read (R260). -/
def fcvtNarrows (t src : Ty) : Bool := t.fbits < src.fbits

/-- The opcode's operands, in the order D, A, B, C, E (R231, R257 to R281, R287, R318, R335 to R345). -/
def Instr.slots : Instr → List Slot
  | .add o t _ | .sub o t _ | .mul o t _ => [.d o.d t.width, .s o.a t.width, .s o.b t.width]
  | .mulhi o t | .div o t | .rem o t | .min o t | .max o t =>
    [.d o.d t.width, .s o.a t.width, .s o.b t.width]
  | .mad o t _ => [.d o.d t.width, .s o.a t.width, .s o.b t.width, .s o.c t.width]
  | .abs o t _ | .neg o t _ => [.d o.d t.width, .s o.a t.width]
  | .and o t | .or o t | .xor o t => [.d o.d t.width, .s o.a t.width, .s o.b t.width]
  | .not o t | .brev o t | .mov o t => [.d o.d t.width, .s o.a t.width]
  | .shl o t | .shr o t | .sar o t | .rol o t | .ror o t | .bfx o t =>
    [.d o.d t.width, .s o.a t.width, .s o.b 32]
  | .bfi o t | .sel o t => [.d o.d t.width, .s o.a t.width, .s o.b t.width, .s o.c 32]
  | .popc o t | .clz o t | .ctz o t => [.d o.d 32, .s o.a t.width]
  | .lea o _ _ => [.d o.d 64, .s o.a 64, .s o.b 32]
  | .cmp o t _ => [.d o.d 32, .s o.a t.width, .s o.b t.width]
  | .pand o _ | .por o _ | .pxor o _ => [.d o.d 32, .s o.a 32, .s o.b 32]
  | .pnot o => [.d o.d 32, .s o.a 32]
  | .ixset o => [{ op := o.d, wr := true, rd := false, w := 32, cls := .ixR }, .s o.a 32]
  | .ixinc o => [{ op := o.d, wr := true, rd := true, w := 32, cls := .ixR }, .s o.a 32]
  | .ixget o => [.d o.d 32, { op := o.a, wr := false, rd := true, w := 32, cls := .ixR }]
  | .rgrow o | .rshrink o => [{ op := o.d, wr := true, rd := false, w := 32, cls := .predD }, .s o.a 32]
  | .fadd o t _ | .fsub o t _ | .fmul o t _ | .fdiv o t _ => [.dl o.d t.width, .s o.a t.width, .s o.b t.width]
  | .fmin o t | .fmax o t => [.dl o.d t.width, .s o.a t.width, .s o.b t.width]
  | .ffma o t _ => [.dl o.d t.width, .s o.a t.width, .s o.b t.width, .s o.c t.width]
  | .fabs o t | .fneg o t | .frcp o t | .frsqrt o t | .fexp2 o t | .flog2 o t | .fsin o t | .fcos o t
  | .ftanh o t => [.dl o.d t.width, .s o.a t.width]
  | .frnd o t _ | .fsqrt o t _ => [.dl o.d t.width, .s o.a t.width]
  | .fcmp o t _ => [.d o.d 32, .s o.a t.width, .s o.b t.width]
  | .fclass o t => [.dl o.d 32, .s o.a t.width]
  | .fcvt o t src _ _ =>
    [if fcvtNarrows t src then .dk o.d t.width else .dl o.d t.width, .s o.a src.width]
  | .fcvti o t src _ _ => [.dl o.d t.width, .s o.a src.width]
  | .icvtf o t src _ _ =>
    [if t.fbits = 16 && src ≠ .h2 then .dk o.d t.width else .dl o.d t.width, .s o.a src.width]
  | .hadd o _ | .hsub o _ | .hmul o _ => [.d o.d 32, .s o.a 32, .s o.b 32]
  | .hmin o | .hmax o => [.d o.d 32, .s o.a 32, .s o.b 32]
  | .hmad o _ => [.d o.d 32, .s o.a 32, .s o.b 32, .s o.c 32]
  | .hclamp o => [.d o.d 32, .s o.a 32, .s o.b 32, .s o.c 32]
  | .hsar o _ => [.d o.d 32, .s o.a 32, .s o.b 32]
  | .pxunpk o _ => [.d o.d 32, .s o.a 64, .s o.b 32]
  | .pxpack o _ => [.dk o.d 64, .s o.a 32, .s o.b 32]
  | .perm o t _ | .lred o t _ | .lpre o t _ => [.d o.d t.width, .s o.a t.width, .s o.b 32]
  | .lmask o _ => [.d o.d 32, .s o.a 32]
  | .lgrp o t _ => [.d o.d 32, .s o.a t.width]
  | .kaclr _ => []
  | .kaadd o => [.s o.a 32]
  | .kamad o => [.s o.a 32, .s o.b 32]
  | .karead o t _ => [.dr o.d t.width]
  | .kast o _ _ | .kald o _ _ | .kaaddm o _ _ => [.a o.a]
  | .ld o t _ _ => [.dr o.d t.width, .a o.a]
  | .st o t _ _ => [.a o.a, .m o.b t.width]
  | .atom o t _ _ _ => [.dr o.d t.width, .a o.a, .m o.b t.width]
  | .red o t _ _ _ => [.a o.a, .m o.b t.width]
  | .cas o w _ _ => [.dr o.d w.bits, .a o.a, .m o.b w.bits, { op := o.c, wr := false, rd := true, w := w.bits, cls := .dstR }]
  | .fence _ _ _ => []
  | .prefetch o _ => [.a o.a]
  | .waitAc o _ => [.s o.a 32]
  | .accLd o t _ => [.dl o.d t.width, { op := o.a, wr := false, rd := true, w := 32, cls := .laneR }]
  | .bra _ _ _ | .call _ _ | .ret _ | .join _ | .exit _ | .nop _ => []
  | .brx o _ | .callx o => [.a o.a]
  | .joinT o => [{ op := o.d, wr := true, rd := false, w := 32, cls := .predD }]
  | .mma o _ _ _ _ | .mmas o _ _ _ _ _ | .mmx o _ _ _ _ => [.sr o.a 8, .sr o.b]
  | .mmt o _ _ _ _ => [.sr o.a 8]
  | .accClr _ _ | .accCvt _ _ _ _ _ => []
  | .accIn o _ _ | .accOut o _ _ _ => [.sr o.a, .sr o.b]
  | .mrpRd o => [.sd o.d 2]
  | .mrpWr o => [.sr o.a 2]
  | .rsdAlloc o => [.si o.a, .si o.b]
  | .rsdLoad o _ => [.si o.a, .sr o.b]
  | .rsdPin o | .rsdUnpin o | .rsdFree o => [.si o.a]
  | .rsdQuery o => [.sd o.d, .si o.a]
  | .treeClr o => [.si o.a, .si o.b]
  | .treeAdd o => [.sd o.d, .sr o.a, .si o.b]
  | .treeMask o => [.sd o.d 4, .si o.a]
  | .treePos o => [.sd o.d, .si o.a]
  | .treeAccept o => [.si o.a]
  | .treePrune o => [.sd o.d, .si o.a]
  | .treeRd o => [.sd o.d 2, .si o.a]
  | .kvFind o => [.sd o.d, .sr o.a, .sr o.b]
  | .kvInsert o => [.sr o.a, .sr o.b, .si o.c]
  | .kvDelete o => [.sr o.a, .sr o.b]
  | .cpy o _ => [.sr o.a, .sr o.b, .si o.c]
  | .cpy2d o _ e => [.sr o.a, .sr o.b, .sr o.c, .sr (eOpnd o.a e)]
  | .dcx o _ _ e => [.sr o.a, .sr o.b, .sr o.c, .sr (eOpnd o.a e)]
  | .srd o _ => [.sr o.a, .sr o.b, .sr o.c]
  | .coll o _ _ _ _ _ sig e =>
    [.sr o.a, .sr o.b, .sr o.c] ++ (if sig then [.sr (eOpnd o.a e) 2] else [])
  | .launch o => [.sd o.d, .sr o.a, .si o.b]
  | .barArrive o _ | .gangArrive o _ => [.d o.d 32, .s o.b 32]
  | .barWait o _ | .gangWait o _ => [.s o.a 32]
  | .dqPush o => [.si o.a]
  | .dqPop o p => [.dl o.d 64, { op := .pred p, wr := true, rd := false, w := 32, cls := .predD }]
  | .tierHint o | .tierPin o => [.a o.a, .s o.b 32]
  | .tierUnpin o => [.a o.a]
  | .tierQuery o => [.dr o.d 64, .a o.a]
  | .trap _ _ _ | .svc _ _ | .brk _ _ => []
  | .tresume o e =>
    [.dl o.d 32, { op := o.a, wr := false, rd := true, w := 64, cls := .laneR }, .s o.b 32, .s o.c 32]
      ++ (if o.b = .imm || o.c = .imm then [] else
          [{ op := eOpnd o.a e, wr := false, rd := true, w := 64, cls := .laneR }])
  | .wrpriv o _ => [{ op := o.a, wr := false, rd := true, w := 64, cls := .laneR }]
  | .rdpriv o _ => [.dl o.d 64]
  | .rdctr o _ => [.dr o.d 64]
  | _ => []

/-- The guard, flag select and operands of an instruction; none for an event. -/
def Instr.opr? : Instr → Option Opr
  | .add o _ _ | .sub o _ _ | .mul o _ _ | .mulhi o _ | .mad o _ _ | .div o _ | .rem o _ | .min o _ | .max o _
  | .abs o _ _ | .neg o _ _ | .and o _ | .or o _ | .xor o _ | .not o _ | .shl o _ | .shr o _ | .sar o _ | .rol o _
  | .ror o _ | .bfx o _ | .bfi o _ | .popc o _ | .clz o _ | .ctz o _ | .brev o _ | .sel o _ | .mov o _ | .lea o _ _
  | .cmp o _ _ | .pand o _ | .por o _ | .pxor o _ | .pnot o | .ixset o | .ixinc o | .ixget o | .rgrow o
  | .rshrink o | .fadd o _ _ | .fsub o _ _ | .fmul o _ _ | .ffma o _ _ | .fmin o _ | .fmax o _ | .fabs o _
  | .fneg o _ | .fcmp o _ _ | .fcvt o _ _ _ _ | .fcvti o _ _ _ _ | .icvtf o _ _ _ _ | .frnd o _ _ | .fclass o _
  | .frcp o _ | .frsqrt o _ | .fsqrt o _ _ | .fexp2 o _ | .flog2 o _ | .fsin o _ | .fcos o _ | .ftanh o _
  | .fdiv o _ _ | .hadd o _ | .hsub o _ | .hmul o _ | .hmad o _ | .hmin o | .hmax o | .hsar o _ | .hclamp o
  | .pxunpk o _ | .pxpack o _ | .perm o _ _ | .lmask o _ | .lgrp o _ _ | .lred o _ _ | .lpre o _ _ | .kaclr o
  | .kaadd o | .kamad o | .karead o _ _ | .kast o _ _ | .kald o _ _ | .kaaddm o _ _ | .ld o _ _ _ | .st o _ _ _
  | .atom o _ _ _ _ | .red o _ _ _ _ | .cas o _ _ _ | .fence o _ _ | .prefetch o _ | .waitAc o _ | .accLd o _ _
  | .bra o _ _ | .brx o _ | .call o _ | .callx o | .ret o | .join o | .joinT o | .exit o | .nop o
  | .mma o _ _ _ _ | .mmas o _ _ _ _ _ | .mmx o _ _ _ _ | .mmt o _ _ _ _ | .accClr o _ | .accIn o _ _
  | .accOut o _ _ _ | .accCvt o _ _ _ _ | .mrpRd o | .mrpWr o | .rsdAlloc o | .rsdLoad o _ | .rsdPin o
  | .rsdUnpin o | .rsdFree o | .rsdQuery o | .treeClr o | .treeAdd o | .treeMask o | .treePos o | .treeAccept o
  | .treePrune o | .treeRd o | .kvFind o | .kvInsert o | .kvDelete o | .cpy o _ | .cpy2d o _ _ | .dcx o _ _ _
  | .srd o _ | .coll o _ _ _ _ _ _ _ | .launch o | .barArrive o _ | .barWait o _ | .dqPush o | .dqPop o _
  | .gangArrive o _ | .gangWait o _ | .tierHint o | .tierPin o | .tierUnpin o | .tierQuery o | .trap o _ _
  | .svc o _ | .brk o _ | .tresume o _ | .wrpriv o _ | .rdpriv o _ | .rdctr o _ => some o
  | _ => none

/-- The kinds of thread that issue instructions (R196): a group's lanes, a cox, a host thread. -/
inductive Stream where
  | lane | cox | host
  deriving DecidableEq, Repr

/-- The operand's register kind may stand in the stream (R190). -/
def Opnd.inStream (st : Stream) : Opnd → Bool
  | .v _ | .vix _ _ | .ix _ => st ≠ .cox
  | .s _ => st = .cox
  | _ => true

/-- What may stand in the position, independently of the stream (R190 to R193, R230, R243, R286), with the register
alignment of R191 and R286 and the ILL of a 128-bit operand in an s register (R230, R273). -/
def Slot.legal (x : Slot) : Bool :=
  let reg : Bool := match x.op with
    | .v n => n.toNat % (x.w / 32) = 0
    | .vix _ _ => true
    | .s n => (x.w ≤ 64) && n.toNat % x.grp = 0
    | _ => false
  match x.cls, x.op with
  | .src, .sreg _ | .src, .pt | .src, .pred _ | .src, .zero | .src, .imm => true
  | .src, _ => reg
  | .srcM, .sreg _ | .srcM, .pt | .srcM, .pred _ | .srcM, .zero => true
  | .srcM, .imm => false
  | .srcM, _ => reg
  | .dst, .pred _ => true
  | .dst, _ => reg
  | .dstR, _ => reg
  | .laneR, .s _ => false
  | .laneR, _ => reg
  | .predD, .pred _ => true
  | .predD, _ => false
  | .ixR, .ix _ => true
  | .ixR, _ => false
  | .addr, _ => reg
  | .sR, .s _ => reg
  | .sR, _ => false
  | .sI, .s _ => reg
  | .sI, .sreg _ | .sI, .pt | .sI, .pred _ | .sI, .zero | .sI, .imm => true
  | .sI, _ => false

/-- The orders a load, a store, an atomic with return and a fence permit (R101); a relaxed access has scope 0. -/
def ordLegal (kinds : List Ord) (ord : Ord) (sc : Scope) : Bool :=
  kinds.contains ord && (ord ≠ .rlx || sc = .grp)

/-- Loads permit relaxed, acquire and sequentially consistent (R101). -/
def ordLoad : List Ord := [.rlx, .acq, .sc]
/-- Stores and no-return reductions permit relaxed, release and sequentially consistent (R101). -/
def ordStore : List Ord := [.rlx, .rel, .sc]
/-- Atomics with return permit all five (R101). -/
def ordAtom : List Ord := [.rlx, .acq, .rel, .ar, .sc]
/-- Fences permit acquire, release, acquire-release and sequentially consistent (R101). -/
def ordFence : List Ord := [.acq, .rel, .ar, .sc]

/-- The types an atomic operation permits (R275). -/
def atomLegal : AtomOp → Ty → Bool
  | .add, t | .min, t | .max, t => [Ty.s32, .n32, .s64, .n64, .f32, .f64].contains t
  | .and, t | .or, t | .xor, t => [Ty.b32, .b64].contains t
  | .exch, t => [Ty.b32, .b64, .b128].contains t

/-- The types a cross-lane reduction permits (R268). -/
def lredLegal : LredOp → Ty → Bool
  | .add, t | .min, t | .max, t => [Ty.s32, .n32, .f32].contains t
  | _, t => t = .b32

/-- The part index of fcvt is in range (R260). -/
def fcvtLegal (t src : Ty) (q : BitVec 3) : Bool :=
  let fs := [Ty.f64, .f32, .bf16, .f16, .e4m3, .e5m2, .e3m2, .e2m3, .e2m1]
  let wide := Nat.max t.fbits src.fbits
  let nar := Nat.min t.fbits src.fbits
  let n := if wide = 64 then 1 else 32 / wide
  fs.contains t && fs.contains src &&
    (if t.fbits = src.fbits then q = 0
     else if nar = 32 then q = 0
     else q.toNat < 32 / (n * nar))

/-- The pairs of operand formats a matrix instruction permits (R291). -/
def mmaPairs (a b : MFmt) : Bool :=
  let f8 := [MFmt.e4m3, .e5m2, .e3m2, .e2m3]
  let h := [MFmt.bf16, .f16]
  (f8.contains a && f8.contains b) || (a = .s8 && b = .s8) || (h.contains a && h.contains b) || (a = .s16 && b = .s16)

/-- Formats of mmas without MX (R291). -/
def mmasPairs (a b : MFmt) : Bool :=
  let f8 := [MFmt.e4m3, .e5m2, .e3m2, .e2m3]
  (f8.contains a && f8.contains b) || (a = .s8 && b = .s8)

/-- Formats of mmx and of mmas with MX (R291). -/
def mmxPairs (a b : MFmt) : Bool :=
  let f8 := [MFmt.e4m3, .e5m2, .e3m2, .e2m3, .s8]
  (f8.contains a && f8.contains b) || (a = .e2m1 && b = .e2m1)

/-- Formats of mmt (R291). -/
def mmtPairs (a b : MFmt) : Bool :=
  let f8 := [MFmt.e4m3, .e5m2]
  let h := [MFmt.bf16, .f16]
  (f8.contains a && f8.contains b) || (h.contains a && h.contains b)

/-- The privileged registers of R342 that exist, and those that may be written. -/
def privExists (n : Nat) : Bool := n ≤ 7
/-- HVDEV is read-only (R342). -/
def privWritable (n : Nat) : Bool := n ≤ 7 && n ≠ 5

/-- CHG names the cox's own counters, all groups, or one group below 48 (R314). -/
def chgLegal (c : BitVec 6) : Bool := c.toNat < 48 || c.toNat = 62 || c.toNat = 63

/-- The integer types of class 000 arithmetic (R231). -/
def Ty.int4 (t : Ty) : Bool := [Ty.s32, .n32, .s64, .n64].contains t
/-- The bit types of class 000 (R231). -/
def Ty.bits2 (t : Ty) : Bool := [Ty.b32, .b64].contains t

/-- The type codes and modifiers the entry accepts; any other raises ILL (R198, R189 and the entries). -/
def Instr.modLegal : Instr → Bool
  | .add _ t _ | .sub _ t _ | .mul _ t _ | .mad _ t _ => t.int4
  | .mulhi _ t | .div _ t | .rem _ t | .min _ t | .max _ t | .bfx _ t => t.int4
  | .cmp _ t _ => t.int4
  | .abs _ t _ | .neg _ t _ => [Ty.s32, .s64].contains t
  | .and _ t | .or _ t | .xor _ t | .not _ t | .shl _ t | .shr _ t | .sar _ t | .rol _ t | .ror _ t | .bfi _ t
  | .popc _ t | .clz _ t | .ctz _ t | .brev _ t | .sel _ t => t.bits2
  | .mov _ t => [Ty.b32, .b64, .b128, .s8, .s16, .s32, .s64, .n8, .n16, .n32, .n64].contains t
  | .lea _ t _ => [Ty.s32, .n32].contains t
  | .fadd _ t _ | .fsub _ t _ | .fmul _ t _ | .ffma _ t _ | .frnd _ t _ => t.isFloat
  | .fmin _ t | .fmax _ t | .fabs _ t | .fneg _ t => t.isFloat
  | .fcmp _ t _ => [Ty.f64, .f32].contains t
  | .fclass _ t | .frcp _ t | .frsqrt _ t => [Ty.f64, .f32].contains t
  | .fsqrt _ t _ | .fdiv _ t _ => [Ty.f64, .f32].contains t
  | .fexp2 _ t | .flog2 _ t | .fsin _ t | .fcos _ t | .ftanh _ t => t = .f32
  | .fcvt o t src _ q => fcvtLegal t src q && o.a ≠ .imm && o.imm = 0
  | .fcvti o t src _ q =>
    t.int4 && src.isFloat && o.a ≠ .imm && o.imm = 0 && (q = 0 || (q = 1 && src.fbits = 16))
  | .icvtf o t src _ q =>
    t.isFloat && (src.int4 || (src = .h2 && t.fbits = 16)) && o.a ≠ .imm && o.imm = 0 &&
      (q = 0 || (q = 1 && t.fbits = 16 && src ≠ .h2))
  | .perm _ t _ | .lgrp _ t _ => t.bits2
  | .lred _ t op | .lpre _ t op => lredLegal op t
  | .karead _ t _ => t.isFloat
  | .kast _ ord sc => ordLegal ordStore ord sc
  | .kald _ ord sc | .kaaddm _ ord sc => ordLegal ordLoad ord sc
  | .ld _ t ord sc =>
    [Ty.s8, .n8, .s16, .n16, .b32, .s32, .n32, .f32, .h2, .b64, .s64, .n64, .f64, .b128].contains t &&
      ordLegal ordLoad ord sc
  | .st _ t ord sc =>
    [Ty.s8, .n8, .s16, .n16, .b32, .s32, .n32, .f32, .h2, .b64, .s64, .n64, .f64, .b128].contains t &&
      ordLegal ordStore ord sc
  | .atom _ t op ord sc => atomLegal op t && ordLegal ordAtom ord sc
  | .red _ t op ord sc => atomLegal op t && ordLegal ordStore ord sc
  | .cas _ _ ord sc => ordLegal ordAtom ord sc
  | .fence _ ord _ => ordFence.contains ord
  | .prefetch o _ => o.fs = 0
  | .accLd _ t rm =>
    [Ty.b128, .f64, .f32, .bf16, .f16, .s64, .s32].contains t && (t.isFloat || rm = .rne)
  | .bra _ p j => p.slot.toNat < 5 && (match j with | some x => decide (x.slot.toNat < 5) | none => true)
  | .brx _ j => match j with | some x => decide (x.slot.toNat < 5) | none => true
  | .call _ p => p.slot.toNat < 5
  | .mma _ fa fb _ _ => mmaPairs fa fb
  | .mmas _ fa fb _ _ mx => if mx then mmxPairs fa fb else mmasPairs fa fb
  | .mmx _ fa fb _ _ => mmxPairs fa fb
  | .mmt _ fa fb _ _ => mmtPairs fa fb
  | .accClr _ m => m ≠ 0
  | .accIn _ t _ => [Ty.b128, .f64, .f32, .bf16, .f16, .s64, .s32].contains t
  | .accOut o t rm _ =>
    [Ty.b128, .f64, .f32, .bf16, .f16, .e4m3, .e5m2, .s64, .s32, .s16, .s8].contains t && o.fs = 0 &&
      (t.isFloat || t = .e4m3 || t = .e5m2 || rm = .rne)
  | .cpy o g | .srd o g => chgLegal g && o.fs = 0
  | .cpy2d o g e | .dcx o g _ e => chgLegal g && o.fs = 0 && eFieldOk o.a e
  | .coll o g kd op ct _ sig e =>
    chgLegal g && o.fs = 0 && (kd ≠ .ag || op = .sum) && (ct ≠ .ka || op = .sum) && (if sig then eFieldOk o.a e else e = 0)
  | .launch o => o.fs = 0
  | .tresume o e => if o.b = .imm || o.c = .imm then e = 0 else true
  | .wrpriv _ n => privWritable n.toNat
  | .rdpriv _ n => privExists n.toNat
  | .rdctr _ n => n.toNat < 6
  | _ => true

/-- The operand fields that an entry does not use are absent (R189). -/
def Instr.unusedAbsent : Instr → Bool
  | .kaclr o | .fence o _ _ | .bra o _ _ | .call o _ | .ret o | .join o | .exit o | .nop o | .accClr o _
    | .accCvt o _ _ _ _ | .trap o _ _ | .svc o _ | .brk o _ =>
    decide (o.d = .none ∧ o.a = .none ∧ o.b = .none ∧ o.c = .none)
  | .kaadd o | .kast o _ _ | .kald o _ _ | .kaaddm o _ _ | .prefetch o _ | .waitAc o _ | .brx o _ | .callx o
    | .mmt o _ _ _ _ | .mrpWr o | .rsdPin o | .rsdUnpin o | .rsdFree o | .treeAccept o | .barWait o _
    | .dqPush o | .gangWait o _ | .tierUnpin o | .wrpriv o _ => decide (o.d = .none ∧ o.b = .none ∧ o.c = .none)
  | .kamad o | .st o _ _ _ | .red o _ _ _ _ | .mma o _ _ _ _ | .mmas o _ _ _ _ _ | .mmx o _ _ _ _
    | .accIn o _ _ | .accOut o _ _ _ | .rsdAlloc o | .rsdLoad o _ | .treeClr o | .kvDelete o | .tierHint o
    | .tierPin o => decide (o.d = .none ∧ o.c = .none)
  | .kvInsert o | .cpy o _ | .cpy2d o _ _ | .dcx o _ _ _ | .srd o _ | .coll o _ _ _ _ _ _ _ => decide (o.d = .none)
  | .karead o _ _ | .joinT o | .mrpRd o | .dqPop o _ | .rdpriv o _ | .rdctr o _ =>
    decide (o.a = .none ∧ o.b = .none ∧ o.c = .none)
  | .abs o _ _ | .neg o _ _ | .not o _ | .popc o _ | .clz o _ | .ctz o _ | .brev o _ | .mov o _ | .pnot o
    | .ixset o | .ixinc o | .ixget o | .rgrow o | .rshrink o | .fabs o _ | .fneg o _ | .fcvt o _ _ _ _
    | .fcvti o _ _ _ _ | .icvtf o _ _ _ _ | .frnd o _ _ | .fclass o _ | .frcp o _ | .frsqrt o _ | .fsqrt o _ _
    | .fexp2 o _ | .flog2 o _ | .fsin o _ | .fcos o _ | .ftanh o _ | .lmask o _ | .lgrp o _ _ | .ld o _ _ _
    | .accLd o _ _ | .rsdQuery o | .treeMask o | .treePos o | .treePrune o | .treeRd o | .tierQuery o =>
    decide (o.b = .none ∧ o.c = .none)
  | .add o _ _ | .sub o _ _ | .mul o _ _ | .mulhi o _ | .div o _ | .rem o _ | .min o _ | .max o _ | .and o _
    | .or o _ | .xor o _ | .shl o _ | .shr o _ | .sar o _ | .rol o _ | .ror o _ | .bfx o _ | .lea o _ _
    | .cmp o _ _ | .pand o _ | .por o _ | .pxor o _ | .fadd o _ _ | .fsub o _ _ | .fmul o _ _ | .fmin o _
    | .fmax o _ | .fcmp o _ _ | .fdiv o _ _ | .hadd o _ | .hsub o _ | .hmul o _ | .hmin o | .hmax o
    | .hsar o _ | .pxunpk o _ | .pxpack o _ | .perm o _ _ | .lred o _ _ | .lpre o _ _ | .atom o _ _ _ _
    | .treeAdd o | .kvFind o | .launch o => decide (o.c = .none)
  | .mad _ _ _ | .bfi _ _ | .sel _ _ | .ffma _ _ _ | .hmad _ _ | .hclamp _ | .cas _ _ _ _ | .tresume _ _ => true
  | .barArrive o _ | .gangArrive o _ => decide (o.a = .none ∧ o.c = .none)
  | _ => true

/-- The instruction names IMM as a source (R193). -/
def Opr.usesImm (o : Opr) : Bool := o.a = .imm || o.b = .imm || o.c = .imm

/-- IMM is an offset or a timeout of the entry (R272, R248). -/
def Instr.immIsField : Instr → Bool
  | .kast _ _ _ | .kald _ _ _ | .kaaddm _ _ _ | .ld _ _ _ _ | .st _ _ _ _ | .atom _ _ _ _ _ | .red _ _ _ _ _
  | .cas _ _ _ _ | .prefetch _ _ | .accLd _ _ _ | .joinT _ => true
  | _ => false

/-- The streams that may hold the opcode (R196); tresume, wrpriv and rdpriv ask for privilege besides (R197). -/
def Instr.inStream (i : Instr) (st : Stream) : Bool :=
  match i with
  | .ixset _ | .ixinc _ | .ixget _ => st ≠ .cox
  | .rgrow _ | .rshrink _ | .accLd _ _ _ | .dqPop _ _ => st = .lane
  | .fadd _ _ _ | .fsub _ _ _ | .fmul _ _ _ | .ffma _ _ _ | .fmin _ _ | .fmax _ _ | .fabs _ _ | .fneg _ _
  | .fcmp _ _ _ | .fcvt _ _ _ _ _ | .fcvti _ _ _ _ _ | .icvtf _ _ _ _ _ | .frnd _ _ _ | .fclass _ _
  | .frcp _ _ | .frsqrt _ _ | .fsqrt _ _ _ | .fexp2 _ _ | .flog2 _ _ | .fsin _ _ | .fcos _ _ | .ftanh _ _
  | .fdiv _ _ _ | .hadd _ _ | .hsub _ _ | .hmul _ _ | .hmad _ _ | .hmin _ | .hmax _ | .hsar _ _ | .hclamp _
  | .pxunpk _ _ | .pxpack _ _ | .perm _ _ _ | .lmask _ _ | .lgrp _ _ _ | .lred _ _ _ | .lpre _ _ _ | .kaclr _
  | .kaadd _ | .kamad _ | .karead _ _ _ | .kast _ _ _ | .kald _ _ _ | .kaaddm _ _ _ => st ≠ .cox
  | .waitAc _ _ | .barArrive _ _ | .barWait _ _ | .gangArrive _ _ | .gangWait _ _ => st ≠ .host
  | .mma _ _ _ _ _ | .mmas _ _ _ _ _ _ | .mmx _ _ _ _ _ | .mmt _ _ _ _ _ | .accClr _ _ | .accIn _ _ _
  | .accOut _ _ _ _ | .accCvt _ _ _ _ _ | .mrpRd _ | .mrpWr _ | .rsdAlloc _ | .rsdLoad _ _ | .rsdPin _
  | .rsdUnpin _ | .rsdFree _ | .rsdQuery _ | .treeClr _ | .treeAdd _ | .treeMask _ | .treePos _ | .treeAccept _
  | .treePrune _ | .treeRd _ | .kvFind _ | .kvInsert _ | .kvDelete _ | .cpy _ _ | .cpy2d _ _ _ | .dcx _ _ _ _
  | .srd _ _ | .coll _ _ _ _ _ _ _ _ | .launch _ | .dqPush _ => st = .cox
  | .tresume _ _ | .wrpriv _ _ | .rdpriv _ _ => st = .host
  | _ => true

/-- The opcode, every register kind it names and every width may stand in the stream: the cox has no 128-bit type (R190, R196, R197,
R230, R273). -/
def Instr.streamOk (i : Instr) (st : Stream) : Bool :=
  i.inStream st && i.slots.all (fun x => x.op.inStream st && (st ≠ .cox || x.w ≠ 128))

/-- Variable-latency opcodes (R196). -/
def Instr.varLat : Instr → Bool
  | .div _ _ | .rem _ _ | .rgrow _ | .frcp _ _ | .frsqrt _ _ | .fsqrt _ _ _ | .fexp2 _ _ | .flog2 _ _ | .fsin _ _
  | .fcos _ _ | .ftanh _ _ | .fdiv _ _ _ | .perm _ _ _ | .lmask _ _ | .lgrp _ _ _ | .lred _ _ _ | .lpre _ _ _
  | .kald _ _ _ | .kaaddm _ _ _ | .karead _ _ _ | .ld _ _ _ _ | .atom _ _ _ _ _ | .cas _ _ _ _ | .accLd _ _ _
  | .mma _ _ _ _ _ | .mmas _ _ _ _ _ _ | .mmx _ _ _ _ _ | .mmt _ _ _ _ _ | .accClr _ _ | .accIn _ _ _
  | .accCvt _ _ _ _ _ | .mrpRd _ | .rsdQuery _ | .treeMask _ | .treePos _ | .treePrune _ | .treeRd _ | .kvFind _
  | .barArrive _ _ | .dqPop _ _ | .tierQuery _ | .rdpriv _ _ | .rdctr _ _ => true
  | _ => false

/-- The issue classes of R183. -/
inductive IssueClass where
  | a | b | m | x | c
  deriving DecidableEq, Repr

/-- Implicit state of R183. -/
inductive Impl where
  | ka | mrp | gwct | ac | dqIdx
  deriving DecidableEq, Repr

/-- The release wait of an order at a scope reads GWCT (R102, R104). -/
def relReads (ord : Ord) (sc : Scope) : List Impl :=
  if (ord = .rel || ord = .ar || ord = .sc) && sc ≠ .grp then [.gwct] else []

/-- Implicit state an instruction reads (R183, R194, R269, R102 to R105, R281, R170, R341). -/
def Instr.implReads : Instr → List Impl
  | .kaadd _ | .kamad _ | .karead _ _ _ => [.ka]
  | .kast _ ord sc => .ka :: relReads ord sc
  | .kald _ ord sc => relReads ord sc
  | .kaaddm _ ord sc => .ka :: relReads ord sc
  | .waitAc _ _ => [.ac]
  | .mma _ _ _ _ _ | .mmas _ _ _ _ _ _ | .mmx _ _ _ _ _ | .mmt _ _ _ _ _ | .mrpRd _ => [.mrp]
  | .st _ _ ord sc | .red _ _ _ ord sc | .atom _ _ _ ord sc | .cas _ _ ord sc | .ld _ _ ord sc | .fence _ ord sc => relReads ord sc
  | .barArrive _ _ | .gangArrive _ _ | .dqPush _ | .kvInsert _ | .kvDelete _ | .launch _ | .tresume _ _ => [.gwct]
  | .dqPop _ _ => [.dqIdx]
  | _ => []

/-- Implicit state an instruction writes (R183). -/
def Instr.implWrites : Instr → List Impl
  | .kaclr _ | .kaadd _ | .kamad _ | .kald _ _ _ | .kaaddm _ _ _ => [.ka]
  | .kast _ _ _ | .st _ _ _ _ | .red _ _ _ _ _ | .atom _ _ _ _ _ | .cas _ _ _ _ => [.gwct, .ac]
  | .accOut _ _ _ _ | .kvInsert _ | .kvDelete _ => [.gwct]
  | .mma _ _ _ _ _ | .mmas _ _ _ _ _ _ | .mmx _ _ _ _ _ | .mmt _ _ _ _ _ | .accClr _ _ | .accIn _ _ _
  | .mrpWr _ => [.mrp]
  | .rsdLoad _ _ | .cpy _ _ | .cpy2d _ _ _ | .dcx _ _ _ _ | .srd _ _ | .coll _ _ _ _ _ _ _ _ => [.ac]
  | .dqPop _ _ => [.dqIdx]
  | _ => []

/-- A register resource for the pairing check (R183). -/
inductive RegRes where
  | v (n : Nat) | s (n : Nat) | p (n : Nat) | ix (m : Nat) | imp (x : Impl) | anyV
  deriving DecidableEq, Repr

/-- The registers an operand covers: every register of its pair, quad or group (R183); an indexed operand names a v
register that is known only at issue. -/
def Slot.regs (x : Slot) : List RegRes :=
  match x.op with
  | .v n => (List.range (x.w / 32)).map (fun j => .v (n.toNat + j))
  | .vix _ _ => [.anyV]
  | .s n => (List.range x.grp).map (fun j => .s (n.toNat + j))
  | .pred n => [.p n.toNat]
  | .ix m => [.ix m.toNat]
  | _ => []

/-- What the instruction reads: source operands, the guard predicate, index registers and implicit state (R183). -/
def Instr.reads (i : Instr) : List RegRes :=
  (i.slots.filter (·.rd)).flatMap Slot.regs
    ++ i.slots.flatMap (fun x => match x.op with | .vix m _ => [.ix m.toNat] | _ => [])
    ++ (match i.opr? with | some o => [.p o.gp.toNat] | none => [])
    ++ i.implReads.map .imp

/-- What the instruction writes (R183); p7 discards its writes. -/
def Instr.writes (i : Instr) : List RegRes :=
  ((i.slots.filter (·.wr)).flatMap Slot.regs).filter (· ≠ .p 7) ++ i.implWrites.map .imp

/-- The instruction has an indexed operand. -/
def Instr.indexed (i : Instr) : Bool := i.slots.any (fun x => match x.op with | .vix _ _ => true | _ => false)

end Sys2Proof
end

