-- ==== Sys2Proof/WellFormed.lean ====
section
/-! DEFINITION. Which instructions are well formed: every operand legal in its position, at most one IMM source, every
unused field absent, the type and modifiers accepted (R189 to R193, R198). Whether an operand suits the stream is
checked at issue. -/

namespace Sys2Proof

/-- The operands that stand in the instruction's fields are exactly those its entry uses (R189). -/
def Instr.operandsWf (i : Instr) : Bool := i.unusedAbsent && i.slots.all Slot.legal

/-- IMM is zero unless a source, an offset or a timeout uses it, and at most one operand is IMM (R189, R193). -/
def Instr.immWf (i : Instr) : Bool :=
  match i.opr? with
  | none => true
  | some o =>
    let n := (if o.a = .imm then 1 else 0) + (if o.b = .imm then 1 else 0) + (if o.c = .imm then 1 else 0)
    decide (n ≤ 1) && (decide (o.imm = 0) || o.usesImm || i.immIsField)

/-- Well-formedness of an instruction or event. -/
def Instr.wf (i : Instr) : Bool :=
  i.operandsWf && i.immWf && i.modLegal &&
    (match i.opr? with | some o => decide (o.fs ≠ 3) | none => true)

end Sys2Proof
end

