-- ==== Sys2Proof/Decode.lean ====
section
/-! DEFINITION. The 96-bit instruction word (R187 to R198): its fields, the encoder, written from the encoding tables of
R231, R248, R257 to R281, R287, R318, R335 to R345, and the decoder, total on any bytes. A word that no well-formed
instruction encodes is refused by name; issuing it raises ILL (R189, R197). -/

namespace Sys2Proof

/-- The fields of the instruction word (R187). -/
structure Raw where
  opc : BitVec 10
  gn : Bool
  gp : BitVec 3
  d : BitVec 8
  a : BitVec 8
  b : BitVec 8
  c : BitVec 8
  ak : BitVec 2
  bk : BitVec 2
  ck : BitVec 2
  dk : BitVec 2
  fs : BitVec 2
  md : BitVec 8
  imm : BitVec 32
  deriving DecidableEq, Repr

/-- Why a word is no instruction. Each raises ILL when its slot would issue (R189, R197). -/
inductive DecodeError where
  | short
  | unassigned (opc : Nat)
  | reservedField (opc : Nat)
  | operand (opc : Nat)
  deriving DecidableEq, Repr

/-- The 96-bit word of the fields (R187). -/
def Raw.pack (r : Raw) : BitVec 96 :=
  r.opc ++ BitVec.ofBool r.gn ++ r.gp ++ r.d ++ r.a ++ r.b ++ r.c ++ r.ak ++ r.bk ++ r.ck ++ r.dk ++ r.fs ++ r.md ++ r.imm

/-- The fields of a 96-bit word (R187). -/
def Raw.unpack (w : BitVec 96) : Raw :=
  { opc := w.extractLsb' 86 10, gn := w.getLsbD 85, gp := w.extractLsb' 82 3, d := w.extractLsb' 74 8,
    a := w.extractLsb' 66 8, b := w.extractLsb' 58 8, c := w.extractLsb' 50 8, ak := w.extractLsb' 48 2,
    bk := w.extractLsb' 46 2, ck := w.extractLsb' 44 2, dk := w.extractLsb' 42 2, fs := w.extractLsb' 40 2,
    md := w.extractLsb' 32 8, imm := w.extractLsb' 0 32 }

/-- The member of a list of names that has a code. -/
def pick {α : Type} (all : List α) (code : α → Nat) (n : Nat) : Option α := all.find? (fun x => code x = n)

/-- Type codes (R198). -/
def Ty.code : Ty → Nat
  | .b32 => 0x00 | .s8 => 0x01 | .s16 => 0x02 | .s32 => 0x03 | .s64 => 0x04 | .n8 => 0x05 | .n16 => 0x06
  | .n32 => 0x07 | .n64 => 0x08 | .b64 => 0x09 | .b128 => 0x0A | .h2 => 0x0B | .f64 => 0x10 | .f32 => 0x11
  | .bf16 => 0x12 | .f16 => 0x13 | .e4m3 => 0x14 | .e5m2 => 0x15 | .e3m2 => 0x16 | .e2m3 => 0x17 | .e2m1 => 0x18
  | .mx => 0x19
/-- The type of a code (R198). -/
def Ty.ofCode (n : Nat) : Option Ty :=
  pick [.b32, .s8, .s16, .s32, .s64, .n8, .n16, .n32, .n64, .b64, .b128, .h2, .f64, .f32, .bf16, .f16, .e4m3, .e5m2,
    .e3m2, .e2m3, .e2m1, .mx] Ty.code n
/-- Rounding codes (R214). -/
def Rm.code : Rm → Nat
  | .rne => 0 | .rz => 1 | .rd => 2 | .ru => 3 | .rna => 4 | .sr => 5
/-- The rounding mode of a code (R214). -/
def Rm.ofCode (n : Nat) : Option Rm := pick [.rne, .rz, .rd, .ru, .rna, .sr] Rm.code n
/-- Condition codes of cmp (R241). -/
def Cond.code : Cond → Nat
  | .eq => 0 | .ne => 1 | .lt => 2 | .le => 3 | .gt => 4 | .ge => 5
/-- The condition of a code (R241). -/
def Cond.ofCode (n : Nat) : Option Cond := pick [.eq, .ne, .lt, .le, .gt, .ge] Cond.code n
/-- Condition codes of fcmp (R259). -/
def FCond.code : FCond → Nat
  | .eq => 0 | .ne => 1 | .lt => 2 | .le => 3 | .gt => 4 | .ge => 5 | .un => 6 | .ord => 7
/-- The condition of a code (R259). -/
def FCond.ofCode (n : Nat) : Option FCond := pick [.eq, .ne, .lt, .le, .gt, .ge, .un, .ord] FCond.code n
/-- Order codes (R101). -/
def Ord.code : Ord → Nat
  | .rlx => 0 | .acq => 1 | .rel => 2 | .ar => 3 | .sc => 4
/-- The order of a code (R101). -/
def Ord.ofCode (n : Nat) : Option Ord := pick [.rlx, .acq, .rel, .ar, .sc] Ord.code n
/-- Scope codes (R101). -/
def Scope.code : Scope → Nat
  | .grp => 0 | .blk => 1 | .gang => 2 | .die => 3 | .pkg => 4 | .fab => 5
/-- The scope of a code (R101). -/
def Scope.ofCode (n : Nat) : Option Scope := pick [.grp, .blk, .gang, .die, .pkg, .fab] Scope.code n
/-- Special register codes (R193). -/
def SReg.code : SReg → Nat
  | .lane => 0 | .group => 1 | .block => 2 | .gang => 3 | .gangsize => 4 | .core => 5 | .cluster => 6 | .die => 7
/-- The special register of a code (R193). -/
def SReg.ofCode (n : Nat) : Option SReg :=
  pick [.lane, .group, .block, .gang, .gangsize, .core, .cluster, .die] SReg.code n
/-- perm modes (R266). -/
def PermMode.code : PermMode → Nat
  | .gat => 0 | .rot => 1 | .rev => 2 | .swp => 3
/-- The perm mode of a code (R266). -/
def PermMode.ofCode (n : Nat) : Option PermMode := pick [.gat, .rot, .rev, .swp] PermMode.code n
/-- lmask modes (R267). -/
def LmaskMode.code : LmaskMode → Nat
  | .msk => 0 | .cnt => 1 | .rank => 2 | .lead => 3
/-- The lmask mode of a code (R267). -/
def LmaskMode.ofCode (n : Nat) : Option LmaskMode := pick [.msk, .cnt, .rank, .lead] LmaskMode.code n
/-- lgrp modes (R267). -/
def LgrpMode.code : LgrpMode → Nat
  | .eqm => 0 | .rep => 1 | .num => 2
/-- The lgrp mode of a code (R267). -/
def LgrpMode.ofCode (n : Nat) : Option LgrpMode := pick [.eqm, .rep, .num] LgrpMode.code n
/-- lred and lpre operations (R268). -/
def LredOp.code : LredOp → Nat
  | .add => 0 | .min => 1 | .max => 2 | .and => 3 | .or => 4 | .xor => 5
/-- The operation of a code (R268). -/
def LredOp.ofCode (n : Nat) : Option LredOp := pick [.add, .min, .max, .and, .or, .xor] LredOp.code n
/-- Atomic operations (R275). -/
def AtomOp.code : AtomOp → Nat
  | .add => 0 | .min => 1 | .max => 2 | .and => 3 | .or => 4 | .xor => 5 | .exch => 6
/-- The operation of a code (R275). -/
def AtomOp.ofCode (n : Nat) : Option AtomOp := pick [.add, .min, .max, .and, .or, .xor, .exch] AtomOp.code n
/-- Packed-pixel widths (R264). -/
def PxW.code : PxW → Nat
  | .w10 => 0 | .w12 => 1 | .w14 => 2
/-- The width of a code (R264). -/
def PxW.ofCode (n : Nat) : Option PxW := pick [.w10, .w12, .w14] PxW.code n
/-- cas widths (R276). -/
def CasW.code : CasW → Nat
  | .b32 => 0 | .b64 => 1 | .b128 => 2
/-- The width of a code (R276). -/
def CasW.ofCode (n : Nat) : Option CasW := pick [.b32, .b64, .b128] CasW.code n
/-- prefetch levels (R279). -/
def PfLevel.code : PfLevel → Nat
  | .l1 => 0 | .l2 => 1 | .l3 => 2
/-- The level of a code (R279). -/
def PfLevel.ofCode (n : Nat) : Option PfLevel := pick [.l1, .l2, .l3] PfLevel.code n
/-- Arrival counter codes (R281). -/
def AcCtr.code : AcCtr → Nat
  | .cpy => 0 | .dcx => 1 | .srd => 2 | .col => 3 | .rmt => 4 | .rsd => 5
/-- The counter of a code (R281). -/
def AcCtr.ofCode (n : Nat) : Option AcCtr := pick [.cpy, .dcx, .srd, .col, .rmt, .rsd] AcCtr.code n
/-- Matrix formats (R291). -/
def MFmt.code : MFmt → Nat
  | .e4m3 => 0 | .e5m2 => 1 | .e3m2 => 2 | .e2m3 => 3 | .e2m1 => 4 | .s8 => 5 | .bf16 => 6 | .f16 => 7 | .s16 => 8
/-- The format of a code (R291). -/
def MFmt.ofCode (n : Nat) : Option MFmt :=
  pick [.e4m3, .e5m2, .e3m2, .e2m3, .e2m1, .s8, .bf16, .f16, .s16] MFmt.code n
/-- acc.cvt kinds (R305). -/
def CvtKind.code : CvtKind → Nat
  | .iToF => 0 | .fToI => 1 | .fToF => 2 | .iToI => 3
/-- The kind of a code (R305). -/
def CvtKind.ofCode (n : Nat) : Option CvtKind := pick [.iToF, .fToI, .fToF, .iToI] CvtKind.code n
/-- dcx formats (R322). -/
def DcxFmt.code : DcxFmt → Nat
  | .zstd => 0 | .lz4 => 1 | .dfl => 2
/-- The format of a code (R322). -/
def DcxFmt.ofCode (n : Nat) : Option DcxFmt := pick [.zstd, .lz4, .dfl] DcxFmt.code n
/-- Collective kinds (R328). -/
def CollKind.code : CollKind → Nat
  | .ar => 0 | .rs => 1 | .ag => 2
/-- The kind of a code (R328). -/
def CollKind.ofCode (n : Nat) : Option CollKind := pick [.ar, .rs, .ag] CollKind.code n
/-- Collective operations (R328). -/
def CollOp.code : CollOp → Nat
  | .sum => 0 | .max => 1 | .min => 2
/-- The operation of a code (R328). -/
def CollOp.ofCode (n : Nat) : Option CollOp := pick [.sum, .max, .min] CollOp.code n
/-- Collective types (R328). -/
def CollTy.code : CollTy → Nat
  | .f32 => 0 | .bf16 => 1 | .f16 => 2 | .s32 => 3 | .ka => 4
/-- The type of a code (R328). -/
def CollTy.ofCode (n : Nat) : Option CollTy := pick [.f32, .bf16, .f16, .s32, .ka] CollTy.code n
/-- Trap cause codes (R369). -/
def Cause.code : Cause → Nat
  | .ill => 0x01 | .line => 0x02 | .pair => 0x03 | .tgt => 0x04 | .range => 0x05 | .align => 0x06 | .space => 0x07
  | .page => 0x08 | .perm => 0x09 | .poison => 0x0A | .stale => 0x0B | .quota => 0x0C | .rsd => 0x0D | .tree => 0x0E
  | .kvmiss => 0x0F | .migr => 0x10 | .collAbort => 0x11 | .svc => 0x12 | .brk => 0x13
/-- The cause of a code (R369). -/
def Cause.ofCode (n : Nat) : Option Cause :=
  pick [.ill, .line, .pair, .tgt, .range, .align, .space, .page, .perm, .poison, .stale, .quota, .rsd, .tree,
    .kvmiss, .migr, .collAbort, .svc, .brk] Cause.code n

/-- Field and kind of an operand (R190, R193, R243). -/
def Opnd.enc : Opnd → BitVec 8 × BitVec 2
  | .none => (0, 0)
  | .v n => (n, 0)
  | .vix m off => (m ++ off, 1)
  | .s n => ((0#2) ++ n, 2)
  | .sreg r => (BitVec.ofNat 8 r.code, 3)
  | .pt => (0x08, 3)
  | .pred n => ((2#5) ++ n, 3)
  | .zero => (0x20, 3)
  | .imm => (0x3F, 3)
  | .ix m => ((0#6) ++ m, 0)

/-- The operand of a field and kind (R190, R193); none where the code is reserved. -/
def Opnd.dec (f : BitVec 8) (k : BitVec 2) : Option Opnd :=
  match k.toNat with
  | 0 => some (.v f)
  | 1 => some (.vix (f.extractLsb' 6 2) (f.extractLsb' 0 6))
  | 2 => if f.extractLsb' 6 2 = 0 then some (.s (f.extractLsb' 0 6)) else none
  | _ =>
    if f.toNat < 8 then (SReg.ofCode f.toNat).map .sreg
    else if f.toNat = 8 then some .pt
    else if f.extractLsb' 3 5 = 2 then some (.pred (f.extractLsb' 0 3))
    else if f.toNat = 0x20 then some .zero
    else if f.toNat = 0x3F then some .imm
    else none

/-- The index register that the field names directly (R243). -/
def Opnd.decIx (f : BitVec 8) (k : BitVec 2) : Option Opnd :=
  if k = 0 ∧ f.extractLsb' 2 6 = 0 then some (.ix (f.extractLsb' 0 2)) else none

/-- The word of an opcode: guard, flag select and operands from `o`, modifiers and immediate as given (R187). -/
def Opr.raw (o : Opr) (opc : Nat) (md : Nat) (imm : BitVec 32) : Raw :=
  { opc := BitVec.ofNat 10 opc, gn := o.gn, gp := o.gp, d := o.d.enc.1, a := o.a.enc.1, b := o.b.enc.1, c := o.c.enc.1,
    ak := o.a.enc.2, bk := o.b.enc.2, ck := o.c.enc.2, dk := o.d.enc.2, fs := o.fs, md := BitVec.ofNat 8 md, imm := imm }

/-- The word of an instruction whose C field is a code and not an operand (R272). -/
def Opr.rawC (o : Opr) (opc : Nat) (md : Nat) (cf : Nat) : Raw :=
  { o.raw opc md o.imm with c := BitVec.ofNat 8 cf }

/-- cat(B, C) of a reconvergence pointer; a slot field of 7 names none (R188, R248). -/
def joinField : Option JoinPtr → BitVec 16
  | none => 7
  | some j => j.line ++ j.slot

/-- The word of a transfer with a reconvergence pointer (R248). -/
def Opr.rawX (o : Opr) (opc : Nat) (j : Option JoinPtr) (imm : BitVec 32) : Raw :=
  { o.raw opc 0 imm with b := (joinField j).extractLsb' 8 8, c := (joinField j).extractLsb' 0 8 }

/-- Type and a field in MOD[7:5] (R188). -/
def tyMod (t : Ty) (hi : Nat) : Nat := t.code + 32 * hi

/-- A one-bit field. -/
def bit (b : Bool) : Nat := if b then 1 else 0

/-- Order and scope in MOD (R272). -/
def ordMod (ord : Ord) (sc : Scope) : Nat := ord.code + 8 * sc.code

/-- The fields of an instruction's word; none for an event, which no word encodes. -/
def Instr.enc : Instr → Option Raw
  | .add o t sat => some (o.raw 0x000 (tyMod t (bit sat)) o.imm)
  | .sub o t sat => some (o.raw 0x001 (tyMod t (bit sat)) o.imm)
  | .mul o t sat => some (o.raw 0x002 (tyMod t (bit sat)) o.imm)
  | .mulhi o t => some (o.raw 0x003 (tyMod t 0) o.imm)
  | .mad o t sat => some (o.raw 0x004 (tyMod t (bit sat)) o.imm)
  | .div o t => some (o.raw 0x005 (tyMod t 0) o.imm)
  | .rem o t => some (o.raw 0x006 (tyMod t 0) o.imm)
  | .min o t => some (o.raw 0x007 (tyMod t 0) o.imm)
  | .max o t => some (o.raw 0x008 (tyMod t 0) o.imm)
  | .abs o t sat => some (o.raw 0x009 (tyMod t (bit sat)) o.imm)
  | .neg o t sat => some (o.raw 0x00A (tyMod t (bit sat)) o.imm)
  | .and o t => some (o.raw 0x00B (tyMod t 0) o.imm)
  | .or o t => some (o.raw 0x00C (tyMod t 0) o.imm)
  | .xor o t => some (o.raw 0x00D (tyMod t 0) o.imm)
  | .not o t => some (o.raw 0x00E (tyMod t 0) o.imm)
  | .shl o t => some (o.raw 0x00F (tyMod t 0) o.imm)
  | .shr o t => some (o.raw 0x010 (tyMod t 0) o.imm)
  | .sar o t => some (o.raw 0x011 (tyMod t 0) o.imm)
  | .rol o t => some (o.raw 0x012 (tyMod t 0) o.imm)
  | .ror o t => some (o.raw 0x013 (tyMod t 0) o.imm)
  | .bfx o t => some (o.raw 0x014 (tyMod t 0) o.imm)
  | .bfi o t => some (o.raw 0x015 (tyMod t 0) o.imm)
  | .popc o t => some (o.raw 0x016 (tyMod t 0) o.imm)
  | .clz o t => some (o.raw 0x017 (tyMod t 0) o.imm)
  | .ctz o t => some (o.raw 0x018 (tyMod t 0) o.imm)
  | .brev o t => some (o.raw 0x019 (tyMod t 0) o.imm)
  | .sel o t => some (o.raw 0x01A (tyMod t 0) o.imm)
  | .mov o t => some (o.raw 0x01B (tyMod t 0) o.imm)
  | .lea o t sh => some (o.raw 0x01C (tyMod t sh.toNat) o.imm)
  | .cmp o t cc => some (o.raw 0x01D (tyMod t cc.code) o.imm)
  | .pand o nb => some (o.raw 0x020 (32 * bit nb) o.imm)
  | .por o nb => some (o.raw 0x021 (32 * bit nb) o.imm)
  | .pxor o nb => some (o.raw 0x022 (32 * bit nb) o.imm)
  | .pnot o => some (o.raw 0x023 0 o.imm)
  | .ixset o => some (o.raw 0x028 0 o.imm)
  | .ixinc o => some (o.raw 0x029 0 o.imm)
  | .ixget o => some (o.raw 0x02A 0 o.imm)
  | .rgrow o => some (o.raw 0x030 0 o.imm)
  | .rshrink o => some (o.raw 0x031 0 o.imm)
  | .fadd o t rm => some (o.raw 0x080 (tyMod t rm.code) o.imm)
  | .fsub o t rm => some (o.raw 0x081 (tyMod t rm.code) o.imm)
  | .fmul o t rm => some (o.raw 0x082 (tyMod t rm.code) o.imm)
  | .ffma o t rm => some (o.raw 0x083 (tyMod t rm.code) o.imm)
  | .fmin o t => some (o.raw 0x084 (tyMod t 0) o.imm)
  | .fmax o t => some (o.raw 0x085 (tyMod t 0) o.imm)
  | .fabs o t => some (o.raw 0x086 (tyMod t 0) o.imm)
  | .fneg o t => some (o.raw 0x087 (tyMod t 0) o.imm)
  | .fcmp o t cc => some (o.raw 0x088 (tyMod t cc.code) o.imm)
  | .fcvt o t src rm q => some (o.raw 0x089 (tyMod t rm.code) (BitVec.ofNat 32 (src.code + 32 * q.toNat)))
  | .fcvti o t src rm q => some (o.raw 0x08A (tyMod t rm.code) (BitVec.ofNat 32 (src.code + 32 * q.toNat)))
  | .icvtf o t src rm q => some (o.raw 0x08B (tyMod t rm.code) (BitVec.ofNat 32 (src.code + 32 * q.toNat)))
  | .frnd o t rm => some (o.raw 0x08C (tyMod t rm.code) o.imm)
  | .fclass o t => some (o.raw 0x08D (tyMod t 0) o.imm)
  | .frcp o t => some (o.raw 0x090 (tyMod t 0) o.imm)
  | .frsqrt o t => some (o.raw 0x091 (tyMod t 0) o.imm)
  | .fsqrt o t rm => some (o.raw 0x092 (tyMod t rm.code) o.imm)
  | .fexp2 o t => some (o.raw 0x093 (tyMod t 0) o.imm)
  | .flog2 o t => some (o.raw 0x094 (tyMod t 0) o.imm)
  | .fsin o t => some (o.raw 0x095 (tyMod t 0) o.imm)
  | .fcos o t => some (o.raw 0x096 (tyMod t 0) o.imm)
  | .ftanh o t => some (o.raw 0x097 (tyMod t 0) o.imm)
  | .fdiv o t rm => some (o.raw 0x098 (tyMod t rm.code) o.imm)
  | .hadd o sat => some (o.raw 0x100 (tyMod .h2 (bit sat)) o.imm)
  | .hsub o sat => some (o.raw 0x101 (tyMod .h2 (bit sat)) o.imm)
  | .hmul o sat => some (o.raw 0x102 (tyMod .h2 (bit sat)) o.imm)
  | .hmad o sat => some (o.raw 0x103 (tyMod .h2 (bit sat)) o.imm)
  | .hmin o => some (o.raw 0x104 (tyMod .h2 0) o.imm)
  | .hmax o => some (o.raw 0x105 (tyMod .h2 0) o.imm)
  | .hsar o rnd => some (o.raw 0x106 (tyMod .h2 (2 * bit rnd)) o.imm)
  | .hclamp o => some (o.raw 0x107 (tyMod .h2 0) o.imm)
  | .pxunpk o w => some (o.raw 0x108 (tyMod .h2 w.code) o.imm)
  | .pxpack o w => some (o.raw 0x109 (tyMod .h2 w.code) o.imm)
  | .perm o t m => some (o.raw 0x110 (tyMod t m.code) o.imm)
  | .lmask o m => some (o.raw 0x111 (tyMod .b32 m.code) o.imm)
  | .lgrp o t m => some (o.raw 0x112 (tyMod t m.code) o.imm)
  | .lred o t op => some (o.raw 0x113 (tyMod t op.code) o.imm)
  | .lpre o t op => some (o.raw 0x114 (tyMod t op.code) o.imm)
  | .kaclr o => some (o.raw 0x120 0 o.imm)
  | .kaadd o => some (o.raw 0x121 (tyMod .f32 0) o.imm)
  | .kamad o => some (o.raw 0x122 (tyMod .f32 0) o.imm)
  | .kast o ord sc => some (o.raw 0x123 (ordMod ord sc) o.imm)
  | .kald o ord sc => some (o.raw 0x124 (ordMod ord sc) o.imm)
  | .kaaddm o ord sc => some (o.raw 0x125 (ordMod ord sc) o.imm)
  | .karead o t rm => some (o.raw 0x126 (tyMod t rm.code) o.imm)
  | .ld o t ord sc => some (o.rawC 0x180 (ordMod ord sc) t.code)
  | .st o t ord sc => some (o.rawC 0x181 (ordMod ord sc) t.code)
  | .atom o t op ord sc => some (o.rawC 0x182 (ordMod ord sc) (tyMod t op.code))
  | .red o t op ord sc => some (o.rawC 0x183 (ordMod ord sc) (tyMod t op.code))
  | .cas o w ord sc => some (o.raw 0x184 (ordMod ord sc + 64 * w.code) o.imm)
  | .fence o ord sc => some (o.raw 0x185 (ordMod ord sc) o.imm)
  | .prefetch o lv => some (o.raw 0x186 (64 * lv.code) o.imm)
  | .waitAc o ac => some (o.raw 0x187 ac.code o.imm)
  | .accLd o t rm => some (o.raw 0x188 (tyMod t rm.code) o.imm)
  | .bra o p j => some (o.rawX 0x200 j (p.line ++ p.slot))
  | .brx o j => some (o.rawX 0x201 j 0)
  | .call o p => some (o.raw 0x202 0 (p.line ++ p.slot))
  | .callx o => some (o.raw 0x203 0 o.imm)
  | .ret o => some (o.raw 0x204 0 o.imm)
  | .join o => some (o.raw 0x205 0 o.imm)
  | .joinT o => some (o.raw 0x206 0 o.imm)
  | .exit o => some (o.raw 0x207 0 o.imm)
  | .nop o => some (o.raw 0x208 0 o.imm)
  | .mma o fa fb tile z => some (o.raw 0x280 (fa.code + 16 * fb.code) (BitVec.ofNat 32 (tile.toNat + 8 * bit z)))
  | .mmas o fa fb tile z mx =>
    some (o.raw 0x281 (fa.code + 16 * fb.code) (BitVec.ofNat 32 (tile.toNat + 8 * bit z + 16 * bit mx)))
  | .mmx o fa fb tile z => some (o.raw 0x282 (fa.code + 16 * fb.code) (BitVec.ofNat 32 (tile.toNat + 8 * bit z)))
  | .mmt o fa fb tile z => some (o.raw 0x283 (fa.code + 16 * fb.code) (BitVec.ofNat 32 (tile.toNat + 8 * bit z)))
  | .accClr o m => some (o.raw 0x288 0 (BitVec.ofNat 32 m.toNat))
  | .accIn o t tile => some (o.raw 0x289 (tyMod t 0) (BitVec.ofNat 32 tile.toNat))
  | .accOut o t rm tile => some (o.raw 0x28A (tyMod t rm.code) (BitVec.ofNat 32 tile.toNat))
  | .accCvt o kd rm tile sh =>
    some (o.raw 0x28B (kd.code + 32 * rm.code) (BitVec.ofNat 32 (tile.toNat + 256 * sh.toNat)))
  | .mrpRd o => some (o.raw 0x28C 0 o.imm)
  | .mrpWr o => some (o.raw 0x28D 0 o.imm)
  | .rsdAlloc o => some (o.raw 0x290 0 o.imm)
  | .rsdLoad o sh => some (o.raw 0x291 (bit sh) o.imm)
  | .rsdPin o => some (o.raw 0x292 0 o.imm)
  | .rsdUnpin o => some (o.raw 0x293 0 o.imm)
  | .rsdFree o => some (o.raw 0x294 0 o.imm)
  | .rsdQuery o => some (o.raw 0x295 0 o.imm)
  | .treeClr o => some (o.raw 0x2A0 0 o.imm)
  | .treeAdd o => some (o.raw 0x2A1 0 o.imm)
  | .treeMask o => some (o.raw 0x2A2 0 o.imm)
  | .treePos o => some (o.raw 0x2A3 0 o.imm)
  | .treeAccept o => some (o.raw 0x2A4 0 o.imm)
  | .treePrune o => some (o.raw 0x2A5 0 o.imm)
  | .treeRd o => some (o.raw 0x2A6 0 o.imm)
  | .kvFind o => some (o.raw 0x2B0 0 o.imm)
  | .kvInsert o => some (o.raw 0x2B1 0 o.imm)
  | .kvDelete o => some (o.raw 0x2B2 0 o.imm)
  | .cpy o chg => some (o.raw 0x300 chg.toNat o.imm)
  | .cpy2d o chg e => some (o.raw 0x301 chg.toNat (e ++ 0#24))
  | .dcx o chg f e => some (o.raw 0x302 (chg.toNat + 64 * f.code) (e ++ 0#24))
  | .srd o chg => some (o.raw 0x303 chg.toNat o.imm)
  | .coll o chg kd op ct w sig e =>
    some (o.raw 0x304 chg.toNat (e ++ BitVec.ofNat 24
      (kd.code + 8 * op.code + 64 * ct.code + 512 * w.toNat + 4096 * bit sig)))
  | .launch o => some (o.raw 0x305 0 o.imm)
  | .barArrive o n => some (o.raw 0x310 n.toNat o.imm)
  | .barWait o n => some (o.raw 0x311 n.toNat o.imm)
  | .dqPush o => some (o.raw 0x312 0 o.imm)
  | .dqPop o p => some (o.raw 0x313 p.toNat o.imm)
  | .gangArrive o n => some (o.raw 0x314 n.toNat o.imm)
  | .gangWait o n => some (o.raw 0x315 n.toNat o.imm)
  | .tierHint o => some (o.raw 0x320 0 o.imm)
  | .tierPin o => some (o.raw 0x321 0 o.imm)
  | .tierUnpin o => some (o.raw 0x322 0 o.imm)
  | .tierQuery o => some (o.raw 0x323 0 o.imm)
  | .trap o c q => some (o.raw 0x380 0 (BitVec.ofNat 32 (c.code + 256 * q.toNat)))
  | .svc o n => some (o.raw 0x381 0 (BitVec.ofNat 32 n.toNat))
  | .brk o n => some (o.raw 0x382 0 (BitVec.ofNat 32 n.toNat))
  | .tresume o e => some (o.raw 0x383 0 (if o.usesImm then o.imm else e ++ 0#24))
  | .wrpriv o n => some (o.raw 0x384 0 (BitVec.ofNat 32 n.toNat))
  | .rdpriv o n => some (o.raw 0x385 0 (BitVec.ofNat 32 n.toNat))
  | .rdctr o n => some (o.raw 0x386 0 (BitVec.ofNat 32 n.toNat))
  | _ => none

/-- Which operand fields the opcode's entry uses, and how it reads IMM. -/
structure Fields where
  d : Bool := false
  a : Bool := false
  b : Bool := false
  c : Bool := false
  deriving DecidableEq, Repr

/-- The guard, flag select and operands read from a word, for an entry that uses the named fields and keeps IMM when
`keep` is set. -/
def Raw.opr (r : Raw) (u : Fields) (keep : Bool) : Option Opr := do
  let d ← if u.d then Opnd.dec r.d r.dk else some .none
  let a ← if u.a then Opnd.dec r.a r.ak else some .none
  let b ← if u.b then Opnd.dec r.b r.bk else some .none
  let c ← if u.c then Opnd.dec r.c r.ck else some .none
  some { gn := r.gn, gp := r.gp, fs := r.fs, d := d, a := a, b := b, c := c, imm := if keep then r.imm else 0 }

/-- MOD[4:0]. -/
def Raw.mlo (r : Raw) : Nat := r.md.toNat % 32
/-- MOD[7:5]. -/
def Raw.mhi (r : Raw) : Nat := r.md.toNat / 32
/-- The order of MOD[2:0]. -/
def Raw.ord (r : Raw) : Option Ord := Ord.ofCode (r.md.toNat % 8)
/-- The scope of MOD[5:3]. -/
def Raw.scope (r : Raw) : Option Scope := Scope.ofCode (r.md.toNat / 8 % 8)
/-- The code pointer of IMM (R188). -/
def Raw.ptr (r : Raw) : CodePtr := ⟨r.imm.extractLsb' 3 29, r.imm.extractLsb' 0 3⟩
/-- The reconvergence pointer of cat(B, C); a slot field of 7 is none (R188). -/
def Raw.join (r : Raw) : Option JoinPtr :=
  if r.c.extractLsb' 0 3 = 7 then none else some ⟨r.b ++ r.c.extractLsb' 3 5, r.c.extractLsb' 0 3⟩

/-- Class 000 (R231). -/
def candidate0 (r : Raw) : Option Instr :=
  let t := Ty.ofCode r.mlo
  let da := r.opr { d := true, a := true } true
  let dab := r.opr { d := true, a := true, b := true } true
  let dabc := r.opr { d := true, a := true, b := true, c := true } true
  let sat := decide (r.mhi % 2 = 1)
  match r.opc.toNat with
  | 0x000 => do some (.add (← dab) (← t) sat)
  | 0x001 => do some (.sub (← dab) (← t) sat)
  | 0x002 => do some (.mul (← dab) (← t) sat)
  | 0x003 => do some (.mulhi (← dab) (← t))
  | 0x004 => do some (.mad (← dabc) (← t) sat)
  | 0x005 => do some (.div (← dab) (← t))
  | 0x006 => do some (.rem (← dab) (← t))
  | 0x007 => do some (.min (← dab) (← t))
  | 0x008 => do some (.max (← dab) (← t))
  | 0x009 => do some (.abs (← da) (← t) sat)
  | 0x00A => do some (.neg (← da) (← t) sat)
  | 0x00B => do some (.and (← dab) (← t))
  | 0x00C => do some (.or (← dab) (← t))
  | 0x00D => do some (.xor (← dab) (← t))
  | 0x00E => do some (.not (← da) (← t))
  | 0x00F => do some (.shl (← dab) (← t))
  | 0x010 => do some (.shr (← dab) (← t))
  | 0x011 => do some (.sar (← dab) (← t))
  | 0x012 => do some (.rol (← dab) (← t))
  | 0x013 => do some (.ror (← dab) (← t))
  | 0x014 => do some (.bfx (← dab) (← t))
  | 0x015 => do some (.bfi (← dabc) (← t))
  | 0x016 => do some (.popc (← da) (← t))
  | 0x017 => do some (.clz (← da) (← t))
  | 0x018 => do some (.ctz (← da) (← t))
  | 0x019 => do some (.brev (← da) (← t))
  | 0x01A => do some (.sel (← dabc) (← t))
  | 0x01B => do some (.mov (← da) (← t))
  | 0x01C => do some (.lea (← dab) (← t) (BitVec.ofNat 3 r.mhi))
  | 0x01D => do some (.cmp (← dab) (← t) (← Cond.ofCode r.mhi))
  | 0x020 => do some (.pand (← dab) sat)
  | 0x021 => do some (.por (← dab) sat)
  | 0x022 => do some (.pxor (← dab) sat)
  | 0x023 => do some (.pnot (← da))
  | 0x028 => do
    let o ← r.opr { a := true } true
    some (.ixset { o with d := ← Opnd.decIx r.d r.dk })
  | 0x029 => do
    let o ← r.opr { a := true } true
    some (.ixinc { o with d := ← Opnd.decIx r.d r.dk })
  | 0x02A => do
    let o ← r.opr { d := true } true
    some (.ixget { o with a := ← Opnd.decIx r.a r.ak })
  | 0x030 => do some (.rgrow (← da))
  | 0x031 => do some (.rshrink (← da))
  | _ => none

/-- Class 001 (R257, R262). -/
def candidate1 (r : Raw) : Option Instr :=
  let t := Ty.ofCode r.mlo
  let rm := Rm.ofCode r.mhi
  let da := r.opr { d := true, a := true } true
  let dab := r.opr { d := true, a := true, b := true } true
  let cvt := r.opr { d := true, a := true } false
  let src := Ty.ofCode (r.imm.toNat % 32)
  let q := r.imm.extractLsb' 5 3
  match r.opc.toNat - 0x080 with
  | 0x00 => do some (.fadd (← dab) (← t) (← rm))
  | 0x01 => do some (.fsub (← dab) (← t) (← rm))
  | 0x02 => do some (.fmul (← dab) (← t) (← rm))
  | 0x03 => do some (.ffma (← r.opr { d := true, a := true, b := true, c := true } true) (← t) (← rm))
  | 0x04 => do some (.fmin (← dab) (← t))
  | 0x05 => do some (.fmax (← dab) (← t))
  | 0x06 => do some (.fabs (← da) (← t))
  | 0x07 => do some (.fneg (← da) (← t))
  | 0x08 => do some (.fcmp (← dab) (← t) (← FCond.ofCode r.mhi))
  | 0x09 => do some (.fcvt (← cvt) (← t) (← src) (← rm) q)
  | 0x0A => do some (.fcvti (← cvt) (← t) (← src) (← rm) q)
  | 0x0B => do some (.icvtf (← cvt) (← t) (← src) (← rm) q)
  | 0x0C => do some (.frnd (← da) (← t) (← rm))
  | 0x0D => do some (.fclass (← da) (← t))
  | 0x10 => do some (.frcp (← da) (← t))
  | 0x11 => do some (.frsqrt (← da) (← t))
  | 0x12 => do some (.fsqrt (← da) (← t) (← rm))
  | 0x13 => do some (.fexp2 (← da) (← t))
  | 0x14 => do some (.flog2 (← da) (← t))
  | 0x15 => do some (.fsin (← da) (← t))
  | 0x16 => do some (.fcos (← da) (← t))
  | 0x17 => do some (.ftanh (← da) (← t))
  | 0x18 => do some (.fdiv (← dab) (← t) (← rm))
  | _ => none

/-- Class 010 (R263 to R271). -/
def candidate2 (r : Raw) : Option Instr :=
  let t := Ty.ofCode r.mlo
  let rm := Rm.ofCode r.mhi
  let da := r.opr { d := true, a := true } true
  let dab := r.opr { d := true, a := true, b := true } true
  let dabc := r.opr { d := true, a := true, b := true, c := true } true
  let am := r.opr { a := true } true
  let sat := decide (r.mhi % 2 = 1)
  match r.opc.toNat - 0x100 with
  | 0x00 => do some (.hadd (← dab) sat)
  | 0x01 => do some (.hsub (← dab) sat)
  | 0x02 => do some (.hmul (← dab) sat)
  | 0x03 => do some (.hmad (← dabc) sat)
  | 0x04 => do some (.hmin (← dab))
  | 0x05 => do some (.hmax (← dab))
  | 0x06 => do some (.hsar (← dab) (decide (r.mhi / 2 % 2 = 1)))
  | 0x07 => do some (.hclamp (← dabc))
  | 0x08 => do some (.pxunpk (← dab) (← PxW.ofCode r.mhi))
  | 0x09 => do some (.pxpack (← dab) (← PxW.ofCode r.mhi))
  | 0x10 => do some (.perm (← dab) (← t) (← PermMode.ofCode r.mhi))
  | 0x11 => do some (.lmask (← da) (← LmaskMode.ofCode r.mhi))
  | 0x12 => do some (.lgrp (← da) (← t) (← LgrpMode.ofCode r.mhi))
  | 0x13 => do some (.lred (← dab) (← t) (← LredOp.ofCode r.mhi))
  | 0x14 => do some (.lpre (← dab) (← t) (← LredOp.ofCode r.mhi))
  | 0x20 => do some (.kaclr (← r.opr {} true))
  | 0x21 => do some (.kaadd (← am))
  | 0x22 => do some (.kamad (← r.opr { a := true, b := true } true))
  | 0x23 => do some (.kast (← am) (← r.ord) (← r.scope))
  | 0x24 => do some (.kald (← am) (← r.ord) (← r.scope))
  | 0x25 => do some (.kaaddm (← am) (← r.ord) (← r.scope))
  | 0x26 => do some (.karead (← r.opr { d := true } true) (← t) (← rm))
  | _ => none

/-- Class 011 (R272 to R281). -/
def candidate3 (r : Raw) : Option Instr :=
  let ct := Ty.ofCode (r.c.toNat % 32)
  let op := AtomOp.ofCode (r.c.toNat / 32)
  let am := r.opr { a := true } true
  let da := r.opr { d := true, a := true } true
  let ab := r.opr { a := true, b := true } true
  let dab := r.opr { d := true, a := true, b := true } true
  match r.opc.toNat - 0x180 with
  | 0x0 => do some (.ld (← da) (← ct) (← r.ord) (← r.scope))
  | 0x1 => do some (.st (← ab) (← ct) (← r.ord) (← r.scope))
  | 0x2 => do some (.atom (← dab) (← ct) (← op) (← r.ord) (← r.scope))
  | 0x3 => do some (.red (← ab) (← ct) (← op) (← r.ord) (← r.scope))
  | 0x4 => do
    some (.cas (← r.opr { d := true, a := true, b := true, c := true } true) (← CasW.ofCode (r.md.toNat / 64)) (← r.ord)
      (← r.scope))
  | 0x5 => do some (.fence (← r.opr {} true) (← r.ord) (← r.scope))
  | 0x6 => do some (.prefetch (← am) (← PfLevel.ofCode (r.md.toNat / 64)))
  | 0x7 => do some (.waitAc (← am) (← AcCtr.ofCode r.md.toNat))
  | 0x8 => do some (.accLd (← da) (← Ty.ofCode r.mlo) (← Rm.ofCode r.mhi))
  | _ => none

/-- Class 100 (R248). -/
def candidate4 (r : Raw) : Option Instr :=
  let none' := r.opr {} true
  match r.opc.toNat - 0x200 with
  | 0x0 => do some (.bra (← r.opr {} false) r.ptr r.join)
  | 0x1 => do some (.brx (← r.opr { a := true } false) r.join)
  | 0x2 => do some (.call (← r.opr {} false) r.ptr)
  | 0x3 => do some (.callx (← r.opr { a := true } true))
  | 0x4 => do some (.ret (← none'))
  | 0x5 => do some (.join (← none'))
  | 0x6 => do some (.joinT (← r.opr { d := true } true))
  | 0x7 => do some (.exit (← none'))
  | 0x8 => do some (.nop (← none'))
  | _ => none

/-- Class 101 (R287). -/
def candidate5 (r : Raw) : Option Instr :=
  let fa := MFmt.ofCode (r.md.toNat % 16)
  let fb := MFmt.ofCode (r.md.toNat / 16)
  let tile := r.imm.extractLsb' 0 3
  let z := r.imm.getLsbD 3
  let ab := r.opr { a := true, b := true } false
  let n := r.opr {} false
  let t := Ty.ofCode r.mlo
  let rm := Rm.ofCode r.mhi
  let am := r.opr { a := true } true
  let da := r.opr { d := true, a := true } true
  let dab := r.opr { d := true, a := true, b := true } true
  let abm := r.opr { a := true, b := true } true
  match r.opc.toNat - 0x280 with
  | 0x00 => do some (.mma (← ab) (← fa) (← fb) tile z)
  | 0x01 => do some (.mmas (← ab) (← fa) (← fb) tile z (r.imm.getLsbD 4))
  | 0x02 => do some (.mmx (← ab) (← fa) (← fb) tile z)
  | 0x03 => do some (.mmt (← r.opr { a := true } false) (← fa) (← fb) tile z)
  | 0x08 => do some (.accClr (← n) (r.imm.extractLsb' 0 8))
  | 0x09 => do some (.accIn (← ab) (← t) tile)
  | 0x0A => do some (.accOut (← ab) (← t) (← rm) tile)
  | 0x0B => do some (.accCvt (← n) (← CvtKind.ofCode (r.md.toNat % 4)) (← rm) tile (r.imm.extractLsb' 8 8))
  | 0x0C => do some (.mrpRd (← r.opr { d := true } true))
  | 0x0D => do some (.mrpWr (← am))
  | 0x10 => do some (.rsdAlloc (← abm))
  | 0x11 => do some (.rsdLoad (← abm) (decide (r.md.toNat % 2 = 1)))
  | 0x12 => do some (.rsdPin (← am))
  | 0x13 => do some (.rsdUnpin (← am))
  | 0x14 => do some (.rsdFree (← am))
  | 0x15 => do some (.rsdQuery (← da))
  | 0x20 => do some (.treeClr (← abm))
  | 0x21 => do some (.treeAdd (← dab))
  | 0x22 => do some (.treeMask (← da))
  | 0x23 => do some (.treePos (← da))
  | 0x24 => do some (.treeAccept (← am))
  | 0x25 => do some (.treePrune (← da))
  | 0x26 => do some (.treeRd (← da))
  | 0x30 => do some (.kvFind (← dab))
  | 0x31 => do some (.kvInsert (← r.opr { a := true, b := true, c := true } true))
  | 0x32 => do some (.kvDelete (← abm))
  | _ => none

/-- Class 110 (R318, R335, R338). -/
def candidate6 (r : Raw) : Option Instr :=
  let abc := r.opr { a := true, b := true, c := true } false
  let e := r.imm.extractLsb' 24 8
  let chg := r.md.extractLsb' 0 6
  let n4 := r.md.extractLsb' 0 4
  let n2 := r.md.extractLsb' 0 2
  let am := r.opr { a := true } true
  let ab := r.opr { a := true, b := true } true
  let db := r.opr { d := true, b := true } true
  let i := r.imm.toNat
  match r.opc.toNat - 0x300 with
  | 0x00 => do some (.cpy (← r.opr { a := true, b := true, c := true } true) chg)
  | 0x01 => do some (.cpy2d (← abc) chg e)
  | 0x02 => do some (.dcx (← abc) chg (← DcxFmt.ofCode (r.md.toNat / 64)) e)
  | 0x03 => do some (.srd (← r.opr { a := true, b := true, c := true } true) chg)
  | 0x04 => do
    some (.coll (← abc) chg (← CollKind.ofCode (i % 8)) (← CollOp.ofCode (i / 8 % 8)) (← CollTy.ofCode (i / 64 % 8))
      (r.imm.extractLsb' 9 3) (r.imm.getLsbD 12) e)
  | 0x05 => do some (.launch (← r.opr { d := true, a := true, b := true } true))
  | 0x10 => do some (.barArrive (← db) n4)
  | 0x11 => do some (.barWait (← am) n4)
  | 0x12 => do some (.dqPush (← am))
  | 0x13 => do some (.dqPop (← r.opr { d := true } true) (r.md.extractLsb' 0 3))
  | 0x14 => do some (.gangArrive (← db) n2)
  | 0x15 => do some (.gangWait (← am) n2)
  | 0x20 => do some (.tierHint (← ab))
  | 0x21 => do some (.tierPin (← ab))
  | 0x22 => do some (.tierUnpin (← am))
  | 0x23 => do some (.tierQuery (← r.opr { d := true, a := true } true))
  | _ => none

/-- Class 111 (R340 to R345). -/
def candidate7 (r : Raw) : Option Instr :=
  let n := r.opr {} false
  match r.opc.toNat - 0x380 with
  | 0x0 => do some (.trap (← n) (← Cause.ofCode (r.imm.toNat % 256)) (r.imm.extractLsb' 8 8))
  | 0x1 => do some (.svc (← n) (r.imm.extractLsb' 0 24))
  | 0x2 => do some (.brk (← n) (r.imm.extractLsb' 0 24))
  | 0x3 => do
    let o ← r.opr { d := true, a := true, b := true, c := true } true
    if o.usesImm then some (.tresume o 0) else some (.tresume { o with imm := 0 } (r.imm.extractLsb' 24 8))
  | 0x4 => do some (.wrpriv (← r.opr { a := true } false) (r.imm.extractLsb' 0 12))
  | 0x5 => do some (.rdpriv (← r.opr { d := true } false) (r.imm.extractLsb' 0 12))
  | 0x6 => do some (.rdctr (← r.opr { d := true } false) (r.imm.extractLsb' 0 8))
  | _ => none

/-- The instruction that the opcode's class reads from the fields, before its checks. -/
def candidate (r : Raw) : Option Instr :=
  match r.opc.toNat / 128 with
  | 0 => candidate0 r
  | 1 => candidate1 r
  | 2 => candidate2 r
  | 3 => candidate3 r
  | 4 => candidate4 r
  | 5 => candidate5 r
  | 6 => candidate6 r
  | _ => candidate7 r

/-- The opcodes assigned by R196. -/
def opcAssigned (n : Nat) : Bool :=
  [(0x000, 0x01D), (0x020, 0x023), (0x028, 0x02A), (0x030, 0x031), (0x080, 0x08D), (0x090, 0x098), (0x100, 0x109),
   (0x110, 0x114), (0x120, 0x126), (0x180, 0x188), (0x200, 0x208), (0x280, 0x283), (0x288, 0x28D), (0x290, 0x295),
   (0x2A0, 0x2A6), (0x2B0, 0x2B2), (0x300, 0x305), (0x310, 0x315), (0x320, 0x323), (0x380, 0x386)].any
    (fun p => p.1 ≤ n && n ≤ p.2)

/-- Decode from fields: the candidate, accepted when its own encoding is this very word (so that every unused field is
zero, R189) and it is well formed. -/
def decodeRaw (r : Raw) : Except DecodeError Instr :=
  if opcAssigned r.opc.toNat then
    match candidate r with
    | none => .error (.reservedField r.opc.toNat)
    | some i =>
      if i.enc = some r then
        if i.wf then .ok i else .error (.operand r.opc.toNat)
      else .error (.reservedField r.opc.toNat)
  else .error (.unassigned r.opc.toNat)

/-- Decode a 96-bit word. -/
def decodeWord (w : BitVec 96) : Except DecodeError Instr := decodeRaw (Raw.unpack w)

/-- The 96-bit word of an instruction; none for an event. -/
def encode (i : Instr) : Option (BitVec 96) := i.enc.map Raw.pack

/-- The little-endian number of a list of bytes (R4). -/
def leNat : List Byte → Nat
  | [] => 0
  | b :: bs => b.toNat + 256 * leNat bs

/-- The n bytes of a number, lowest first (R4). -/
def leBytes : Nat → Nat → List Byte
  | 0, _ => []
  | n + 1, x => BitVec.ofNat 8 x :: leBytes n (x / 256)

/-- Decode the twelve bytes of a slot (R179): the instruction and the bytes that follow. -/
def decodeBytes (bs : List Byte) : Except DecodeError (Instr × List Byte) :=
  if bs.length < 12 then .error .short
  else (decodeWord (BitVec.ofNat 96 (leNat (bs.take 12)))).map (fun i => (i, bs.drop 12))

/-- The twelve bytes of an instruction, lowest first (R4, R179). -/
def encodeBytes (i : Instr) : Option (List Byte) := (encode i).map (fun w => leBytes 12 w.toNat)

/-- The instruction that the decoder reads from a table row's word: the word laid out as twelve bytes, the bits above
nbits zero (R179, R187). -/
def decodeTableWord (nbits w : Nat) : Option Instr :=
  match decodeBytes (leBytes 12 (w % 2 ^ nbits)) with
  | .ok (i, _) => some i
  | .error _ => none

end Sys2Proof
end

