-- ==== Sys2Proof/Config.lean ====
section
/-! DEFINITION. What an implementation fixes and the spec leaves open. Each opaque constant has no body: nothing can be
proved of its value, so a claim about the model holds whatever the hardware does there. Each one is named in the
assumption log. -/

namespace Sys2Proof

/-- Which special function of R262 an approximation belongs to. -/
inductive Special where
  | rcp | rsqrt | exp2 | log2 | sin | cos | tanh
  deriving DecidableEq, Repr

namespace Config

/-- The result that the part's special-function unit produces for an input (R262): a fixed function of the input bits of
which only a bound is given. The Bool says .f64. -/
opaque approx : Special → Bool → Nat → Nat

/-- A 64-bit value that the spec leaves open, drawn by the counter of the state. -/
opaque free : Nat → BitVec 64

/-- A choice among alternatives that the spec allows, drawn by the counter of the state. -/
opaque choice : Nat → Nat

/-- The memory controller, bank and DRAM row of a physical line (R34, R60): the address hash is not given. -/
opaque rowOf : Nat → Nat × Nat × Nat

/-- The fixed hash of the ASID and line number that gives the set of a cache (R68): level, ASID, VA / 128. -/
opaque setHash : Nat → Nat → Nat → Nat

/-- The fixed hash of the ASID and line number that gives the L3 quadrant of a line (R68). -/
opaque quadHash : Nat → Nat → Nat

/-- The material that the management controller draws from its internal random source, by the count of draws (R407). -/
opaque drawnKey : Nat → BitVec 512

/-- The highest operating point that a package power cap in W allows (R429). -/
opaque powerCeiling : Nat → Nat

/-- SHA-512 of a byte string, named in the spec by its standard (R422, R426). -/
opaque hash : List (BitVec 8) → List (BitVec 8)

/-- ECDSA P-521 verification with SHA-512 (R422, R426): 0 under the root key, 1 under the operator key that the message begins with;
the message, r and s. -/
opaque verify : Nat → List (BitVec 8) → List (BitVec 8) → List (BitVec 8) → Bool

/-- The signature that the package makes of a message: r and s (R424). -/
opaque sign : List (BitVec 8) → BitVec 528 × BitVec 528

/-- Serial number of the package and steppings of its dies (R424). -/
opaque serial : BitVec 64
/-- Steppings of host, CD0, CD1 and hub. -/
opaque steps : BitVec 32
/-- The package's public key, x and y (R424). -/
opaque pubKey : BitVec 528 × BitVec 528
/-- The certificate chain of the part (R424). -/
opaque certChain : List (BitVec 8)

/-- The entry point that the body of a boot image names (R423). -/
opaque imageEntry : List (BitVec 8) → Nat

/-- A word of a scan chain or of a part of an array whose layout is not given (R428): chain, word, draw. -/
opaque scanWord : Nat → Nat → Nat → BitVec 64
/-- The length in words of a flip-flop chain or of an HA's directory (R428). -/
opaque scanLen : Nat → Nat
/-- The number of flip-flop chains that the scan directory lists (R428). -/
opaque scanChains : Nat
/-- DIE, UNIT and INDEX of each flip-flop chain that the scan directory lists (R428). -/
opaque scanChain : Nat → BitVec 28
/-- The hash that chooses a plane for traffic from one package to another (R421). -/
opaque plane : Nat × Nat → Nat × Nat → Nat
/-- An instruction that issues at a PT reads an operand before a result that has just landed (R185): PT, the operand's place, the number of the
register write. -/
opaque early : Nat → Nat → Nat → Bool
/-- Where an array holds what: the number of the directory line or residency tile in an entry (R428). -/
opaque scanSlot : Nat → Nat → Nat → Nat

end Config
end Sys2Proof
end

