-- ==== Sys2Proof/Machine/Aes.lean ====
section
/-! DEFINITION. AES-256-XTS, which R406 names by its standard: the cipher of FIPS 197 with a key of 256 bits, and the
XTS mode of IEEE 1619 over the 128 bytes of a line. -/

namespace Sys2Proof.Machine

/-- The substitution box of FIPS 197, entry i in bits 8i to 8i + 7. -/
def aesBox : Nat :=
  0x16bb54b00f2d99416842e6bf0d89a18cdf2855cee9871e9b948ed9691198f8e19e1dc186b95735610ef6034866b53e708a8bbd4b1f74dde8c6b4a61c2e2578ba08ae7a65eaf4566ca94ed58d6d37c8e779e4959162acd3c25c2406490a3a32e0db0b5ede14b8ee4688902a22dc4f816073195d643d7ea7c41744975fec130ccdd2f3ff1021dab6bcf5389d928f40a351a89f3c507f02f94585334d43fbaaefd0cf584c4a39becb6a5bb1fc20ed00d153842fe329b3d63b52a05a6e1b1a2c830975b227ebe28012079a059618c323c7041531d871f1e5a534ccf73f362693fdb7c072a49cafa2d4adf04759fa7dc982ca76abd7fe2b670130c56f6bf27b777c63

/-- The inverse substitution box, laid out as `aesBox`. -/
def aesUnbox : Nat :=
  0x7d0c2155631469e126d677ba7e042b17619953833cbbebc8b0f52aae4d3be0a0ef9cc9939f7ae52d0d4ab519a97f51605fec8027591012b131c7078833a8dd1ff45acd78fec0db9a2079d2c64b3e56fc1bbe18aa0e62b76f89c5291d711af1476edf751ce837f9e28535ade72274ac9673e6b4f0cecff297eadc674f4111913a6b8a130103bdafc1020f3fca8f1e2cd00645b3b80558e4f70ad3bc8c00abd890849d8da75746155edab9edfd5048706c92b6655dcc5ca4d41698688664f6f87225d18b6d49a25b76b224d92866a12e084ec3fa420b954cee3d23c2a632947b54cbe9dec444438e3487ff2f9b8239e37cfbd7f3819ea340bf38a53630d56a0952

/-- A byte substituted. -/
def aesSub (box : Nat) (b : Byte) : Byte := BitVec.ofNat 8 (box >>> (8 * b.toNat))

/-- Twice a byte in the field of FIPS 197. -/
def aesTwice (b : Byte) : Byte := if b.msb then (b <<< 1) ^^^ 0x1B#8 else b <<< 1

/-- A byte times a number below 16 in the field of FIPS 197. -/
def aesTimes (k : Nat) (b : Byte) : Byte :=
  let b2 := aesTwice b
  let b4 := aesTwice b2
  (if k % 2 = 1 then b else 0) ^^^ (if k / 2 % 2 = 1 then b2 else 0) ^^^ (if k / 4 % 2 = 1 then b4 else 0)
    ^^^ (if k / 8 % 2 = 1 then aesTwice b4 else 0)

/-- The exclusive or of two byte strings of one length. -/
def xorBytes (x y : List Byte) : List Byte := List.zipWith (· ^^^ ·) x y

/-- One more word of the key schedule of FIPS 197, put in front of the words that stand, the latest first. -/
def aesNextWord (ws : List (List Byte)) (i : Nat) : List (List Byte) :=
  let t := ws.headD []
  let t := if i % 8 = 0 then xorBytes ((t.rotateLeft 1).map (aesSub aesBox)) [BitVec.ofNat 8 (2 ^ (i / 8 - 1)), 0, 0, 0]
    else if i % 8 = 4 then t.map (aesSub aesBox) else t
  xorBytes (ws.getD 7 []) t :: ws

/-- The 15 round keys of a 32-byte key. -/
def aesKeys (key : List Byte) : List (List Byte) :=
  let w0 := ((List.range 8).map (fun i => (key.drop (4 * i)).take 4)).reverse
  let ws := ((List.range 52).foldl (fun ws i => aesNextWord ws (i + 8)) w0).reverse
  (List.range 15).map (fun r => ((ws.drop (4 * r)).take 4).flatten)

/-- Row r of the block moved by r columns: left to encrypt (k = 1), right to decrypt (k = 3). -/
def aesShift (k : Nat) (b : List Byte) : List Byte := (List.range 16).map (fun i => b.getD ((i + 4 * k * (i % 4)) % 16) 0)

/-- Each column of the block times the matrix whose first row is given. -/
def aesMix (row : List Nat) (b : List Byte) : List Byte :=
  (List.range 16).map (fun i => (List.range 4).foldl
    (fun x j => x ^^^ aesTimes (row.getD ((j + 4 - i % 4) % 4) 0) (b.getD (i / 4 * 4 + j) 0)) 0)

/-- One 16-byte block encrypted with AES under its 15 round keys. -/
def aesEnc (ks : List (List Byte)) (b : List Byte) : List Byte :=
  let b := xorBytes b (ks.headD [])
  let b := ((ks.drop 1).take 13).foldl
    (fun b k => xorBytes (aesMix [2, 3, 1, 1] (aesShift 1 (b.map (aesSub aesBox)))) k) b
  xorBytes (aesShift 1 (b.map (aesSub aesBox))) (ks.getD 14 [])

/-- One 16-byte block decrypted with AES under its 15 round keys. -/
def aesDec (ks : List (List Byte)) (b : List Byte) : List Byte :=
  let b := xorBytes b (ks.getD 14 [])
  let b := ((ks.drop 1).take 13).reverse.foldl
    (fun b k => aesMix [14, 11, 13, 9] (xorBytes ((aesShift 3 b).map (aesSub aesUnbox)) k)) b
  xorBytes ((aesShift 3 b).map (aesSub aesUnbox)) (ks.headD [])

/-- The tweak of the next block of a data unit: times α (IEEE 1619), over the 128-bit little-endian number. -/
def xtsNext (t : List Byte) : List Byte :=
  let n := leNat t
  leBytes 16 (if n < 2 ^ 127 then 2 * n else (2 * n - 2 ^ 128) ^^^ 0x87)

/-- The whole blocks of a data unit from the one whose tweak is given, each through the cipher between two additions of its
tweak. -/
def xtsRun (f : List Byte → List Byte) (t : List Byte) : Nat → List Byte → List Byte
  | 0, _ => []
  | n + 1, bs => xorBytes (f (xorBytes (bs.take 16) t)) t ++ xtsRun f (xtsNext t) n (bs.drop 16)

/-- A line of 128 bytes through AES-256-XTS under the material of R406, a 512-bit number whose lower half is the data key and upper
half the tweak key, low word first; the tweak is the line number PA[51:7]. -/
def xtsLine (enc : Bool) (material line : Nat) (bs : List Byte) : List Byte :=
  let ks := aesKeys (leBytes 32 material)
  xtsRun (if enc then aesEnc ks else aesDec ks) (aesEnc (aesKeys (leBytes 32 (material / 2 ^ 256))) (leBytes 16 line)) 8 bs

/-- What a line written as the given plaintext under one material reads as under another (R408): its ciphertext, decrypted; 0 names
no material (MODE PLAIN) and n + 1 the material n. -/
def recrypt (w r line : Nat) (bs : List Byte) : List Byte :=
  let c := if w = 0 then bs else xtsLine true (w - 1) line bs
  if r = 0 then c else xtsLine false (r - 1) line c

end Sys2Proof.Machine
end

