-- ==== Sys2Proof/Machine/Flags.lean ====
section
/-! DEFINITION. Arithmetic: integers, floating point, rounding, conversions, accumulator elements and the Kulisch
accumulator (R202 to R228, R232 to R242, R257 to R268). The machine has no arithmetic status flag (R205): a result is
its bits, and the one sticky indication is a tile's overflow bit (R213). Operands are taken as numbers, computed
exactly and narrowed once at the end. -/

namespace Sys2Proof

/-! ### Integers -/

/-- The value of a W-bit pattern in two's complement (R210). -/
def sx (w x : Nat) : Int := if x < 2 ^ (w - 1) then (x : Int) else (x : Int) - (2 ^ w : Nat)

/-- A number reduced modulo 2^W (R232). -/
def wrap (w : Nat) (i : Int) : Nat := (i % ((2 ^ w : Nat) : Int)).toNat

/-- A W-bit pattern read as the type does (R210). -/
def intVal (t : Ty) (w x : Nat) : Int := if t.signed then sx w x else (x : Int)

/-- The least value of an integer type of W bits (R210). -/
def minOf (sgn : Bool) (w : Nat) : Int := if sgn then -((2 ^ (w - 1) : Nat) : Int) else 0
/-- The greatest value of an integer type of W bits (R210). -/
def maxOf (sgn : Bool) (w : Nat) : Int := if sgn then ((2 ^ (w - 1) : Nat) : Int) - 1 else ((2 ^ w : Nat) : Int) - 1

/-- Saturation to the type's range (R220). -/
def satTo (sgn : Bool) (w : Nat) (i : Int) : Int := if i < minOf sgn w then minOf sgn w else if maxOf sgn w < i then maxOf sgn w else i

/-- Fit of R232: saturated when SAT is set, else modulo 2^W. -/
def fit (t : Ty) (sat : Bool) (i : Int) : Nat := wrap t.width (if sat then satTo t.signed t.width i else i)

/-- Quotient of R233, towards zero. -/
def divVal (t : Ty) (a b : Int) : Int :=
  if b = 0 then (if t.signed && decide (a < 0) then minOf t.signed t.width else maxOf t.signed t.width) else a.tdiv b

/-- Remainder of R233, with the sign of the dividend. -/
def remVal (a b : Int) : Int := if b = 0 then a else a - a.tdiv b * b

/-- The shifts of R234: shl, shr, sar, rol, ror by the whole unsigned count. -/
def shlVal (w a n : Nat) : Nat := if n < w then (a * 2 ^ n) % 2 ^ w else 0
/-- shr of R234. -/
def shrVal (w a n : Nat) : Nat := if n < w then a / 2 ^ n else 0
/-- sar of R234. -/
def sarVal (w a n : Nat) : Nat := wrap w (if n < w then sx w a / ((2 ^ n : Nat) : Int) else if a < 2 ^ (w - 1) then 0 else -1)
/-- rol of R234. -/
def rolVal (w a n : Nat) : Nat := (a * 2 ^ (n % w)) % 2 ^ w + a / 2 ^ (w - n % w)
/-- ror of R234. -/
def rorVal (w a n : Nat) : Nat := a / 2 ^ (n % w) + (a * 2 ^ (w - n % w)) % 2 ^ w

/-- The number of 1 bits among the lowest n (R235). -/
def popcVal : Nat → Nat → Nat
  | 0, _ => 0
  | n + 1, a => a % 2 + popcVal n (a / 2)
/-- clz of R235. -/
def clzVal (w a : Nat) : Nat := if a = 0 then w else w - 1 - a.log2
/-- ctz among n bits (R235). -/
def ctzVal : Nat → Nat → Nat
  | 0, _ => 0
  | n + 1, a => if a % 2 = 1 then 0 else 1 + ctzVal n (a / 2)
/-- The n bits of a reversed (R235). -/
def brevVal : Nat → Nat → Nat
  | 0, _ => 0
  | n + 1, a => (a % 2) * 2 ^ n + brevVal n (a / 2)

/-- L of R236: the length of the field of a control word that lies inside W bits. -/
def fieldLen (w ctl : Nat) : Nat := if ctl % 256 < w then Nat.min (ctl / 256 % 256) (w - ctl % 256) else 0

/-- bfx of R236. -/
def bfxVal (t : Ty) (a ctl : Nat) : Nat :=
  let l := fieldLen t.width ctl
  let f := a / 2 ^ (ctl % 256) % 2 ^ l
  if l = 0 then 0 else wrap t.width (if t.signed then sx l f else (f : Int))

/-- bfi of R236. -/
def bfiVal (w a b ctl : Nat) : Nat :=
  let l := fieldLen w ctl
  let p := ctl % 256
  if l = 0 then a else a - (a / 2 ^ p % 2 ^ l) * 2 ^ p + (b % 2 ^ l) * 2 ^ p

/-- mov of R238: a copy, or for the 8-bit and 16-bit types a saturating conversion. -/
def movVal (t : Ty) (a : Nat) : Nat :=
  match t with
  | .s8 => wrap 32 (satTo true 8 (sx 32 a))
  | .s16 => wrap 32 (satTo true 16 (sx 32 a))
  | .n8 => (satTo false 8 (a : Int)).toNat
  | .n16 => (satTo false 16 (a : Int)).toNat
  | _ => a

/-- The conditions of cmp (R241). -/
def Cond.holds (cc : Cond) (a b : Int) : Bool :=
  match cc with
  | .eq => a = b | .ne => a ≠ b | .lt => a < b | .le => a ≤ b | .gt => a > b | .ge => a ≥ b

/-- Bitwise operation of a reduction or atomic. -/
def bitwise (op : LredOp) (a b : Nat) : Nat :=
  match op with
  | .and => a &&& b | .or => a ||| b | _ => a ^^^ b

/-- Element i of width w of a packed word (R206). -/
def elemOf (w i x : Nat) : Nat := x / 2 ^ (w * i) % 2 ^ w

/-- The word with bits [lo + n - 1 : lo] replaced. -/
def putBits (x lo n v : Nat) : Nat := x - (x / 2 ^ lo % 2 ^ n) * 2 ^ lo + (v % 2 ^ n) * 2 ^ lo

/-- An operation on both .s16 elements of a word (R263). -/
def onPairs (f : Nat → Nat → Nat → Nat) (a b c : Nat) : Nat :=
  f (elemOf 16 0 a) (elemOf 16 0 b) (elemOf 16 0 c) + 2 ^ 16 * f (elemOf 16 1 a) (elemOf 16 1 b) (elemOf 16 1 c)

/-- Fit of R263. -/
def fit16 (sat : Bool) (i : Int) : Nat := wrap 16 (if sat then satTo true 16 i else i)

/-- hsar of R263. -/
def hsarVal (rnd : Bool) (a n : Nat) : Nat :=
  if n = 0 then a
  else if 16 ≤ n then wrap 16 (if a < 2 ^ 15 then 0 else -1)
  else wrap 16 ((sx 16 a + (if rnd then ((2 ^ (n - 1) : Nat) : Int) else 0)) / ((2 ^ n : Nat) : Int))

/-- The sample width of a code (R264). -/
def PxW.bits : PxW → Nat
  | .w10 => 10 | .w12 => 12 | .w14 => 14

/-- pxunpk of R264. -/
def pxunpkVal (w : PxW) (a o : Nat) : Nat :=
  let x (k : Nat) : Nat := if 64 ≤ k then 0 else a / 2 ^ k % 2 ^ w.bits
  x o + 2 ^ 16 * x (o + w.bits)

/-- A sample written at a stream offset; bits at 64 and above are dropped (R264). -/
def pxPut (d o w v : Nat) : Nat := if 64 ≤ o then d else putBits d o (Nat.min w (64 - o)) (v % 2 ^ Nat.min w (64 - o))

/-- pxpack of R264. -/
def pxpackVal (w : PxW) (d a o : Nat) : Nat :=
  let s (i : Nat) : Nat := (let x := sx 16 (elemOf 16 i a); if x < 0 then 0 else Nat.min x.toNat (2 ^ w.bits - 1))
  pxPut (pxPut d o w.bits (s 0)) (o + w.bits) w.bits (s 1)

/-! ### Floating point -/

/-- A floating-point format (R202). -/
structure FFmt where
  ebits : Nat
  mbits : Nat
  bias : Nat
  hasInf : Bool
  /-- 0: no NaN; 1: exponent all ones and M not 0; 2: the one pattern of E4M3. -/
  nanKind : Nat
  /-- A conversion that overflows gives the greatest finite value in every mode (R216). -/
  clamps : Bool
  deriving DecidableEq, Repr

/-- FP64 (R202). -/
def f64F : FFmt := ⟨11, 52, 1023, true, 1, false⟩
/-- FP32 (R202). -/
def f32F : FFmt := ⟨8, 23, 127, true, 1, false⟩
/-- BF16 (R202). -/
def bf16F : FFmt := ⟨8, 7, 127, true, 1, false⟩
/-- FP16 (R202). -/
def f16F : FFmt := ⟨5, 10, 15, true, 1, false⟩
/-- E4M3 (R202). -/
def e4m3F : FFmt := ⟨4, 3, 7, false, 2, true⟩
/-- E5M2 (R202). -/
def e5m2F : FFmt := ⟨5, 2, 15, true, 1, true⟩
/-- E3M2 (R202). -/
def e3m2F : FFmt := ⟨3, 2, 3, false, 0, true⟩
/-- E2M3 (R202). -/
def e2m3F : FFmt := ⟨2, 3, 1, false, 0, true⟩
/-- E2M1 (R202). -/
def e2m1F : FFmt := ⟨2, 1, 1, false, 0, true⟩
/-- binary128 (R202). -/
def b128F : FFmt := ⟨15, 112, 16383, true, 1, false⟩

/-- The format of a type (R198, R202). -/
def Ty.fmt : Ty → FFmt
  | .f64 => f64F | .f32 => f32F | .bf16 => bf16F | .f16 => f16F | .e4m3 => e4m3F | .e5m2 => e5m2F | .e3m2 => e3m2F
  | .e2m3 => e2m3F | .e2m1 => e2m1F | _ => f32F

/-- The bits of an encoding, sign included. -/
def FFmt.bits (F : FFmt) : Nat := 1 + F.ebits + F.mbits

/-- The exponent of the least normal value (R215). -/
def FFmt.emin (F : FFmt) : Int := 1 - (F.bias : Int)

/-- The encoding of the greatest finite magnitude (R202). -/
def FFmt.maxFin (F : FFmt) : Nat :=
  if F.nanKind = 2 then 2 ^ (F.ebits + F.mbits) - 2
  else if F.hasInf then (2 ^ F.ebits - 1) * 2 ^ F.mbits - 1
  else 2 ^ (F.ebits + F.mbits) - 1

/-- The sign bit. -/
def FFmt.signBit (F : FFmt) (neg : Bool) : Nat := if neg then 2 ^ (F.ebits + F.mbits) else 0

/-- The canonical NaN of R202; a format without NaNs has none and a conversion gives +0 (R219). -/
def FFmt.nan (F : FFmt) : Nat :=
  if F.nanKind = 0 then 0
  else if F.nanKind = 2 then 2 ^ (F.ebits + F.mbits) - 1
  else (2 ^ F.ebits - 1) * 2 ^ F.mbits + 2 ^ (F.mbits - 1)

/-- The infinity of a sign; a format without infinities gives its greatest finite value (R219). -/
def FFmt.inf (F : FFmt) (neg : Bool) : Nat :=
  F.signBit neg + (if F.hasInf then (2 ^ F.ebits - 1) * 2 ^ F.mbits else F.maxFin)

/-- A floating-point datum: a NaN, an infinity, or the exact number (−1)^neg × m × 2^e (R203). -/
inductive FV where
  | nan
  | inf (neg : Bool)
  | fin (neg : Bool) (m : Nat) (e : Int)
  deriving DecidableEq, Repr

/-- The datum of an encoding (R202, R203). -/
def FFmt.val (F : FFmt) (x : Nat) : FV :=
  let neg := decide (x / 2 ^ (F.ebits + F.mbits) % 2 = 1)
  let ef := x / 2 ^ F.mbits % 2 ^ F.ebits
  let mf := x % 2 ^ F.mbits
  if F.nanKind = 1 && ef = 2 ^ F.ebits - 1 then (if mf = 0 then .inf neg else .nan)
  else if F.nanKind = 2 && ef = 2 ^ F.ebits - 1 && mf = 2 ^ F.mbits - 1 then .nan
  else if ef = 0 then .fin neg mf (F.emin - F.mbits)
  else .fin neg (2 ^ F.mbits + mf) (F.emin - F.mbits + (ef : Int) - 1)

/-- The multiple of 2^qe that m × 2^e (m not 0) rounds to, in units of 2^qe (R215); u is the stochastic step. -/
def roundMag (rm : Rm) (u : Nat) (neg : Bool) (m : Nat) (e qe : Int) : Nat :=
  if qe ≤ e then m * 2 ^ (e - qe).toNat
  else
    let sh := (qe - e).toNat
    let lo := m / 2 ^ sh
    let fr := m % 2 ^ sh
    let up : Bool := match rm with
      | .rne => 2 ^ sh < 2 * fr || (2 * fr = 2 ^ sh && lo % 2 = 1)
      | .rz => false
      | .rna => 2 ^ sh ≤ 2 * fr
      | .ru => fr ≠ 0 && !neg
      | .rd => fr ≠ 0 && neg
      | .sr => 2 ^ 32 ≤ fr * 2 ^ 32 / 2 ^ sh + u
    if up then lo + 1 else lo

/-- Overflow of R216. -/
def FFmt.overflow (F : FFmt) (rm : Rm) (neg : Bool) : Nat :=
  let toMax := F.signBit neg + F.maxFin
  if F.clamps then toMax
  else match rm with
    | .rne | .rna | .sr => F.inf neg
    | .rz => toMax
    | .ru => if neg then toMax else F.inf neg
    | .rd => if neg then F.inf neg else toMax

/-- The encoding of a datum in a format: canonical NaN, infinity, signed zero, or Round of R215 and R216. -/
def FFmt.enc (F : FFmt) (rm : Rm) (u : Nat) : FV → Nat
  | .nan => F.nan
  | .inf neg => F.inf neg
  | .fin neg m e =>
    if m = 0 then F.signBit neg
    else
      let ex := max ((m.log2 : Int) + e) F.emin
      let r := roundMag rm u neg m e (ex - F.mbits)
      let code := (ex - F.emin).toNat * 2 ^ F.mbits + r
      if F.maxFin < code then F.overflow rm neg else F.signBit neg + code

/-- The product of two data (R258). -/
def FV.mul : FV → FV → FV
  | .nan, _ => .nan
  | _, .nan => .nan
  | .inf a, .inf b => .inf (a != b)
  | .inf a, .fin b m _ => if m = 0 then .nan else .inf (a != b)
  | .fin a m _, .inf b => if m = 0 then .nan else .inf (a != b)
  | .fin a m e, .fin b n f => .fin (a != b) (m * n) (e + f)

/-- The datum with the sign inverted. -/
def FV.neg : FV → FV
  | .nan => .nan
  | .inf a => .inf (!a)
  | .fin a m e => .fin (!a) m e

/-- The least exponent of the finite terms. -/
def minExp : List FV → Int
  | [] => 0
  | [.fin _ _ e] => e
  | .fin _ _ e :: ts => min e (minExp ts)
  | _ :: ts => minExp ts

/-- A finite term as a multiple of 2^e0. -/
def FV.units (e0 : Int) : FV → Int
  | .fin neg m e => let k := ((m * 2 ^ (e - e0).toNat : Nat) : Int); if neg then -k else k
  | _ => 0

/-- The term is the given zero. -/
def FV.isZero (neg : Bool) : FV → Bool
  | .fin n m _ => m = 0 && n = neg
  | _ => false

/-- The exact sum of terms, with the specials and the sign of zero of R258 and R224. -/
def sumFV (rm : Rm) (ts : List FV) : FV :=
  if ts.any (· = .nan) || (ts.any (· = .inf true) && ts.any (· = .inf false)) then .nan
  else if ts.any (· = .inf true) then .inf true
  else if ts.any (· = .inf false) then .inf false
  else
    let e0 := minExp ts
    let s := (ts.map (FV.units e0)).foldl (· + ·) 0
    if s = 0 then
      .fin (!ts.isEmpty && (ts.all (FV.isZero true) || (rm = .rd && !ts.all (FV.isZero false)))) 0 0
    else .fin (decide (s < 0)) s.natAbs e0

/-- Comparison of two finite or infinite data by value; +0 and −0 are equal (R259). -/
def FV.lt : FV → FV → Bool
  | .nan, _ => false
  | _, .nan => false
  | .inf a, .inf b => a && !b
  | .inf a, _ => a
  | _, .inf b => !b
  | x@(.fin _ _ e), y@(.fin _ _ f) => decide (FV.units (min e f) x < FV.units (min e f) y)

/-- The conditions of fcmp (R259). -/
def FCond.holds (cc : FCond) (a b : FV) : Bool :=
  let un := a = .nan || b = .nan
  match cc with
  | .eq => !un && !a.lt b && !b.lt a
  | .ne => un || a.lt b || b.lt a
  | .lt => a.lt b
  | .le => !un && !b.lt a
  | .gt => b.lt a
  | .ge => !un && !a.lt b
  | .un => un
  | .ord => !un

/-- The sign of a finite or infinite datum. -/
def FV.isNeg : FV → Bool
  | .nan => false | .inf n => n | .fin n _ _ => n

/-- fmin and fmax on encodings: the lesser (or greater) operand unchanged, −0 below +0, NaN yields the other operand
(R258). -/
def FFmt.minMax (F : FFmt) (wantMax : Bool) (a b : Nat) : Nat :=
  let x := F.val a
  let y := F.val b
  if x = .nan then (if y = .nan then F.nan else b)
  else if y = .nan then a
  else
    let aLess := x.lt y || (!y.lt x && x.isNeg && !y.isNeg)
    if aLess = wantMax then b else a

/-- fclass of R259. -/
def FFmt.classOf (F : FFmt) (x : Nat) : Nat :=
  match F.val x with
  | .nan => 2 ^ 8
  | .inf n => if n then 2 ^ 0 else 2 ^ 7
  | .fin n m _ =>
    if m = 0 then (if n then 2 ^ 3 else 2 ^ 4)
    else if m < 2 ^ F.mbits then (if n then 2 ^ 2 else 2 ^ 5)
    else (if n then 2 ^ 1 else 2 ^ 6)

/-- Rounding to an integer (R215 with spacing 1), the zero result keeping no sign. -/
def FV.toInt (rm : Rm) (u : Nat) : FV → Int
  | .fin neg m e =>
    if m = 0 then 0 else let r := ((roundMag rm u neg m e 0 : Nat) : Int); if neg then -r else r
  | _ => 0

/-- Conversion to an integer type of W bits (R220): saturating, NaN gives 0. -/
def FV.toIntSat (sgn : Bool) (w : Nat) (rm : Rm) (u : Nat) : FV → Nat
  | .nan => 0
  | .inf neg => wrap w (if neg then minOf sgn w else maxOf sgn w)
  | x => wrap w (satTo sgn w (x.toInt rm u))

/-- The exact datum of an integer (R220). -/
def FV.ofInt (i : Int) : FV := .fin (decide (i < 0)) i.natAbs 0

/-- frnd of R261: the integral value, in the format, with the operand's sign on a zero. -/
def FFmt.rnd (F : FFmt) (rm : Rm) (u : Nat) (x : Nat) : Nat :=
  match F.val x with
  | .nan => F.nan
  | .inf n => F.inf n
  | .fin n m e =>
    if m = 0 then F.signBit n else F.enc .rz 0 (.fin n (roundMag rm u n m e 0) 0)

/-- The integer square root, by n binary digits from the top. -/
def isqrtAux : Nat → Nat → Nat → Nat
  | 0, _, r => r
  | n + 1, x, r => let c := r + 2 ^ n; isqrtAux n x (if c * c ≤ x then c else r)

/-- The integer square root. -/
def isqrt (x : Nat) : Nat := isqrtAux (x.log2 / 2 + 1) x 0

/-- The exact quotient m / n × 2^e to enough digits for every rounding, the last digit sticky (R215). -/
def quotFV (neg : Bool) (m n : Nat) (e : Int) : FV :=
  if m = 0 then .fin neg 0 0
  else
    let k := n.log2 + 130
    let x := m * 2 ^ k
    .fin neg (2 * (x / n) + (if x % n = 0 then 0 else 1)) (e - k - 1)

/-- a / b with the specials of R262. -/
def FV.div : FV → FV → FV
  | .nan, _ => .nan
  | _, .nan => .nan
  | .inf _, .inf _ => .nan
  | .inf a, .fin b _ _ => .inf (a != b)
  | .fin a _ _, .inf b => .fin (a != b) 0 0
  | .fin a m e, .fin b n f =>
    if n = 0 then (if m = 0 then .nan else .inf (a != b)) else quotFV (a != b) m n (e - f)

/-- √a with the specials of R262, to enough digits for every rounding, the last digit sticky. -/
def FV.sqrt : FV → FV
  | .nan => .nan
  | .inf n => if n then .nan else .inf false
  | .fin n m e =>
    if m = 0 then .fin n 0 0
    else if n then .nan
    else
      let odd := decide (e % 2 ≠ 0)
      let m' := if odd then 2 * m else m
      let e' := if odd then e - 1 else e
      let x := m' * 2 ^ 260
      let r := isqrt x
      .fin false (2 * r + (if r * r = x then 0 else 1)) (e' / 2 - 131)

/-! ### Special functions (R262)

Each result is a fixed function of the input that the spec does not give, within a bound that it gives. The part's own
value is Config.approx; where that value breaks the bound, the correctly rounded one stands in, so that the bound holds
whatever the part does. Reference values are computed in fixed point with 200 fraction digits. -/

/-- One in the fixed point of the reference values. -/
def fxOne : Int := ((2 ^ 200 : Nat) : Int)

/-- A finite datum in fixed point. -/
def FV.fx : FV → Int
  | .fin n m e =>
    let k := 200 + e
    let a := if 0 ≤ k then ((m * 2 ^ k.toNat : Nat) : Int) else ((m / 2 ^ (-k).toNat : Nat) : Int)
    if n then -a else a
  | _ => 0

/-- A product in fixed point. -/
def fxMul (a b : Int) : Int := a * b / fxOne

/-- The series Σ x^k / k! for k from i, given the current term. -/
def fxExpAux : Nat → Nat → Int → Int → Int
  | 0, _, _, _ => 0
  | n + 1, i, x, t => t + fxExpAux n (i + 1) x (fxMul t x / ((i + 1 : Nat) : Int))

/-- e^x in fixed point, for |x| below 1. -/
def fxExp (x : Int) : Int := fxExpAux 60 0 x fxOne

/-- atanh by its series: Σ y^(2k+1) / (2k+1). -/
def fxAtanhAux : Nat → Nat → Int → Int → Int
  | 0, _, _, _ => 0
  | n + 1, k, y2, t => t / ((2 * k + 1 : Nat) : Int) + fxAtanhAux n (k + 1) y2 (fxMul t y2)

/-- ln x in fixed point, for x in [1, 2]. -/
def fxLn (x : Int) : Int :=
  let y := (x - fxOne) * fxOne / (x + fxOne)
  2 * fxAtanhAux 70 0 (fxMul y y) y

/-- ln 2 in fixed point. -/
def fxLn2 : Int := fxLn (2 * fxOne)

/-- arctan of 1/n in fixed point. -/
def fxAtanInv : Nat → Nat → Int → Int → Int
  | 0, _, _, _ => 0
  | f + 1, k, t, n2 =>
    (if k % 2 = 0 then t else -t) / ((2 * k + 1 : Nat) : Int) + fxAtanInv f (k + 1) (t / n2) n2

/-- π in fixed point, by Machin's formula. -/
def fxPi : Int := 4 * (4 * fxAtanInv 60 0 (fxOne / 5) 25 - fxAtanInv 40 0 (fxOne / 239) 57121)

/-- The alternating series of sine (k = 1) and cosine (k = 0). -/
def fxTrigAux : Nat → Nat → Int → Int → Int
  | 0, _, _, _ => 0
  | n + 1, k, x2, t => t + fxTrigAux n (k + 2) x2 (-(fxMul t x2) / (((k + 1) * (k + 2) : Nat) : Int))

/-- sin x in fixed point, after reduction to [−π, π]. -/
def fxSin (x : Int) : Int :=
  let r := x - (2 * x + 2 * fxPi) / (4 * fxPi) * (2 * fxPi)
  fxTrigAux 60 1 (fxMul r r) r

/-- cos x in fixed point. -/
def fxCos (x : Int) : Int :=
  let r := x - (2 * x + 2 * fxPi) / (4 * fxPi) * (2 * fxPi)
  fxTrigAux 60 0 (fxMul r r) fxOne

/-- A reference value: mantissa in fixed point, and a power of two that multiplies it. -/
def Special.ref (f : Special) (x : FV) : Int × Int :=
  match f, x with
  | .exp2, x => let a := x.fx; let k := a / fxOne; (fxExp (fxMul (a - k * fxOne) fxLn2), k)
  | .log2, .fin _ m e =>
    let l := m.log2
    (((l : Int) + e) * fxOne + fxLn ((m * 2 ^ (200 - l) : Nat) : Int) * fxOne / fxLn2, 0)
  | .sin, x => (fxSin x.fx, 0)
  | .cos, x => (fxCos x.fx, 0)
  | .tanh, x =>
    let a := if x.fx < 0 then -x.fx else x.fx
    let k := 2 * a * fxOne / fxLn2 / fxOne
    -- e^(2a) = 2^k * e^r
    let er := fxExp (2 * a - k * fxLn2)
    -- far out the value lies below 1 by less than any digit shows
    let t := if 400 < k then fxOne - 1
             else (((2 ^ k.toNat : Nat) : Int) * er - fxOne) * fxOne / (((2 ^ k.toNat : Nat) : Int) * er + fxOne)
    (if x.fx < 0 then -t else t, 0)
  | _, _ => (0, 0)

/-- The reference as a datum. -/
def refFV (r : Int × Int) : FV := .fin (decide (r.1 < 0)) r.1.natAbs (r.2 - 200)

/-- The candidate encoding lies within k ulp of an exact value (R262): the spacing is that of R215 at the exact value.
Both are scaled to units of 2^e0. -/
def FFmt.within (F : FFmt) (k : Nat) (exact : FV) (absTol : Option Int) (cand : Nat) : Bool :=
  match exact, F.val cand with
  | .fin n m e, .fin n' m' e' =>
    let ex := max ((m.log2 : Int) + e) F.emin - F.mbits
    let tol : FV := .fin false k ex
    let tol2 : FV := match absTol with | some t => if t < ex + 1 then tol else .fin false 1 t | none => tol
    let e0 := min (min e e') (match tol2 with | .fin _ _ t => t | _ => 0)
    let d := (FV.units e0 (.fin n m e) - FV.units e0 (.fin n' m' e')).natAbs
    decide ((d : Int) ≤ FV.units e0 tol2)
  | .fin n m e, .inf n' => n = n' && decide (F.enc .rne 0 (.fin n m e) = F.inf n)
  | _, _ => false

/-- The part's value when it keeps the bound, else the correctly rounded one. -/
def FFmt.bounded (F : FFmt) (k : Nat) (exact : FV) (absTol : Option Int) (cand : Nat) : Nat :=
  if F.within k exact absTol cand then cand % 2 ^ F.bits else F.enc .rne 0 exact

/-- A finite datum is ±2^k for some k. -/
def FV.isPow2 : FV → Bool
  | .fin _ m _ => m ≠ 0 && m = 2 ^ m.log2
  | _ => false

/-- The datum is an integer. -/
def FV.isInt : FV → Bool
  | .fin _ m e => 0 ≤ e || m % 2 ^ (-e).toNat = 0
  | _ => false

/-- frcp of R262: specials exact; a power of two exact where representable; otherwise within 1 ulp. -/
def FFmt.rcp (F : FFmt) (x : Nat) : Nat :=
  match F.val x with
  | .nan => F.nan
  | .inf n => F.signBit n
  | .fin n m e =>
    if m = 0 then F.inf n
    else
      let ex := quotFV n 1 m (-e)
      let r := F.enc .rne 0 ex
      if (F.val x).isPow2 && F.maxFin ≥ r % 2 ^ (F.ebits + F.mbits) &&
          F.enc .rz 0 ex = r && F.enc .ru 0 ex = F.enc .rd 0 ex then r
      else F.bounded 1 ex none (Config.approx .rcp (F.bits = 64) x)

/-- frsqrt of R262. -/
def FFmt.rsqrt (F : FFmt) (x : Nat) : Nat :=
  match F.val x with
  | .nan => F.nan
  | .inf n => if n then F.nan else F.signBit false
  | .fin n m e =>
    if m = 0 then F.inf n
    else if n then F.nan
    else F.bounded 1 ((quotFV false 1 m (-e)).sqrt) none (Config.approx .rsqrt (F.bits = 64) x)

/-- The functions of one .f32 argument of R262. -/
def specialVal (f : Special) (x : Nat) : Nat :=
  let F := f32F
  let v := F.val x
  let cand := Config.approx f false x
  match f, v with
  | _, .nan => F.nan
  | .exp2, .inf n => if n then F.signBit false else F.inf false
  | .exp2, .fin n m e =>
    if v.isInt then
      -- 2^a for an integer a; |a| beyond 2^12 is far outside the format
      if 12 < (m.log2 : Int) + e then (if n then F.signBit false else F.overflow .rne false)
      else F.enc .rne 0 (.fin false 1 (v.toInt .rz 0))
    -- far below the format the bound is taken against a value that lies as near to 0
    else if 12 < (m.log2 : Int) + e then (if n then F.bounded 2 (.fin false 1 (-8000)) none cand else F.overflow .rne false)
    else F.bounded 2 (refFV (Special.ref .exp2 v)) none cand
  | .log2, .inf n => if n then F.nan else F.inf false
  | .log2, .fin n m e =>
    if m = 0 then F.inf true
    else if n then F.nan
    else if v.isPow2 then F.enc .rne 0 (FV.ofInt ((m.log2 : Int) + e))
    else
      let near := !(v.lt (.fin false 1 (-1))) && !((FV.fin false 2 0).lt v)
      F.bounded 2 (refFV (Special.ref .log2 v)) (if near then some (-22) else none) cand
  | .sin, .inf _ | .cos, .inf _ => F.nan
  | .sin, .fin n m _ =>
    if m = 0 then F.signBit n
    else if (FV.fin false 1 15).lt (.fin false m (match v with | .fin _ _ e => e | _ => 0)) then
      (match F.val cand with
       | .fin _ k e => if (FV.fin false 1 0).lt (.fin false k e) then F.signBit false else cand % 2 ^ 32
       | _ => F.signBit false)
    else F.bounded 2 (refFV (Special.ref .sin v)) (some (-22)) cand
  | .cos, .fin _ m e =>
    if (FV.fin false 1 15).lt (.fin false m e) then
      (match F.val cand with
       | .fin _ k e => if (FV.fin false 1 0).lt (.fin false k e) then F.signBit false else cand % 2 ^ 32
       | _ => F.signBit false)
    else F.bounded 2 (refFV (Special.ref .cos v)) (some (-22)) cand
  | .tanh, .inf n => F.enc .rne 0 (.fin n 1 0)
  | .tanh, .fin n m e =>
    if m = 0 then F.signBit n
    -- next to 0 the value lies nearer to 0 than a by less than any digit shows
    else if (m.log2 : Int) + e < -40 then F.bounded 2 (.fin n (m * 2 ^ 200 - 1) (e - 200)) none cand
    else F.bounded 2 (refFV (Special.ref .tanh v)) none cand
  | .rcp, _ => F.rcp x
  | .rsqrt, _ => F.rsqrt x

/-! ### Stochastic rounding (R217) -/

/-- NextSR of R217: the new state, which is also the value returned. -/
def srNext (x : BitVec 32) : BitVec 32 :=
  let a := x ^^^ (x <<< 13)
  let b := a ^^^ (a >>> 17)
  b ^^^ (b <<< 5)

/-- The state with which a group's lane or a cox starts (R217). -/
def srStart (block group n : Nat) : BitVec 32 :=
  let s := BitVec.ofNat 32 (((block * 48 + group) * 33 + n) * 0x9E3779B9 + 1)
  if s = 0 then 1 else s

/-! ### Accumulator elements (R212, R223 to R225) -/

/-- AddRound of R223 on a binary128 element and an exact block sum. -/
def addRound (acc : Nat) (s : FV) : Nat :=
  let t := sumFV .rne [b128F.val acc, s]
  match t with
  | .fin _ 0 _ => 0
  | _ => b128F.enc .rne 0 t

/-- AddSat of R225: the element and whether it saturated. -/
def addSat (acc : Nat) (s : Int) : Nat × Bool :=
  let x := sx 128 acc + s
  (wrap 128 (satTo true 128 x), decide (x ≠ satTo true 128 x))

/-- The value of an E8M0 scale (R207). -/
def e8m0Val (x : Nat) : FV := if x = 255 then .nan else .fin false 1 ((x : Int) - 127)

/-- The exact sum of the products of a K-block in float mode (R223, R224). -/
def blockSum (ps : List FV) : FV :=
  match sumFV .rne ps with
  | .fin _ 0 _ => .fin false 0 0
  | x => x

/-! ### The Kulisch accumulator (R226 to R228) -/

/-- The bits of a KA that hold state (R226). -/
def kaMask : BitVec 640 := BitVec.ofNat 640 (2 ^ 635 - 1)

/-- KA with a term added (R227). -/
def kaAddFV (ka : BitVec 640) (x : FV) : BitVec 640 :=
  match x with
  | .nan => ka ||| BitVec.ofNat 640 (2 ^ 634)
  | .inf n => ka ||| BitVec.ofNat 640 (2 ^ (if n then 633 else 632))
  | .fin n m e =>
    let k : Int := ((m * 2 ^ (e + 320).toNat : Nat) : Int)
    let v := wrap 632 ((ka.toNat % 2 ^ 632 : Nat) + (if n then -k else k))
    BitVec.ofNat 640 (ka.toNat / 2 ^ 632 * 2 ^ 632 + v)

/-- KA with an image added (R227). -/
def kaAddImage (ka im : BitVec 640) : BitVec 640 :=
  let v := (ka.toNat % 2 ^ 632 + im.toNat % 2 ^ 632) % 2 ^ 632
  let sp := (ka.toNat / 2 ^ 632 % 8) ||| (im.toNat / 2 ^ 632 % 8)
  BitVec.ofNat 640 (sp * 2 ^ 632 + v)

/-- KaRead of R228. -/
def kaRead (F : FFmt) (rm : Rm) (u : Nat) (ka : BitVec 640) : Nat :=
  let pos := ka.getLsbD 632
  let neg := ka.getLsbD 633
  if ka.getLsbD 634 || (pos && neg) then F.nan
  else if pos then F.inf false
  else if neg then F.inf true
  else
    let v := sx 632 (ka.toNat % 2 ^ 632)
    F.enc rm u (.fin (decide (v < 0)) v.natAbs (-320))

/-! ### Operations shared by atomics, reductions and collectives -/

/-- The new value of an atomic (R275) on W-bit patterns. -/
def atomNew (op : AtomOp) (t : Ty) (old b : Nat) : Nat :=
  let w := t.width
  let fl := t = .f32 || t = .f64
  match op with
  | .add => if fl then t.fmt.enc .rne 0 (sumFV .rne [t.fmt.val old, t.fmt.val b]) else (old + b) % 2 ^ w
  | .min => if fl then t.fmt.minMax false old b else if intVal t w b < intVal t w old then b else old
  | .max => if fl then t.fmt.minMax true old b else if intVal t w old < intVal t w b then b else old
  | .and => old &&& b
  | .or => old ||| b
  | .xor => old ^^^ b
  | .exch => b

/-- The reduction of a list of values, in any order (R268); the empty list gives the empty value, and a NaN alone the canonical NaN
(R204). -/
def lredVal (op : LredOp) (t : Ty) (xs : List Nat) : Nat :=
  let fl := t = .f32
  match op with
  | .add =>
    if fl then f32F.enc .rne 0 (sumFV .rne (xs.map f32F.val)) else (xs.foldl (· + ·) 0) % 2 ^ 32
  | .min =>
    if fl then (match xs with | [] => f32F.inf false | x :: ys => ys.foldl (f32F.minMax false) (f32F.minMax false x x))
    else xs.foldl (fun a b => if intVal t 32 b < intVal t 32 a then b else a) (wrap 32 (maxOf t.signed 32))
  | .max =>
    if fl then (match xs with | [] => f32F.inf true | x :: ys => ys.foldl (f32F.minMax true) (f32F.minMax true x x))
    else xs.foldl (fun a b => if intVal t 32 a < intVal t 32 b then b else a) (wrap 32 (minOf t.signed 32))
  | .and => xs.foldl (· &&& ·) (2 ^ 32 - 1)
  | .or => xs.foldl (· ||| ·) 0
  | .xor => xs.foldl (· ^^^ ·) 0

/-- Conversion between formats (R219). -/
def fconv (S D : FFmt) (rm : Rm) (u : Nat) (x : Nat) : Nat := D.enc rm u (S.val x)

/-- One step of the fold of a collective on an element (R329), in the type of the fold. -/
def collStep (op : CollOp) (ct : CollTy) (acc x : Nat) : Nat :=
  let F := match ct with | .bf16 => bf16F | .f16 => f16F | _ => f32F
  match ct, op with
  | .s32, .sum => (acc + x) % 2 ^ 32
  | .s32, .max => if sx 32 acc < sx 32 x then x else acc
  | .s32, .min => if sx 32 x < sx 32 acc then x else acc
  | .ka, _ => (kaAddImage (BitVec.ofNat 640 acc) (BitVec.ofNat 640 x)).toNat
  | _, .sum => f32F.enc .rne 0 (sumFV .rne [f32F.val acc, f32F.val x])
  | _, .max => F.minMax true acc x
  | _, .min => F.minMax false acc x

/-- The reduction of one element over the ranks in ascending order (R329). -/
def collFold (op : CollOp) (ct : CollTy) (xs : List Nat) : Nat :=
  let narrow := (ct = .bf16 || ct = .f16) && op = .sum
  let F := if ct = .bf16 then bf16F else f16F
  let ys := if narrow then xs.map (fconv F f32F .rne 0) else xs
  match ys with
  | [] => 0
  | y :: zs =>
    let r := zs.foldl (collStep op ct) y
    if narrow then fconv f32F F .rne 0 r else r

/-- The size in bytes of an element of a collective (R328). -/
def CollTy.bytes : CollTy → Nat
  | .f32 | .s32 => 4 | .bf16 | .f16 => 2 | .ka => 80

end Sys2Proof
end

