-- ==== Sys2Proof/Machine/State.lean ====
section
/-! DEFINITION. The state of the package as plain data, and the state after cold reset. Each field names the rule that
gives it. What memory, caches and directories hold is described at `MemSys`. -/

namespace Sys2Proof.Machine

/-- Why the machine stops. -/
inductive Fault where
  /-- An instruction was executed while `cur` names no thread that can issue. Raised by every instruction's meaning;
  safe: the package has no such step. -/
  | noThread
  deriving DecidableEq, Repr

/-- Why a step has no meaning. -/
inductive Refusal where
  /-- Raised by the dispatcher for an instruction that has no meaning yet; safe. -/
  | notModelled (mnemonic : String)
  /-- The named event is not possible in this state: its own rule's condition does not hold. Raised by the events;
  safe: the package takes no such step. -/
  | notEnabled (event : String)
  deriving DecidableEq, Repr

/-! ### Threads -/

/-- What a thread of the block, or a split, waits for before it can issue (R166, R171, R176, R282, R102). -/
inductive Wait where
  | none
  /-- An issued access not yet confirmed (R282). -/
  | confirm (acc : Nat)
  /-- A release wait at a scope (R102). -/
  | release (sc : Scope)
  /-- An order of R103 or R104, or a read held until its G (R96). -/
  | gate
  /-- Stopped at its reconvergence address since a PT value; the instruction there has not been looked at (R166). -/
  | atJoin (since : Nat)
  /-- The same, looked at; for join.t the PT at which it gives up, the predicate that it writes and the lanes that take part (R167,
  R253). -/
  | join (since : Nat) (giveUp : Option (Nat × Nat × Mask))
  /-- At a barrier wait, decision-queue pop or push, gang wait, rgrow, arrival-counter wait or another hold at issue. -/
  | held (why : Nat)
  deriving DecidableEq, Repr

/-- An engine-fault latch (R317). -/
structure Latch where
  cause : Cause
  qual : Nat
  level : Nat
  addr : BitVec 64
  aux : BitVec 64
  opc : Nat
  md : Nat
  imm : BitVec 32
  a : BitVec 64
  b : BitVec 64
  c : BitVec 64
  e : BitVec 64
  count : Nat
  /-- The physical line whose poison was met, for its error-log number (R64). -/
  line : Option Nat := none
  deriving DecidableEq, Repr

/-- A split (R165). A cox and a host thread have one. -/
structure Split where
  pc : BitVec 64
  mask : Mask
  j : Option (BitVec 64) := none
  wait : Wait := .none
  /-- Participants of a replay (R284); none outside a replay. -/
  replay : Option Mask := none
  /-- The token of a parked split (R371). -/
  parked : Option (BitVec 64) := none
  /-- A TMASK check is still due at this address (R157, R182). -/
  tgtDue : Bool := false
  /-- The line's flag wait has been made since the line was entered (R184), and the slot at which it was entered. -/
  inLine : Option Nat := none
  /-- Just formed by a merge at this address (R166, R253). -/
  merged : Bool := false
  /-- The fetched line from which the split issues, and its line word (R179, R180). -/
  line : Option (List Byte) := none
  lw : BitVec 32 := 0
  /-- The later of the PT of the last issue and the last PT at which the split was seen not ready (R364). -/
  last : Nat := 0
  /-- The lanes with which an ended split ended: they name the sets that it belonged to (R166). -/
  was : Mask := 0
  /-- The latched operation that the replay of a wait.ac issues again first (R341). -/
  relatch : Option Latch := none
  deriving DecidableEq, Repr

/-- An entry of the reconvergence stack (R29, R165): an open set (PC j, JOIN J, MASK M) or a pushed path, whose TMASK check may still be
due (R182). -/
structure SEnt where
  isSet : Bool
  pc : BitVec 64
  join : Option (BitVec 64)
  mask : Mask
  due : Bool := false
  deriving DecidableEq, Repr

/-- One register write of a pending result (R185). -/
inductive RW where
  | v (lane n : Nat) (x : Word32)
  | s (n : Nat) (x : Word64)
  | p (lane n : Nat) (x : Bool)
  deriving DecidableEq, Repr

/-- One update of an accumulator element that is still to be made (R288, R292, R302, R303, R305). z says that the element's
old value counts as zero. -/
inductive MatUpd where
  | set (x : Word128)
  | addF (z : Bool) (s : FV)
  | addI (z : Bool) (s : Int)
  | cvt (kd : CvtKind) (rm : Rm) (sh : BitVec 8) (u : Nat)
  deriving DecidableEq, Repr

/-- A pending variable-latency result (R184, R185): what it writes and the flag that falls. -/
structure Res where
  writes : List RW
  flag : Option Nat
  /-- A KA replacement or addition that takes effect with it (R271). -/
  ka : Option (BitVec 640) := none
  /-- Updates of accumulator elements, in order, by the key of the element (R89). -/
  mats : List (Nat × MatUpd) := []
  /-- It is a matrix-array instruction's (R288), and the tiles whose sticky bits clear when it is complete. -/
  isMat : Bool := false
  ovfClr : BitVec 8 := 0
  /-- The residency whose cells it reads (R127). -/
  rsd : Option Nat := none
  deriving DecidableEq, Repr

/-- What a pending access does with the values it reads. -/
inductive AccKind where
  | load (t : Ty)
  | store
  | atomic (t : Ty)
  | kald
  | kaaddm
  | pin
  | accOut
  deriving DecidableEq, Repr

/-- A memory instruction that has issued and whose accesses are not all returned (R282). -/
structure Acc where
  k : Nat
  pc : BitVec 64
  kind : AccKind
  /-- Destinations by lane, index descriptors applied. -/
  ds : List (Nat × Opnd)
  part : Mask
  flag : Option Nat
  /-- Requests by lane. -/
  reqs : List (Nat × Nat)
  /-- The split no longer waits for it (R282). -/
  freed : Bool := false
  /-- The pointers of the lanes, for the trap record (R370). -/
  ptrs : List (Nat × BitVec 64)
  /-- After it, the split's accesses wait for PT ≥ G of its writes (R104). -/
  sc : Bool := false
  gmax : Nat := 0
  /-- The generator of the cox once an acc.out that rounds stochastically is confirmed (R218, R304). -/
  sr : Option Word32 := none
  deriving DecidableEq, Repr

/-- A pending rgrow (R176, R246): granules asked, lanes, predicate, flag, order of arrival. -/
structure RGrow where
  want : Nat
  part : Mask
  pred : Nat
  flag : Option Nat
  since : Nat
  deriving DecidableEq, Repr

/-- A group of lanes, a cox or a host thread (R165, R169, R173, R195). Registers are sparse: an unlisted register holds
zero. -/
structure Ctx where
  stream : Stream
  blk : Nat := 0
  grp : Nat := 0
  asid : Nat := 0
  dev : Nat := 0
  /-- Lanes not yet ended (R254). -/
  alive : Mask := 0
  splits : SMap Split := []
  /-- On-chip reconvergence entries, newest first; of the spilled ones, newest first, which are sets and whose TMASK check is due
  (R29, R182). -/
  stack : List SEnt := []
  spilled : List (Bool × Bool) := []
  /-- On-chip return entries by lane, newest first, and the count of spilled ones (R28, R169). -/
  ret : SMap (List (BitVec 64)) := []
  retSp : SMap Nat := []
  /-- v registers: key 256 × lane + n. -/
  v : SMap Word32 := []
  /-- ix registers: key 4 × lane + m. -/
  ix : SMap Word32 := []
  /-- p registers as lane masks; p7 reads all ones. -/
  p : SMap Mask := []
  s : SMap Word64 := []
  /-- Completion flags (R184). -/
  flags : SMap Nat := []
  ka : BitVec 640 := 0
  gwct : Nat := 0
  /-- Arrival counters in the numbering of R281, and the engine-fault latches (R317). -/
  ac : SMap Nat := []
  latch : SMap Latch := []
  /-- Engine operations charged, by counter, in issue order (R315). -/
  eng : SMap (List Nat) := []
  /-- Stochastic-rounding states that have moved from their start (R217). -/
  sr : SMap Word32 := []
  /-- Segment granules (R174), the first of them (R428), and the group slot (R153). -/
  seg : Nat := 8
  segAt : Nat := 0
  gslot : Nat := 0
  rgrow : Option RGrow := none
  res : SMap Res := []
  accs : SMap Acc := []
  /-- Later accesses wait for the return of these accesses (R103, R104). -/
  gLoads : List Nat := []
  /-- Later accesses wait for this PT (R104). -/
  gPt : Nat := 0
  /-- Later stores, atomics, engine issues and releases wait for a release wait at this scope (R103). -/
  gRel : Option Scope := none
  dqIdx : Nat := 0
  /-- Counters of R345. -/
  ctr : SMap Nat := []
  llslot : Nat := 0
  llbase : BitVec 64 := 0
  /-- Lane-local size in KiB. -/
  llsize : Nat := 0
  /-- Unacknowledged space-0x8 writes (R109). -/
  rem8 : Nat := 0
  /-- HMODE.PRIV, HALARM, HIEN.ALARM of a host thread (R342). -/
  priv : Bool := false
  halarm : Nat := 0
  hien : Bool := false
  /-- The alarm of this HALARM has pended. -/
  alarmed : Bool := false
  start : Nat := 0
  /-- The thread issues no more: 2 STOP, 3 SWAP, 4 reset (R344, R403). -/
  halt : Nat := 0
  /-- PC of the exit that ended the thread, and the lanes that took part in it, for a posted record (R317). -/
  endPc : BitVec 64 := 0
  endMask : Mask := 0
  /-- What registers held before the results that have landed since the thread's last issue: an instruction that names a register in two
  operands may read one of them before and one after (R185). -/
  olds : List RW := []
  deriving DecidableEq, Repr

/-! ### Blocks and launches -/

/-- A numbered or gang barrier (R171, R336). -/
structure Bar where
  phase : Bool := false
  arr : Nat := 0
  count : Nat := 0
  deriving DecidableEq, Repr

/-- A node of a token tree (R148). -/
structure TNode where
  parent : Nat
  accept : Bool
  user : Nat
  token : BitVec 32
  score : BitVec 32
  deriving DecidableEq, Repr

/-- A tree register file in use (R147). -/
structure Tree where
  base : Nat := 0
  nodes : List TNode := []
  deriving DecidableEq, Repr

/-- Where a block stands (R164, R379). -/
inductive BState where
  | resident
  | saving (slot : Nat)
  | saved (slot : Nat)
  /-- Ended; its resources wait for its gang (R172). -/
  | retired
  deriving DecidableEq, Repr

/-- A block (R153, R162). -/
structure Block where
  launch : Nat
  num : Nat
  gang : Nat
  gsize : Nat
  rank : Nat
  /-- The lowest block id of the gang, which holds the gang barriers. -/
  lead : Nat
  cluster : Nat
  core : Nat
  ngrp : Nat
  gext : Nat
  vgran : Nat
  aspk : Nat
  acst : Nat
  /-- Where the grants lie in the core's buffers, in 4 KiB units and in tiles (R86). -/
  aspAt : Nat := 0
  acsAt : Nat := 0
  asid : Nat
  dev : Nat
  queue : Nat
  lindex : Nat
  /-- ASP bytes and poisoned 16-byte words (R84, R316). -/
  asp : SMap Byte := []
  aspBad : SMap Bool := []
  /-- ACS elements: key 4096 × tile + 64 × row + column (R89). -/
  acs : SMap Word128 := []
  tree : Option Tree := none
  /-- MRP without OVF, and the sticky bits (R297, R213). -/
  mrp : BitVec 128 := 0
  /-- The decision queue: entries held, oldest first, and the index of the oldest (R170). -/
  dq : List Word64 := []
  dqBase : Nat := 0
  bars : SMap Bar := []
  /-- Gang barriers, held with rank 0 (R336, R380). -/
  gbars : SMap Bar := []
  disc : Bool := false
  st : BState := .resident
  start : Nat := 0
  /-- Order of saving (R381), the draw of its image's free bytes and the PT of the save (R380). -/
  savedAt : Nat := 0
  draw : Nat := 0
  savePt : Nat := 0
  deriving DecidableEq, Repr

/-- A dependence range of a launch (R156, R358), rounded outward to 256 bytes. -/
structure Range where
  lo : Nat
  hi : Nat
  write : Bool
  deriving DecidableEq, Repr

/-- The fields of a launch record (R154). -/
structure LRec where
  format : Nat := 1
  idemp : Bool := false
  tree : Bool := false
  cint : Bool := false
  opp : Nat := 0
  nlev : Nat := 3
  gfall : Nat := 1
  asid : Nat := 0
  grid : Nat := 1
  mrowb : Nat := 0
  mcolb : Nat := 0
  mrows : Nat := 0
  mcols : Nat := 0
  /-- DOM and EXT of the levels. -/
  levels : List (Nat × Nat) := []
  coxpc : BitVec 64 := 0
  lanepc : BitVec 64 := 0
  args : BitVec 64 := 0
  compaddr : BitVec 64 := 0
  compval : BitVec 64 := 0
  llbase : BitVec 64 := 0
  llsize : Nat := 0
  vgran : Nat := 1
  acst : Nat := 0
  aspk : Nat := 0
  ranges : List (Nat × Nat) := []
  /-- A reserved field was not zero (R7). -/
  reservedSet : Bool := false
  deriving DecidableEq, Repr

/-- The claims of a rectangle launch at its home (R363): members in the order in which they are claimed, how many have granted,
those that have reported a good route check and those whose last block has retired. -/
structure Rect where
  members : List (Nat × Nat) := []
  granted : Nat := 0
  routed : List Nat := []
  done : List Nat := []
  started : Bool := false
  /-- When the claim of the next member was sent. -/
  since : Nat := 0
  /-- The routing table: for a pair of members, by their numbers, the plane and port. -/
  table : List (Nat × Nat × Nat) := []
  /-- The launch record as the claims carry it. -/
  bytes : List Byte := []
  loaded : Bool := false
  deriving DecidableEq, Repr

/-- A launch taken (R354 to R358), or the part of another home's rectangle launch that this package runs (R363). -/
structure Launch where
  queue : Nat
  lindex : Nat
  dev : Nat
  prio : Nat := 0
  record : LRec
  /-- The numbers of the blocks that this package runs: the first and how many (R158, R159). -/
  first : Nat := 0
  total : Nat := 0
  /-- Blocks placed and retired. -/
  placed : Nat := 0
  retired : Nat := 0
  /-- Blocks of a logical gang that are still to start as fallback gangs (R362). -/
  fall : Nat := 0
  /-- Gangs discarded that start again: first block and size (R382). -/
  again : List (Nat × Nat) := []
  /-- The die of each DIE unit already placed (R159), and the dies chosen for the launch (R359). -/
  dies : SMap Nat := []
  chosen : SMap Bool := []
  /-- Its signal is under way, or it has been refused or killed: nothing of it starts (R356, R383). -/
  ended : Bool := false
  /-- Mean residency of retired blocks (R378). -/
  mean : Option Nat := none
  rect : Option Rect := none
  /-- The home and its number for the launch, for a member's part. -/
  home : Option (Nat × Nat) := none
  deriving DecidableEq, Repr

/-! ### The memory system -/

/-- The cache levels (R68). -/
inductive Level where
  | ic | l1 | l2 | l3 | kvt
  deriving DecidableEq, Repr

/-- A cached copy (R69): tag, physical line, data, poison, expiry of its own lease; as a grantor, the class, written flag and latest
expiry granted (R71); the moment of its last use, in the order of uses, and its way in L3 (R69, R82). -/
structure Copy where
  lvl : Level
  unit : Nat
  asid : Nat
  va : Nat
  line : Nat := 0
  data : List Byte
  bad : Bool
  exp : Nat
  k : Nat := 4
  written : Bool := false
  gexp : Nat := 0
  /-- Writes merged into an L3 copy: completion time and writer (R80, R96). -/
  upd : List (Nat × Nat) := []
  used : Nat := 0
  way : Nat := 0
  deriving DecidableEq, Repr

/-- A directory entry (R36), with the grantor's state of R71 wherever the line's performing point is, Gprev (R95) and
the writes whose G has not passed. -/
structure Dir where
  exp : Nat := 0
  k : Nat := 4
  written : Bool := false
  /-- Owning die (0 CD0, 1 CD1, 2 host), ASID, line VA and ownership expiry E (R75). -/
  owner : Option (Nat × Nat × Nat × Nat) := none
  /-- Key id under which the owner will write the line back (R407), and the moment of its last use in the owner's L2 (R69). -/
  okey : Nat := 0
  oused : Nat := 0
  /-- The owner has written the line (R75, R428). -/
  dirty : Bool := false
  /-- The owner that was recalled last: die, ASID, line VA and PT of the recall (R78). -/
  recalled : Option (Nat × Nat × Nat × Nat) := none
  gprev : Nat := 0
  /-- Completion time and writing thread of the writes still pending (R96, R97). -/
  pend : List (Nat × Nat) := []
  deriving DecidableEq, Repr

/-- A cached translation (R24). -/
structure TEnt where
  asid : Nat
  page : Nat
  lvl : Nat
  leafPA : Nat
  pte : BitVec 64
  vdev : Nat
  exp : Nat
  deriving DecidableEq, Repr

/-- A successful translation. -/
structure Trans where
  pa : Nat
  key : Nat
  lvl : Nat
  leafPA : Nat
  pte : Nat
  vdev : Nat
  exp : Nat
  deriving DecidableEq, Repr

/-- What a request asks of its performing point. -/
inductive ReqKind where
  | load
  | store (data : List Byte)
  | atomic (op : AtomOp) (t : Ty) (data : Nat)
  | cas (w : CasW) (cmp new : Nat)
  /-- The reads and writes of an engine operation, a fill or a rebuild. -/
  | engine (op : Nat)
  | fill (key : Nat)
  /-- tier.pin and tier.unpin (R42). -/
  | pin (tier : Nat)
  | unpin
  deriving DecidableEq, Repr

/-- Where a request stands. -/
inductive ReqSt where
  | waiting
  /-- Read, but held until PT reaches G (R96, R106). -/
  | held (g : Nat) (val : Nat)
  /-- In the stalled-write window of forwarding entry f (R49). -/
  | window (f : Nat)
  /-- At the HA's ingress, in the side queue of a throttled bank (R60). -/
  | side (key : Nat)
  /-- A space-0x8 write that its target has accepted and not yet acknowledged (R109, R282). -/
  | confirmed (val g : Nat)
  | done (val g : Nat)
  | failed (c : Cause) (qual level : Nat) (aux : BitVec 64)
  deriving DecidableEq, Repr

/-- A request under way between a thread and its performing point. -/
structure Req where
  cid : Nat
  lane : Nat
  kind : ReqKind
  /-- Space selector of the access (R11), and the 56-bit VA, buffer offset or physical address. -/
  space : Nat
  va : Nat
  size : Nat
  asid : Nat
  dev : Nat
  priv : Bool
  die : Nat
  core : Nat
  /-- Gang rank of a gang-peer access (R15). -/
  rank : Nat := 0
  tc : Nat := 1
  st : ReqSt := .waiting
  /-- PT of the issue. -/
  since : Nat := 0
  /-- The translations with which the HA has confirmed a write, one for each run, by its VA (R282, R410). -/
  fixed : List (Nat × Trans) := []
  /-- Address space and VA that this package's fabric window gave an access through space 0x8 as it arrived (R420). -/
  arrived : Option (Nat × Nat) := none
  /-- The translation that it shares with the other lanes of its instruction that use its pointer (R285). -/
  via : Option Trans := none
  deriving DecidableEq, Repr

/-- Memory and its home agents. Every access to a physical line first recalls its owner (R38, R77), so one copy of each
line's latest bytes in its write order is held, in `mem`; a directory entry says who performs on the line and until
when its latest writes are hidden from other groups (R96). -/
structure MemSys where
  /-- One byte per physical address; an unlisted byte reads 0. -/
  mem : List Host.Cell := []
  /-- Poisoned lines (R63), by line number PA / 128. -/
  bad : SMap Bool := []
  /-- Key material under which a line was last written (R408): 0 is none (PLAIN), else the material's own number. -/
  mat : SMap Nat := []
  dir : SMap Dir := []
  /-- Lease floors of the tiers (R37). -/
  floors : SMap Nat := []
  /-- Watched lines: the residencies (device × 65536 + handle) that watch them (R124). -/
  watch : SMap (List Nat) := []
  copies : SMap Copy := []
  nextCopy : Nat := 0
  /-- The order of uses of cached lines (R69). -/
  uses : Nat := 0
  tlb : SMap TEnt := []
  nextT : Nat := 0
  /-- Latest translation lease issued on a leaf, by leaf PA (R51). -/
  leafExp : SMap Nat := []
  /-- Counter entries held by the HA, by PA: value and time of the first update not written back (R40). -/
  counters : SMap (BitVec 64 × Nat) := []
  reqs : SMap Req := []
  nextReq : Nat := 0
  /-- Error-log SEQ of the poison cache, by line; at most 256 (R64). -/
  poisonCache : SMap Nat := []
  /-- Corrections per controller (R62). -/
  corr : SMap Nat := []
  /-- Row activations of the window, newest first: (controller, row, device) packed; throttled (controller, bank, device)
  (R60). -/
  rows : List Nat := []
  throttle : SMap Nat := []
  /-- Requests in a throttled bank's side queue, and the last activation issued there. -/
  side : SMap (List Nat) := []
  sideAt : SMap Nat := []
  deriving DecidableEq, Repr

/-! ### Migration and pool -/

/-- The states of a forwarding entry (R46 to R51). -/
inductive FState where
  | copying | catching | committed
  deriving DecidableEq, Repr

/-- A forwarding entry of MIG (R46). -/
structure Fwd where
  src : Nat
  dst : Nat
  copied : Nat := 0
  st : FState := .copying
  dev : Nat
  asid : Nat
  va : Nat
  leafPA : Nat
  srcTier : Nat
  dstTier : Nat
  /-- A pin is attached (R42), and the pin requests that wait on this migration. -/
  pin : Bool := false
  pins : List Nat := []
  /-- Requests of pins that an unpin has detached (R42). -/
  loose : List Nat := []
  fails : Nat := 0
  /-- PT at which the catch began, at which it is tried again, and at which the entry may retire. -/
  catchAt : Nat := 0
  retryAt : Nat := 0
  retireAt : Nat := 0
  /-- Held requests in the order in which they reached the source HA (R49): request, line within the page (512 for a store to the
  leaf), whether it writes the page. -/
  window : List (Nat × Nat × Bool) := []
  status : Nat := 0
  deriving DecidableEq, Repr

/-- A hint or pin that MIG has not yet taken (R41, R42). -/
structure Hint where
  dev : Nat
  asid : Nat
  va : Nat
  tier : Nat
  /-- The pin request it serves; none for a hint. -/
  pinReq : Option Nat
  priv : Bool := true
  deriving DecidableEq, Repr

/-- A pool page fact held by this package's HA (R54 to R56). -/
structure PoolFact where
  owned : Bool
  handover : Option Nat
  seq : Nat
  deriving DecidableEq, Repr

/-- The migration engine and the pool (R41 to R57). -/
structure Mig where
  fwd : SMap Fwd := []
  hints : List Hint := []
  /-- Pin requests that wait for an entry or a migration (R42). -/
  waiting : List Hint := []
  facts : SMap PoolFact := []
  /-- Completion records of abandoned migrations that wait for ring space: device and record (R51). -/
  posts : List (Nat × List Byte) := []
  /-- The open request of POTCMD: pool page, time, and the mesh position of the owner asked (R55); requests whose reply may still
  come, each with the count of commands at its own (R56); commands written so far. -/
  potReq : Option (Nat × Nat × Nat × Nat) := none
  late : List (Nat × Nat) := []
  potCmds : Nat := 0
  /-- A POTCMD, FORCE or not, that finds no CXL port up, and when it was written (R418). -/
  potWait : Option (Bool × Nat × Nat) := none
  deriving DecidableEq, Repr

/-! ### Residencies and KV tables -/

/-- Residency states (R121). -/
inductive RState where
  | free | allocated | filling | ready | stale | dropped | rebuilding | poisoned
  deriving DecidableEq, Repr

/-- Why a residency is stale or poisoned (R121). -/
inductive RCause where
  | none | write | remap | rebuildFault | sourcePoison | cell
  deriving DecidableEq, Repr

/-- A residency (R119 to R132). The cells hold the source bytes from offset 0 (R119). -/
structure Rsd where
  st : RState := .free
  pin : Bool := false
  shard : Bool := false
  cores : Nat := 0
  vcl : Nat := 0
  nt : Nat := 0
  cause : RCause := .none
  asid : Nat := 0
  src : Nat := 0
  fillpt : Nat := 0
  eventpt : Nat := 0
  cells : SMap Byte := []
  /-- PPNs recorded for the source pages, in order (R126). -/
  ppns : List Nat := []
  /-- Order of pinning (R129). -/
  pinAt : Nat := 0
  /-- State and cause when dropped (R130). -/
  was : RState := .free
  wasCause : RCause := .none
  /-- A watched write came since the fill read, the greatest G of such writes, the first poisoned line read (R64, R132), and the
  fill's fault. -/
  wrote : Bool := false
  wroteG : Nat := 0
  badLine : Option Nat := none
  fault : Option (Cause × Nat × Nat × Nat) := none
  /-- The fill's bytes have been read. -/
  filled : Bool := false
  /-- The engine operation that charges the fill, if any (R308). -/
  op : Option Nat := none
  /-- The mirror entry has not yet been written (R121). -/
  dirtyMirror : Bool := false
  /-- A revoke waits for matrix instructions that read the cells (R127). -/
  revoke : Bool := false
  deriving DecidableEq, Repr

/-- A write of a KV update (R141, R142): bytes, or the REFC of an entry raised or lowered by an atomic; and, after a write that
quarantines a node, its index. -/
structure KvW where
  va : Nat
  bytes : List Byte
  delta : Option Bool := none
  quar : Option Nat := none
  deriving DecidableEq, Repr

/-- An update waiting at the KV update unit (R140). -/
structure KvUpd where
  cid : Nat
  k : Nat
  insert : Bool
  desc : BitVec 64
  /-- Physical line of the descriptor, which names the table. -/
  table : Nat
  seq : Nat
  lblk : Nat
  p : Nat
  asid : Nat
  /-- Its read phase is over, the writes still to come, and G of the last one performed (R140). -/
  began : Bool := false
  ws : List KvW := []
  g : Nat := 0
  /-- The request that holds its next write's place in a migration's window (R49). -/
  held : Option Nat := none
  /-- The node, by address space, descriptor and number, whose release a delete waits for that has found the quarantine full (R143). -/
  awaits : Option (Nat × BitVec 64 × Nat) := none
  deriving DecidableEq, Repr

/-- A quarantined node (R143): table's device and address space, descriptor, node index, release time. -/
structure QNode where
  dev : Nat
  asid : Nat
  desc : BitVec 64
  table : Nat
  node : Nat
  due : Nat
  /-- The node has been freed; OFREE follows once PT reaches this G. -/
  half : Option Nat := none
  /-- The request that holds its next write's place in a migration's window (R49). -/
  held : Option Nat := none
  deriving DecidableEq, Repr

/-- A lookup result kept by a KVT (R146), or a lookup in progress (R139). -/
structure KvtRes where
  core : Nat
  asid : Nat
  desc : Nat
  seq : Nat
  lblk : Nat
  p : Nat
  exp : Nat
  lines : List Nat
  deriving DecidableEq, Repr

/-- KV table hardware. -/
structure Kv where
  upds : List KvUpd := []
  quar : List QNode := []
  kvt : List KvtRes := []
  /-- When an unfinished lookup of a thread began, by thread (R139). -/
  look : SMap Nat := []
  deriving DecidableEq, Repr

/-! ### Engines and collectives -/

/-- Which engine runs an operation (R320). -/
inductive EKind where
  | cpy | cpy2d | dcx (f : DcxFmt) | srd | coll | fill
  deriving DecidableEq, Repr

/-- Progress of an engine operation (R110, R315). -/
inductive ESt where
  | running
  /-- Its writes are performed, the greatest G, and the fault to report. -/
  | written (g : Nat) (f : Option (Cause × Nat × Nat × BitVec 64))
  | counted (f : Option (Cause × Nat × Nat × BitVec 64))
  deriving DecidableEq, Repr

/-- A command of a storage read (R326). -/
structure NvCmd where
  lba : Nat
  blocks : Nat
  /-- Offset of its bytes in the destination. -/
  off : Nat
  /-- When it was submitted to the drive; none while the queue has no room. -/
  sub : Option Nat := none
  done : Bool := false
  /-- The entry of the submission queue that holds it, which is also its command identifier. -/
  slot : Nat := 0
  deriving DecidableEq, Repr

/-- An engine operation (R314 to R326). -/
structure EOp where
  kind : EKind
  blk : Nat
  cid : Nat
  cluster : Nat
  core : Nat
  dev : Nat
  asid : Nat
  ctr : Nat
  charged : List Nat
  opc : Nat
  md : Nat
  imm : BitVec 32
  a : BitVec 64
  b : BitVec 64
  c : BitVec 64
  e : BitVec 64
  /-- The second register of the signal pair (R333). -/
  e2 : BitVec 64 := 0
  st : ESt := .running
  /-- Commands of a storage read, and its channel (R326). -/
  cmds : List NvCmd := []
  chan : Nat := 0
  /-- Bytes of source or contribution read (dcx, coll). -/
  src : List Byte := []
  /-- Pieces still to be written: offset in the destination, bytes, poisoned. -/
  outq : List (Nat × List Byte × Bool) := []
  /-- The greatest G of its writes, and the bytes written (R110, R345). -/
  g : Nat := 0
  wrote : Nat := 0
  /-- A data fault met, with the offset at which it lies (R316). -/
  bad : Option (Nat × Cause × Nat × Nat × BitVec 64) := none
  /-- What its fault puts into AUX (R370), and the physical line whose poison it met (R64). -/
  aux : BitVec 64 := 0
  line : Option Nat := none
  /-- The value of a collective's signal store, once its outcome is known (R333). -/
  sigv : Option (BitVec 64) := none
  /-- The collective that the operation takes part in: communicator and sequence count. -/
  coll : Option (Nat × Nat) := none
  /-- When it was issued, and whether a participant has written its named buffer since (R112). -/
  since : Nat := 0
  spoiled : Bool := false
  deriving DecidableEq, Repr

/-- A participant's or rank 0's view of one collective (R330, R331), by device, CID and sequence count. -/
structure Coll where
  vdev : Nat
  cid : Nat
  seq : Nat
  /-- The operation, once issued here. -/
  op : Option Nat := none
  kd : CollKind := .ar
  cop : CollOp := .sum
  ct : CollTy := .f32
  members : List (Nat × Nat) := []
  rank : Nat := 0
  ne : Nat := 0
  issue : Nat := 0
  /-- DEADLINE in ticks. -/
  deadline : Nat := 0
  /-- Contributions held, by rank (R332), and what their senders' collectives are (R330); own contribution read. -/
  data : SMap (List Byte) := []
  pars : SMap CollPar := []
  readOwn : Bool := false
  /-- Ready reports held by rank 0; own report made. -/
  ready : List Nat := []
  said : Bool := false
  /-- At rank 0: what aborts the collective, not yet decided. -/
  abort : Option Nat := none
  /-- An abort request sent at the deadline. -/
  asked : Bool := false
  /-- The decision: commit, or abort with a qualifier. -/
  decided : Option (Option Nat) := none
  deriving DecidableEq, Repr

/-- The engines (R315 to R333). -/
structure Eng where
  ops : SMap EOp := []
  next : Nat := 0
  colls : List Coll := []
  /-- Sequence counts: key device × 2^32 + CID (R330). -/
  seqs : SMap Nat := []
  /-- A value of CHCFG that clears EN once the channel's commands are over (R325), by channel. -/
  chOff : SMap Word64 := []
  /-- By channel: the next entry of the submission queue, the next of the completion queue, and the phase tag that marks a new
  completion there (R326). -/
  chq : SMap (Nat × Nat × Bool) := []
  deriving DecidableEq, Repr

/-! ### Traps and pre-emption -/

/-- A trap record waiting for its release wait or for ring space (R368, R373). -/
structure Held where
  slot : Nat
  bytes : List Byte
  pt : Nat
  cid : Nat
  k : Nat
  token : BitVec 64
  deriving DecidableEq, Repr

/-- A trap window (R374): bound token and status 0 IDLE, 1 BINDING, 2 READY, 3 STALE. -/
structure TWin where
  token : BitVec 64 := 0
  stat : Nat := 0
  deriving DecidableEq, Repr

/-- What a live token names: thread, split, record, and how a replay chooses its lanes (R284, R341): the lane fault mask of a
confirmation, or the lanes that took part. -/
structure Tok where
  cid : Nat
  k : Nat
  bytes : List Byte
  fmask : Option Mask := none
  pmask : Mask := 0
  /-- The instruction was not yet looked at: a replay evaluates its guard. -/
  fetch : Bool := false
  deriving DecidableEq, Repr

/-- The trap unit (R367 to R376). -/
structure Trp where
  held : List Held := []
  nextTok : Nat := 1
  /-- Live tokens, by their number. -/
  toks : SMap Tok := []
  /-- Windows 0 to 15 of this package; another package's windows that its software has bound here from key 16 on, by row, column and
  number (R371, R375). -/
  wins : SMap TWin := []
  deriving DecidableEq, Repr

/-- Pre-emption modes (R377). -/
inductive PMode where
  | drain | save | discard
  deriving DecidableEq, Repr

/-- A pre-emption in progress on a cluster (R377, R383). -/
structure Preempt where
  dev : Nat
  mode : PMode
  since : Nat
  deriving DecidableEq, Repr

/-- Placement and pre-emption. -/
structure Sched where
  launches : SMap Launch := []
  nextLaunch : Nat := 0
  nextBlock : Nat := 0
  nextGang : Nat := 0
  /-- Take order of launches (R358). -/
  order : List Nat := []
  /-- The device that holds each cluster, and its pre-emption (R397). -/
  holder : SMap Nat := []
  pre : SMap Preempt := []
  /-- Save slots in use, by device (R380). -/
  slots : SMap (List Nat) := []
  saves : Nat := 0
  /-- Thermal ceilings of the dies (R429), and the time a die began to change its point (R359). -/
  ceil : SMap Nat := []
  /-- PT of the last fall of a die's thermal ceiling (R429). -/
  heat : SMap Nat := []
  /-- The physical line of each host queue's tail word as the scheduler has read it since EN was set, and the greatest G of the writes made
  to the line since (R355). -/
  tails : SMap (Nat × Option Nat) := []
  /-- By launch: the first moment at which its next block looked for a run of granules (R175). -/
  frag : SMap Nat := []
  /-- Windows still in force on a cluster until a PT value, after a change of CSLICE (R401). -/
  oldWin : SMap (Nat × List (Nat × Nat)) := []
  /-- The device to which another's window of a cluster has been given, and the end of that window (R398). -/
  given : SMap (Nat × Nat) := []
  /-- Last start on a cluster (R362). -/
  lastStart : SMap Nat := []
  /-- Claims granted by this package to homes (R363). -/
  claims : List RectReq := []
  /-- By priority: the queue whose launch was the last to have all its blocks placed (R361). -/
  turn : SMap Nat := []
  deriving DecidableEq, Repr

/-! ### Partition, keys, management, links -/

/-- Key modes (R406). -/
structure KeySt where
  mode : Nat := 0
  mat : Nat := 0
  deriving DecidableEq, Repr

/-- A command of a partition slot that is still BUSY (R401 to R403): the PT before which it is not DONE, and the launches and host
threads whose end it waits for. -/
structure RcJob where
  at_ : Nat := 0
  launches : List Nat := []
  threads : List Nat := []
  /-- Devices whose residencies, rings and interrupts a reset clears once those have ended (R403). -/
  resets : List Nat := []
  deriving DecidableEq, Repr

/-- An interrupt source that has pended: the PT at which it did, HTHREAD, QUEUE and DETAIL of its record, and for FAULT the slot of the
fault queue that raised it (R372, R405). -/
structure IrqAt where
  at_ : Nat
  hthr : Nat
  queue : Nat := 0
  detail : Nat := 0
  slot : Nat := 0
  deriving DecidableEq, Repr

/-- Keys, key data and the reconfiguration in progress (R399, R406, R407). -/
structure Part where
  /-- Keys other than OFF: mode and material number. -/
  keys : SMap KeySt := []
  /-- KDATA words: key device × 8 + i. -/
  kdata : SMap Word64 := []
  /-- Commands in progress, by the device of the slot (R401 to R403). -/
  rc : SMap RcJob := []
  /-- Host threads stopped whose record's writes are not yet visible: G, and whether the load of SWAP follows (R344). -/
  htDone : SMap (Nat × Bool) := []
  /-- Ring index registers whose TAIL has still to pass records: the G of each record appended, oldest first (R368,
  R405). -/
  tailAt : SMap (List Nat) := []
  /-- What the record of each interrupt source that has pended says, by device × 16 + bit (R405). -/
  ipAt : SMap IrqAt := []
  deriving DecidableEq, Repr

/-- An image that carries nothing, with its entry point at address 0. -/
def blankImage : Image := { fwseq := 0, length := 0, bodyHash := [], sigR := [], sigS := [], entry := 0, body := [] }

/-- A reply of the management port (R426): VER, CODE, STATUS, the MSEQ of its request, the result word and the payload. -/
structure MReply where
  ver : Nat := 1
  code : Nat
  status : Nat
  mseq : Nat
  res : BitVec 64 := 0
  pay : List Byte := []
  deriving DecidableEq, Repr

/-- The management controller (R422 to R428). -/
structure Mgmt where
  bootmin : Nat := 0
  /-- The image in the boot flash, if it is valid, and the image that runs. -/
  flash : Option Image := some blankImage
  run : Image := blankImage
  /-- The configuration record in flash, and the one in force (R427). -/
  cfgFlash : List Byte := []
  cfg : List Byte := []
  /-- The greatest MSEQ accepted and the reply stored for it (R426). -/
  mseq : Nat := 0
  reply : Option MReply := none
  /-- The last reply sent. -/
  sent : Option MReply := none
  /-- The command that is running: its code, its MSEQ, none from the mailbox (R425). -/
  busy : Option (Nat × Option Nat) := none
  /-- The command that is running came signed. -/
  signed : Bool := false
  /-- The MSEQs of the FREEZEs that wait for it. -/
  freezeNext : List Nat := []
  /-- The last reading of each eye-margin monitor (R430): ports 0 to 31, then the HBM4E and LPDDR6 channels. -/
  margin : SMap Nat := []
  /-- A core has been started by the boot; else the PT of the next fetch (R423). -/
  booted : Bool := true
  retryAt : Nat := 0
  deriving DecidableEq, Repr

/-- A message to another package of the pod. -/
inductive PodMsg where
  /-- A member's contribution as far as the receiver needs it, and rank 0's decision (R331, R332). -/
  | collData (c : CollId) (rank : Nat) (p : CollPar) (data : List Byte)
  | collDecision (c : CollId) (qual : Option Nat)
  /-- A ready report, and an abort request, mismatch or fault report, to rank 0 (R330, R331). -/
  | collReady (c : CollId) (rank : Nat)
  | collRequest (c : CollId) (qual : Nat)
  /-- Collective traffic refused here, to its sender (R420). -/
  | collRefused (c : CollId) (cause : Cause) (qual : Nat)
  /-- A request for a pool page, by its PPN, to the owner (R55). -/
  | handover (ppn : Nat)
  /-- A home's claim of a member, the routing table, the start, and the release of a claim (R363). -/
  | rectClaim (r : RectReq)
  | rectRoutes (id : Nat) (table : List (Nat × Nat × Nat))
  | rectStart (id : Nat)
  | rectRelease (id : Nat)
  /-- A member's answers to its home (R363). -/
  | rectAnswer (id : Nat) (refused : Option Nat)
  | rectReport (id : Nat) (good : Bool)
  | rectRetired (id : Nat)
  /-- A member's slice has ended with blocks of the launch still resident: the home kills the launch's queue (R383). -/
  | rectKill (id : Nat)
  /-- The fault interrupt of a remote server, with the PT at which it pended (R372, R405). -/
  | faultInt (vdev hthr time : Nat)
  /-- A tresume for another package's split, the binding of a window to one, its release (token 0), and a write through that window
  (R371, R375). -/
  | tresume (token : BitVec 64) (mode : Nat) (mask : Mask) (goto : BitVec 64)
  | twBind (win : Nat) (token : BitVec 64)
  | twWrite (win off : Nat) (val : BitVec 64)
  /-- The answers to another package whose window is bound to a split here: READY or STALE, and a value that it reads (R374, R375). -/
  | twState (win stat : Nat)
  | twValue (win off val : Nat)
  deriving DecidableEq, Repr

/-- Ports (R417 to R421): transmission stopped, by port × 8 + traffic class, and the PT of the last STOP. -/
structure Links where
  /-- When the last CXL port went down (R418). -/
  cxlDown : Nat := 0
  stopped : SMap Bool := []
  stopAt : SMap Nat := []
  /-- Ports that have trained since reset (R417). -/
  trained : SMap Bool := []
  /-- Since when a port's smallest eye margin has been below 16/256 UI (R430). -/
  lowAt : SMap Nat := []
  /-- The last reply sent to another package, and the PT at which it leaves (R16, R109). -/
  sent : Option (FabReply × Nat) := none
  /-- Messages that this package has sent and the fabric has not yet taken, oldest first, each with its target's row and column. -/
  out : List ((Nat × Nat) × PodMsg) := []
  deriving DecidableEq, Repr

/-- Whether the clocks run (R384), and whether the package holds state (R423, R429). -/
inductive Power where
  | run | frozen | off
  deriving DecidableEq, Repr

/-- A turn of the environment and of the choices the spec leaves free: an event of the table, the issue of one split, a
moment in which nothing happens, or what another package sends or answers. -/
inductive Turn where
  | event (i : Instr)
  | issue (cid k : Nat)
  | idle
  /-- The translation outcome of a space-0x8 access, sent back by its target before the acknowledgement (R282). -/
  | reply (id : Nat) (r : FabReply)
  /-- The fabric takes this package's oldest message. -/
  | carry
  /-- A member's answer to the claim of a rectangle launch: granted, or the refusal code (R363). -/
  | rectAnswer (l : Nat) (refused : Option Nat)
  /-- The routing table of another home's launch, and the release of a home's claim (R363). -/
  | rectRoutes (row col id : Nat) (table : List (Nat × Nat × Nat))
  | rectRelease (row col id : Nat)
  /-- A member's kill of a launch's queue arrives at its home (R383). -/
  | rectKill (l : Nat)
  /-- Another participant of a collective has written its buffer between issue and completion (R112). -/
  | collSpoil (c : CollId)
  /-- A member has refused this package's collective traffic (R420). -/
  | collRefused (c : CollId) (cause : Cause) (qual : Nat)
  /-- Another package's access to a trap window or a fault ring's HEAD; its offset lies in the trap block (R372, R375, R419). -/
  | peerTrap (f : FabAcc)
  /-- Another package's tresume of a split here (R371), and its fault interrupt for a server here (R372). -/
  | peerTresume (token : BitVec 64) (mode : Nat) (mask : Mask) (goto : BitVec 64)
  | peerFault (row col vdev hthr time : Nat)
  /-- Another package's window n, which its own software binds to a split here, or to none (token 0), writes and reads (R371, R375). -/
  | peerBind (row col n : Nat) (token : BitVec 64)
  | peerWrite (row col n off : Nat) (val : BitVec 64)
  | peerRead (row col n off : Nat)
  /-- A window bound to another package's split becomes READY or STALE (R375). -/
  | peerWindow (win stat : Nat)
  /-- An eye-margin monitor reads a new value: of a port 0 to 31, or of an HBM4E or LPDDR6 channel from 32 on (R430). -/
  | margin (monitor value : Nat)
  deriving DecidableEq, Repr

/-- The state of the package. -/
structure State where
  /-- Package time (R92). -/
  pt : Nat
  pwr : Power
  /-- MODEL: the context and split that issue. -/
  cur : Nat × Nat
  /-- MODEL: turns to come; empty when the machine proceeds by its own fixed order. -/
  agenda : List Turn
  /-- MODEL: register events that a performed access has caused and that come next (R108). -/
  todo : List Instr
  /-- MODEL: draws of free values. -/
  fresh : Nat
  /-- Host thread n at key n; block b at 128 + 64 b: its groups from there, its cox at + 63. -/
  ctxs : SMap Ctx
  blocks : SMap Block
  ms : MemSys
  /-- Registers of the system region that differ from their reset value, by offset from 0xF_0000_0000_0000 (R416). -/
  sys : SMap Word64
  mig : Mig
  /-- Residencies other than FREE: key device × 65536 + handle. -/
  rsds : SMap Rsd
  kv : Kv
  eng : Eng
  trp : Trp
  sch : Sched
  part : Part
  mgmt : Mgmt
  lnk : Links
  deriving DecidableEq, Repr

/-! ### Register reset values (R19, R66, R67, R72, R82, R133, R325, R332, R352, R360, R372, R395, R406, R417, R419, R425,
R344) -/

/-- Block offsets of R416. -/
def tierB : Nat := 0x200000
/-- Hub cache block. -/
def cacheB : Nat := 0x400000
/-- Residency control block. -/
def rsdB : Nat := 0x600000
/-- Hub engine block. -/
def engB : Nat := 0x800000
/-- Hub scheduler block. -/
def schB : Nat := 0xA00000
/-- Hub trap block. -/
def trapB : Nat := 0xC00000
/-- Hub partition block. -/
def partB : Nat := 0xE00000
/-- Fabric and ports block. -/
def fabB : Nat := 0x1000000
/-- Management mailbox. -/
def mbB : Nat := 0x1200000
/-- Host thread control block. -/
def htB : Nat := 0x1400000

/-- VCMAP word j of device 0 at reset: entries valid, entry 8j + i naming cluster 8j + i (R395). -/
def vcmapReset (j : Nat) : Nat :=
  (List.range 8).foldl (fun a i => a + (8 * j + i + 128) * 256 ^ i) 0

/-- The reset value of the register word at an offset of the system region. -/
def sysReset (off : Nat) : Word64 :=
  if off = tierB + 0x20 then 26
  else if off = tierB + 0x28 then 0x00C01000
  else if off = tierB + 0x40 then 1
  else if cacheB ≤ off ∧ off < cacheB + 0x2000 then
    let r := (off - cacheB) % 0x80
    if r < 0x40 then (if r % 16 = 0 then 0x0000FFFFFFFFFFFF else 0xFFFFFF)
    else if r = 0x40 then 0x4A0 else 0
  else if engB + 0x2000 ≤ off ∧ off < engB + 0x3000 then (if (off - engB) % 0x40 = 0x38 then 0x4000 else 0)
  else if engB + 0x1000 ≤ off ∧ off < engB + 0x1200 then 0x0101010101010101
  else if off = schB + 0x4000 ∨ off = schB + 0x4008 then 0x36
  else if trapB ≤ off ∧ off < trapB + 0x80 * 65 ∧ (off - trapB) % 0x80 = 0x20 then 0x7000493E0
  else if partB + 0x10000 ≤ off ∧ off < partB + 0x10400 then
    let r := off - partB - 0x10000
    if r = 0 then 1
    else if 0x008 ≤ r ∧ r < 0x030 then BitVec.ofNat 64 (vcmapReset ((r - 8) / 8))
    else if 0x030 ≤ r ∧ r < 0x080 then 0x0100010001000100
    else if r = 0x080 then 0xFFFFFFFFFFFFFFFF
    else if r = 0x088 then 0xFFFFFFFF
    else if r = 0x090 then 1024
    else if r = 0x098 then 7
    else if 0x100 ≤ r ∧ r < 0x300 then 0xFFFFFFFFFFFFFFFF
    else 0
  else if off = fabB then 0x3FF
  else if off = fabB + 8 then 0xB72
  else if off = htB + 0x18 then 1
  else 0

/-- The factory configuration record (R427). -/
def factoryCfg : List Byte := 0x01 :: 0x03 :: List.replicate 510 0

/-- Host thread 0 at boot: privileged, device 0, everything else of a record of zeros (R343, R423); a loaded SRSTATE of 0
is 1 (R342). -/
def bootCtx : Ctx :=
  { stream := .host, alive := 1, splits := [(0, { pc := 0, mask := 1 })], priv := true }

/-- The package right after cold reset (R92, R407, R423). -/
def State.reset : State :=
  { pt := 0, pwr := .run, cur := (0, 0), agenda := [], todo := [], fresh := 0, ctxs := [(0, bootCtx)], blocks := [],
    ms := {}, sys := [], mig := {}, rsds := [], kv := {}, eng := {}, trp := {}, sch := {},
    part := { keys := [(0, { mode := 2 })] }, mgmt := { cfg := factoryCfg, cfgFlash := factoryCfg }, lnk := {} }

/-- A register word of the system region. -/
def State.reg (s : State) (off : Nat) : Word64 := s.sys.get (sysReset off) off

/-- A register word written; writing the reset value removes the entry. -/
def State.setReg (s : State) (off : Nat) (x : Word64) : State := { s with sys := s.sys.set (sysReset off) off x }

/-- A thread. -/
def State.ctx? (s : State) (cid : Nat) : Option Ctx := s.ctxs.find? cid

/-- The thread at a key, or an ended one. -/
def State.ctx (s : State) (cid : Nat) : Ctx := (s.ctxs.find? cid).getD { stream := .host }

/-- The state with a thread replaced. -/
def State.setCtx (s : State) (cid : Nat) (c : Ctx) : State := { s with ctxs := s.ctxs.put cid c }

/-- The block at an id. -/
def State.blk? (s : State) (b : Nat) : Option Block := s.blocks.find? b

/-- The state with a block replaced. -/
def State.setBlk (s : State) (b : Nat) (x : Block) : State := { s with blocks := s.blocks.put b x }

/-- The state with the memory system replaced. -/
def State.setMs (s : State) (m : MemSys) : State := { s with ms := m }

/-- The key of a group of a block, or of its cox at 63. -/
def ctxKey (b g : Nat) : Nat := 128 + 64 * b + g

/-- The key of a block's cox. -/
def coxKey (b : Nat) : Nat := 128 + 64 * b + 63

/-- The block of a context key. -/
def blkOf (cid : Nat) : Nat := (cid - 128) / 64

end Sys2Proof.Machine
end

