-- ==== Sys2Proof/Machine/Mem.lean ====
section
/-! DEFINITION. Physical memory (R4, R18, R63, R406 to R408), the register fields of the system region that rule over it,
and the write order and visibility of a physical line (R36, R37, R71, R95, R96). -/

namespace Sys2Proof.Machine

/-- Bits [lo + n − 1 : lo] of a number. -/
def bits (x lo n : Nat) : Nat := x / 2 ^ lo % 2 ^ n

/-- One bit of a number. -/
def bitOf (x lo : Nat) : Bool := bits x lo 1 = 1

/-- A message sent to another package (R55, R331, R363, R371, R372). -/
def State.tell (s : State) (dst : Nat × Nat) (m : PodMsg) : State := { s with lnk := { s.lnk with out := s.lnk.out ++ [(dst, m)] } }

/-- A field of a register word of the system region. -/
def State.fld (s : State) (off lo n : Nat) : Nat := bits (s.reg off).toNat lo n

/-- A field written; the word's other bits are kept. -/
def State.setFld (s : State) (off lo n v : Nat) : State :=
  s.setReg off (BitVec.ofNat 64 (putBits (s.reg off).toNat lo n v))

/-- The partition slot of a device (R395). -/
def pslot (v : Nat) : Nat := partB + 0x10000 + 0x400 * v
/-- The tier slot of a device (R67). -/
def tslot (v : Nat) : Nat := tierB + 0x10000 + 0x100 * v
/-- The trap-block slot of a device, or of the platform queue at 64 (R372). -/
def fslot (v : Nat) : Nat := trapB + 0x80 * v

/-- The device is active (R393). -/
def State.active (s : State) (v : Nat) : Bool := s.fld (pslot v) 0 1 = 1
/-- Level of a device (R393). -/
def State.level (s : State) (v : Nat) : Nat := s.fld (pslot v) 1 2
/-- Parent of a device (R393). -/
def State.parent (s : State) (v : Nat) : Nat := s.fld (pslot v) 8 6
/-- Operating mode: 0 FULL, 1 DETERMINISTIC, 2 LOWLAT (R398). -/
def State.mode (s : State) (v : Nat) : Nat := s.fld (pslot v) 16 2

/-- v is a descendant of u (R393). -/
def State.descends (s : State) (v u : Nat) : Bool :=
  v ≠ u && s.active v && s.level v ≠ 0 && (s.parent v = u || (s.level v = 2 && s.parent (s.parent v) = u))

/-- The region of a physical address: 0 HBM4E, 1 LPDDR6, 2 pool, 3 reserved, 4 system (R18). -/
def region (pa : Nat) : Nat :=
  let r := pa / 2 ^ 48
  if r = 0 then 0 else if r = 1 then 1 else if r = 2 ∨ r = 3 then 2 else if r = 15 then 4 else 3

/-- The populated bytes of a tier (R18, R34, R66). -/
def State.tierBytes (s : State) (t : Nat) : Nat :=
  if t = 0 then 0x218711A0000
  else if t = 1 then 0xB2D05E0000
  else if t = 2 ∧ s.fld tierB 63 1 = 1 then s.fld tierB 8 33 * 0x10000
  else 0

/-- Base of a tier's region (R18). -/
def tierBase (t : Nat) : Nat := t * 2 ^ 48

/-- Every byte of the range lies in the populated part of a memory tier (R18, R22). -/
def State.populated (s : State) (pa n : Nat) : Bool :=
  let t := region pa
  t < 3 && pa - tierBase t + n ≤ s.tierBytes t

/-- Base and size of each block (R416). -/
def sysBlocks : List (Nat × Nat) :=
  [(0, 0x10000), (tierB, 0x20000), (cacheB, 0x2000), (rsdB, 0x1000), (engB, 0x4000), (schB, 0x8000), (trapB, 0x110000),
   (partB, 0x20000), (fabB, 0x10000), (mbB, 0x1000), (htB, 0x2000)]

/-- The offset lies in a register block. -/
def inBlock (off : Nat) : Bool := sysBlocks.any (fun b => decide (b.1 ≤ off ∧ off < b.1 + b.2))

/-- Nothing answers at a physical address: an unpopulated or reserved one, or one of the system region outside every register
block (R17, R18, R416). -/
def State.absent (s : State) (pa n : Nat) : Bool := if region pa = 4 then !inBlock (pa % 2 ^ 48) else !s.populated pa n

/-- MODE of a key: 0 OFF, 1 AES-256-XTS, 2 PLAIN (R406). -/
def State.keyMode (s : State) (k : Nat) : Nat := (SMap.get {} s.part.keys k).mode

/-- The material that a key encrypts with; 0 is none. -/
def State.keyMat (s : State) (k : Nat) : Nat := if s.keyMode k = 1 then (SMap.get {} s.part.keys k).mat else 0

/-- One byte as it was last written. -/
def MemSys.byte (m : MemSys) (pa : Nat) : Byte := SMap.get 0 m.mem pa

/-- One byte written, keeping the canonical form. -/
def MemSys.setByte (m : MemSys) (pa : Nat) (b : Byte) : MemSys := { m with mem := SMap.set 0 m.mem pa b }

/-- The 128 bytes of a line as last written. -/
def MemSys.line (m : MemSys) (l : Nat) : List Byte := (List.range 128).map (fun i => m.byte (l * 128 + i))

/-- One byte as it reads under a key (R408). -/
def State.rdByte (s : State) (key pa : Nat) : Byte :=
  let l := pa / 128
  let w := SMap.get 0 s.ms.mat l
  let r := s.keyMat key
  if w = r then s.ms.byte pa else (recrypt w r l (s.ms.line l)).getD (pa % 128) 0

/-- A run of bytes read under a key. -/
def State.rdBytes (s : State) (key pa n : Nat) : List Byte := (List.range n).map (fun i => s.rdByte key (pa + i))

/-- A little-endian number read under a key (R4). -/
def State.rd (s : State) (key pa n : Nat) : Nat := leNat (s.rdBytes key pa n)

/-- Consecutive bytes placed. -/
def putRun (m : MemSys) (pa : Nat) : List Byte → MemSys
  | [] => m
  | b :: bs => putRun (m.setByte pa b) (pa + 1) bs

/-- The bytes of a line placed, as a material encrypts them. -/
def State.putLine (s : State) (l r : Nat) (bs : List Byte) : State :=
  let m := putRun s.ms (l * 128) bs
  { s with ms := { m with mat := SMap.set 0 m.mat l r } }

/-- A line made to hold, under a material, the bytes that it reads as under it (R408). -/
def State.rekeyLine (s : State) (key l : Nat) : State :=
  if SMap.get 0 s.ms.mat l = s.keyMat key then s else s.putLine l (s.keyMat key) (s.rdBytes key (l * 128) 128)

/-- The lines that n bytes at an address touch. -/
def linesOf (pa n : Nat) : List Nat :=
  (List.range ((pa % 128 + n + 127) / 128)).map (fun i => pa / 128 + i)

/-- Bytes written under a key (R406). -/
def State.wrBytes (s : State) (key pa : Nat) (bs : List Byte) : State :=
  let s := (linesOf pa bs.length).foldl (fun s l => s.rekeyLine key l) s
  { s with ms := putRun s.ms pa bs }

/-- The line is poisoned (R63). -/
def State.poisoned (s : State) (l : Nat) : Bool := SMap.get false s.ms.bad l

/-- The poison mark of a line set or cleared. -/
def State.setPoison (s : State) (l : Nat) (b : Bool) : State := { s with ms := { s.ms with bad := SMap.set false s.ms.bad l b } }

/-! ### Write order, leases and visibility of a line -/

/-- The writer under whose name the hub's own reads and writes stand: outside every group (R113). -/
def hubW : Nat := 2 ^ 40
/-- The party of the page-table walker, which writes nothing (R113). -/
def walkW : Nat := 2 ^ 40 + 1
/-- The party under whose name a thread's access to an address stands: its group with the tag of the line, since a group sees
its own pending writes only through the tag that wrote them (R97). -/
def threadW (cid va : Nat) : Nat := cid + 2 ^ 64 * (va / 128 + 1)
/-- The party of a thread's physical accesses (R17). -/
def threadPhysW (cid : Nat) : Nat := cid + 2 ^ 64 * 2 ^ 60
/-- The party of a thread's instruction fetches, which is outside every group (R79). -/
def fetchW (cid : Nat) : Nat := 2 ^ 42 + cid
/-- The writer under whose name engine operation i writes: a party of its own (R110). -/
def engW (i : Nat) : Nat := 2 ^ 41 + i

/-- LMIN, LMAX, LDEF and FIXED of a device as its mode leaves them (R72, R398). -/
def State.leaseCfg (s : State) (v : Nat) : Nat × Nat × Nat × Bool :=
  let r := (s.reg (cacheB + 0x80 * v + 0x40)).toNat
  let lmin := bits r 0 4
  let lmax := bits r 4 4
  let ldef := bits r 8 4
  let fx := bitOf r 12
  if s.mode v = 1 then (lmin, lmax, ldef, true)
  else if s.mode v = 2 then
    let b := Nat.min lmax 4
    (Nat.min lmin b, b, Nat.min ldef b, fx)
  else (lmin, lmax, ldef, fx)

/-- The directory entry of a line; a line with none is unowned and leased until the tier's lease floor, with class LDEF
(R37, R71). -/
def State.dirOf (s : State) (v l : Nat) : Dir :=
  (s.ms.dir.find? l).getD { exp := SMap.get 0 s.ms.floors (region (l * 128)), k := (s.leaseCfg v).2.2.1 }

/-- A directory entry recorded. -/
def State.setDir (s : State) (l : Nat) (d : Dir) : State := { s with ms := { s.ms with dir := s.ms.dir.put l d } }

/-- OnRead of R71 at the performing point: the expiry granted, within the translation lease and the upper expiry. -/
def State.grantLease (s : State) (v l limit : Nat) : State × Nat :=
  let d := s.dirOf v l
  let k := if d.exp ≤ s.pt ∧ !d.written then Nat.min (d.k + 1) 10 else d.k
  let (lmin, lmax, ldef, fx) := s.leaseCfg v
  let c := if fx then ldef else Nat.max lmin (Nat.min lmax k)
  let x := Nat.min (s.pt + 64 * 2 ^ c) limit
  (s.setDir l { d with k := k, exp := Nat.max d.exp x, written := false }, x)

/-- A write is ordered on the line at this PT: OnWrite of R71, and its completion time under R95. -/
def State.orderWrite (s : State) (v writer l : Nat) : State × Nat :=
  let d := s.dirOf v l
  let k := if s.pt < d.exp ∧ !(s.leaseCfg v).2.2.2 then d.k - 1 else d.k
  let g := Nat.max s.pt (Nat.max d.exp d.gprev) + 1
  (s.setDir l { d with k := k, written := true, gprev := g,
                       pend := (g, writer) :: d.pend.filter (fun p => s.pt < p.1) }, g)

/-- The G until which a read of the line by the given party is held: the latest pending write of another party (R96,
R97). -/
def State.readHold (s : State) (reader l : Nat) : Option Nat :=
  match s.ms.dir.find? l with
  | none => none
  | some d => (d.pend.filter (fun p => s.pt < p.1 && p.2 ≠ reader)).foldl (fun a p => some (Nat.max (a.getD 0) p.1)) none

/-- Ownership of a line returned to the HA, with its bytes, which memory already holds; writes that stand behind the recall at
the L2 go to the HA (R77, R78). -/
def State.recall (s : State) (l : Nat) : State :=
  match s.ms.dir.find? l with
  | none => s
  | some d => match d.owner with
    | none => s
    | some (o, a, w, _) => s.setDir l { d with owner := none, recalled := some (o, a, w, s.pt) }

/-! ### Pages that move, and pages of the pool (R47, R53, R54) -/

/-- The forwarding entry of a page, with its number (R47). -/
def State.fwdOf (s : State) (ppn : Nat) : Option (Nat × Fwd) := List.find? (fun p => p.2.src = ppn) s.mig.fwd

/-- Where a request for a page goes: from home to home, by at most n COMMITTED entries (R47). -/
def State.pageNow (s : State) : Nat → Nat → Nat
  | 0, ppn => ppn
  | n + 1, ppn => match s.fwdOf ppn with
    | some (_, f) => if f.st = .committed then s.pageNow n f.dst else ppn
    | none => ppn

/-- Where a request for a physical address goes: to the destination once its page's entry is COMMITTED, and on from there when that page
has moved too (R47). -/
def State.routed (s : State) (pa : Nat) : Nat := s.pageNow s.mig.fwd.length (pa / 0x10000) * 0x10000 + pa % 0x10000

/-- Where a write is mirrored: its chunk has been copied and the entry is not yet COMMITTED (R47). -/
def State.mirrorOf (s : State) (pa : Nat) : Option Nat :=
  match s.fwdOf (pa / 0x10000) with
  | some (_, f) => if f.st ≠ .committed ∧ pa / 4096 % 16 < f.copied then some (f.dst * 0x10000 + pa % 0x10000) else none
  | none => none

/-- No write ownership is granted on the page's lines: a forwarding entry names it as source or, once COMMITTED, as destination
(R46, R75). -/
def State.moving (s : State) (ppn : Nat) : Bool :=
  s.mig.fwd.any (fun p => p.2.src = ppn || (p.2.dst = ppn && decide (p.2.st = .committed)))

/-- A page of the page-owner table, which is exempt from ownership (R53). -/
def State.isPot (s : State) (n : Nat) : Bool :=
  let b := s.fld (tierB + 8) 16 36
  let pages := (s.fld tierB 8 33 * 8 + 0xFFFF) / 0x10000
  let p := n + 2 ^ 33
  b ≤ p && p < b + pages

/-- The POT entry of a pool page, read uncached (R53). -/
def State.potEntry (s : State) (n : Nat) : Nat := s.rd 0 (s.fld (tierB + 8) 16 36 * 2 ^ 16 + 8 * n) 8

/-- A CXL port is up (R417, R418). -/
def State.cxlUp (s : State) : Bool := (List.range 8).any (fun i => s.fld (fabB + 0x180 + 8 * i) 0 1 = 1)

/-- No CXL port has been up for LTMO (R417, R418). -/
def State.cxlLost (s : State) : Bool := !s.cxlUp && decide (s.lnk.cxlDown + s.fld (fabB + 8) 0 32 * 1024 ≤ s.pt)

/-- What the HA says to a request for a physical address before it performs it (R54, R66, R418). -/
inductive PoolSays where
  | serve
  /-- PAGE ABSENT: the pool is disabled, or smaller (R18, R66). -/
  | absent
  /-- It waits: no port is up, or the page is being handed over. -/
  | wait
  /-- No port has been up for LTMO: an uncorrectable error of the line (R418). -/
  | lost
  /-- MIGR OWNER, with OWNER and SEQ of the POT. -/
  | other (aux : BitVec 64)
  deriving DecidableEq, Repr

/-- What stops a request for a pool page at the HA: no port up, a handover, or a page that this package does not own (R54,
R418). DESIGN CHOICE (log entry 70): a request for a page in HANDOVER waits, as R54 and R55 have it, where R75 has the HA perform it
without ownership. -/
def State.poolSays (s : State) (pa : Nat) : PoolSays :=
  if region pa ≠ 2 then .serve
  else if !s.populated pa 1 then .absent
  else
    let n := (pa - tierBase 2) / 0x10000
    let other : PoolSays := let e := s.potEntry n; .other (BitVec.ofNat 64 (bits e 0 4 + bits e 16 48 * 2 ^ 4))
    if !s.cxlUp then (if s.cxlLost || s.poisoned (pa / 128) then .lost else .wait)
    else if s.isPot n then .serve
    else match s.mig.facts.find? n with
      | some f => if f.handover.isSome then .wait else if f.owned then .serve else other
      | none => other

/-! ### Physical reads and writes of the hub (key 0) -/

/-- The latest G for which a party's read of n bytes by physical address must wait. -/
def State.holdFor (s : State) (who pa n : Nat) : Option Nat :=
  (linesOf (s.routed pa) n).foldl (fun a l => match s.readHold who l with
    | none => a | some g => some (Nat.max (a.getD 0) g)) none

/-- The latest G for which a hub read of n bytes must wait. -/
def State.physHold (s : State) (pa n : Nat) : Option Nat := s.holdFor hubW pa n

/-- The latest G for which the walker must wait (R113): it stands outside every group, the hub's own among them. -/
def State.walkHold (s : State) (pa n : Nat) : Option Nat := s.holdFor walkW pa n

/-- A read by the hub or by hardware with key 0: the bytes are the latest, from where the page stands (R47). A pool page that the
HA does not serve gives zeros (R54). -/
def State.physRd (s : State) (pa n : Nat) : Nat := if s.poolSays pa = .serve then s.rd 0 (s.routed pa) n else 0

/-- The owners of the lines that a physical read touches recalled (R38, R77). -/
def State.recallRange (rc : State → Nat → State) (s : State) (pa n : Nat) : State := (linesOf (s.routed pa) n).foldl rc s

/-- A run of bytes cut where lines end, by the number of lines. -/
def linePieces : Nat → Nat → List Byte → List (Nat × List Byte)
  | 0, _, _ => []
  | n + 1, pa, bs => (pa, bs.take (128 - pa % 128)) :: linePieces n (pa + (128 - pa % 128)) (bs.drop (128 - pa % 128))

/-- The bytes of one line written with key 0 where the page stands, and mirrored (R47, R74). -/
def State.putPiece (s : State) (pa : Nat) (bs : List Byte) : State × Nat :=
  let s := s.wrBytes 0 (s.routed pa) bs
  let s := match s.mirrorOf (s.routed pa) with | some d => s.wrBytes 0 d bs | none => s
  s.orderWrite 0 hubW (s.routed pa / 128)

/-- A write by the hub with key 0, performed at the HA after owners are recalled (R38, R74): the state and the greatest G. A range
that does not exist, or that lies in a pool page which the HA does not serve, takes no bytes (R54). No residency's watch sees it. -/
def State.putQuiet (rc : State → Nat → State) (s : State) (pa : Nat) (bs : List Byte) : State × Nat :=
  if !s.populated pa bs.length || decide (s.poolSays pa ≠ .serve) then (s, s.pt) else
  let s := s.recallRange rc pa bs.length
  (linePieces (linesOf pa bs.length).length pa bs).foldl (fun r p =>
    let (s', g) := r.1.putPiece p.1 p.2; (s', Nat.max r.2 g)) (s, 0)

/-- A write to a watched line makes residency h stale, or is remembered for the end of its fill (R122, R124): EVENTPT is G of the
write, once the residency becomes stale for it (R121). DEDUCED (log entry 71): a write to a line that a rebuild has not yet read
again ends the rebuild STALE too. -/
def Rsd.seeWrite (r : Rsd) (g : Nat) : Rsd :=
  match r.st with
  | .ready => { r with st := .stale, cause := .write, eventpt := g, wroteG := g, dirtyMirror := true }
  | .filling | .rebuilding => { r with wrote := true, wroteG := Nat.max r.wroteG g }
  | .dropped => { r with cause := .write, wroteG := Nat.max r.wroteG g, dirtyMirror := true }
  | _ => r

/-- The notice of a write to a physical line: to the residencies and to the queues whose tail word lies there (R124, R125, R355). -/
def State.watchNotice (s : State) (l g : Nat) : State :=
  { s with
    rsds := (SMap.get [] s.ms.watch l).foldl (fun m k =>
      match m.find? k with | some r => m.put k (r.seeWrite g) | none => m) s.rsds,
    sch := { s.sch with tails := s.sch.tails.map (fun p => if p.2.1 = l then (p.1, (l, some (Nat.max g (p.2.2.getD 0)))) else p) } }

/-- The notices of a write of n bytes by the hub (R124). -/
def State.noticeRange (s : State) (pa n g : Nat) : State := (linesOf (s.routed pa) n).foldl (fun s l => s.watchNotice l g) s

/-- A record of a ring written (R66): residencies' watches see it. -/
def State.ringWr (s : State) (pa : Nat) (bs : List Byte) : State × Nat :=
  let (s, g) := s.putQuiet State.recall pa bs
  (s.noticeRange pa bs.length g, g)

end Sys2Proof.Machine
end

