-- ==== Sys2Proof/Machine/Hub.lean ====
section
/-! DEFINITION. What the hub writes for software: rings (R66), interrupts (R404, R405), the error log and poison (R62 to
R65), access counters (R39, R40, R43) and the dirty-page log (R58, R59). -/

namespace Sys2Proof.Machine

/-- SIZE and BASE of a ring base register; none when the ring is disabled (R66). -/
def State.ring (s : State) (bOff : Nat) : Option (Nat × Nat) :=
  let r := (s.reg bOff).toNat
  let sz := bits r 0 6
  if 6 ≤ sz ∧ sz ≤ 21 ∧ bits r 6 6 = 0 ∧ bits r 52 12 = 0 then some (sz, bits r 12 40 * 4096) else none

/-- Records appended behind TAIL that it has still to pass. -/
def State.tailPend (s : State) (iOff : Nat) : List Nat := SMap.get [] s.part.tailAt iOff

/-- The next entry the hub fills, counting the records TAIL has still to pass. -/
def State.fillAt (s : State) (iOff : Nat) : Nat := (s.fld iOff 32 22 + (s.tailPend iOff).length) % 2 ^ 22

/-- Whether a ring that the hub fills has no room (R66); a disabled one behaves as full. -/
def State.ringFull (s : State) (bOff iOff : Nat) : Bool :=
  match s.ring bOff with
  | none => true
  | some (sz, _) => (s.fillAt iOff + 2 ^ 22 - s.fld iOff 0 22) % 2 ^ 22 ≥ 2 ^ sz

/-- A record placed at the next entry of a ring with room: the state and G of its write. TAIL has not yet moved. -/
def State.ringPut (s : State) (bOff iOff : Nat) (rcd : List Byte) : State × Nat :=
  match s.ring bOff with
  | none => (s, s.pt)
  | some (sz, base) => s.ringWr (base + s.fillAt iOff % 2 ^ sz * rcd.length) rcd

/-- TAIL advanced by one. -/
def State.tailUp (s : State) (iOff : Nat) : State := s.setFld iOff 32 22 ((s.fld iOff 32 22 + 1) % 2 ^ 22)

/-- TAIL to be advanced once PT reaches g (R368, R405). -/
def State.tailLater (s : State) (iOff g : Nat) : State :=
  { s with part := { s.part with tailAt := SMap.set [] s.part.tailAt iOff (s.tailPend iOff ++ [g]) } }

/-! ### Interrupts -/

/-- The interrupt record of R405. -/
def intRec (v bit hthr queue detail time : Nat) : List Byte :=
  leBytes 16 (bit + v * 2 ^ 8 + hthr * 2 ^ 16 + queue * 2 ^ 24 + detail * 2 ^ 32 + time * 2 ^ 64)

/-- A record appended to a device's interrupt ring, or its loss counted (R405). -/
def State.intAppend (s : State) (v : Nat) (rcd : List Byte) : State :=
  let b := pslot v + 0x390
  let i := pslot v + 0x398
  if s.ringFull b i then s.setFld (pslot v + 0x3A0) 0 16 (Nat.min (s.fld (pslot v + 0x3A0) 0 16 + 1) 0xFFFF)
  else let (s, g) := s.ringPut b i rcd; s.tailLater i g

/-- The record of a pending and enabled source: appended to the device's ring, or, for FAULT with a remote server, carried to that
package (R372, R405). -/
def State.intSend (s : State) (v bit : Nat) (a : IrqAt) : State :=
  let f := fslot a.slot + 0x10
  if bit = 0 ∧ s.fld f 1 1 = 1 then s.tell (s.fld f 15 5, s.fld f 20 5) (.faultInt v a.hthr a.at_)
  else s.intAppend v (intRec v bit a.hthr a.queue a.detail a.at_)

/-- An interrupt source of a device becomes pending (R404, R405); for FAULT, by the fault queue of a slot. -/
def State.interrupt (s : State) (v bit hthr queue detail : Nat) (slot : Nat := 0) : State :=
  if s.fld (pslot v + 0x388) bit 1 = 1 then s
  else
    let a : IrqAt := { at_ := s.pt, hthr := hthr, queue := queue, detail := detail, slot := slot }
    let s := s.setFld (pslot v + 0x388) bit 1 1
    let s := { s with part := { s.part with ipAt := s.part.ipAt.put (v * 16 + bit) a } }
    if s.fld (pslot v + 0x380) bit 1 = 1 then s.intSend v bit a else s

/-- FAULT pends while a fault queue with a server holds records (R372, R404); the platform queue is device 0's. -/
def State.faultIrq (s : State) (q : Nat) : State :=
  let f := fslot q
  if s.fld (f + 8) 0 22 ≠ s.fld (f + 8) 32 22 ∧ s.fld (f + 0x10) 0 1 = 1
  then s.interrupt (if q = 64 then 0 else q) 0 (s.fld (f + 0x10) 8 7) 0 0 q else s

/-- MIGDONE pends while the completion ring holds records (R404). -/
def State.migIrq (s : State) (v : Nat) : State :=
  if s.fld (tslot v + 0x58) 0 22 ≠ s.fld (tslot v + 0x58) 32 22 then s.interrupt v 5 0x7F 0 0 else s

/-- The platform management interrupt (R64). -/
def State.pmi (s : State) : State := s.interrupt 0 8 0x7F 0 0

/-- TAILs move past the records whose G has come, and fault interrupts follow (R368, R405). -/
def State.settleTails (s : State) : State :=
  s.part.tailAt.foldl (fun s p =>
    let ripe := p.2.takeWhile (· ≤ s.pt)
    if ripe = [] then s
    else
      let s := { s with part := { s.part with tailAt := SMap.set [] s.part.tailAt p.1 (p.2.drop ripe.length) } }
      let s := s.setFld p.1 32 22 ((s.fld p.1 32 22 + ripe.length) % 2 ^ 22)
      if trapB ≤ p.1 ∧ p.1 < trapB + 0x80 * 65 then s.faultIrq ((p.1 - trapB) / 0x80) else s) s

/-! ### The error log -/

/-- An error-log entry written, or its loss counted; SEQ advances either way (R64, R65). -/
def State.errorLog (s : State) (pa cls vdev : Nat) : State × Nat :=
  let seq := (s.reg (tierB + 0x40)).toNat
  let rcd := leBytes 32 (seq + s.pt * 2 ^ 64 + pa / 128 * 128 * 2 ^ 128 + cls * 2 ^ 180 + region pa % 4 * 2 ^ 184
    + vdev % 128 * 2 ^ 186)
  let s :=
    if s.ringFull (tierB + 0x30) (tierB + 0x38) then
      s.setReg (tierB + 0x48) (BitVec.ofNat 64 ((s.reg (tierB + 0x48)).toNat + 1))
    else (s.ringPut (tierB + 0x30) (tierB + 0x38) rcd).1.tailUp (tierB + 0x38)
  (s.setReg (tierB + 0x40) (BitVec.ofNat 64 (seq + 1)), seq)

/-- The least key among the entries with the least value. -/
def oldestKey : SMap Nat → Option (Nat × Nat)
  | [] => none
  | (k, v) :: m => match oldestKey m with
    | none => some (k, v)
    | some (k', v') => if v ≤ v' then some (k, v) else some (k', v')

/-- A line's first detection of an uncorrectable error: the line is poisoned, logged, remembered in the HA's cache of 256
lines and the PMI raised (R63, R64, R407). DESIGN CHOICE (log entry 73): a full cache drops the line with the least SEQ. -/
def State.poisonLine (s : State) (pa cls vdev : Nat) : State :=
  let s := s.setPoison (pa / 128) true
  let (s, seq) := s.errorLog pa cls vdev
  let pc := s.ms.poisonCache
  let pc := if 256 ≤ pc.length ∧ pc.find? (pa / 128) = none then
      (match oldestKey pc with | some (k, _) => pc.erase k | none => pc) else pc
  { s with ms := { s.ms with poisonCache := pc.put (pa / 128) seq } }.pmi

/-- The error-log number that a POISON trap on the line carries (R64). -/
def State.poisonSeq (s : State) (pa : Nat) : Nat := SMap.get 0 s.ms.poisonCache (pa / 128)

/-- An L2's write-back (R77): ownership and bytes return to the HA; one under a key that is OFF fails and poisons the line (R407). -/
def State.writeBack (s : State) (l : Nat) : State :=
  match s.ms.dir.find? l with
  | none => s
  | some d => match d.owner with
    | none => s
    | some _ =>
      let s := s.recall l
      if s.keyMode d.okey = 0 ∧ !s.poisoned l then s.poisonLine (l * 128) 6 0x7F else s

/-- An L2 gives up a line of itself (R77): its bytes go back, and no recall stands before the writes that wait there. -/
def State.letGo (s : State) (l : Nat) : State :=
  let s := s.writeBack l
  match s.ms.dir.find? l with | some d => s.setDir l { d with recalled := none } | none => s

/-- A write by the hub that no residency's watch sees (R124: accessed and dirty bits). -/
def State.physWrQuiet (s : State) (pa : Nat) (bs : List Byte) : State × Nat := s.putQuiet State.writeBack pa bs

/-- A write by the hub with key 0 (R66, R74), seen by residencies' watches: the state and the greatest G. -/
def State.physWr (s : State) (pa : Nat) (bs : List Byte) : State × Nat :=
  let (s, g) := s.physWrQuiet pa bs
  (s.noticeRange pa bs.length g, g)

/-! ### Access counters -/

/-- CountAccess of R40 on a counter entry. -/
def countVal (pt decay e : Nat) (rd wr : Bool) : Nat :=
  let ep := pt / 2 ^ decay % 2 ^ 40
  let sh := Nat.min ((ep + 2 ^ 40 - bits e 24 40) % 2 ^ 40) 12
  Nat.min (bits e 0 12 / 2 ^ sh + (if rd then 1 else 0)) 4095
    + Nat.min (bits e 12 12 / 2 ^ sh + (if wr then 1 else 0)) 4095 * 2 ^ 12 + ep * 2 ^ 24

/-- A request served on a device's behalf is counted, once per line (R39, R40), and an automatic hint may follow (R43);
the leaf is that of the request's translation, none for a physical access. -/
def State.count (s : State) (v pa : Nat) (rd wr : Bool) (leaf : Option (Nat × Nat × Nat × Nat)) : State :=
  let t := region pa
  let ctb := tslot v + 0x60 + 16 * t
  let first := s.fld (ctb + 8) 0 36
  let ppn := pa / 0x10000
  if t ≥ 3 ∨ s.fld ctb 0 1 = 0 ∨ ppn < first ∨ first + s.fld (ctb + 8) 36 28 ≤ ppn then s
  else
    let eA := s.fld ctb 12 40 * 4096 + 8 * (ppn - first)
    if !s.populated eA 8 then ((s.setFld ctb 0 1 0).errorLog eA 5 v).1
    else
      let s := if (s.ms.counters.find? eA).isSome then s else s.recallRange State.writeBack eA 8
      let cur := match s.ms.counters.find? eA with | some (x, _) => x.toNat | none => s.physRd eA 8
      let since := match s.ms.counters.find? eA with | some (_, n) => n | none => s.pt
      let e := countVal s.pt (s.fld (tierB + 0x20) 0 6) cur rd wr
      let s := { s with ms := { s.ms with counters := s.ms.counters.put eA (BitVec.ofNat 64 e, since) } }
      match leaf with
      | some (asid, va, lvl, pte) =>
        let pol := tslot v + 0x18
        if s.fld pol 0 1 = 1 ∧ s.mode v ≠ 1 ∧ lvl = 4 ∧ !bitOf pte 7 ∧ !bitOf pte 8 ∧ bits pte 9 2 ≠ bits pte 11 2
            ∧ s.fld pol 16 13 ≤ bits e 0 12 + bits e 12 12 then
          { s with mig := { s.mig with hints := s.mig.hints ++
              [{ dev := v, asid := asid, va := va, tier := bits pte 11 2, pinReq := none }] } }
        else s
      | none => s

/-! ### The dirty-page log -/

/-- An atomic of the hub on a byte can be performed (R54, R63): its memory exists, its HA serves it, and its line is not poisoned. -/
def State.canSet (s : State) (pa : Nat) : Bool :=
  s.populated pa 1 && decide (s.poolSays pa = .serve) && !s.poisoned (s.routed pa / 128)

/-- Bits of the coarse bitmap set, one for each 2 MiB (R59); false when a write fails. -/
def State.bitmapSet (s : State) (v : Nat) : Nat → Nat → State × Bool
  | 0, _ => (s, true)
  | n + 1, k =>
    let eA := s.fld (tslot v + 0xA8) 21 31 * 2 ^ 21 + k / 8
    if !s.canSet eA then (s, false)
    else
      let s := s.recallRange State.writeBack eA 1
      ((s.physWr eA [BitVec.ofNat 8 ((s.physRd eA 1) ||| 2 ^ (k % 8))]).1).bitmapSet v n (k + 1)

/-- An append in COARSE mode (R59). -/
def State.coarse (s : State) (v pa size : Nat) : State :=
  let (s, ok) := s.bitmapSet v (if size = 2 then 512 else 1) (pa / 2 ^ 21 % 2 ^ 29)
  if ok then s
  else
    let s := s.setFld (tslot v + 0xA0) 0 2 3
    ((s.errorLog (s.fld (tslot v + 0xA8) 21 31 * 2 ^ 21) 4 v).1).interrupt v 3 0x7F 0 0

/-- A dirty-page entry of a device: SIZE 0 64 KiB, 1 2 MiB, 2 1 GiB (R58, R59). -/
def State.dirtyLog (s : State) (v pa size : Nat) (migdst : Bool) : State :=
  let ctl := tslot v + 0xA0
  let mode := s.fld ctl 0 2
  if mode = 1 then
    let b := tslot v + 0x90
    if s.fld b 0 6 = 16 ∧ !s.ringFull b (b + 8) then
      let rcd := leBytes 8 (size + (if migdst then 4 else 0) + pa / 0x10000 * 2 ^ 16 + s.fld ctl 4 12 * 2 ^ 52)
      (s.ringPut b (b + 8) rcd).1.tailUp (b + 8)
    else ((s.setFld ctl 0 2 2).interrupt v 3 0x7F 0 0).coarse v pa size
  else if mode = 2 then s.coarse v pa size
  else s

end Sys2Proof.Machine
end

