-- ==== Sys2Proof/Machine/Walk.lean ====
section
/-! DEFINITION. Translation (R19 to R25, R113): descriptors, the five-level walk, its checks in order, the cached walk
results and the accessed and dirty bits. -/

namespace Sys2Proof.Machine

/-- The kinds of access that a walk checks (R23). -/
inductive Akind where
  | load | store | atomic | fetch
  deriving DecidableEq, Repr

/-- What a translation comes to: a physical address, a fault with qualifier, level and AUX, or a wait for a PT value because a
table entry's latest write is still hidden (R96, R113); 0 where no PT value ends the wait (R54). -/
inductive Tres where
  | ok (t : Trans)
  | fault (c : Cause) (qual level : Nat) (aux : BitVec 64)
  | hold (g : Nat)
  deriving DecidableEq, Repr

/-- PAGE and PERM qualifiers (R33). -/
def qNotValid : Nat := 0
/-- MALFORMED (R33). -/
def qMalformed : Nat := 1
/-- ABSENT (R33). -/
def qAbsent : Nat := 2
/-- KIND (R33). -/
def qKind : Nat := 0
/-- PRIV (R33). -/
def qPriv : Nat := 1
/-- KEY (R33). -/
def qKey : Nat := 2
/-- GRANT (R33). -/
def qGrant : Nat := 3

/-- The REMOTE bit of a qualifier (R33). -/
def remote (q : Nat) : Nat := q % 128 + 128

/-- The index of a level (R20). -/
def walkIndex (va lvl : Nat) : Nat :=
  match lvl with
  | 0 => bits va 48 8 | 1 => bits va 39 9 | 2 => bits va 30 9 | 3 => bits va 21 9 | _ => bits va 16 5

/-- The alignment in bytes of the table of a level (R20). -/
def tableAlign (lvl : Nat) : Nat := if lvl = 0 then 2048 else if lvl = 4 then 256 else 4096

/-- Bytes that a leaf of a level maps (R20). -/
def pageBytes (lvl : Nat) : Nat := if lvl = 4 then 2 ^ 16 else if lvl = 3 then 2 ^ 21 else 2 ^ 30

/-- SIZE code of a leaf (R58). -/
def sizeCode (lvl : Nat) : Nat := 4 - lvl

/-- The page has a forwarding entry of a migration not yet committed (R22, R46). -/
def State.migrating (s : State) (ppn : Nat) : Bool := s.mig.fwd.any (fun f => f.2.src = ppn && f.2.st ≠ .committed)

/-- The entry is a leaf (R21). -/
def isLeaf (e : Nat) : Bool := bits e 1 3 ≠ 0

/-- The constraints of R22 on an entry with V = 1. -/
def State.entryOk (s : State) (e lvl : Nat) : Bool :=
  if isLeaf e then
    2 ≤ lvl && !(bits e 1 1 = 0 && bits e 2 1 = 1) && bits e 9 2 ≠ 3 && bits e 11 2 ≠ 3
      && bitOf e (13 + bits e 9 2) && bitOf e (13 + bits e 11 2)
      && region (bits e 16 36 * 2 ^ 16) = bits e 9 2
      && bits e 16 36 % (pageBytes lvl / 2 ^ 16) = 0
      && (!bitOf e 8 || s.migrating (bits e 16 36))
  else
    lvl < 4 && bits e 4 4 = 0 && bits e 52 12 = 0 && bits e 8 44 * 256 % tableAlign (lvl + 1) = 0

/-- KeyAssigned of R394. -/
def State.keyAssigned (s : State) (v k : Nat) : Bool :=
  s.fld (pslot v + 0x100 + 8 * (k / 64)) (k % 64) 1 = 1 && s.keyMode k ≠ 0

/-- Granted of R394. -/
def State.granted (s : State) (v ppn : Nat) : Bool :=
  v = 0 || (List.range 16).any (fun g =>
    let o := pslot v + 0x300 + 8 * g
    s.fld o 0 36 ≤ ppn && ppn < s.fld o 0 36 + s.fld o 36 28)

/-- The kind and privilege checks, the first two of a walk (R23). -/
def kindFault (e lvl : Nat) (k : Akind) (priv : Bool) : Option (Nat × Nat) :=
  let r := bitOf e 1
  let w := bitOf e 2
  let bad := match k with | .load => !r | .store => !w | .atomic => !(r && w) | .fetch => !bitOf e 3
  if bad then some (qKind, lvl)
  else if !bitOf e 4 && !priv then some (qPriv, lvl)
  else none

/-- The kind, privilege, key and grant checks of a walk, in order (R23). -/
def State.permFault (s : State) (v e lvl : Nat) (k : Akind) (priv : Bool) : Option (Nat × Nat) :=
  match kindFault e lvl k priv with
  | some f => some f
  | none =>
    if !s.keyAssigned v (bits e 52 12) then some (qKey, lvl)
    else if !s.granted v (bits e 16 36) then some (qGrant, lvl)
    else none

/-- The level at which a walk ends, with the entry's address and value, or its fault, its wait, or the owner of the pool page that
holds a table (R54). -/
inductive Wres where
  | leaf (lvl eA e : Nat)
  | fault (qual level : Nat)
  | hold (g : Nat)
  | owner (lvl : Nat) (aux : BitVec 64)
  deriving DecidableEq, Repr

/-- The levels of the walk from a table (R23), by fuel. A table in a pool page stands under R54. DESIGN CHOICE (log entry 72): a walk
reads an entry in a poisoned line as it stands, and one at an address that does not exist as 0. -/
def State.walkFrom (s : State) (va : Nat) : Nat → Nat → Nat → Wres
  | 0, _, lvl => .fault qMalformed lvl
  | n + 1, t, lvl =>
    let eA := t + walkIndex va lvl * 8
    match s.poolSays eA, s.walkHold eA 8 with
    | .wait, _ => .hold 0
    | .absent, _ => .fault qNotValid lvl
    | .other aux, _ => .owner lvl aux
    | .serve, some g | .lost, some g => .hold g
    | .serve, none | .lost, none =>
      let e := s.physRd eA 8
      if e % 2 = 0 then .fault qNotValid lvl
      else if !s.entryOk e lvl then .fault qMalformed lvl
      else if isLeaf e then .leaf lvl eA e
      else s.walkFrom va n (bits e 8 44 * 256) (lvl + 1)

/-- The addresses of the entries that the walk reads. -/
def State.walkReads (s : State) (va : Nat) : Nat → Nat → Nat → List Nat
  | 0, _, _ => []
  | n + 1, t, lvl =>
    let eA := t + walkIndex va lvl * 8
    let e := s.physRd eA 8
    eA :: (if e % 2 = 0 ∨ isLeaf e then [] else s.walkReads va n (bits e 8 44 * 256) (lvl + 1))

/-- The descriptor of an address space (R19). -/
def State.asDesc (s : State) (asid : Nat) : Nat := s.physRd (s.fld 0 19 33 * 2 ^ 19 + asid * 8) 8

/-- A descriptor's reserved bits are clear (R19). -/
def descOk (d : Nat) : Bool := bits d 1 7 = 0 && bits d 14 2 = 0 && bits d 57 7 = 0

/-- A is set on first use, D on the first store or atomic, as one compare-and-set at the entry's HA; a D that becomes set
is logged (R25, R58). -/
def State.setAD (s : State) (v eA e lvl : Nat) (k : Akind) : State × Nat :=
  let d := k = .store || k = .atomic
  let e' := e ||| 0x20 ||| (if d then 0x40 else 0)
  if e' = e then (s, e)
  else
    let s := if d && !bitOf e 6 then s.dirtyLog v (bits e 16 36 * 2 ^ 16) (sizeCode lvl) false else s
    ((s.physWrQuiet eA (leBytes 8 e')).1, e')

/-- Offset within a page. -/
def pageOff (va lvl : Nat) : Nat := va % pageBytes lvl

/-- The descriptor's address (R19). -/
def State.descAt (s : State) (asid : Nat) : Nat := s.fld 0 19 33 * 2 ^ 19 + asid * 8

/-- What the descriptor and the tables give for an access (R23), without the accessed and dirty bits and without a lease: the check
order of the walk. -/
def State.look (s : State) (asid va : Nat) (k : Akind) (priv : Bool) : Tres :=
  if s.fld 0 63 1 = 0 then .fault .page qAbsent 0 0
  else match s.poolSays (s.descAt asid), s.walkHold (s.descAt asid) 8 with
  | .wait, _ => .hold 0
  | .absent, _ => .fault .page qNotValid 0 0
  | .other aux, _ => .fault .migr 4 0 aux
  | .serve, some g | .lost, some g => .hold g
  | .serve, none | .lost, none =>
    let d := s.asDesc asid
    if d % 2 = 0 then .fault .page qNotValid 0 0
    else if !descOk d || asid = 0 then .fault .page qMalformed 0 0
    else match s.walkFrom va 5 (bits d 16 41 * 2 ^ 11) 0 with
      | .hold g => .hold g
      | .fault q l => .fault .page q l 0
      | .owner l aux => .fault .migr 4 l aux
      | .leaf lvl eA e =>
        let v := bits d 8 6
        if !s.populated (bits e 16 36 * 2 ^ 16) (pageBytes lvl) then .fault .page qAbsent lvl 0
        else match s.permFault v e lvl k priv with
          | some (q, l) => .fault .perm q l 0
          | none =>
            .ok { pa := bits e 16 36 * 2 ^ 16 + pageOff va lvl, key := bits e 52 12, lvl := lvl, leafPA := eA, pte := e, vdev := v,
                  exp := s.pt + 65536 }

/-- The owners of the lines that a walk reads recalled: it reaches them by their physical addresses (R38, R77). -/
def State.recallWalk (s : State) (asid va : Nat) : State :=
  if s.fld 0 63 1 = 0 then s
  else (s.descAt asid :: s.walkReads va 5 (bits (s.asDesc asid) 16 41 * 2 ^ 11) 0).foldl
    (fun s a => s.recallRange State.writeBack a 8) s

/-- A fresh walk (R23): what the tables give, then the accessed and dirty bits and the lease under which the result is kept. -/
def State.walk (s : State) (asid va : Nat) (k : Akind) (priv : Bool) : State × Tres :=
  let s := s.recallWalk asid va
  match s.look asid va k priv with
  | .ok t =>
    let (s, e') := s.setAD t.vdev t.leafPA t.pte t.lvl k
    let ent : TEnt := { asid := asid, page := va / pageBytes t.lvl, lvl := t.lvl, leafPA := t.leafPA,
                        pte := BitVec.ofNat 64 e', vdev := t.vdev, exp := t.exp }
    let m := s.ms
    ({ s with ms := { m with tlb := m.tlb.put m.nextT ent, nextT := m.nextT + 1, leafExp := m.leafExp.put t.leafPA t.exp } },
      .ok { t with pte := e' })
  | r => (s, r)

/-- The cached walk result that covers an address (R24). -/
def State.tlbHit (s : State) (asid va : Nat) : Option (Nat × TEnt) :=
  List.find? (fun p => p.2.asid = asid && p.2.page = va / pageBytes p.2.lvl && s.pt < p.2.exp) s.ms.tlb

/-- A cached walk result dropped. -/
def State.tlbDrop (s : State) (i : Nat) : State := { s with ms := { s.ms with tlb := s.ms.tlb.erase i } }

/-- Translation (R23 to R25): a cached result serves what it permits; what the checks of R23 would refuse on it, those of the key and
the grant as they now stand among them, is walked again (R409). -/
def State.translate (s : State) (asid va : Nat) (k : Akind) (priv : Bool) : State × Tres :=
  match s.tlbHit asid va with
  | none => s.walk asid va k priv
  | some (i, t) =>
    let e := t.pte.toNat
    if (s.permFault t.vdev e t.lvl k priv).isSome then (s.tlbDrop i).walk asid va k priv
    else
      let dirtying := (k = .store || k = .atomic) && !bitOf e 6
      if !dirtying then
        (s, .ok { pa := bits e 16 36 * 2 ^ 16 + pageOff va t.lvl, key := bits e 52 12, lvl := t.lvl, leafPA := t.leafPA,
                  pte := e, vdev := t.vdev, exp := t.exp })
      else match s.walkHold t.leafPA 8 with
        | some g => (s, .hold g)
        | none =>
          let now := s.physRd t.leafPA 8
          if (now ||| 0x60) = (e ||| 0x60) then
            let (s, e') := s.setAD t.vdev t.leafPA now t.lvl k
            let s := { s with ms := { s.ms with tlb := s.ms.tlb.put i { t with pte := BitVec.ofNat 64 e' } } }
            (s, .ok { pa := bits e' 16 36 * 2 ^ 16 + pageOff va t.lvl, key := bits e' 52 12, lvl := t.lvl,
                      leafPA := t.leafPA, pte := e', vdev := t.vdev, exp := t.exp })
          else (s.tlbDrop i).walk asid va k priv

end Sys2Proof.Machine
end

