-- ==== Sys2Proof/Machine/Home.lean ====
section
/-! DEFINITION. The home agents and the L2s as performing points (R36 to R38, R46 to R51, R54, R60, R74 to R80, R95 to
R97), and the cached copies below them (R69 to R72, R79). -/

namespace Sys2Proof.Machine

/-! ### Migration bookkeeping that a write can cause -/

/-- A completion record (R51). -/
def compRec (oldP status newP asid : Nat) : List Byte :=
  leBytes 16 (oldP + status * 2 ^ 36 + newP * 2 ^ 64 + asid * 2 ^ 100)

/-- A completion record posted, or kept until its ring has room (R51). -/
def State.postComp (s : State) (v : Nat) (rcd : List Byte) : State :=
  let b := tslot v + 0x50
  if s.mig.posts.any (·.1 = v) || s.ringFull b (b + 8) then { s with mig := { s.mig with posts := s.mig.posts ++ [(v, rcd)] } }
  else ((s.ringPut b (b + 8) rcd).1.tailUp (b + 8)).migIrq v

/-- USED of a tier changed by hardware (R44). What 1 less than a USED of 0, which software may write, leaves is not stated: a free
value (log entry 80). -/
def State.usedAdd (s : State) (v t : Nat) (up : Bool) : State :=
  let o := tslot v + 8 * t
  let u := s.fld o 32 32
  if !up && u = 0 then ({ s with fresh := s.fresh + 1 }).setFld o 32 32 (Config.free s.fresh).toNat
  else s.setFld o 32 32 (if up then u + 1 else u - 1)

/-- A forwarding entry freed. -/
def State.dropFwd (s : State) (i : Nat) : State := { s with mig := { s.mig with fwd := s.mig.fwd.erase i } }

/-- Pin requests that are confirmed (R42, R338). -/
def State.pinsDone (s : State) (ids : List Nat) : State :=
  ids.foldl (fun s id => match s.ms.reqs.find? id with
    | some r => { s with ms := { s.ms with reqs := s.ms.reqs.put id { r with st := .done 0 0 } } }
    | none => s) s

/-- A migration abandoned: MIG cleared, usage restored, the entry freed, its pins begin again, its record posted (R42, R44,
R49, R50). -/
def State.abandon (s : State) (i status : Nat) : State :=
  match s.mig.fwd.find? i with
  | none => s
  | some f =>
    let e := s.physRd f.leafPA 8
    let s := if bitOf e 8 ∧ bits e 16 36 = f.src then (s.physWr f.leafPA (leBytes 8 (e - 0x100))).1 else s
    let s := (s.usedAdd f.dev f.dstTier false).dropFwd i
    let priv (r : Nat) : Bool := match s.ms.reqs.find? r with | some q => q.priv | none => false
    let again := f.pins.map (fun r =>
      ({ dev := f.dev, asid := f.asid, va := f.va, tier := f.dstTier, pinReq := some r, priv := priv r } : Hint))
    let s := { s with mig := { s.mig with waiting := s.mig.waiting ++ again } }.pinsDone f.loose
    s.postComp f.dev (compRec f.src status f.dst f.asid)

/-! ### Cached copies -/

/-- Lines of a level's copies (R68). -/
def Level.size : Level → Nat
  | .ic => 64
  | _ => 128

/-- Ways and sets of the cache at a level: compute cores' and host cores' (from 1,000 on) L1Ds and instruction caches, the L2s, the four
quadrants of L3, and the lines of a KVT (R68, R146). -/
def Level.geom (lvl : Level) (u : Nat) : Nat × Nat :=
  match lvl with
  | .ic => (8, if 1000 ≤ u then 128 else 256)
  | .l1 => (if 1000 ≤ u then 8 else 16, 128)
  | .l2 => (16, 524288)
  | .l3 => (24, 4 * 262144)
  | .kvt => (512, 1)

/-- A number for each level, for the hashes. -/
def Level.code : Level → Nat
  | .ic => 0 | .l1 => 1 | .l2 => 2 | .l3 => 3 | .kvt => 4

/-- The set of a line: for L3 the quadrant and the set within it (R68). -/
def Level.setOf (lvl : Level) (u asid va : Nat) : Nat :=
  match lvl with
  | .kvt => 0
  | .l3 => Config.quadHash asid (va / 128) % 4 * 262144 + Config.setHash lvl.code asid (va / 128) % 262144
  | _ => Config.setHash lvl.code asid (va / 128) % (lvl.geom u).2

/-- A live copy: the tag matches and PT is below the expiry (R69). -/
def State.copyHit (s : State) (lvl : Level) (u asid va : Nat) : Option (Nat × Copy) :=
  List.find? (fun p => p.2.lvl = lvl && p.2.unit = u && p.2.asid = asid && p.2.va = va / lvl.size * lvl.size
    && s.pt < p.2.exp) s.ms.copies

/-- Copies removed. -/
def State.dropCopies (s : State) (f : Copy → Bool) : State :=
  { s with ms := { s.ms with copies := s.ms.copies.filter (fun p => !f p.2) } }

/-- The order of uses goes on by one (R69). -/
def State.used (s : State) : State := { s with ms := { s.ms with uses := s.ms.uses + 1 } }

/-- A copy used: it is now the most recently used of its cache (R69). -/
def State.touch (s : State) (i : Nat) (c : Copy) : State :=
  ({ s with ms := { s.ms with copies := s.ms.copies.put i { c with used := s.ms.uses } } }).used

/-- What stands in a way of a cache: a copy, or a line that an L2 owns. -/
structure Occ where
  asid : Nat
  va : Nat
  used : Nat
  way : Nat
  /-- Its lease has expired. -/
  dead : Bool
  /-- The number of the copy, or the physical line. -/
  key : Nat
  own : Bool

/-- What a cache holds (R68, R69). -/
def State.heldIn (s : State) (lvl : Level) (u : Nat) : List Occ :=
  s.ms.copies.filterMap (fun p => if p.2.lvl = lvl ∧ p.2.unit = u then
      some { asid := p.2.asid, va := p.2.va, used := p.2.used, way := p.2.way, dead := p.2.exp ≤ s.pt, key := p.1, own := false } else none)
  ++ (if lvl ≠ .l2 then [] else s.ms.dir.filterMap (fun p => match p.2.owner with
      | some (o, a, w, _) => if o = u then
          some { asid := a, va := w, used := p.2.oused, way := 0, dead := false, key := p.1, own := true } else none
      | none => none))

/-- Which of what a set holds is replaced: a line whose lease has expired, else the least recently used (R69, R82). -/
def victim : List Occ → Option Occ
  | [] => none
  | o :: os => match victim os with
    | none => some o
    | some b => if (o.dead && !b.dead) || (o.dead = b.dead && decide (o.used ≤ b.used)) then some o else some b

/-- A line leaves its cache; one that an L2 owns is written back (R77). -/
def State.evictOcc (s : State) (o : Occ) : State :=
  if o.own then s.letGo o.key else { s with ms := { s.ms with copies := s.ms.copies.erase o.key } }

/-- Room for a line in its set (R68, R69). A cache that holds fewer lines than it has ways has room in every set. -/
def State.makeWay (s : State) (lvl : Level) (u asid va : Nat) : State :=
  let os := s.heldIn lvl u
  let n := (lvl.geom u).1
  if os.length < n then s
  else
    let os := os.filter (fun o => lvl.setOf u o.asid o.va = lvl.setOf u asid va)
    if os.length < n then s else match victim os with | some o => s.evictOcc o | none => s

/-- The L3 way of the mask that a line takes (R82): a free one, else the victim's; none when the mask is empty. -/
def State.wayFor (s : State) (mask asid va : Nat) : State × Option Nat :=
  let ways := (List.range 24).filter (fun w => mask.testBit w)
  let os := s.heldIn .l3 0
  match ways.find? (fun w => os.all (fun o => o.way ≠ w)) with
  | some w => (s, some w)
  | none =>
    let os := os.filter (fun o => ways.contains o.way && Level.l3.setOf 0 o.asid o.va = Level.l3.setOf 0 asid va)
    match ways.find? (fun w => os.all (fun o => o.way ≠ w)), victim os with
    | some w, _ => (s, some w)
    | none, some o => (s.evictOcc o, some o.way)
    | none, none => (s, none)

/-- A copy allocated, with its number. It takes the place of an older one with its tag, whose state as a grantor goes on (R71, R72);
else another line makes room for it. -/
def State.addCopy (s : State) (c : Copy) : State × Nat × Copy :=
  match List.find? (fun p => p.2.lvl = c.lvl && p.2.unit = c.unit && p.2.asid = c.asid && p.2.va = c.va) s.ms.copies with
  | some (i, d) =>
    let c := { c with k := d.k, written := d.written || decide (d.data ≠ c.data), gexp := Nat.max d.gexp c.gexp, way := d.way,
                      used := s.ms.uses }
    (({ s with ms := { s.ms with copies := s.ms.copies.put i c } }).used, i, c)
  | none =>
    let s := if c.lvl = .l3 then s else s.makeWay c.lvl c.unit c.asid c.va
    let c := { c with used := s.ms.uses }
    (({ s with ms := { s.ms with copies := s.ms.copies.put s.ms.nextCopy c, nextCopy := s.ms.nextCopy + 1 } }).used, s.ms.nextCopy, c)

/-- OnRead of R71 at a copy that passes leases down: its own lease is the upper expiry. -/
def State.passDown (s : State) (i : Nat) (c : Copy) (v : Nat) : State × Nat :=
  let k := if c.gexp ≤ s.pt ∧ !c.written then Nat.min (c.k + 1) 10 else c.k
  let (lmin, lmax, ldef, fx) := s.leaseCfg v
  let cl := if fx then ldef else Nat.max lmin (Nat.min lmax k)
  let x := Nat.min (s.pt + 64 * 2 ^ cl) c.exp
  ({ s with ms := { s.ms with copies := s.ms.copies.put i { c with k := k, gexp := Nat.max c.gexp x, written := false } } }, x)

/-- The unit of a level that serves a core. -/
def Level.unitOf (lvl : Level) (die core : Nat) : Nat := match lvl with | .ic | .l1 | .kvt => core | .l2 => die | .l3 => 0

/-- The bytes of a copy that lie in a line of a level. -/
def lineSlice (data : List Byte) (va : Nat) (lvl : Level) : List Byte :=
  (data.drop (va / lvl.size * lvl.size - va / 128 * 128)).take lvl.size

/-- A line allocated level by level, from the outermost in: each level grants the next its lease (R71). A level of L3 whose mask for
the request is empty takes none (R82). A new entry starts with class LDEF, unwritten, at the lease floor of the line's tier. -/
def State.placeChain (s : State) (v mask die core asid va line floor : Nat) (data : List Byte) (bad : Bool) : List Level → Nat → State
  | [], _ => s
  | lvl :: lvls, x =>
    let new (way : Nat) : Copy :=
      { lvl := lvl, unit := lvl.unitOf die core, asid := asid, va := va / lvl.size * lvl.size, line := line,
        data := lineSlice data va lvl, bad := bad, exp := x, k := (s.leaseCfg v).2.2.1, gexp := floor, way := way }
    let put (s : State) (way : Nat) : State :=
      let (s, i, c) := s.addCopy (new way)
      match lvls with
      | [] => s
      | _ => let (s, x) := s.passDown i c v; s.placeChain v mask die core asid va line floor data bad lvls x
    if lvl ≠ .l3 then put s 0
    else match s.wayFor mask asid va with
      | (s, some w) => put s w
      | (s, none) => s.placeChain v mask die core asid va line floor data bad lvls x

/-- A write at the HA reaches the L3 copy of its own tag, with the poison mark that the line then has (R63, R80). -/
def State.updateL3 (s : State) (asid va : Nat) (bs : List Byte) (bad : Bool) (g writer : Nat) : State :=
  let base := va / 128 * 128
  { s with ms := { s.ms with copies := s.ms.copies.map (fun p =>
      let c := p.2
      if c.lvl = .l3 ∧ c.asid = asid ∧ c.va = base then
        let o := va - base
        (p.1, { c with data := c.data.take o ++ bs ++ c.data.drop (o + bs.length), bad := bad, upd := (g, writer) :: c.upd })
      else p) } }

/-! ### Requests of threads -/

/-- The lanes that a frame interleaves: 32, or 1 for a host thread (R26). -/
def Ctx.llW (c : Ctx) : Nat := if c.stream = .host then 1 else 32

/-- LLSIZE in bytes. -/
def Ctx.llBytes (c : Ctx) : Nat := c.llsize * 1024

/-- Frame size of R26. -/
def Ctx.llFrame (c : Ctx) : Nat := c.llW * c.llBytes + 4096

/-- The global VA of a lane-local offset (R26), taken modulo 2^56: the spec states no wrap (log entry 102). -/
def Ctx.llVa (c : Ctx) (l o : Nat) : Nat :=
  (c.llbase.toNat + c.llslot * c.llFrame + o / 4 * (4 * c.llW) + l % c.llW * 4 + o % 4) % 2 ^ 56

/-- The runs of consecutive global bytes of a request: a lane-local one is made of 4-byte words (R26). -/
def reqParts (c : Ctx) (r : Req) : List (Nat × Nat) :=
  if r.space = 7 then
    (List.range (Nat.max 1 (r.size / 4))).map (fun i => (c.llVa r.lane (r.va + 4 * i), Nat.min r.size 4))
  else [(r.va, r.size)]

/-- The translation with which a run of a request has been confirmed, or which it shares. -/
def Req.fixedAt (r : Req) (va : Nat) : Option Trans :=
  match r.fixed.find? (fun p => p.1 = va) with | some p => some p.2 | none => r.via

/-- The request writes. -/
def ReqKind.writes : ReqKind → Bool
  | .store _ | .atomic _ _ _ | .cas _ _ _ => true
  | _ => false

/-- The access has not been performed (R100): a write that its target has accepted counts as performed. -/
def Req.open_ (r : Req) : Bool := match r.st with | .done _ _ | .failed _ _ _ _ | .confirmed _ _ => false | _ => true

/-- A write of the thread to some of n bytes at a global address has issued and not been performed: what the thread reads there comes after
it (R98, R100). -/
def State.writesOpen (s : State) (cid va n : Nat) : Bool :=
  s.ms.reqs.any (fun p => p.2.cid = cid && p.2.kind.writes && p.2.open_ && decide (p.2.space ≤ 3 ∨ p.2.space = 7)
    && (reqParts (s.ctx cid) p.2).any (fun q => decide (q.1 < va + n) && decide (va < q.1 + q.2)))

/-- The physical address that a translated address leads to now, after a committed migration (R24, R47). -/
def State.paOf (s : State) (asid va : Nat) : Option (Nat × TEnt) :=
  match s.tlbHit asid va with
  | none => none
  | some (_, te) => some (s.routed (bits te.pte.toNat 16 36 * 2 ^ 16 + pageOff va te.lvl), te)

/-- The physical addresses of a thread's request, as far as they are translated, one for each run. -/
def State.reqPas (s : State) (r : Req) : List Nat :=
  if r.space = 15 then [s.routed r.va]
  else if r.space ≤ 3 ∨ r.space = 7 then
    (reqParts (s.ctx r.cid) r).filterMap (fun p => match r.fixedAt p.1 with
      | some t => some (s.routed t.pa)
      | none => (s.paOf r.asid p.1).map (·.1))
  else []

/-! ### Where the engines' requests lead -/

/-- Rows of a copy: width, count, source stride and destination stride (R321). -/
def copyShape (opc : Nat) (c e : BitVec 64) : Nat × Nat × Nat × Nat :=
  if opc = 0x301 then (bits c.toNat 0 32, bits c.toNat 32 16, bits e.toNat 0 32, bits e.toNat 32 32) else (c.toNat, 1, 0, 0)

/-- The pointer of an offset of the source. -/
def EOp.srcAt (o : EOp) (off : Nat) : Nat :=
  match o.kind with
  | .cpy | .cpy2d => let (w, _, ss, _) := copyShape o.opc o.c o.e; o.b.toNat + off / w * ss + off % w
  | .coll => o.a.toNat + off
  | _ => o.b.toNat + off

/-- The pointer of an offset of the destination. -/
def EOp.dstAt (o : EOp) (off : Nat) : Nat :=
  match o.kind with
  | .cpy | .cpy2d => let (w, _, _, ds) := copyShape o.opc o.c o.e; o.a.toNat + off / w * ds + off % w
  | _ => o.a.toNat + off

/-- The pointer that the request of an operation reaches next: of its source, of its destination, or of a collective's signal. -/
def EOp.ptrOf (o : EOp) (r : Req) : Nat :=
  if r.lane = 3 then o.e.toNat
  else if r.lane = 0 then o.srcAt r.va else match o.outq with | (off, _, _) :: _ => o.dstAt off | [] => 0

/-- The address space and VA that a request leads to in this package, when it is one of an engine, of a fill, or through this package's
own fabric window. -/
def State.reqVa (s : State) (r : Req) : Option (Nat × Nat) :=
  match r.arrived, r.kind with
  | some x, _ => some x
  | none, .fill key => (s.rsds.find? key).map (fun x => (x.asid, x.src + r.va))
  | none, .engine op => (s.eng.ops.find? op).bind (fun o =>
      if bits (o.ptrOf r) 60 4 ≤ 3 then some (o.asid, bits (o.ptrOf r) 0 56) else none)
  | none, _ => none

/-- The physical addresses that any request leads to, as far as they are translated. -/
def State.allPas (s : State) (r : Req) : List Nat :=
  match s.reqVa r with
  | some (asid, va) => ((s.paOf asid va).map (·.1)).toList
  | none => s.reqPas r

/-! ### Performing -/

/-- What is done at the performing point: a read, a write of bytes, or a read whose value gives what is written, if
anything. -/
inductive HaOp where
  | rd
  | wr (bs : List Byte)
  | rmw (f : Nat → Option Nat)

/-- What comes of it: the value read and the completion time of the write; a fault; a wait for a PT value (0 where no PT value
ends the wait: a pool page under handover, a port that is down); or a place in a migration's stalled-write window, for a line of the
page (512 for the page's leaf) and as a write or not. -/
inductive HaRes where
  | ok (val g : Nat)
  | fault (c : Cause) (qual level : Nat) (aux : BitVec 64)
  | hold (g : Nat)
  | window (f : Nat) (t : Trans) (line : Nat) (wr : Bool)
  /-- The request belongs in the side queue of a throttled bank (R60). -/
  | side (key : Nat)
  deriving DecidableEq, Repr

/-- Where an access is performed (R74): by an L2 that obtains ownership, by an L2 only if it owns the line, or at the HA. -/
inductive PerfAt where
  | l2 (die : Nat)
  | l2own (die : Nat)
  | ha
  deriving DecidableEq, Repr

/-- What a throttled bank does with an access (R60): it enters the side queue, it comes from there, or it is made by hardware within
another step, which waits in its stead. -/
inductive Pace where
  | queue | through | inline
  deriving DecidableEq, Repr

/-- The party and tag of an access. -/
structure HaReq where
  asid : Nat
  va : Nat
  n : Nat
  priv : Bool
  who : Nat
  atL : PerfAt
  /-- The read reports poison instead of faulting on it (R63: engines). -/
  engine : Bool := false
  /-- A write that leaves its line poisoned (R63, R316). -/
  mark : Bool := false
  /-- An instruction fetch (R69). -/
  fetch : Bool := false
  /-- The address is physical (R17), on behalf of the device named; va is then the physical address. -/
  phys : Option Nat := none
  pace : Pace := .inline
  /-- The translation with which a write has been confirmed, or which it shares (R285, R410), and whether it is confirmed. -/
  fixed : Option Trans := none
  sure : Bool := false
  /-- The traffic class (R81). -/
  tc : Nat := 1
  /-- When the request was issued, if it waits at an L2 (R78). -/
  since : Option Nat := none

/-- The line is named by a write held in the window (R47). -/
def Fwd.heldLine (f : Fwd) (line : Nat) : Bool := f.window.any (fun w => w.2.1 = line && w.2.2)

/-- The migration that holds the page-table entry in a written range (R50). -/
def State.pteOfMig (s : State) (pa n : Nat) : Option (Nat × Fwd) :=
  List.find? (fun p => p.2.leafPA < pa + n && pa < p.2.leafPA + 8 && p.2.st ≠ .committed) s.mig.fwd

/-- A bank's key for a device: tier, controller, bank and device. -/
def bankKey (v pa : Nat) : Nat :=
  let (c, b, _) := Config.rowOf (pa / 128)
  ((region pa * 64 + c) * 2 ^ 32 + b) * 64 + v

/-- The throttle that a device's requests to the bank of an address meet (R60). -/
def State.throttled (s : State) (v pa : Nat) : Option Nat :=
  if 2 ≤ region pa ∨ s.ms.throttle = [] then none
  else if (s.ms.throttle.find? (bankKey v pa)).isSome then some (bankKey v pa) else none

/-- A request of another device waits in the queue of the bank (R60). -/
def State.bankBusy (s : State) (key : Nat) : Bool :=
  s.ms.reqs.any (fun p => decide (p.2.st = .waiting) && decide (p.2.dev ≠ key % 64)
    && (s.allPas p.2).any (fun pa => decide (region pa < 2) && bankKey (key % 64) pa = key))

/-- The side queue of a bank may issue an activation (R60): RELEASE ticks have passed since its last, and no request of another device
waits in the bank queue. -/
def State.sideOpen (s : State) (key : Nat) : Bool :=
  decide (SMap.get 0 s.ms.sideAt key + s.fld (tierB + 0x28) 16 16 ≤ s.pt) && !s.bankBusy key

/-- What a throttle makes of an access (R60): none lets it through. -/
def State.paced (s : State) (p : Pace) (v pa : Nat) : Option HaRes :=
  match p, s.throttled v pa with
  | .through, _ | _, none => none
  | .queue, some key => some (.side key)
  | .inline, some key => if (SMap.get [] s.ms.side key).isEmpty && s.sideOpen key then none else some (.hold (s.pt + 1))

/-- One row activation (R60): every request served by a DRAM controller counts as one. A row cannot reach the threshold before
the window has seen as many activations. -/
def State.activate (s : State) (v pa : Nat) : State :=
  if 2 ≤ region pa then s
  else
    let (c, b, r) := Config.rowOf (pa / 128)
    let key := ((region pa * 64 + c) * 2 ^ 64 + (b * 2 ^ 32 + r)) * 64 + v
    let s := { s with ms := { s.ms with rows := key :: s.ms.rows } }
    let s := match s.throttled v pa with
      | some k => { s with ms := { s.ms with sideAt := s.ms.sideAt.put k s.pt } } | none => s
    let thresh := s.fld (tierB + 0x28) 0 16
    if thresh ≠ 0 ∧ !(s.ms.rows.drop (thresh - 1)).isEmpty ∧ thresh ≤ s.ms.rows.count key then
      { s with ms := { s.ms with throttle := s.ms.throttle.put (bankKey v pa) s.pt } }
    else s

/-- The way mask of a device and class in L3 (R82): 0 RD, 1 WR, 2 AT. -/
def State.l3Mask (s : State) (v tc kind : Nat) : Nat :=
  let b := cacheB + 0x80 * v + 16 * tc
  if kind = 0 then s.fld b 0 24 else if kind = 1 then s.fld b 24 24 else s.fld (b + 8) 0 24

/-- A write or atomic performed at the HA that misses L3 allocates its line there under a lease, while its mask has a way (R80, R82).
Every write that is still hidden stays so in the copy (R96, R99). -/
def State.allocL3 (s : State) (q : HaReq) (t : Trans) (pa : Nat) (atomic : Bool) : State :=
  let mask := s.l3Mask t.vdev q.tc (if atomic then 2 else 1)
  if mask = 0 ∨ (s.copyHit .l3 0 q.asid q.va).isSome then s
  else
    let floor := SMap.get 0 s.ms.floors (region pa)
    match s.wayFor mask q.asid q.va with
    | (s, none) => s
    | (s, some w) =>
      let (s, x) := s.grantLease t.vdev (pa / 128) t.exp
      (s.addCopy { lvl := .l3, unit := 0, asid := q.asid, va := q.va / 128 * 128, line := pa / 128, data := s.rdBytes t.key (pa / 128 * 128) 128,
                   bad := s.poisoned (pa / 128), exp := x, k := (s.leaseCfg t.vdev).2.2.1, gexp := floor, upd := (s.dirOf t.vdev (pa / 128)).pend.filter (fun p => s.pt < p.1),
                   way := w }).1

/-- Who serves an access (R39, R74 to R76): an L2 that owns the line; an L2 whose ownership the HA has just granted, with or without
the line's data; or the HA. -/
inductive Server where
  | l2 | granted (data : Bool) | ha
  deriving DecidableEq, Repr

/-- Element bytes of a collective's type (R328). -/
def collBytes : CollTy → Nat
  | .f32 | .s32 => 4
  | .bf16 | .f16 => 2
  | .ka => 80

/-- The type field of a coll's IMM (R328). -/
def collTyOf (imm : BitVec 32) : CollTy := (CollTy.ofCode (bits imm.toNat 6 3)).getD .f32

/-- A range lies in the named buffer of a collective in flight: its bucket (R112, R328). DESIGN CHOICE (log entry 90): a buffer is known
by its addresses in the operation's address space. -/
def EOp.names (o : EOp) (asid va n : Nat) : Bool :=
  let b := bits o.a.toNat 0 56
  decide (o.kind = EKind.coll) && (match o.st with | .counted _ => false | _ => true) && o.asid = asid
    && decide (va < b + o.c.toNat * collBytes (collTyOf o.imm)) && decide (b < va + n)

/-- The write was issued before operation i: a thread's by its time, an engine operation's by its number. -/
def HaReq.before (q : HaReq) (i : Nat) (o : EOp) : Bool :=
  (match q.since with | some t => decide (t ≤ o.since) | none => false) || (decide (2 ^ 41 ≤ q.who) && decide (q.who < engW i))

/-- A write to the named buffer of a collective in flight by another than its engine leaves the buffer undefined (R112); what was issued
before the collective is included in it. -/
def State.spoilColls (s : State) (q : HaReq) (n : Nat) : State :=
  let hit (p : Nat × EOp) : Bool := p.2.names q.asid q.va n && q.who ≠ engW p.1 && !q.before p.1 p.2
  if s.eng.ops.any hit && q.phys.isNone then
    { s with eng := { s.eng with ops := s.eng.ops.map (fun p => if hit p then (p.1, { p.2 with spoiled := true }) else p) } }
  else s

/-- Bytes in the named buffer of a collective in flight, which its engine alone may know: undefined until its completion (R112, R415). -/
def State.inBucket (s : State) (who asid va n : Nat) : Bool :=
  s.eng.ops.any (fun p => p.2.names asid va n && who ≠ engW p.1)

/-- The write part at a physical address: bytes, poison, the write order, the watch and the L3 copy (R63, R80, R95, R124). A
page already copied by a migration is mirrored (R47). -/
def State.storeAt (s : State) (q : HaReq) (t : Trans) (pa : Nat) (by_ : Server) (atomic : Bool) (bs : List Byte) : State × Nat :=
  let mirror := s.mirrorOf pa
  let s := s.wrBytes t.key pa bs
  let s := match mirror with | some d => s.wrBytes t.key d bs | none => s
  let s := if q.mark then s.setPoison (pa / 128) true else if bs.length = 128 then s.setPoison (pa / 128) false else s
  let (s, g) := s.orderWrite t.vdev q.who (pa / 128)
  let s := (s.watchNotice (pa / 128) g).spoilColls q bs.length
  let l3 : Bool := q.phys.isNone && decide (by_ = .ha)
  (if l3 then (s.updateL3 q.asid q.va bs (s.poisoned (pa / 128)) g q.who).allocL3 q t pa atomic else s, g)

/-- The die whose L2 an access passes. -/
def HaReq.die? (q : HaReq) : Option Nat := match q.atL with | .l2 d | .l2own d => some d | .ha => none

/-- The owner holds the line under the tag of the access, and its ownership has not expired (R75, R77). -/
def Dir.sameTag (d : Dir) (pt : Nat) (q : HaReq) : Bool :=
  match d.owner with
  | some (_, a, w, e) => a = q.asid && w = q.va / 128 * 128 && decide (pt < e) && q.phys.isNone
  | none => false

/-- The L2 that the access passes owns the line under its tag. -/
def Dir.mine (d : Dir) (pt : Nat) (q : HaReq) : Bool :=
  d.sameTag pt q && (match d.owner, q.die? with | some (o, _, _, _), some die => o = die | _, _ => false)

/-- The access was waiting at an L2 when the L2's ownership under its tag was recalled: it is forwarded to the HA (R78). -/
def Dir.behindRecall (d : Dir) (q : HaReq) (die : Nat) : Bool :=
  match d.recalled, q.since with
  | some (o, a, w, at_), some since => o = die && a = q.asid && w = q.va / 128 * 128 && decide (since ≤ at_)
  | _, _ => false

/-- The L2 is recorded as owner of the line under the tag, whether or not that has expired: it holds the line's data. -/
def State.ownedAs (s : State) (q : HaReq) (v l die : Nat) : Bool :=
  match (s.dirOf v l).owner with | some (o, a, w, _) => o = die && a = q.asid && w = q.va / 128 * 128 | none => false

/-- Ownership granted to an L2 (R75): another owner of the line is recalled, a line that the L2 still owns under the tag by an older
mapping is too (R77), and the line takes a way of the L2. An L2 whose ownership of the line had expired keeps its data. -/
def State.grantOwn (s : State) (q : HaReq) (t : Trans) (l die : Nat) : State × Bool :=
  let va := q.va / 128 * 128
  let old := (s.ms.dir.filter (fun p => p.1 ≠ l && (match p.2.owner with
    | some (o, a, w, _) => o = die && a = q.asid && w = va | none => false))).map (·.1)
  let s := old.foldl State.writeBack s
  let kept := s.ownedAs q t.vdev l die
  let s := if kept then s else s.writeBack l
  let s := s.dropCopies (fun c => c.lvl = .l2 && c.unit = die && c.asid = q.asid && c.va = va)
  let s := if kept then s else s.makeWay .l2 die q.asid va
  let d := s.dirOf t.vdev l
  ((s.setDir l { d with owner := some (die, q.asid, va, t.exp), okey := t.key, oused := s.ms.uses, dirty := kept && d.dirty,
                        recalled := none }).used, !kept)

/-- Who serves the access, after the ownership it needs has moved (R75 to R78): a write or atomic at the HA recalls the owner, and so
does any access through a second tag, by physical address or past the ownership's expiry (R38). -/
def State.ownFor (s : State) (q : HaReq) (t : Trans) (l : Nat) (writes : Bool) : State × Server :=
  let d := s.dirOf t.vdev l
  if d.mine s.pt q then ((s.setDir l { d with oused := s.ms.uses, dirty := d.dirty || writes }).used, .l2)
  else if !writes then (if d.owner.isSome ∧ !d.sameTag s.pt q then (s.writeBack l, .ha) else (s, .ha))
  else match q.atL with
    | .l2 die =>
      if s.moving (l / 512) ∨ d.behindRecall q die then (s.writeBack l, .ha)
      else let (s, data) := s.grantOwn q t l die; (s.setDir l { s.dirOf t.vdev l with dirty := true }, .granted data)
    | _ => (s.writeBack l, .ha)

/-- The kind of access that an operation is (R23). -/
def HaOp.kind (op : HaOp) (fetch : Bool) : Akind :=
  match op with | .rd => (if fetch then .fetch else .load) | .wr _ => .store | .rmw _ => .atomic

/-- The operation writes. -/
def HaOp.writes : HaOp → Bool
  | .rd => false
  | _ => true

/-- The request that the HA serves, counted (R39): an access that it performs, or the line fill of an ownership grant. -/
def State.countServed (s : State) (by_ : Server) (v pa : Nat) (rd wr : Bool) (leaf : Option (Nat × Nat × Nat × Nat)) : State :=
  match by_ with
  | .ha => s.count v pa rd wr leaf
  | .granted true => s.count v pa true false leaf
  | _ => s

/-- The data part of an access at a physical address, after every check but those of the data (R63, R74, R95, R96, R106). Under a
key that is OFF the line is poisoned and logged, whatever the access (R407). A read of a collective's bucket before its completion gives
free bytes (R415), and an atomic that has been confirmed faults no more (R410). DESIGN CHOICE (log entry 81): an atomic that leaves the
bytes as they were, a cas that fails among them, counts as a write for the order and the watch. -/
def State.performData (s : State) (q : HaReq) (t : Trans) (pa : Nat) (op : HaOp) (by_ : Server)
    (leaf : Option (Nat × Nat × Nat × Nat)) : State × HaRes :=
  let l := pa / 128
  let off : Bool := s.keyMode t.key = 0
  let s := if off && !s.poisoned l then s.poisonLine pa 6 t.vdev else s
  match op with
  | .rd =>
    if s.poisoned l ∧ !q.engine then (s, .fault .poison 2 0 (BitVec.ofNat 64 (s.poisonSeq pa)))
    else match s.readHold q.who l with
      | some g => (s, .hold g)
      | none =>
        let s' := s.countServed by_ t.vdev pa true false leaf
        if q.phys.isNone && s.inBucket q.who q.asid q.va q.n then
          ({ s' with fresh := s'.fresh + 1 }, .ok ((Config.free s.fresh).toNat % 256 ^ q.n) 0)
        else (s', .ok (s.rd t.key pa q.n) 0)
  | .wr bs =>
    let s := s.countServed by_ t.vdev pa false true leaf
    let (s, g) := if off then (let (s, g) := s.orderWrite t.vdev q.who l; (s.watchNotice l g, g)) else s.storeAt q t pa by_ false bs
    (s, .ok 0 g)
  | .rmw f =>
    if s.poisoned l ∧ !q.sure then (s, .fault .poison 2 0 (BitVec.ofNat 64 (s.poisonSeq pa)))
    else match s.readHold q.who l with
      | some g => (s, .hold g)
      | none =>
        let s := s.countServed by_ t.vdev pa true true leaf
        let old := s.rd t.key pa q.n
        let (s, g) := s.storeAt q t pa by_ true (leBytes q.n ((f old).getD old))
        (s, .ok old g)

/-- An access that nothing stops any more: the throttle of its bank, the ownership, and the data (R60, R74 to R78). A held access
leaves everything as it was. -/
def State.performLine (s : State) (q : HaReq) (t : Trans) (pa : Nat) (op : HaOp) : State × HaRes :=
  let d := s.dirOf t.vdev (pa / 128)
  let dram : Bool := !(d.mine s.pt q || (!op.writes && d.sameTag s.pt q))
  match (if dram then s.paced q.pace t.vdev pa else none) with
  | some r => (s, r)
  | none =>
    let s' := if dram then s.activate t.vdev pa else s
    let (s', by_) := s'.ownFor q t (pa / 128) op.writes
    match s'.performData q t pa op by_ (if q.phys.isSome then none else some (q.asid, q.va, t.lvl, t.pte)) with
    | (_, .hold g) => (s, .hold g)
    | r => r

/-- A line of the pool that no port has reached for LTMO: an uncorrectable error of it (R63, R418). -/
def State.lostLine (s : State) (pa dev : Nat) : State := if s.poisoned (pa / 128) then s else s.poisonLine pa 0 dev

/-- An access whose translation is known: the pool page's owner, the forwarding entry of the page as it has moved so far and a migration
of the page table entry come before the data (R32, R47, R50, R54). -/
def State.performAt (s : State) (q : HaReq) (t : Trans) (op : HaOp) : State × HaRes :=
  match s.poolSays t.pa with
  | .wait => (s, .hold 0)
  | .absent => (s, .fault .page qAbsent t.lvl 0)
  | .other aux => (s, .fault .migr 4 0 aux)
  | .lost => (s.lostLine t.pa t.vdev).performLine q t t.pa op
  | .serve =>
    let pa := s.routed t.pa
    let line := pa / 128 % 512
    let stall : Option Nat := match s.fwdOf (pa / 0x10000) with
      | some (i, f) => if f.st = .catching ∧ (op.writes ∨ f.heldLine line) then some i else none
      | none => none
    match stall, (if op.writes then s.pteOfMig pa q.n else none) with
    | some i, _ => (s, .window i t line op.writes)
    | none, some (i, f) =>
      if f.st = .catching then
        ({ s with mig := { s.mig with fwd := s.mig.fwd.put i { f with status := 3 } } }, .window i t 512 true)
      else ((s.abandon i 2), .hold (s.pt + 1))
    | none, none => s.performLine q t pa op

/-- The translation of a physical address: key 0, no page, no lease that ends (R17). -/
def physTrans (pa vdev : Nat) : Trans := { pa := pa, key := 0, lvl := 4, leafPA := 0, pte := 0, vdev := vdev, exp := 2 ^ 64 }

/-- One access of at most a line, performed at its performing point (R74). Checks come in the order of R32: the walk,
permission, the pool page's owner, then the data. A translation with which a held write has been confirmed serves it until its lease
ends (R114, R410). -/
def State.perform (s : State) (q : HaReq) (op : HaOp) : State × HaRes :=
  match q.phys, q.fixed.filter (fun t => decide (s.pt < t.exp)) with
  | _, some t => s.performAt q t op
  | some v, none =>
    if s.populated q.va q.n then s.performAt q (physTrans q.va v) op else (s, .fault .page qAbsent 0 0)
  | none, none =>
    match s.translate q.asid q.va (op.kind q.fetch) q.priv with
    | (s, .hold g) => (s, .hold g)
    | (s, .fault c ql l aux) => (s, .fault c ql l aux)
    | (s, .ok t) => s.performAt q t op

/-- The die's L2 owns the line and its ownership has not expired (R75, R77). -/
def State.l2Owns (s : State) (die asid va : Nat) : Bool :=
  s.ms.dir.any (fun p => match p.2.owner with
    | some (o, a, w, e) => o = die && a = asid && w = va / 128 * 128 && s.pt < e
    | none => false)

/-- A write of the party is still hidden from others (R97). -/
def State.ownPending (s : State) (who : Nat) : Bool := s.ms.dir.any (fun p => p.2.pend.any (fun w => w.2 = who && s.pt < w.1))

/-- A read that fills caches: the performing point grants a lease to the outermost level asked for, and each level the next (R69 to
R72, R74, R76). A line that the die's own L2 owns goes to the core's cache alone. No copy is made of bytes whose writer alone may see
them (R97). -/
def State.fill (s : State) (q : HaReq) (die core : Nat) (lvls : List Level) : State × HaRes :=
  match s.perform q .rd with
  | (s, .ok v _) =>
    match s.paOf q.asid q.va with
    | none => (s, .ok v 0)
    | some (pa, te) =>
      let l := pa / 128
      let d := s.dirOf te.vdev l
      let mask := s.l3Mask te.vdev q.tc 0
      let lvls := if s.l2Owns die q.asid q.va then lvls.filter (fun a => a = .l1 || a = .ic || a = .kvt)
        else if mask = 0 then lvls.filter (· ≠ .l3) else lvls
      if d.pend.any (fun p => s.pt < p.1) ∨ lvls = [] ∨ s.inBucket q.who q.asid (q.va / 128 * 128) 128 then (s, .ok v 0)
      else
        let (s, x) := s.grantLease te.vdev l te.exp
        (s.placeChain te.vdev mask die core q.asid q.va l (SMap.get 0 s.ms.floors (region pa))
            (s.rdBytes (bits te.pte.toNat 52 12) (l * 128) 128) (s.poisoned l) lvls x, .ok v 0)
  | r => r

/-- The bytes of a copy that a read names. -/
def Copy.read (c : Copy) (va n : Nat) : Nat := leNat ((c.data.drop (va - c.va)).take n)

/-- The error-log number of a poisoned copy's line (R64). -/
def State.seqOf (s : State) (c : Copy) : BitVec 64 := BitVec.ofNat 64 (s.poisonSeq (c.line * 128))

/-- The G until which a read by the party waits at a copy that holds merged writes (R80, R96). -/
def Copy.heldTo (c : Copy) (pt who : Nat) : Nat := (c.upd.filter (fun p => pt < p.1 && p.2 ≠ who)).foldl (fun a p => Nat.max a p.1) 0

/-- The levels below one that receive a line which it serves. -/
def innerOf (lv : Level) (alloc : List Level) : List Level :=
  alloc.filter (fun a => a ≠ lv && (a = .l1 || a = .ic || a = .kvt || (a = .l2 && lv = .l3)))

/-- The lease floor of the tier that an address leads to (R37). -/
def State.floorFor (s : State) (asid va : Nat) : Nat :=
  match s.paOf asid va with | some (pa, _) => SMap.get 0 s.ms.floors (region pa) | none => 0

/-- A copy renewed: its grantor's reply is a new expiry, with the line's data when they have changed (R72). -/
def State.renewed (s : State) (key : Nat) (c : Copy) (exp : Nat) (data : List Byte) (bad : Bool) : State :=
  let same : Bool := data = c.data && bad = c.bad
  let c := if same then { c with exp := exp } else { c with exp := exp, data := data, bad := bad, written := true }
  { s with ms := { s.ms with copies := s.ms.copies.put key c } }

/-- A renewal by the line's performing point (R72): a new expiry alone while the line has had no write since the last lease. DESIGN CHOICE
(log entry 79): and while the requester's bytes are still the line's. An owner under another tag is recalled first (R38). A line with
writes still hidden is not copied yet (R97). -/
def State.renewAtHA (s : State) (key : Nat) (c : Copy) : Option State :=
  let q : HaReq := { asid := c.asid, va := c.va, n := c.lvl.size, priv := true, who := hubW, atL := .ha, fetch := c.lvl = .ic }
  let gone (s : State) : State := { s with ms := { s.ms with copies := s.ms.copies.erase key } }
  match s.translate c.asid c.va (if c.lvl = .ic then .fetch else .load) true with
  | (_, .hold _) => none
  | (s, .fault _ _ _ _) => some (gone s)
  | (s, .ok t) =>
    let pa := s.routed t.pa
    let l := pa / 128
    let s := if (s.dirOf t.vdev l).owner.isSome ∧ !(s.dirOf t.vdev l).sameTag s.pt q then s.writeBack l else s
    let d := s.dirOf t.vdev l
    let grant (s : State) (data : List Byte) : Option State :=
      if d.pend.any (fun p => s.pt < p.1) then none
      else let (s, x) := s.grantLease t.vdev l t.exp; some (s.renewed key { c with line := l } x data (s.poisoned l))
    if !d.written && decide (s.rdBytes t.key pa c.lvl.size = c.data) && s.poisoned l = c.bad && s.poolSays t.pa = .serve then
      grant s c.data
    else match s.perform q .rd with
      | (s, .ok v _) => grant s (leBytes c.lvl.size v)
      | (s, .fault _ _ _ _) => some (gone s)
      | _ => none

/-- The lease that a copy would grant, were its own to last for ever (R71). -/
def State.wish (s : State) (c : Copy) (v : Nat) : Nat :=
  let k := if c.gexp ≤ s.pt ∧ !c.written then Nat.min (c.k + 1) 10 else c.k
  let (lmin, lmax, ldef, fx) := s.leaseCfg v
  let end_ := match s.tlbHit c.asid c.va with | some (_, t) => t.exp | none => c.exp
  Nat.min (s.pt + 64 * 2 ^ (if fx then ldef else Nat.max lmin (Nat.min lmax k))) end_

/-- A copy that has to pass down a lease beyond its own renews itself first: an L2 by a live L3 copy, which does the same, else by the
line's performing point (R72). One that cannot be renewed stays as it is. -/
def State.stretch (s : State) (v : Nat) (i : Nat) (c : Copy) : State × Copy :=
  let byHA (s : State) (i : Nat) (c : Copy) : State :=
    if s.wish c v ≤ c.exp then s
    else match s.renewAtHA i c with
      | some t => if (t.ms.copies.find? i).isSome then t else s
      | none => s
  let s := match (if c.lvl = .l2 ∧ c.exp < s.wish c v then s.copyHit .l3 0 c.asid c.va else none) with
    | none => byHA s i c
    | some (j, g) =>
      let s := byHA s j g
      match s.ms.copies.find? j with
      | some g =>
        if g.upd.any (fun p => s.pt < p.1) then s
        else let (s, x) := s.passDown j g v; s.renewed i c (Nat.max c.exp x) (lineSlice g.data c.va c.lvl) g.bad
      | none => s
  (s, (s.ms.copies.find? i).getD c)

/-- A read through spaces 0x0 to 0x2 (R74, R107): the first level with a live copy serves it, the core's first; then the
die's L2, L3, and the HA; alloc names the levels that receive copies, the outermost first. A bucket of a collective in flight is read
past the caches (R415). -/
def State.cachedRead (s : State) (q : HaReq) (die core v : Nat) (look alloc : List Level) : State × HaRes :=
  let rec go : List Level → State × HaRes
    | [] => s.fill q die core alloc
    | lv :: lvs =>
      match s.copyHit lv (lv.unitOf die core) q.asid q.va with
      | none => go lvs
      | some (i, c) =>
        if c.heldTo s.pt q.who ≠ 0 then (s, .hold (c.heldTo s.pt q.who))
        else
          let s := s.touch i c
          if c.bad then (s, .fault .poison 2 0 (s.seqOf c))
          else
            let up := innerOf lv alloc
            if up = [] ∨ c.upd.any (fun p => s.pt < p.1) then (s, .ok (c.read q.va q.n) 0)
            else
              let (s, c) := s.stretch v i { c with used := s.ms.uses - 1 }
              let (s, x) := s.passDown i c v
              (s.placeChain v 0 die core q.asid q.va c.line (s.floorFor q.asid q.va) c.data c.bad up x, .ok (c.read q.va q.n) 0)
  if s.inBucket q.who q.asid q.va q.n then s.perform q .rd else go look

end Sys2Proof.Machine
end

