-- ==== Sys2Proof/Machine/Ops.lean ====
section
/-! DEFINITION. The shared operations of every instruction: threads and lanes, registers and operands (R162, R163, R174,
R190 to R195), the issue checks of R184, R186 and R197, completion flags and pending results (R184, R185), splits and
reconvergence (R165 to R167), taking a trap (R367 to R373) and the return from one (R341, R371, R376). -/

namespace Sys2Proof.Machine

/-- The outcome of a step or an instruction. -/
abbrev Out := Host.Outcome State Fault Refusal

/-! ### Threads and lanes -/

/-- The lanes of a mask, ascending. -/
def lanesOf (m : Mask) : List Nat := (List.range 32).filter (fun l => m.getLsbD l)

/-- The mask of one lane. -/
def laneBit (l : Nat) : Mask := BitVec.ofNat 32 (2 ^ l)

/-- The mask of the lanes of a list. -/
def maskOf (ls : List Nat) : Mask := ls.foldl (fun m l => m ||| laneBit l) 0

/-- The lowest lane of a mask, 32 for none. -/
def lowest (m : Mask) : Nat := ((lanesOf m).head?).getD 32

/-- The die of a thread (R163): 0 CD0, 1 CD1, 2 the host die. -/
def State.dieOf (s : State) (cid : Nat) : Nat :=
  if cid < 128 then 2 else match s.blk? (blkOf cid) with | some b => if b.cluster < 20 then 0 else 1 | none => 0

/-- The core of a thread, as the unit of its L1D and instruction cache. -/
def State.coreOf (s : State) (cid : Nat) : Nat :=
  if cid < 128 then 1000 + cid / 2
  else match s.blk? (blkOf cid) with | some b => b.cluster * 8 + b.core | none => 0

/-- The device's virtual cluster number of a physical cluster (R163, R397). -/
def State.vcluster (s : State) (v cl : Nat) : Nat :=
  let e (i : Nat) : Nat := s.fld (pslot v + 8 + 8 * (i / 8)) (8 * (i % 8)) 8
  ((List.range 40).find? (fun i => e i = cl + 128)).getD 0

/-- The special registers (R163). -/
def State.special (s : State) (cid : Nat) (c : Ctx) (lane : Nat) (r : SReg) : Nat :=
  match c.stream with
  | .host => match r with
    | .group => cid % 2 | .gangsize => 1 | .core => cid / 2 | .die => 2 | _ => 0
  | st =>
    match s.blk? c.blk with
    | none => 0
    | some b => match r with
      | .lane => if st = .cox then 0 else lane
      | .group => if st = .cox then 0xFFFFFFFF else c.grp
      | .block => b.num
      | .gang => b.gang
      | .gangsize => b.gsize
      | .core => b.core
      | .cluster => s.vcluster b.dev b.cluster
      | .die => if b.cluster < 20 then 0 else 1

/-! ### Registers -/

/-- A v register of a lane. -/
def Ctx.rv (c : Ctx) (l n : Nat) : Word32 := SMap.get 0 c.v (256 * l + n)
/-- An ix register of a lane. -/
def Ctx.rix (c : Ctx) (l m : Nat) : Word32 := SMap.get 0 c.ix (4 * l + m)
/-- An s register. -/
def Ctx.rs (c : Ctx) (n : Nat) : Word64 := SMap.get 0 c.s n
/-- A predicate of a lane; p7 reads 1 (R195). -/
def Ctx.rp (c : Ctx) (l n : Nat) : Bool := if n = 7 then true else (SMap.get 0 c.p n).getLsbD l
/-- A v register written. -/
def Ctx.wv (c : Ctx) (l n : Nat) (x : Word32) : Ctx := { c with v := SMap.set 0 c.v (256 * l + n) x }
/-- An ix register written. -/
def Ctx.wix (c : Ctx) (l m : Nat) (x : Word32) : Ctx := { c with ix := SMap.set 0 c.ix (4 * l + m) x }
/-- An s register written. -/
def Ctx.ws (c : Ctx) (n : Nat) (x : Word64) : Ctx := { c with s := SMap.set 0 c.s n x }
/-- A predicate written; p7 discards (R195). -/
def Ctx.wp (c : Ctx) (l n : Nat) (x : Bool) : Ctx :=
  if n = 7 then c
  else
    let old := SMap.get 0 c.p n
    { c with p := SMap.set 0 c.p n (if x then old ||| laneBit l else old &&& ~~~ laneBit l) }

/-- One register write; a v register outside the segment takes nothing (R247). -/
def Ctx.applyRW (c : Ctx) : RW → Ctx
  | .v l n x => if n < 32 * Nat.min c.seg 8 then c.wv l n x else c
  | .s n x => c.ws n x
  | .p l n x => c.wp l n x

/-- Several register writes, in order. -/
def Ctx.applyAll (c : Ctx) (ws : List RW) : Ctx := ws.foldl Ctx.applyRW c

/-- What the register of a write holds now. -/
def Ctx.old (c : Ctx) : RW → RW
  | .v l n _ => .v l n (c.rv l n)
  | .s n _ => .s n (c.rs n)
  | .p l n _ => .p l n (c.rp l n)

/-- Register writes of a result that lands, and what the registers held before; a host core waits for its results (R173, R185). -/
def Ctx.land (c : Ctx) (ws : List RW) : Ctx :=
  { c.applyAll ws with olds := if c.stream = .host then [] else c.olds ++ ws.map c.old }

/-- The thread as one of its operands may be read at an issue, its results having landed or not (R185): a free choice for each operand and
each register of what has landed since the thread's last issue. -/
def Ctx.asRead (c : Ctx) (olds : List RW) (pt op : Nat) : Ctx :=
  c.applyAll ((olds.zipIdx.filter (fun p => Config.early pt op p.2)).map (·.1))

/-- The v register an indexed operand names, when its descriptor permits (R192); w in bits. -/
def ixReg (d : Word32) (off : BitVec 6) (w seg : Nat) : Option Nat :=
  let base := bits d.toNat 0 8
  let len := bits d.toNat 8 8
  let i : Int := (bits d.toNat 16 8 : Nat) + off.toInt
  let n := (base : Int) + i
  if bits d.toNat 24 8 = 0 ∧ len ≠ 0 ∧ 0 ≤ i ∧ i < (len : Int) ∧ n.toNat % (w / 32) = 0 ∧ n.toNat + w / 32 ≤ 32 * Nat.min seg 8
  then some n.toNat else none

/-- The v register that a lane's direct or indexed operand names. -/
def Ctx.vreg (c : Ctx) (l w : Nat) : Opnd → Option Nat
  | .v n => some n.toNat
  | .vix m off => ixReg (c.rix l m.toNat) off w c.seg
  | _ => none

/-- Consecutive registers of a lane as one number, the first lowest (R191). -/
def Ctx.wide (c : Ctx) (l n : Nat) : Nat → Nat
  | 0 => 0
  | k + 1 => (c.rv l n).toNat + 2 ^ 32 * c.wide l (n + 1) k

/-- How a special source shorter than the operand is extended (R193, R230, R256). -/
inductive Ext where
  | zero | sign | f64
  deriving DecidableEq, Repr

/-- A 32-bit pattern extended to w bits. -/
def Ext.to (e : Ext) (w x : Nat) : Nat :=
  let y := x % 2 ^ 32
  if w ≤ 32 then y
  else match e with
    | .zero => y
    | .sign => wrap w (sx 32 y)
    | .f64 => fconv f32F f64F .rne 0 y

/-- The extension that a type selects. -/
def extOf (t : Ty) : Ext := if t = .f64 then .f64 else if t.signed then .sign else .zero

/-- The value of a source operand in a lane, w bits wide (R190 to R193). -/
def State.src (s : State) (cid : Nat) (c : Ctx) (l w : Nat) (e : Ext) (o : Opr) (x : Opnd) : Nat :=
  match x with
  | .v n => c.wide l n.toNat (w / 32)
  | .vix m off => match ixReg (c.rix l m.toNat) off w c.seg with | some n => c.wide l n (w / 32) | none => 0
  | .s n => (c.rs n.toNat).toNat % 2 ^ w
  | .sreg r => (if e = .f64 then Ext.zero else e).to w (s.special cid c l r)
  | .pt => s.pt % 2 ^ Nat.min w 64
  | .pred n => if c.rp l n.toNat then 1 else 0
  | .imm => e.to w o.imm.toNat
  | .ix m => (c.rix l m.toNat).toNat
  | .zero | .none => 0

/-- The register writes that put a w-bit result into a destination of a lane (R190, R191, R193, R230). -/
def Ctx.dst (c : Ctx) (l w : Nat) (sgn : Bool) (x : Opnd) (v : Nat) : List RW :=
  let run (n : Nat) : List RW := (List.range (w / 32)).map (fun j => .v l (n + j) (BitVec.ofNat 32 (v / 2 ^ (32 * j))))
  match x with
  | .v n => run n.toNat
  | .vix m off => match ixReg (c.rix l m.toNat) off w c.seg with | some n => run n | none => []
  | .s n => [.s n.toNat (BitVec.ofNat 64 (if w ≤ 32 ∧ sgn then wrap 64 (sx 32 v) else v))]
  | .pred n => [.p l n.toNat (decide (v ≠ 0))]
  | _ => []

/-- The stochastic-rounding state of a lane (R217). -/
def State.srOf (s : State) (c : Ctx) (l : Nat) : Word32 :=
  let num := match s.blk? c.blk with | some b => b.num | none => 0
  SMap.get (match c.stream with | .host => 1 | .cox => srStart num 0 32 | .lane => srStart num c.grp l) c.sr l

/-- The steps a lane's generator takes for n elements under SR; none in another mode (R217, R218). -/
def srDraw (rm : Rm) : Nat → Word32 → List Nat × Word32
  | 0, x => ([], x)
  | n + 1, x =>
    if rm = .sr then
      let y := srNext x
      let (us, z) := srDraw rm n y
      (y.toNat :: us, z)
    else
      let (us, z) := srDraw rm n x
      (0 :: us, z)

/-! ### The issuing thread -/

/-- An instruction at issue: its thread and split, the lanes that take part and the flag it sets. -/
structure Iss where
  i : Instr
  o : Opr
  cid : Nat
  k : Nat
  c : Ctx
  sp : Split
  part : Mask
  flag : Option Nat
  /-- What registers held before the results that have landed since the thread's last issue (R185). -/
  olds : List RW := []
  deriving DecidableEq, Repr

/-- The operands of an instruction, by their place. -/
inductive Operand where
  | a | b | c | d
  deriving DecidableEq, Repr

/-- The number of an operand's place; 0 is the guard. -/
def Operand.num : Operand → Nat
  | .a => 1 | .b => 2 | .c => 3 | .d => 4

/-- What stands in a place. -/
def Operand.of (o : Opr) : Operand → Opnd
  | .a => o.a | .b => o.b | .c => o.c | .d => o.d

/-- The lanes that take part (R194); in a replay, those of the resume mask, the guard not evaluated again (R284). -/
def partOf (c : Ctx) (sp : Split) (o : Opr) : Mask :=
  match sp.replay with
  | some m => m &&& sp.mask
  | none => maskOf ((lanesOf sp.mask).filter (fun l => c.rp l o.gp.toNat != o.gn))

/-- The line flag that FS names: the line word's field, none for FS 0 (R184). -/
def flagField (sp : Split) (o : Opr) : Option Nat :=
  if o.fs = 1 then some (bits sp.lw.toNat 4 4) else if o.fs = 2 then some (bits sp.lw.toNat 0 4) else none

/-- The thread that issues. -/
def State.thread (s : State) (i : Instr) : Option Iss :=
  match s.ctxs.find? s.cur.1, i.opr? with
  | some c, some o =>
    match c.splits.find? s.cur.2 with
    | some sp =>
      if sp.parked.isSome then none
      else
        some { i := i, o := o, cid := s.cur.1, k := s.cur.2, c := { c with olds := [] }, sp := sp,
               part := partOf (c.asRead c.olds s.pt 0) sp o, flag := flagField sp o, olds := c.olds }
    | none => none
  | _, _ => none

/-! ### Program counter, splits and reconvergence -/

/-- The address of the next instruction in sequence (R179). -/
def nextPc (pc : BitVec 64) : BitVec 64 := if pc.toNat % 64 = 48 then pc + 16 else pc + 12

/-- The innermost open set with a reconvergence address that holds any of the lanes (R165, R166). -/
def Ctx.setOf (c : Ctx) (j : BitVec 64) (m : Mask) : Option SEnt :=
  c.stack.find? (fun e => e.isSet && e.pc = j && e.mask &&& m ≠ 0)

/-- The split waits at its reconvergence address. -/
def Split.waits (sp : Split) : Bool := match sp.wait with | .atJoin _ | .join _ _ => true | _ => false

/-- Lanes of pushed paths and of splits that do not wait at the set's address (R166). -/
def Ctx.busy (c : Ctx) (e : SEnt) : Mask :=
  (c.splits.foldl (fun m p =>
      if p.2.waits && p.2.pc = e.pc && c.setOf e.pc p.2.mask = some e then m else m ||| p.2.mask) 0)
    ||| (c.stack.foldl (fun m x => if x.isSet then m else m ||| x.mask) 0)

/-- The latest pushed path of a set (R166). -/
def Ctx.pathOf (c : Ctx) (e : SEnt) : Option SEnt :=
  c.stack.find? (fun x => !x.isSet && x.join = some e.pc && c.setOf e.pc x.mask = some e)

/-- A pushed path starts in a slot. -/
def Ctx.startPath (c : Ctx) (k : Nat) (x : SEnt) : Ctx :=
  { c with stack := c.stack.erase x, splits := c.splits.put k { pc := x.pc, mask := x.mask, j := x.join, tgtDue := x.due } }

/-- The lowest free split slot of the four (R165). -/
def Ctx.freeSlot (c : Ctx) : Option Nat := (List.range 4).find? (fun k => (c.splits.find? k).isNone)

/-- The pushed path that runs in the slot of a split that has ended, by the open sets to which its lanes belonged, innermost first: the
latest path of the first set, or, when all lanes of that set have ended, of the set around it, and so on (R166). A path that belongs
to no set starts in the slot of the first split that ends (R249). -/
def Ctx.nextPath (c : Ctx) (sp : Split) : Option SEnt :=
  let rec go : List SEnt → Option SEnt
    | [] => none
    | e :: es => match c.pathOf e with
      | some x => some x
      | none => if e.mask &&& c.alive ≠ 0 then none else go es
  match go (c.stack.filter (fun e => e.isSet && e.mask &&& sp.was ≠ 0)) with
  | some x => some x
  | none => c.stack.find? (fun x => !x.isSet && x.join = none)

/-- A split moved to an address. A transfer enters its line anew; sequential flow enters only a new line (R184). No TMASK check is
due (R182). -/
def Split.moved (sp : Split) (pc : BitVec 64) (seq : Bool) : Split :=
  let stay := seq && decide (pc.toNat / 64 = sp.pc.toNat / 64)
  { sp with pc := pc, wait := .none, replay := none, merged := false, tgtDue := false, inLine := if stay then sp.inLine else none,
            lw := if stay then sp.lw else 0, line := if stay then sp.line else none }

/-- A split gives up its join.t (R167, R253): 0 in its predicate, past j with the reconvergence address J of the set, whose lanes it
no longer has. -/
def Ctx.giveUp (c : Ctx) (k : Nat) (sp : Split) (e : SEnt) (pd : Nat) (part : Mask) : Ctx :=
  let c := (lanesOf part).foldl (fun c l => c.wp l pd false) c
  { c with stack := c.stack.map (fun y => if y = e then { e with mask := e.mask &&& ~~~ sp.mask } else y),
           splits := c.splits.put k { (sp.moved (nextPc sp.pc) true) with j := e.join } }

/-- What becomes of an ended split's slot can be told from what is on chip: a path for it, or that there is none (R29, R166). -/
def Ctx.endKnown (c : Ctx) (sp : Split) : Bool :=
  (c.nextPath sp).isSome || c.spilled.isEmpty || (c.spilled.all (·.1) && c.stack.all (·.isSet))

/-- The splits that wait in their own slots at a set's address. -/
def Ctx.waiters (c : Ctx) (e : SEnt) : SMap Split := c.splits.filter (fun p => p.2.waits && p.2.pc = e.pc && c.setOf e.pc p.2.mask = some e)

/-- When a waiting split began to wait. -/
def Split.arrived (sp : Split) : Nat := match sp.wait with | .atJoin t | .join t _ => t | _ => 0

/-- When the last of a set's waiting splits began to wait. -/
def Ctx.lastIn (c : Ctx) (e : SEnt) : Nat := (c.waiters e).foldl (fun t p => Nat.max t p.2.arrived) 0

/-- Every unended lane of a set waits at its address (R166). -/
def Ctx.complete (c : Ctx) (e : SEnt) : Bool := (e.mask &&& c.alive) &&& c.busy e = 0

/-- Whether each split of a complete set gave up before the last one came can be told: the instruction at the address has been looked at for
those that came before (R167). -/
def Ctx.canMerge (c : Ctx) (e : SEnt) : Bool :=
  (c.waiters e).all (fun p => p.2.arrived = c.lastIn e || match p.2.wait with | .join _ _ => true | _ => false)

/-- A split of a set whose timeout ended before the last one came (R167): its slot, itself, the predicate that it writes and its lanes. -/
def Ctx.tooLate (c : Ctx) (e : SEnt) : Option (Nat × Split × Nat × Mask) :=
  (c.waiters e).findSome? (fun p => match p.2.wait with
    | .join _ (some (g, pd, part)) => if g < c.lastIn e then some (p.1, p.2, pd, part) else none
    | _ => none)

/-- One action of R166: a path popped into the slot of a split that has arrived or ended, a wait begun, a
merge, a join.t given up before the last arrival (R167), or a set whose lanes have all ended removed; none when nothing remains to do. A merged split whose new reconvergence address is
the same address has still to wait for the set around. -/
def Ctx.settle1 (pt : Nat) (c : Ctx) : Option Ctx :=
  match List.find? (fun p : Nat × Split => p.2.mask = 0 && c.endKnown p.2) c.splits with
  | some (k, sp) =>
    some (match c.nextPath sp with | some x => c.startPath k x | none => { c with splits := c.splits.erase k })
  | none =>
    match List.find? (fun p : Nat × Split => p.2.j = some p.2.pc && p.2.wait = .none && !p.2.merged && p.2.parked.isNone
        && (c.setOf p.2.pc p.2.mask).isSome) c.splits with
    | some (k, sp) =>
      (match c.setOf sp.pc sp.mask with
       | none => none
       | some e => match c.pathOf e with
         | some x => some (c.startPath k x)
         | none => some { c with splits := c.splits.put k { sp with wait := .atJoin pt } })
    | none =>
      match c.stack.find? (fun e => e.isSet && c.complete e && c.canMerge e) with
      | some e =>
        let rem := e.mask &&& c.alive
        if rem = 0 then some { c with stack := c.stack.erase e }
        else match c.tooLate e with
        | some (k, sp, pd, part) => some (c.giveUp k sp e pd part)
        | none =>
          let mine := c.waiters e
          let rest := c.splits.filter (fun p => !mine.contains p)
          let k := match mine with
            | p :: _ => some p.1
            | [] => (List.range 4).find? (fun k => (SMap.find? rest k).isNone)
          (match k with
           | none => none
           | some k => some { c with stack := c.stack.erase e,
                                     splits := SMap.put rest k { pc := e.pc, mask := rem, j := e.join, merged := e.join ≠ some e.pc } })
      | none => none

/-- All the actions of R166 that are due. -/
def Ctx.settle (pt : Nat) : Nat → Ctx → Ctx
  | 0, c => c
  | n + 1, c => match c.settle1 pt with | some c' => Ctx.settle pt n c' | none => c

/-- A split replaced. -/
def Ctx.setSplit (c : Ctx) (k : Nat) (sp : Split) : Ctx := { c with splits := c.splits.put k sp }

/-- A split moves on to the next instruction (R179). -/
def Ctx.advance (c : Ctx) (pt k : Nat) : Ctx :=
  match c.splits.find? k with
  | none => c
  | some sp =>
    let c := c.setSplit k (sp.moved (nextPc sp.pc) true)
    if sp.j = none then c else c.settle pt 64

/-! ### Completion flags and pending results -/

/-- The next free number of a map: one above the greatest. -/
def freshKey {α : Type} (m : SMap α) : Nat := m.foldl (fun a p => Nat.max a (p.1 + 1)) 0

/-- A flag's count raised or lowered (R184). -/
def Ctx.flagUp (c : Ctx) (f : Option Nat) : Ctx :=
  match f with | some n => { c with flags := SMap.set 0 c.flags n (SMap.get 0 c.flags n + 1) } | none => c
/-- A flag's count lowered (R184). -/
def Ctx.flagDown (c : Ctx) (f : Option Nat) : Ctx :=
  match f with | some n => { c with flags := SMap.set 0 c.flags n (SMap.get 0 c.flags n - 1) } | none => c

/-- The thread after an instruction whose results are available at once: its context, and the split moved on. -/
def State.retire (s : State) (x : Iss) (c : Ctx) : State := s.setCtx x.cid (c.advance s.pt x.k)

/-- The thread after an instruction whose results are still due (R184, R185). A host core counts no flag (R173). -/
def State.pend (s : State) (x : Iss) (c : Ctx) (r : Res) : State :=
  let f := if c.stream = .host then none else x.flag
  let c := c.flagUp f
  let c := { c with res := c.res.put (freshKey c.res) { r with flag := f } }
  s.retire x c

/-- The split holds at issue; the instruction has had no effect. -/
def State.holdAs (s : State) (x : Iss) (w : Wait) : State :=
  s.setCtx x.cid (x.c.setSplit x.k { x.sp with wait := w })

/-- Lanes end (R254): what is still due to them, the predicate of a pending rgrow included, is discarded; so are the s registers' results
when the cox ends. -/
def Ctx.endLanes (c : Ctx) (m : Mask) : Ctx :=
  let keep (w : RW) : Bool := match w with | .v l _ _ | .p l _ _ => !m.getLsbD l | .s _ _ => decide (c.alive &&& ~~~ m ≠ 0)
  { c with alive := c.alive &&& ~~~ m, res := c.res.map (fun r => (r.1, { r.2 with writes := r.2.writes.filter keep })),
           rgrow := if c.alive &&& ~~~ m = 0 then none else c.rgrow.map (fun r => { r with part := r.part &&& ~~~ m }) }

/-- A split whose lanes end: those lanes still name its sets (R166). -/
def Split.less (sp : Split) (m : Mask) : Split := { sp with mask := sp.mask &&& ~~~ m, was := sp.mask }

/-! ### Traps -/

/-- What a trap reports (R369, R370). -/
structure TrapInfo where
  cause : Cause
  qual : Nat := 0
  level : Nat := 0
  addr : BitVec 64 := 0
  lmask : Mask := 0
  pmask : Mask := 0
  aux : BitVec 64 := 0
  latch : Option Latch := none
  /-- lmask is a lane fault mask (R283); the instruction was not yet looked at. -/
  lanes : Bool := false
  fetch : Bool := false
  deriving DecidableEq, Repr

/-- The fault-queue slot of a thread: its device's, or the platform queue for a privileged host thread (R372). -/
def Ctx.fq (c : Ctx) : Nat := if c.stream = .host && c.priv then 64 else c.dev

/-- A number shifted to a bit position. -/
def at' (x lo n : Nat) : Nat := x % 2 ^ n * 2 ^ lo

/-- The 128-byte trap record (R370); kind 0 PARKED, 1 POSTED, 2 KILLED. -/
def State.trapRec (s : State) (cid : Nat) (c : Ctx) (pc : BitVec 64) (kind : Nat) (token : BitVec 64) (t : TrapInfo) :
    List Byte :=
  let b := s.blk? c.blk
  let blk := match c.stream with | .host => none | _ => b
  let l := t.latch
  leBytes 128 (at' t.cause.code 0 8 + at' t.qual 8 8 + at' t.level 16 4 + at' kind 20 3 + at' (bit l.isSome) 23 1
    + at' (match l with | some y => Nat.min y.count 255 | none => 0) 24 8 + at' c.dev 32 6
    + at' (bit (decide (c.stream = .cox))) 38 1 + at' (bit (decide (c.stream = .host))) 39 1 + at' c.asid 48 16
    + at' pc.toNat 64 56 + at' t.addr.toNat 128 64 + at' t.lmask.toNat 192 32 + at' t.pmask.toNat 224 32
    + at' t.aux.toNat 256 64 + at' token.toNat 320 64 + at' s.pt 384 64
    + at' (match blk with | some y => y.num | none => 0) 448 32 + at' (s.special cid c 0 .group) 480 32
    + at' (match blk with | some y => y.queue | none => 0) 512 8 + at' (match blk with | some y => y.lindex | none => 0) 520 32
    + (match l with
       | some y => at' y.a.toNat 576 64 + at' y.b.toNat 640 64 + at' y.c.toNat 704 64 + at' y.e.toNat 768 64
           + at' y.opc 832 10 + at' y.md 842 8 + at' y.imm.toNat 850 32
       | none => 0))

/-- The items that a release wait at a scope waits for have come (R102). A gang-peer access that returns no value counts from gang scope
on, through ac.rmt. -/
def State.released (s : State) (c : Ctx) (sc : Scope) : Bool :=
  let group := c.accs.all (fun p => p.2.reqs.all (fun r => match s.ms.reqs.find? r.2 with
    | some q => (match q.st with
      | .done _ _ => true | .failed _ _ _ _ => true | .confirmed _ _ => true
      | _ => decide (q.space = 5) && decide (p.2.kind = .store))
    | none => true))
    && c.res.all (fun p => !p.2.isMat)
  let blk := group && decide (c.gwct ≤ s.pt)
  let gang := blk && decide (SMap.get 0 c.ac 4 = 0)
  match sc with
  | .grp => group
  | .blk => blk
  | .gang | .die | .pkg => gang
  | .fab => gang && decide (c.rem8 = 0)

/-- The token of a new trap (R371). -/
def State.newToken (s : State) (dev : Nat) : BitVec 64 :=
  BitVec.ofNat 64 (s.fld fabB 0 10 + dev * 2 ^ 10 + s.trp.nextTok * 2 ^ 16)

/-- The block's discardable bit cleared (R382). -/
def State.clearDisc (s : State) (c : Ctx) : State :=
  match c.stream, s.blk? c.blk with
  | .host, _ | _, none => s
  | _, some b => s.setBlk c.blk { b with disc := false }

/-- A trap record enters its fault queue, when the thread's release wait is over, the ring has room and no earlier record
of the queue is held; otherwise it is held with the parked split (R368, R373). -/
def State.enterRecord (s : State) (h : Held) : State :=
  let f := fslot h.slot
  let ready := match s.ctxs.find? h.cid with | some c => s.released c .pkg | none => true
  if !ready || s.trp.held.any (fun x => x.slot = h.slot) || s.ringFull f (f + 8) then
    { s with trp := { s.trp with held := s.trp.held ++ [h] } }
  else let (s, g) := s.ringPut f (f + 8) h.bytes; s.tailLater (f + 8) g

/-- TAKING A TRAP (R367, R368): split k of a thread parks at its program counter under a new token, its block's
discardable bit is cleared, and its record is written or held. The instruction has had only the effect that its own entry
allows. -/
def State.takeTrap (s : State) (cid k : Nat) (t : TrapInfo) : State :=
  match s.ctxs.find? cid with
  | none => s
  | some c => match c.splits.find? k with
    | none => s
    | some sp =>
      let tok := s.newToken c.dev
      let rcd := s.trapRec cid c sp.pc 0 tok t
      let s := s.clearDisc c
      let s := s.setCtx cid (c.setSplit k { sp with parked := some tok, wait := .none, replay := none })
      let live : Tok :=
        { cid := cid, k := k, bytes := rcd, fmask := if t.lanes then some t.lmask else none, pmask := t.pmask, fetch := t.fetch }
      let s := { s with trp := { s.trp with nextTok := s.trp.nextTok + 1, toks := s.trp.toks.put s.trp.nextTok live } }
      s.enterRecord { slot := c.fq, bytes := rcd, pt := s.pt, cid := cid, k := k, token := tok }

/-- A trap of the issuing instruction. A cause that marks no lanes marks those that took part, or every lane of the split
when none did (R370). -/
def State.trapAt (s : State) (x : Iss) (t : TrapInfo) : State :=
  let pm := x.part
  let lm := if t.lmask ≠ 0 then t.lmask else if pm ≠ 0 then pm else x.sp.mask
  s.takeTrap x.cid x.k { t with lmask := lm, pmask := pm }

/-- How a trapped split is returned to (R341). -/
inductive Resume where
  /-- Replay the trapped instruction, for the lanes of a mask or with its guard evaluated, and a latched operation to issue
  again first. -/
  | replay (m : Option Mask) (l : Option Latch)
  /-- Go on at the next instruction. -/
  | skip
  /-- Go on at an address. -/
  | goto (pc : BitVec 64)
  /-- End the split's lanes. -/
  | endLanes
  deriving DecidableEq, Repr

/-- The state of another package's window that is bound here is said to that package; one of this package's own needs no message (R375). -/
def State.tellWin (s : State) (key stat : Nat) : State :=
  if key < 16 then s else s.tell ((key - 16) / 512, (key - 16) / 16 % 32) (.twState ((key - 16) % 16) stat)

/-- A token names nothing any more: its held record is gone and a window bound to it, another package's too, reads STALE (R371, R375). -/
def State.dropToken (s : State) (tokNum : Nat) : State :=
  let live (h : Held) : Bool := h.token.toNat / 2 ^ 16 ≠ tokNum
  let bound (p : Nat × TWin) : Bool :=
    p.2.stat ≠ 0 && p.2.token.toNat / 2 ^ 16 = tokNum && p.2.token.toNat % 2 ^ 10 = s.fld fabB 0 10
  let stale (p : Nat × TWin) : Nat × TWin := if bound p then (p.1, { p.2 with stat := 3 }) else p
  let told := (s.trp.wins.filter (fun p => bound p && decide (p.2.stat ≠ 3))).foldl (fun s p => s.tellWin p.1 3) s
  { told with trp := { s.trp with toks := s.trp.toks.erase tokNum, held := s.trp.held.filter live,
                                  wins := s.trp.wins.map stale } }

/-- THE RETURN FROM A TRAP (R341, R371, R376): the split is no longer parked, its token names nothing, and it replays, goes
on, is redirected or ends. One that trapped on the line at its reconvergence address waits there again before it issues (R166). -/
def State.returnFromTrap (s : State) (tokNum cid k : Nat) (r : Resume) : State :=
  let s := s.dropToken tokNum
  match s.ctxs.find? cid with
  | none => s
  | some c => match c.splits.find? k with
    | none => s
    | some sp =>
      let sp := { sp with parked := none, wait := Wait.none }
      match r with
      | .replay m l =>
        let d := c.setSplit k { sp with replay := m, relatch := l, inLine := none }
        s.setCtx cid (if sp.j = some sp.pc then Ctx.settle s.pt 64 d else d)
      | .skip => s.setCtx cid ((c.setSplit k { sp with inLine := none }).advance s.pt k)
      | .goto pc => s.setCtx cid (Ctx.settle s.pt 64 (c.setSplit k (sp.moved pc false)))
      | .endLanes =>
        let c := { c.endLanes sp.mask with endPc := sp.pc, endMask := sp.mask }
        s.setCtx cid (Ctx.settle s.pt 64 (c.setSplit k (sp.less sp.mask)))

/-! ### The checks of issue -/

/-- The instruction is ILL in this thread: a form no entry allows, a stream or register kind that may not hold it, a flag
select or line flag that is reserved (R180, R184, R189 to R193, R196 to R198). -/
def Iss.ill (x : Iss) : Bool :=
  let badField (n : Nat) : Bool := decide (12 ≤ n ∧ n ≤ 14)
  !x.i.wf || !x.i.streamOk x.c.stream || badField (bits x.sp.lw.toNat 4 4) || badField (bits x.sp.lw.toNat 0 4)
    || x.flag = some 15

/-- Lanes whose direct or indexed operands lie outside the segment or fail their descriptor (R174, R192). -/
def Iss.rangeFail (x : Iss) : Mask :=
  maskOf ((lanesOf x.part).filter (fun l => x.i.slots.any (fun y => match y.op with
    | .v n => decide (32 * x.c.seg < n.toNat + y.w / 32)
    | .vix m off => (ixReg (x.c.rix l m.toNat) off y.w x.c.seg).isNone
    | _ => false)))

/-- The opcodes of the privileged host profile (R197). -/
def privOnly : Instr → Bool
  | .tresume _ _ | .wrpriv _ _ | .rdpriv _ _ => true
  | _ => false

/-- The trap that the checks of R186 and R197 raise at issue, before the instruction's own. -/
def Iss.check (x : Iss) : Option TrapInfo :=
  if x.ill then some { cause := .ill }
  else if x.rangeFail ≠ 0 then some { cause := .range, lmask := x.rangeFail }
  else if privOnly x.i && !x.c.priv && x.part ≠ 0 then some { cause := .perm, qual := qPriv }
  else none

/-- The counters of R345 that every issue moves: ISS. -/
def Ctx.countIssue (c : Ctx) : Ctx := { c with ctr := SMap.set 0 c.ctr 1 (SMap.get 0 c.ctr 1 + 1) }

/-- The release wait that a read of %pt must see ended: that of an earlier release fence, which a value of %pt witnesses (R93,
R103, R116). -/
def State.ptWait (s : State) (x : Iss) : Option Scope :=
  match x.c.gRel with
  | some sc => if x.i.slots.any (fun y => decide (y.op = .pt)) && !s.released x.c sc then some sc else none
  | none => none

/-- An instruction at issue: the trap of its checks, nothing but the move to the next instruction when no lane takes part (R194), a
hold while its flag is at 63 (R184) or its %pt is not to be read yet, else its own effect. -/
def State.issue (s : State) (i : Instr) (always : Bool) (body : State → Iss → State) : Out :=
  match s.thread i with
  | none => .fault .noThread
  | some x =>
    match x.check with
    | some t => .next (s.trapAt x t)
    | none =>
      if x.part = 0 ∧ !always then .next (s.retire x x.c)
      else match s.ptWait x, x.flag with
        | some sc, _ => .next (s.holdAs x (.release sc))
        | none, some f =>
          if x.part ≠ 0 ∧ x.c.stream ≠ .host ∧ SMap.get 0 x.c.flags f = 63 then .next (s.holdAs x (.held 1))
          else .next (body s x)
        | none, none => .next (body s x)

/-- An instruction whose effect may also be a stop. -/
def State.issueOut (s : State) (i : Instr) (body : State → Iss → Out) : Out :=
  match s.thread i with
  | none => .fault .noThread
  | some x =>
    match x.check with
    | some t => .next (s.trapAt x t)
    | none => if x.part = 0 then .next (s.retire x x.c) else body s x

/-- The lanes of an instruction that computes each lane's writes from the values at issue. -/
def Iss.laneWrites (x : Iss) (f : Nat → List RW) : List RW := (lanesOf x.part).flatMap f

/-- An instruction whose results are available to the next one (R185, R229). -/
def State.lanewise (s : State) (i : Instr) (f : State → Iss → Nat → List RW) : Out :=
  s.issue i false (fun s x => s.retire x (x.c.applyAll (x.laneWrites (f s x))))

/-- A variable-latency instruction (R185). -/
def State.lanewiseVar (s : State) (i : Instr) (f : State → Iss → Nat → List RW) : Out :=
  s.issue i false (fun s x => s.pend x x.c { writes := x.laneWrites (f s x), flag := none })

/-- The generators of the participating lanes after each has taken n steps under SR (R218). -/
def State.srAfter (s : State) (x : Iss) (rm : Rm) (n : Nat) : SMap Word32 :=
  if rm = .sr then (lanesOf x.part).foldl (fun m l => m.put l (srDraw rm n (s.srOf x.c l)).2) x.c.sr else x.c.sr

/-- The rounding inputs of a lane's n elements. -/
def State.us (s : State) (x : Iss) (rm : Rm) (n l : Nat) : List Nat := (srDraw rm n (s.srOf x.c l)).1

/-- An instruction that rounds n elements in each lane (R218); its results are available at once, or due when late. -/
def State.rounding (s : State) (i : Instr) (rm : Rm) (n : Nat) (late : Bool)
    (f : State → Iss → Nat → List Nat → List RW) : Out :=
  s.issue i false (fun s x =>
    let ws := x.laneWrites (fun l => f s x l (s.us x rm n l))
    let c := { x.c with sr := s.srAfter x rm n }
    if late then s.pend x c { writes := ws, flag := none } else s.retire x (c.applyAll ws))

/-- The value of an operand of the issuing instruction that stands in the place with a number. -/
def Iss.rdAt (x : Iss) (s : State) (l w : Nat) (e : Ext) (n : Nat) (op : Opnd) : Nat :=
  s.src x.cid (x.c.asRead x.olds s.pt n) l w e x.o op

/-- A source value of the issuing instruction. -/
def Iss.rd (x : Iss) (s : State) (l w : Nat) (e : Ext) (op : Operand) : Nat := x.rdAt s l w e op.num (op.of x.o)

/-- The E operand of an instruction, 64 bits wide (R192). -/
def Iss.eWord (x : Iss) (s : State) (l : Nat) (e : BitVec 8) : BitVec 64 :=
  BitVec.ofNat 64 (x.rdAt s l 64 .zero 5 (eOpnd x.o.a e))

/-- The writes that put a result into D. -/
def Iss.wr (x : Iss) (l w : Nat) (sgn : Bool) (v : Nat) : List RW := x.c.dst l w sgn x.o.d v

/-- The pointer of a lane (R272). -/
def Iss.ptr (x : Iss) (s : State) (l : Nat) : Nat :=
  (x.rd s l 64 .zero .a + (x.o.imm.signExtend 64).toNat) % 2 ^ 64

end Sys2Proof.Machine
end

