-- ==== Sys2Proof/Machine/Fetch.lean ====
section
/-! DEFINITION. Fetch lines (R179 to R186): parity, the line word, the wait of the line, pairing, the target mask and the
instruction of a slot. -/

namespace Sys2Proof.Machine

/-- The line word (R179, R180). -/
def lineWord (bs : List Byte) : Nat := leNat (bs.drop 60)

/-- The line's bits without PAR. -/
def lineBits (bs : List Byte) : Nat := leNat bs % 2 ^ 508

/-- The parity that PAR should hold (R181). -/
def parityOf (bs : List Byte) : Nat :=
  let x := lineBits bs
  (List.range 4).foldl (fun a q => a + popcVal 128 (bits x (128 * q) 128) % 2 * 2 ^ q) 0

/-- The quarters whose parity does not match (R181). -/
def badQuarters (bs : List Byte) : Nat := parityOf bs ^^^ bits (lineWord bs) 28 4

/-- The slot of an address: its offset in the line is 12 times the slot (R179); none elsewhere. -/
def slotOf (pc : BitVec 64) : Option Nat :=
  let o := pc.toNat % 64
  if o % 12 = 0 ∧ o < 60 then some (o / 12) else none

/-- TMASK marks the slot (R182). -/
def tmask (lw i : Nat) : Bool := bits lw (20 + i) 1 = 1

/-- The first slots of the pairs of a template (R183). -/
def pairsOf : Nat → List Nat
  | 1 => [0] | 2 => [1] | 3 => [2] | 4 => [3] | 5 => [0, 2] | 6 => [0, 3] | 7 => [1, 3] | _ => []

/-- The 96-bit word of a slot. -/
def slotWord (bs : List Byte) (i : Nat) : Nat := leNat ((bs.drop (12 * i)).take 12)

/-- The instruction of a slot. -/
def slotInstr (bs : List Byte) (i : Nat) : Except DecodeError Instr := (decodeBytes (bs.drop (12 * i))).map (·.1)

/-- The issue class of an opcode (R183). -/
def issueClass (w : Nat) : IssueClass :=
  match bits w 93 3 with
  | 0 | 1 => .a | 2 => .b | 3 => .m | 5 | 6 => .x | _ => .c

/-- What an instruction about to issue writes: an indexed destination is the registers that its descriptors name, lane by lane (R192), and of
the accesses to memory only one to a gang peer's ASP raises an arrival counter (R90, R183). -/
def Iss.writesNow (x : Iss) (s : State) : List RegRes :=
  let named (sl : Slot) : List RegRes := match sl.op with
    | .vix m off => (lanesOf x.part).flatMap (fun l => match ixReg (x.c.rix l m.toNat) off sl.w x.c.seg with
        | some n => Slot.regs { sl with op := .v (BitVec.ofNat 8 n) }
        | none => [])
    | _ => sl.regs
  let peer : Bool := match x.i with
    | .st _ _ _ _ | .red _ _ _ _ _ | .atom _ _ _ _ _ | .cas _ _ _ _ | .kast _ _ _ =>
      (lanesOf x.part).any (fun l => decide (bits (x.ptr s l) 60 4 = 5))
    | _ => true
  (((x.i.slots.filter (·.wr)).flatMap named).filter (· ≠ .p 7)) ++ ((x.i.implWrites.filter (fun y => decide (y ≠ .ac) || peer)).map .imp)

/-- The same for a split that stands at the instruction. -/
def State.writesAt (s : State) (cid k : Nat) (c : Ctx) (sp : Split) (i : Instr) : List RegRes :=
  match i.opr? with
  | some o => ({ i := i, o := o, cid := cid, k := k, c := c, sp := sp, part := partOf c sp o, flag := none } : Iss).writesNow s
  | none => i.writes

/-- The reason for which a pair that is about to issue raises PAIR (R183). -/
def State.pairFault (s : State) (cid k : Nat) (c : Ctx) (sp : Split) (bs : List Byte) (i : Nat) : Option Nat :=
  let c1 := issueClass (slotWord bs i)
  let c2 := issueClass (slotWord bs (i + 1))
  if c1 = .c ∨ c2 = .c ∨ c1 = c2 then some 0
  else match slotInstr bs i, slotInstr bs (i + 1) with
    | .ok a, .ok b =>
      let w := s.writesAt cid k c sp a
      let wv := a.writes.any (fun r => match r with | .v _ | .anyV => true | _ => false)
      if b.reads.any (fun r => w.contains r) || (wv && b.indexed) then some 1
      else if (s.writesAt cid k c sp b).any (fun r => w.contains r) then some 2
      else none
    | _, _ => none

/-- The tag of a thread's fetches, the party that reads, the L2 that they pass and their traffic class (R81). -/
def State.fetchReq (s : State) (cid : Nat) (c : Ctx) (pc : BitVec 64) : HaReq :=
  { asid := c.asid, va := pc.toNat / 64 * 64 % 2 ^ 56, n := 64, priv := c.stream = .host && c.priv, who := fetchW cid,
    atL := .l2 (s.dieOf cid), fetch := true, tc := if c.stream = .host then 0 else 1 }

/-- The bytes of the line at an address in the instruction cache, or the outcome of fetching it (R69, R79). -/
def State.fetchLine (s : State) (cid : Nat) (c : Ctx) (pc : BitVec 64) (fromL2 : Bool) : State × HaRes :=
  let q := s.fetchReq cid c pc
  s.cachedRead q (s.dieOf cid) (s.coreOf cid) c.dev (if fromL2 then [.l2, .l3] else [.ic, .l2, .l3]) [.l3, .l2, .ic]

/-- The line is dropped from the core's instruction cache. -/
def State.dropLine (s : State) (cid : Nat) (c : Ctx) (pc : BitVec 64) : State :=
  s.dropCopies (fun d => d.lvl = .ic && d.unit = s.coreOf cid && d.asid = c.asid && d.va = pc.toNat / 64 * 64 % 2 ^ 56)

/-- A trap of a fetch at the split's address (R181, R186). -/
def State.fetchTrap (s : State) (cid k : Nat) (sp : Split) (t : TrapInfo) : State :=
  s.takeTrap cid k { t with lmask := sp.mask, pmask := sp.mask, fetch := true }

/-- A fetched line placed in the split, its target mask checked when that is still due (R157, R182). -/
def State.loadLine (s : State) (cid k : Nat) (bs : List Byte) : State :=
  match s.ctxs.find? cid with
  | none => s
  | some c => match c.splits.find? k with
    | none => s
    | some sp =>
      let lw := lineWord bs
      let ok := match slotOf sp.pc with | some i => tmask lw i | none => false
      let sp' := { sp with line := some bs, lw := BitVec.ofNat 32 lw, tgtDue := false }
      let s' := s.setCtx cid (c.setSplit k sp')
      if sp.tgtDue ∧ !ok then s'.fetchTrap cid k sp { cause := .tgt } else s'

/-- A line fetched for a split: parity is checked and a mismatching line is fetched once more from the L2; what still
mismatches raises LINE, and a fetch fault is reported at the split's address (R181, R186). -/
def State.lineFetch (s : State) (cid k : Nat) : Option State :=
  match s.ctxs.find? cid with
  | none => none
  | some c => match c.splits.find? k with
    | none => none
    | some sp =>
      if sp.parked.isSome || sp.line.isSome then none
      else
        let give (s : State) (r : HaRes) (bad : State → Nat → State) : State :=
          match r with
          | .ok v _ =>
            let bs := leBytes 64 v
            if badQuarters bs = 0 then s.loadLine cid k bs else bad s (badQuarters bs)
          | .fault cs q lv aux => s.fetchTrap cid k sp { cause := cs, qual := q, level := lv, aux := aux }
          | _ => s
        let (s, r) := s.fetchLine cid c sp.pc false
        some (give s r (fun _ _ =>
          let s := s.dropLine cid c sp.pc
          let (s, r) := s.fetchLine cid c sp.pc true
          give s r (fun s q => s.fetchTrap cid k sp { cause := .line, qual := q })))

/-- The thread runs: its block is resident (R379). -/
def State.onCore (s : State) (c : Ctx) : Bool :=
  match c.stream, s.blk? c.blk with | .host, _ => true | _, some b => b.st = .resident | _, none => false

/-- LINE_FETCH (R181). -/
def execLineFetch (w : Who) (s : State) : Out :=
  match (s.ctxs.find? w.cid).filter s.onCore, s.lineFetch w.cid w.k with
  | some _, some s' => .next s'
  | _, _ => .refused (.notEnabled "LINE_FETCH")

end Sys2Proof.Machine
end

