-- ==== Sys2Proof/Machine/Control.lean ====
section
/-! DEFINITION. Class 100: branches, calls, returns, joins, exit and nop, with the return and reconvergence stacks and
their spills (R26 to R30, R165 to R167, R169, R182, R188, R248 to R255). -/

namespace Sys2Proof.Machine

/-! ### Lane-local memory as hardware uses it -/

/-- The group spill area (R26), taken modulo 2^56: the spec states no wrap (log entry 102). -/
def Ctx.spillVa (c : Ctx) (n : Nat) : Nat :=
  (c.llbase.toNat + c.llslot * c.llFrame + c.llW * c.llBytes + 32 * n) % 2 ^ 56

/-- The request of a spill or refill (R30). -/
def State.llReq (s : State) (cid : Nat) (c : Ctx) (va n : Nat) : HaReq :=
  { asid := c.asid, va := va, n := n, priv := c.stream = .host && c.priv, who := threadW cid va, atL := .l2 (s.dieOf cid),
    tc := if c.stream = .host then 0 else 1 }

/-- The issuing core's L1D copy of a line is removed, and what its KVT holds of it (R79, R146). -/
def State.dropL1 (s : State) (cid asid va : Nat) : State :=
  let u := s.coreOf cid
  let s := s.dropCopies (fun d => (d.lvl = .l1 || d.lvl = .kvt) && d.unit = u && d.asid = asid && d.va = va / 128 * 128)
  { s with kv := { s.kv with kvt := s.kv.kvt.filter (fun r => !(r.core = u && r.asid = asid && r.lines.contains (va / 128))) } }

/-- The thread has an access under way that has not been performed or refused. -/
def State.busyReqs (s : State) (cid : Nat) : Bool :=
  s.ms.reqs.any (fun p => p.2.cid = cid && match p.2.st with | .done _ _ | .failed _ _ _ _ => false | _ => true)

/-- A store made by hardware for a thread, as a space-0x0 store; it comes after the thread's earlier accesses (R30). -/
def State.innerStore (s : State) (cid : Nat) (c : Ctx) (va : Nat) (bs : List Byte) : State × HaRes :=
  if s.busyReqs cid then (s, .hold (s.pt + 1)) else
  (s.dropL1 cid c.asid va).perform (s.llReq cid c va bs.length) (.wr bs)

/-- A load made by hardware for a thread, as a space-0x0 load (R30, R74, R107); bytes that the thread's own writes still hide from others
are not taken from L1D (R97). -/
def State.innerLoad (s : State) (cid : Nat) (c : Ctx) (va n : Nat) : State × HaRes :=
  if s.busyReqs cid then (s, .hold (s.pt + 1)) else
  s.cachedRead (s.llReq cid c va n) (s.dieOf cid) (s.coreOf cid) c.dev
    ((if s.ownPending (threadW cid va) then [] else [.l1]) ++ (if s.l2Owns (s.dieOf cid) c.asid va then [] else [.l2, .l3])) [.l3, .l2, .l1]

/-- What an effect that touches memory comes to: done with the thread's new context, a trap of the instruction, or a wait. -/
inductive Eff where
  | ok (c : Ctx)
  | trap (t : TrapInfo)
  | hold
  deriving DecidableEq, Repr

/-- GWCT raised by a write's completion time (R102). -/
def Ctx.sawG (c : Ctx) (g : Nat) : Ctx := { c with gwct := Nat.max c.gwct g }

/-- The outcome of one access by hardware, for the lanes it serves. DEDUCED (log entry 82): the ADDR of a fault on a spill or refill is the
global address of the access. -/
def effOf (r : HaRes) (c : Ctx) (lm : Mask) (va : Nat) (f : Nat → Ctx) : Eff :=
  match r with
  | .ok v g => .ok ((f v).sawG g)
  | .fault cs q lv aux => .trap { cause := cs, qual := q, level := lv, addr := BitVec.ofNat 64 va, aux := aux, lmask := lm }
  | .hold _ | .window _ _ _ _ | .side _ => let _ := c; .hold

/-- A store that hardware makes: address, bytes, the lanes that it serves. -/
abbrev HwStore := Nat × List Byte × Mask

/-- Stores that hardware makes for one instruction, all of them or none (R30): the one that cannot be made is tried alone, for its
translation and its fault. -/
def State.innerStores (s : State) (cid : Nat) (c : Ctx) (ws : List HwStore) : State × Eff :=
  let rec go (t : State) (g : Nat) : List HwStore → State × Eff
    | [] => (t, .ok (c.sawG g))
    | w :: ws => match t.innerStore cid c w.1 w.2.1 with
      | (t, .ok _ h) => go t (Nat.max g h) ws
      | (_, r) => (match s.innerStore cid c w.1 w.2.1 with
        | (_, .ok _ _) => (s, effOf r c w.2.2 w.1 (fun _ => c))
        | (s, _) => (s, effOf r c w.2.2 w.1 (fun _ => c)))
  go s 0 ws

/-! ### The reconvergence stack -/

/-- The 32-byte image of an entry (R29). DESIGN CHOICE (log entry 83): an entry without a reconvergence address has JOIN 0, and whether
an entry is a set or a path is kept on chip. -/
def SEnt.image (e : SEnt) : List Byte :=
  leBytes 32 (e.pc.toNat % 2 ^ 56 + (match e.join with | some j => j.toNat % 2 ^ 56 | none => 0) * 2 ^ 64
    + e.mask.toNat * 2 ^ 128)

/-- Oldest on-chip entries spilled until eight remain (R29), by fuel: the stack and the stores that this takes. -/
def Ctx.spillStack : Nat → Ctx → List HwStore → Ctx × List HwStore
  | 0, c, ws => (c, ws)
  | n + 1, c, ws =>
    if c.stack.length ≤ 8 then (c, ws)
    else match c.stack.getLast? with
      | none => (c, ws)
      | some e => Ctx.spillStack n { c with stack := c.stack.dropLast, spilled := (e.isSet, e.due) :: c.spilled }
          (ws ++ [(c.spillVa c.spilled.length, e.image, 0)])

/-- The newest spilled entry refilled (R29): found as memory holds it; a reserved bit raises SPACE, STACK. -/
def State.refillStack (s : State) (cid : Nat) (c : Ctx) : State × Eff :=
  match c.spilled with
  | [] => (s, .ok c)
  | (isSet, due) :: rest =>
    let va := c.spillVa rest.length
    let (s, r) := s.innerLoad cid c va 32
    match r with
    | .ok v _ =>
      if bits v 56 8 ≠ 0 ∨ bits v 120 8 ≠ 0 ∨ bits v 160 96 ≠ 0 then (s, .trap { cause := .space, qual := 3 })
      else
        let j := bits v 64 56
        let e : SEnt :=
          { isSet := isSet, pc := BitVec.ofNat 64 (bits v 0 56),
            join := if j = 0 then none else some (BitVec.ofNat 64 j), mask := BitVec.ofNat 32 (bits v 128 32), due := due }
        (s, .ok { c with stack := c.stack ++ [e], spilled := rest })
    | r => (s, effOf r c 0 va (fun _ => c))

/-- The refills after which what becomes of an ended split's slot is known (R29, R166), by fuel: they are made on behalf of the
instruction that ends it. -/
def State.refillEnded (s : State) (cid k : Nat) : Nat → Ctx → State × Eff
  | 0, c => (s, .ok c)
  | n + 1, c =>
    match c.splits.find? k with
    | none => (s, .ok c)
    | some sp =>
      if sp.mask ≠ 0 ∨ c.endKnown sp then (s, .ok c)
      else match s.refillStack cid c with
        | (s, .ok c) => s.refillEnded cid k n c
        | r => r

/-! ### Targets -/

/-- line(PC) + 64 × lines + 12 × slot, modulo 2^64 (R188). -/
def codeAddr (pc : BitVec 64) (line : BitVec 64) (slot : Nat) : BitVec 64 :=
  BitVec.ofNat 64 (pc.toNat / 64 * 64) + line * 64 + BitVec.ofNat 64 (12 * slot)

/-- The address of a code pointer (R188). -/
def codePtrAddr (p : CodePtr) (pc : BitVec 64) : BitVec 64 := codeAddr pc (p.line.signExtend 64) p.slot.toNat
/-- The address of a reconvergence pointer (R188). -/
def joinPtrAddr (p : JoinPtr) (pc : BitVec 64) : BitVec 64 := codeAddr pc (p.line.signExtend 64) p.slot.toNat

/-- What the target mask says of an address: allowed, refused, not to be had because the line faults, or a wait (R182). -/
inductive Tgt where
  | good | bad | unknown | hold
  deriving DecidableEq, Repr

/-- The TMASK check of a target in a line that can be fetched without fault (R182). -/
def State.checkTgt (s : State) (cid : Nat) (c : Ctx) (pc : BitVec 64) : State × Tgt :=
  let judge (bs : List Byte) : Tgt :=
    if badQuarters bs ≠ 0 then .unknown
    else match slotOf pc with | some i => if tmask (lineWord bs) i then .good else .bad | none => .bad
  match s.fetchLine cid c pc false with
  | (s, .ok v _) =>
    if badQuarters (leBytes 64 v) = 0 then (s, judge (leBytes 64 v))
    else match (s.dropLine cid c pc).fetchLine cid c pc true with
      | (s, .ok v _) => (s, judge (leBytes 64 v))
      | (s, .fault _ _ _ _) => (s, .unknown)
      | (s, _) => (s, .hold)
  | (s, .fault _ _ _ _) => (s, .unknown)
  | (s, _) => (s, .hold)

/-- The checks of R250 on the targets of the taken lanes, before any lane moves: addresses, slots, target masks. The answer
names the targets whose line could not be read. -/
def State.checkTargets (s : State) (cid : Nat) (c : Ctx) (ts : List (Nat × BitVec 64)) (j : Option (BitVec 64)) :
    State × Eff × List (BitVec 64) :=
  let far (a : BitVec 64) : Bool := decide (2 ^ 56 ≤ a.toNat)
  let jFar := match j with | some a => far a | none => false
  let bad1 := maskOf ((ts.filter (fun t => far t.2 || jFar)).map (·.1))
  if bad1 ≠ 0 then
    (s, .trap { cause := .space, qual := 2, lmask := bad1, addr := ((ts.find? (fun t => far t.2)).map (·.2)).getD (j.getD 0) },
      [])
  else
    let bad2 := maskOf ((ts.filter (fun t => (slotOf t.2).isNone)).map (·.1))
    let (s, verdicts) := ((ts.map (·.2)).dedup).foldl (fun (r : State × List (BitVec 64 × Tgt)) a =>
      if (slotOf a).isNone then r else let (s', v) := r.1.checkTgt cid c a; (s', (a, v) :: r.2)) (s, [])
    let is (a : BitVec 64) (v : Tgt) : Bool := verdicts.any (fun p => p.1 = a && p.2 = v)
    let bad3 := maskOf ((ts.filter (fun t => is t.2 .bad)).map (·.1))
    if bad2 ||| bad3 ≠ 0 then
      let l := lowest (bad2 ||| bad3)
      (s, .trap { cause := .tgt, qual := if bad2.getLsbD l then 1 else 0, lmask := bad2 ||| bad3 }, [])
    else if verdicts.any (fun p => p.2 = .hold) then (s, .hold, [])
    else (s, .ok c, (verdicts.filter (fun p => p.2 = .unknown)).map (·.1))

/-! ### Paths -/

/-- The paths of a split's lanes: N first at the next instruction, then the taken ones by their lowest lane; lanes at one
address are one path (R165, R249). -/
def pathsOf (next : BitVec 64) (n : Mask) (ts : List (Nat × BitVec 64)) : List (BitVec 64 × Mask) :=
  let all := (lanesOf n).map (fun l => (l, next)) ++ ts
  ((all.map (·.2)).dedup.map (fun a => (a, maskOf ((all.filter (fun p => p.2 = a)).map (·.1))))).insertionSort
    (fun p q => (p.1 = next ∧ n ≠ 0) ∨ (¬(q.1 = next ∧ n ≠ 0) ∧ lowest p.2 ≤ lowest q.2))

/-- The split's lanes go different ways: the first path keeps the slot, the others take free slots or are pushed (R165,
R249). With j a set is opened; without, the paths keep the split's own reconvergence address. -/
def Ctx.diverge (c : Ctx) (k : Nat) (sp : Split) (paths : List (BitVec 64 × Mask)) (j : Option (BitVec 64))
    (due : List (BitVec 64)) : Ctx :=
  let jj := match j with | some a => some a | none => sp.j
  let mk (sp : Split) (p : BitVec 64 × Mask) : Split :=
    { (sp.moved p.1 false) with mask := p.2, j := jj, tgtDue := due.contains p.1 }
  let c := match j with
    | some a => { c with stack := { isSet := true, pc := a, join := sp.j, mask := sp.mask } :: c.stack }
    | none => c
  match paths with
  | [] => c
  | p :: ps =>
    ps.foldl (fun c q => match c.freeSlot with
      | some f => c.setSplit f (mk { pc := q.1, mask := q.2, last := sp.last } q)
      | none => { c with stack := { isSet := false, pc := q.1, join := jj, mask := q.2, due := due.contains q.1 } :: c.stack })
      (c.setSplit k (mk sp p))

/-- Entries that a divergence pushes on the reconvergence stack. -/
def Ctx.pushes (c : Ctx) (paths : List (BitVec 64 × Mask)) (j : Option (BitVec 64)) : Nat :=
  let free := 4 - c.splits.length
  (if j.isSome then 1 else 0) + (paths.length - 1 - free)

/-- Where the lanes of a split go: c with the split moved, or split up, and the stores of the entries that this spills; none when the
reconvergence stack cannot hold them (R165, R249). -/
def Ctx.go (c : Ctx) (k : Nat) (sp : Split) (ts : List (Nat × BitVec 64)) (j : Option (BitVec 64)) (due : List (BitVec 64)) :
    Option (Ctx × List HwStore) :=
  match pathsOf (nextPc sp.pc) (sp.mask &&& ~~~ maskOf (ts.map (·.1))) ts with
  | [p] => some (c.setSplit k { (sp.moved p.1 false) with tgtDue := due.contains p.1 }, [])
  | paths =>
    if 136 < c.stack.length + c.spilled.length + c.pushes paths j then none
    else some (Ctx.spillStack 64 (c.diverge k sp paths j due) [])

/-- Lanes of split sp, which the issuing split has become, sent to their targets, the others to the next instruction (R249, R250): the
checks have passed. What this spills is stored with the stores already due, or the instruction has no effect (R30). -/
def State.transfer (s : State) (x : Iss) (c : Ctx) (sp : Split) (ws : List HwStore) (ts : List (Nat × BitVec 64))
    (j : Option (BitVec 64)) (due : List (BitVec 64)) : State :=
  match c.go x.k sp ts j due with
  | none => s.trapAt x { cause := .space, qual := 3 }
  | some (c, more) => match s.innerStores x.cid c (ws ++ more) with
    | (s, .ok c) => s.setCtx x.cid (Ctx.settle s.pt 64 c)
    | (s, .trap t) => s.trapAt x t
    | (s, .hold) => s.holdAs x (.held 4)

/-- A branch: the taken lanes' targets checked, then every lane moved (R249, R250). A reconvergence address is ignored
where nothing diverges (R255). -/
def State.branch (s : State) (x : Iss) (c : Ctx) (ts : List (Nat × BitVec 64)) (j : Option (BitVec 64)) : State :=
  match s.checkTargets x.cid c ts j with
  | (s, .trap t, _) => s.trapAt x t
  | (s, .hold, _) => s.holdAs x (.held 4)
  | (s, .ok c, due) => s.transfer x c x.sp [] ts (if c.stream = .lane then j else none) due

/-- The lanes that take part, each with one target. -/
def Iss.to (x : Iss) (a : BitVec 64) : List (Nat × BitVec 64) := (lanesOf x.part).map (fun l => (l, a))

/-- The lanes that take part, each with the target in its own A register (R250). -/
def Iss.toA (x : Iss) (s : State) : List (Nat × BitVec 64) :=
  (lanesOf x.part).map (fun l => (l, BitVec.ofNat 64 (x.rd s l 64 .zero .a)))

/-- bra (R250, R255). -/
def execBra (o : Opr) (tgt : CodePtr) (j : Option JoinPtr) (s : State) : Out :=
  s.issue (.bra o tgt j) false (fun s x => s.branch x x.c (x.to (codePtrAddr tgt x.sp.pc)) (j.map (fun p => joinPtrAddr p x.sp.pc)))

/-- brx (R250, R255). -/
def execBrx (o : Opr) (j : Option JoinPtr) (s : State) : Out :=
  s.issue (.brx o j) false (fun s x => s.branch x x.c (x.toA s) (j.map (fun p => joinPtrAddr p x.sp.pc)))

/-! ### Calls and returns -/

/-- A lane whose call needs a spill entry that does not exist (R28, R169). -/
def Ctx.callFull (c : Ctx) (l : Nat) : Bool :=
  decide (4 ≤ (SMap.get [] c.ret l).length) &&
    (c.stream = .cox || c.llsize = 0 || decide (128 ≤ SMap.get 0 c.retSp l))

/-- The addresses of the two words of a lane's spilled return entry n (R26, R28). -/
def Ctx.retVas (c : Ctx) (l n : Nat) : Nat × Nat :=
  (c.llVa l (c.llBytes - 8 * (n + 1)), c.llVa l (c.llBytes - 8 * (n + 1) + 4))

/-- A spilled return entry read back (R28). -/
def State.retLoad (s : State) (cid : Nat) (c : Ctx) (l n : Nat) : State × HaRes :=
  match s.innerLoad cid c (c.retVas l n).1 4 with
  | (s, .ok a _) => (match s.innerLoad cid c (c.retVas l n).2 4 with
    | (s, .ok b _) => (s, .ok (a + b * 2 ^ 32) 0)
    | r => r)
  | r => r

/-- The return address pushed for each lane, oldest entries spilling: the stacks and the stores that this takes (R28, R251). -/
def Ctx.pushRet (a : BitVec 64) : List Nat → Ctx → List HwStore → Ctx × List HwStore
  | [], c, ws => (c, ws)
  | l :: ls, c, ws =>
    let st := SMap.get [] c.ret l
    if st.length < 4 then Ctx.pushRet a ls { c with ret := c.ret.put l (a :: st) } ws
    else
      let n := SMap.get 0 c.retSp l
      let y := ((st.getLast?).getD 0).toNat % 2 ^ 56
      Ctx.pushRet a ls { c with ret := c.ret.put l (a :: st.dropLast), retSp := c.retSp.put l (n + 1) }
        (ws ++ [((c.retVas l n).1, leBytes 4 y, laneBit l), ((c.retVas l n).2, leBytes 4 (y / 2 ^ 32), laneBit l)])

/-- A call (R251): every check before any lane pushes or moves, then the pushes and the transfer, whose spills are made together; the
lanes reconverge at the return address when they go more than one way. The spec does not order the checks of the targets and the
STACK check of R28: the targets come first here (log entry 102). -/
def State.callTo (s : State) (x : Iss) (ts : List (Nat × BitVec 64)) : State :=
  let ret := nextPc x.sp.pc
  let apart : Bool := x.c.stream = .lane && decide (1 < (pathsOf ret (x.sp.mask &&& ~~~ maskOf (ts.map (·.1))) ts).length)
  match s.checkTargets x.cid x.c ts (if apart then some ret else none) with
  | (s, .trap t, _) => s.trapAt x t
  | (s, .hold, _) => s.holdAs x (.held 4)
  | (s, .ok c, due) =>
    let full := maskOf ((lanesOf x.part).filter c.callFull)
    if full ≠ 0 then s.trapAt x { cause := .space, qual := 3, lmask := full }
    else
      let (c, ws) := Ctx.pushRet ret (lanesOf x.part) c []
      s.transfer x c x.sp ws ts (if apart then some ret else none) due

/-- call (R251, R255). -/
def execCall (o : Opr) (tgt : CodePtr) (s : State) : Out :=
  s.issue (.call o tgt) false (fun s x => s.callTo x (x.to (codePtrAddr tgt x.sp.pc)))

/-- callx (R251, R255). -/
def execCallx (o : Opr) (s : State) : Out := s.issue (.callx o) false (fun s x => s.callTo x (x.toA s))

/-- The newest return address popped for each lane, refilling when its on-chip stack is empty; a lane with none is left out
(R28, R252). -/
def State.popRet (s : State) (x : Iss) : List Nat → Ctx → List (Nat × BitVec 64) → State × Eff × List (Nat × BitVec 64)
  | [], c, ts => (s, .ok c, ts.reverse)
  | l :: ls, c, ts =>
    match SMap.get [] c.ret l with
    | a :: st => s.popRet x ls { c with ret := c.ret.put l st } ((l, a) :: ts)
    | [] =>
      let n := SMap.get 0 c.retSp l
      if n = 0 then s.popRet x ls c ts
      else
        let (s, r) := s.retLoad x.cid c l (n - 1)
        match r with
        | .ok v _ => s.popRet x ls { c with retSp := c.retSp.put l (n - 1) } ((l, BitVec.ofNat 64 v) :: ts)
        | r => (s, effOf r c (laneBit l) (c.llVa l (c.llBytes - 8 * n)) (fun _ => c), [])

/-- Lanes end (R254): they leave every set; the split's other lanes stay where they are. -/
def Iss.endLanes (x : Iss) (c : Ctx) (m : Mask) : Ctx × Split :=
  ({ c.endLanes m with endPc := x.sp.pc, endMask := m }, x.sp.less m)

/-- The split has ended with the instruction's last lane; a pushed path takes its slot, refilled if need be (R30, R166). -/
def State.endSplit (s : State) (x : Iss) (c : Ctx) (sp : Split) : State :=
  match s.refillEnded x.cid x.k 130 (c.setSplit x.k sp) with
  | (s, .ok c) => s.setCtx x.cid (Ctx.settle s.pt 64 c)
  | (s, .trap t) => s.trapAt x t
  | (s, .hold) => s.holdAs x (.held 4)

/-- The lanes whose return address came from the spill region with [63:56] not zero: a refilled entry that is invalid (R28, R33). -/
def Iss.badRefill (x : Iss) (ts : List (Nat × BitVec 64)) : Mask :=
  maskOf ((ts.filter (fun t => (SMap.get [] x.c.ret t.1).isEmpty && decide (2 ^ 56 ≤ t.2.toNat))).map (·.1))

/-- ret (R252, R255). A refilled entry with [63:56] not zero raises SPACE, STACK (R33's row) before R252's check of the popped
addresses could give BOUNDS, which the spec does not order (log entry 102). -/
def execRet (o : Opr) (s : State) : Out :=
  s.issue (.ret o) false (fun s x =>
    match s.popRet x (lanesOf x.part) x.c [] with
    | (s, .trap t, _) => s.trapAt x t
    | (s, .hold, _) => s.holdAs x (.held 4)
    | (s, .ok c, ts) =>
      if x.badRefill ts ≠ 0 then s.trapAt x { cause := .space, qual := 3, lmask := x.badRefill ts }
      else match s.checkTargets x.cid c ts none with
      | (s, .trap t, _) => s.trapAt x t
      | (s, .hold, _) => s.holdAs x (.held 4)
      | (s, .ok c, due) =>
        let ended := x.part &&& ~~~ maskOf (ts.map (·.1))
        let (c, sp) := x.endLanes c ended
        if sp.mask = 0 then s.endSplit x c sp else s.transfer x c sp [] ts none due)

/-- The split waits at its reconvergence address, looked at; for join.t until it gives up (R166, R167, R253). -/
def State.joinWait (s : State) (x : Iss) (give : Option (Nat × Nat)) (merged : List RW) : State :=
  let here := x.c.stream = .lane && !x.sp.merged && x.sp.j = some x.sp.pc && (x.c.setOf x.sp.pc x.sp.mask).isSome
  if here then
    let since := match x.sp.wait with | .atJoin t => t | .join t _ => t | _ => s.pt
    s.setCtx x.cid (Ctx.settle s.pt 64 (x.c.setSplit x.k { x.sp with wait := .join since (give.map (fun p => (since + p.1, p.2, x.part))) }))
  else s.retire x (if x.sp.merged then x.c.applyAll merged else x.c)

/-- join (R167, R253, R255). -/
def execJoin (o : Opr) (s : State) : Out := s.issue (.join o) true (fun s x => s.joinWait x none [])

/-- join.t (R167, R253, R255): 1 in the lanes that leave as part of the merged split. -/
def execJoinT (o : Opr) (s : State) : Out :=
  s.issue (.joinT o) true (fun s x =>
    s.joinWait x (some (o.imm.toNat, match o.d with | .pred n => n.toNat | _ => 7)) (x.laneWrites (fun l => x.wr l 32 false 1)))

/-- exit (R254, R255): the lanes that take part end; the others go on. -/
def execExit (o : Opr) (s : State) : Out :=
  s.issue (.exit o) false (fun s x =>
    let (c, sp) := x.endLanes x.c x.part
    if sp.mask = 0 then s.endSplit x c sp
    else s.setCtx x.cid ((c.setSplit x.k sp).advance s.pt x.k))

/-- nop: no effect, whatever its guard (R254). -/
def execNop (o : Opr) (s : State) : Out := s.issue (.nop o) true (fun s x => s.retire x x.c)

/-- The lanes of a split give up a join.t (R167, R253), unless the last missing lane came in time. -/
def State.joinTimeout (s : State) (cid k : Nat) : Option State :=
  match s.ctxs.find? cid with
  | none => none
  | some c => match c.splits.find? k with
    | none => none
    | some sp =>
      match sp.wait, c.setOf sp.pc sp.mask with
      | .join _ (some (g, pd, part)), some e =>
        if s.pt < g || !s.onCore c || (c.complete e && decide (c.lastIn e ≤ g)) then none
        else some (s.setCtx cid (Ctx.settle s.pt 64 (c.giveUp k sp e pd part)))
      | _, _ => none

/-- JOIN_TIMEOUT (R167). -/
def execJoinTimeout (w : Who) (s : State) : Out :=
  match s.joinTimeout w.cid w.k with
  | some s' => .next s'
  | none => .refused (.notEnabled "JOIN_TIMEOUT")

end Sys2Proof.Machine
end

