-- ==== Sys2Proof/Machine/Run.lean ====
section
/-! DEFINITION. One turn of a thread: what a split does from its line buffer to the execution of one instruction (R30, R165,
R166, R179 to R186, R345). The meaning of an instruction is an argument: Step.lean supplies exec. -/

namespace Sys2Proof.Machine

/-- The split may be given a turn: it is neither parked nor waiting for something that has not come. -/
def State.mayRun (s : State) (c : Ctx) (sp : Split) : Bool :=
  sp.parked.isNone && c.halt = 0 && s.onCore c && match sp.wait with
    | .none | .gate | .held _ | .atJoin _ => true
    | .release sc => s.released c sc
    | .confirm _ | .join _ _ => false

/-- An entry that memory holds must come back before the split can go on: its own set, or the pushed path that takes the
place of an ended split (R29, R166). -/
def Ctx.needsRefill (c : Ctx) (sp : Split) : Bool :=
  !c.spilled.isEmpty && ((sp.mask = 0) || (sp.j = some sp.pc && !sp.merged && (c.setOf sp.pc sp.mask).isNone))

/-- The refill of a split that needs it; a fault traps the instruction at the split's address (R30). -/
def State.refillTurn (s : State) (cid k : Nat) (c : Ctx) : State :=
  match s.refillStack cid c with
  | (s, .ok c) => s.setCtx cid (Ctx.settle s.pt 64 c)
  | (s, .trap t) => s.takeTrap cid k t
  | (s, .hold) => s

/-- Every flag that the line waits for is clear; a host core ignores the wait mask (R173, R184). -/
def Ctx.lineReady (c : Ctx) (lw : Nat) : Bool :=
  c.stream = .host || (List.range 12).all (fun n => bits lw (8 + n) 1 = 0 || SMap.get 0 c.flags n = 0)

/-- A counter of R345 raised. -/
def Ctx.countUp (c : Ctx) (n k : Nat) : Ctx := { c with ctr := SMap.set 0 c.ctr n ((SMap.get 0 c.ctr n + k) % 2 ^ 64) }

/-- The instruction held at issue and has had no effect. -/
def Split.heldAtIssue (sp : Split) : Bool := match sp.wait with | .gate | .held _ | .release _ => true | _ => false

/-- ISS counts the instruction that a split has issued, unless it held, and the split's last issue is now (R345, R364). -/
def State.noteIssue (s : State) (cid k : Nat) : State :=
  match s.ctxs.find? cid with
  | none => s
  | some c => match c.splits.find? k with
    | some sp => if sp.heldAtIssue then s else s.setCtx cid (c.countIssue.setSplit k { sp with last := s.pt })
    | none => s.setCtx cid c.countIssue

/-- The register that a result writes. -/
def RW.reg : RW → RegRes
  | .v _ n _ => RegRes.v n
  | .s n _ => RegRes.s n
  | .p _ n _ => RegRes.p n

/-- The registers that results still due to a thread will write (R173, R185). -/
def Ctx.due (c : Ctx) : List RegRes :=
  c.res.flatMap (fun r => r.2.writes.map RW.reg ++ (if r.2.ka.isSome then [.imp .ka] else []))
  ++ c.accs.flatMap (fun a => match a.2.kind with
    | .load t | .atomic t =>
      a.2.ds.flatMap (fun d => Slot.regs { op := d.2, wr := true, rd := false, w := Nat.max 32 (8 * t.size), cls := .dstR })
    | .kald | .kaaddm => [.imp .ka]
    | _ => [])

/-- A host core interlocks every result: the instruction reads or writes a register to which one is still due (R173). -/
def Ctx.interlocked (c : Ctx) (i : Instr) : Bool :=
  c.stream = .host && (c.due.any (fun r => (i.reads ++ i.writes).contains r)
    || (i.indexed && c.due.any (fun r => match r with | .v _ => true | _ => false)))

/-- The issue of a decoded instruction by split k of thread cid; the second of a pair is not an issue of its own (R364). -/
def State.issueOne (ex : Instr → State → Out) (i : Instr) (cid k : Nat) (counted : Bool) (s : State) : Out :=
  match ex i { s with cur := (cid, k) } with
  | .next t => .next (if counted then t.noteIssue cid k else t)
  | r => r

/-- A slot is the first of a pair that is checked, the line having been entered not after it (R183). -/
def pairFirst (bs : List Byte) (entry i : Nat) : Bool := (pairsOf (bits (lineWord bs) 25 3)).contains i && decide (entry ≤ i)

/-- A slot is the second of such a pair. -/
def pairSecond (bs : List Byte) (entry i : Nat) : Bool := decide (1 ≤ i) && pairFirst bs entry (i - 1)

/-- What would hold an instruction at issue, were the split to stand at it (R364): none when it can issue. -/
def State.holdOf (ex : Instr → State → Out) (i : Instr) (cid k : Nat) (pc : BitVec 64) (s : State) : Option Wait :=
  match s.ctxs.find? cid with
  | none => none
  | some c => match c.splits.find? k with
    | none => none
    | some sp =>
      match ex i { s.setCtx cid (c.setSplit k (sp.moved pc true)) with cur := (cid, k) } with
      | .next t => ((t.ctxs.find? cid).bind (fun c => c.splits.find? k)).bind (fun sp => if sp.heldAtIssue then some sp.wait else none)
      | _ => none

/-- The second slot of a pair issued with the first, where the split has come to it and waits for nothing (R183). -/
def State.issueSecond (ex : Instr → State → Out) (i : Instr) (cid k : Nat) (pc : BitVec 64) (s : State) : Out :=
  match s.ctxs.find? cid with
  | none => .next s
  | some c => match c.splits.find? k with
    | none => .next s
    | some sp => if sp.pc = pc ∧ sp.wait = .none ∧ sp.parked = none ∧ sp.mask ≠ 0 then s.issueOne ex i cid k false else .next s

/-- A pair issued (R183, R364): its effect is that of its first slot followed by its second. It holds, with no effect, while either slot
would; a second slot that must wait for the first's access issues later, and is no issue of its own. -/
def State.issuePair (ex : Instr → State → Out) (i i2 : Instr) (cid k : Nat) (c : Ctx) (sp : Split) (s : State) : Out :=
  if c.interlocked i || c.interlocked i2 then .next s
  else match s.holdOf ex i2 cid k (nextPc sp.pc) with
    | some w => .next (s.setCtx cid (c.setSplit k { sp with wait := w }))
    | none => match s.issueOne ex i cid k true with
      | .next t => t.issueSecond ex i2 cid k (nextPc sp.pc)
      | r => r

/-- The instruction of a slot issued, after the checks that precede its own (R183, R186); a split that stops at its
reconvergence address looks at the instruction there only for join and join.t (R166, R167). -/
def State.issueSlot (ex : Instr → State → Out) (cid k : Nat) (c : Ctx) (sp : Split) (bs : List Byte) (i : Nat) (s : State) :
    Out :=
  let entry := sp.inLine.getD i
  let first := pairFirst bs entry i
  let pf := if first then s.pairFault cid k c sp bs i else none
  let w := slotWord bs i
  let pm := maskOf ((lanesOf sp.mask).filter (fun l => c.rp l (bits w 82 3) != bitOf w 85))
  let stop (t : TrapInfo) : Out := .next (s.takeTrap cid k { t with lmask := if pm = 0 then sp.mask else pm, pmask := pm })
  match sp.wait, pf with
  | .atJoin t, _ =>
    (match slotInstr bs i with
     | .ok (.joinT o) => s.issueOne ex (.joinT o) cid k true
     | _ => .next (s.setCtx cid (Ctx.settle s.pt 64 (c.setSplit k { sp with wait := .join t none }))))
  | _, some q => stop { cause := .pair, qual := q }
  | _, none =>
    match slotInstr bs i with
    | .ok ins =>
      (match (if first then slotInstr bs (i + 1) else slotInstr bs i), first with
       | .ok i2, true => s.issuePair ex ins i2 cid k c sp
       | _, _ => if c.interlocked ins then .next s else s.issueOne ex ins cid k (!pairSecond bs entry i))
    | .error _ => stop { cause := .ill }

/-- Split k, standing as sp says, enters its line at a slot; what the thread has waited for has been written before all that it issues from
now on (R184, R185). -/
def Ctx.enterAt (c : Ctx) (k : Nat) (sp : Split) (lw i : Nat) : Ctx :=
  { c.setSplit k { sp with inLine := some i } with olds := if bits lw 8 12 = 0 then c.olds else [] }

/-- The split enters its line, once the flags that the line waits for are clear (R184). -/
def State.enterLine (ex : Instr → State → Out) (cid k : Nat) (c : Ctx) (sp : Split) (bs : List Byte) (s : State) : Out :=
  match slotOf sp.pc with
  | none => .next (s.fetchTrap cid k sp { cause := .tgt, qual := 1 })
  | some i =>
    match sp.inLine with
    | some _ => s.issueSlot ex cid k c sp bs i
    | none =>
      if c.lineReady (lineWord bs) then
        let c := c.enterAt k sp (lineWord bs) i
        (s.setCtx cid c).issueSlot ex cid k c { sp with inLine := some i } bs i
      else .next s

/-- One turn of split k of thread cid. -/
def State.runThread (ex : Instr → State → Out) (cid k : Nat) (s : State) : Out :=
  match s.ctxs.find? cid with
  | none => .next s
  | some c => match c.splits.find? k with
    | none => .next s
    | some sp =>
      if !s.mayRun c sp then .next s
      else if c.needsRefill sp then .next (s.refillTurn cid k c)
      else match sp.line with
        | some bs => s.enterLine ex cid k c sp bs
        | none =>
          let hit := (s.copyHit .ic (s.coreOf cid) c.asid (sp.pc.toNat / 64 * 64 % 2 ^ 56)).isSome
          match s.lineFetch cid k with
          | none => .next s
          | some s' =>
            if !hit then .next s'
            else match s'.ctxs.find? cid with
              | none => .next s'
              | some c' => match c'.splits.find? k with
                | none => .next s'
                | some sp' => match sp'.line, sp'.parked with
                  | some bs, none => s'.enterLine ex cid k c' sp' bs
                  | _, _ => .next s'

/-- The splits of every thread, in key order. -/
def State.splitsOf (s : State) : List (Nat × Nat) :=
  s.ctxs.flatMap (fun p => p.2.splits.map (fun q => (p.1, q.1)))

/-- The split waits for the flags of a line that it is about to enter (R184). -/
def Ctx.flagWait (c : Ctx) (sp : Split) : Bool :=
  match sp.line, sp.inLine with | some bs, none => !c.lineReady (lineWord bs) | _, _ => false

/-- Ready to issue (R364): neither parked, held at issue nor waiting, and its line's flags clear. -/
def State.isReady (s : State) (c : Ctx) (sp : Split) : Bool :=
  s.mayRun c sp && (sp.mask ≠ 0 || c.needsRefill sp)
    && (match sp.wait with | .gate | .held _ => false | _ => true) && !c.flagWait sp

/-- Held at issue: what holds it may have ended. -/
def State.isHeld (s : State) (c : Ctx) (sp : Split) : Bool :=
  s.mayRun c sp && (sp.mask ≠ 0 || c.needsRefill sp) && sp.heldAtIssue && !s.isReady c sp

/-- What held a split at issue has ended: its turn would not leave it held. -/
def State.holdOver (ex : Instr → State → Out) (cid k : Nat) (s : State) : Bool :=
  match s.runThread ex cid k with
  | .next t => match (t.ctxs.find? cid).bind (fun c => c.splits.find? k) with | some sp => !sp.heldAtIssue | none => true
  | _ => true

/-- The splits whose hold has ended are ready again (R364). -/
def State.endHolds (ex : Instr → State → Out) (s : State) : State :=
  s.splitsOf.foldl (fun s p => match s.ctxs.find? p.1 with
    | none => s
    | some c => match c.splits.find? p.2 with
      | none => s
      | some sp => if s.isHeld c sp && s.holdOver ex p.1 p.2 then s.setCtx p.1 (c.setSplit p.2 { sp with wait := .none }) else s) s

/-- The issuer that serves a thread: a host thread itself, the scheduler of a group, the cox pipeline of a core (R364). -/
def State.issuerOf (s : State) (cid : Nat) (c : Ctx) : Nat :=
  match c.stream with
  | .host => cid
  | .lane => 128 + 8 * s.coreOf cid + c.gslot % 4
  | .cox => 128 + 8 * s.coreOf cid + 4

/-- A split that may be picked: thread, split, issuer, cycles since it last issued or became ready, start of its group. -/
structure Cand where
  cid : Nat
  k : Nat
  by_ : Nat
  idle : Nat
  start : Nat

/-- The splits of which a condition holds. -/
def State.cands (s : State) (f : Ctx → Split → Bool) : List Cand :=
  s.ctxs.flatMap (fun p => (p.2.splits.filter (fun q => f p.2 q.2)).map (fun q =>
    { cid := p.1, k := q.1, by_ := s.issuerOf p.1 p.2, idle := s.pt - q.2.last, start := p.2.start }))

/-- A scheduler's first choice of two (R364): a split idle for 192 cycles is urgent, the longest first; else the group that started
earliest, and within a group the lower slot. -/
def Cand.before (a b : Cand) : Bool :=
  if 192 ≤ a.idle ∨ 192 ≤ b.idle then b.idle ≤ a.idle
  else a.start < b.start || (a.start = b.start && (a.cid < b.cid || (a.cid = b.cid && a.k ≤ b.k)))

/-- The first choice of a list. -/
def pickOf : List Cand → Option Cand
  | [] => none
  | a :: as => match pickOf as with | none => some a | some b => if a.before b then some a else some b

/-- The issuer whose turn comes after that of the thread that ran last: the next one that has a candidate. -/
def nextIssuer (cur : Nat) (cs : List Cand) : Option Nat :=
  let least (l : List Cand) : Option Nat := l.foldl (fun a c => some (match a with | none => c.by_ | some n => Nat.min n c.by_)) none
  match least (cs.filter (fun c => cur < c.by_)) with | some n => some n | none => least cs

/-- The split that issues next: the issuers take turns, and each picks by R364. -/
def State.pick (s : State) : Option (Nat × Nat) :=
  let cur := match s.ctxs.find? s.cur.1 with | some c => s.issuerOf s.cur.1 c | none => 0
  let ready := s.cands s.isReady
  ((nextIssuer cur ready).bind (fun n => pickOf (ready.filter (fun c => c.by_ = n)))).map (fun c => (c.cid, c.k))

/-- A tick of a thread: its splits that wait for flags are counted, and those that are not ready are so noted (R345, R364). -/
def State.noteTick (s : State) (c : Ctx) : Ctx :=
  let n := (c.splits.filter (fun q => s.mayRun c q.2 && c.flagWait q.2)).length
  { (if n = 0 then c else c.countUp 2 n) with
    splits := c.splits.map (fun q => (q.1, if s.isReady c q.2 then q.2 else { q.2 with last := s.pt })) }

/-- Every thread a tick on. -/
def State.noteReady (s : State) : State := { s with ctxs := s.ctxs.map (fun p => (p.1, s.noteTick p.2)) }

/-- One tick of package time, with the ring indexes that it lets move and a note of the splits that are not ready (R92, R364, R368,
R405). -/
def State.tick (s : State) : State := (({ s with pt := s.pt + 1 }).settleTails).noteReady

end Sys2Proof.Machine
end

