-- ==== Sys2Proof/Machine/Access.lean ====
section
/-! DEFINITION. Accesses of threads: pointers and their checks (R11 to R17, R26, R27, R31 to R33), the per-core buffers (R84 to
R90), orders and fences (R101 to R106), requests to the performing points and their confirmation (R74, R96 to R98, R282 to
R285). -/

namespace Sys2Proof.Machine

/-! ### Pointers -/

/-- Where a pointer leads (R11). -/
inductive Place where
  /-- Spaces 0x0 to 0x3. -/
  | glob (pol va : Nat)
  | loc (off : Nat)
  | asp (off : Nat)
  | peer (rank off : Nat)
  | acs (off : Nat)
  | fab (row col off : Nat)
  | phys (pa : Nat)
  deriving DecidableEq, Repr

/-- The place some bytes further on. A global VA wraps at 2^56, which the spec does not say of the later parts of an 80-byte KA image
(log entry 102). -/
def Place.shift (p : Place) (n : Nat) : Place :=
  match p with
  | .glob pol va => .glob pol ((va + n) % 2 ^ 56) | .loc o => .loc (o + n) | .asp o => .asp (o + n)
  | .peer r o => .peer r (o + n) | .acs o => .acs (o + n) | .fab r c o => .fab r c (o + n) | .phys pa => .phys (pa + n)

/-- The SPACE and ALIGN qualifiers of a bad pointer (R33). -/
def badSelector : Cause × Nat := (.space, 0)
/-- The agent may not use the space. -/
def badAgent : Cause × Nat := (.space, 1)
/-- A must-be-zero bit, an offset, a rank or a coordinate. -/
def badBounds : Cause × Nat := (.space, 2)

/-- The ASP bytes granted to the blocks of a launch (R86). -/
def Block.aspBytes (b : Block) : Nat := Nat.min (b.aspk * 4096) 0x180000
/-- The ACS bytes granted to a block (R86). -/
def Block.acsBytes (b : Block) : Nat := Nat.min (b.acst * 0x10000) 0x80000

/-- What a pointer of an access of n bytes with the given alignment leads to, or the SPACE, ALIGN, PAGE or PERM that it raises (R11,
R12, R14, R17, R27, R31, R32, R277). reg says that the access is an 8-byte ld or st. -/
def State.place (s : State) (c : Ctx) (reg : Bool) (n align ptr : Nat) : Except (Cause × Nat) Place :=
  let host : Bool := c.stream = .host
  let fit (ok : Bool) (a : Nat) (p : Place) : Except (Cause × Nat) Place :=
    if !ok then .error badBounds else if a % align ≠ 0 then .error (.align, 0) else .ok p
  let blk := if host then none else s.blk? c.blk
  match bits ptr 60 4 with
  | 0 | 1 | 2 | 3 => fit (bits ptr 56 4 = 0) (bits ptr 0 56) (.glob (bits ptr 60 4) (bits ptr 0 56))
  | 4 =>
    (match blk with
     | none => .error badAgent
     | some b =>
       let o := bits ptr 0 21
       fit (bits ptr 21 39 = 0 && o + n ≤ b.aspBytes) o (.asp o))
  | 5 =>
    (match blk with
     | none => .error badAgent
     | some b =>
       let o := bits ptr 0 21
       let r := bits ptr 45 3
       fit (bits ptr 48 12 = 0 && bits ptr 21 24 = 0 && r < b.gsize && o + n ≤ b.aspBytes) o (.peer r o))
  | 6 =>
    if c.stream ≠ .cox then .error badAgent
    else (match blk with
     | none => .error badAgent
     | some b =>
       let o := bits ptr 0 19
       fit (bits ptr 19 41 = 0 && o + n ≤ b.acsBytes) o (.acs o))
  | 7 =>
    if c.stream = .cox then .error badAgent
    else
      let o := bits ptr 0 32
      fit (bits ptr 32 28 = 0 && c.llsize ≠ 0 && o + n + 1024 ≤ c.llBytes) o (.loc o)
  | 8 =>
    let row := bits ptr 55 5
    let col := bits ptr 50 5
    fit (row < 24 && col < 24) (bits ptr 0 50) (.fab row col (bits ptr 0 50))
  | 15 =>
    if !host then .error badAgent
    else
      let pa := bits ptr 0 52
      if bits ptr 52 8 ≠ 0 || (region pa = 4 && !reg) || n = 80 then .error badBounds
      else if pa % align ≠ 0 then .error (.align, 0)
      else if !c.priv then (if s.absent pa n then .error (.page, qAbsent) else .error (.perm, qPriv))
      else .ok (.phys pa)
  | _ => .error badSelector

/-! ### ASP and ACS (R84 to R90) -/

/-- Bytes of a block's ASP as a number. -/
def Block.aspRd (b : Block) (o n : Nat) : Nat := leNat ((List.range n).map (fun i => SMap.get 0 b.asp (o + i)))

/-- The 16-byte words that n bytes touch. -/
def wordsOf (o n : Nat) : List Nat := (List.range ((o % 16 + n + 15) / 16)).map (fun i => o / 16 + i)

/-- A word of the range is marked poisoned (R316). -/
def Block.aspPoison (b : Block) (o n : Nat) : Bool := (wordsOf o n).any (fun w => SMap.get false b.aspBad w)

/-- Bytes written to a block's ASP; a write of a whole word clears its mark (R87, R316). -/
def Block.aspWr (b : Block) (o : Nat) (bs : List Byte) : Block :=
  let m := (bs.zipIdx).foldl (fun m p => SMap.set 0 m (o + p.2) p.1) b.asp
  let bad := (wordsOf o bs.length).foldl (fun m w =>
    if o ≤ 16 * w ∧ 16 * w + 16 ≤ o + bs.length then SMap.set false m w false else m) b.aspBad
  { b with asp := m, aspBad := bad }

/-- Bytes of ACS as a number: element o / 16, byte o mod 16 (R89). -/
def Block.acsRd (b : Block) (o n : Nat) : Nat := (SMap.get 0 b.acs (o / 16)).toNat / 256 ^ (o % 16) % 256 ^ n

/-- Bytes of one ACS element written. -/
def Block.acsWr (b : Block) (o n x : Nat) : Block :=
  let old := (SMap.get 0 b.acs (o / 16)).toNat
  { b with acs := SMap.set 0 b.acs (o / 16) (BitVec.ofNat 128 (putBits old (8 * (o % 16)) (8 * n) x)) }

/-- The gang peer of a rank: the block of the gang that holds it (R15). -/
def State.peerOf (s : State) (b : Block) (rank : Nat) : Option (Nat × Block) :=
  List.find? (fun p => p.2.lead = b.lead && p.2.rank = rank && p.2.launch = b.launch) s.blocks

/-- An access of a thread to a bank: the value read and the block after it, or poison (R87, R275, R316). -/
def Block.aspDo (b : Block) (o n : Nat) : ReqKind → Option (Block × Nat)
  | .store d => some (b.aspWr o d, 0)
  | .atomic op t x =>
    if b.aspPoison o n then none
    else let old := b.aspRd o n; some (b.aspWr o (leBytes n (atomNew op t old x)), old)
  | .cas _ cmp new =>
    if b.aspPoison o n then none
    else let old := b.aspRd o n; some (if old = cmp then b.aspWr o (leBytes n new) else b, old)
  | _ => if b.aspPoison o n then none else some (b, b.aspRd o n)

/-- The same for ACS. -/
def Block.acsDo (b : Block) (o n : Nat) : ReqKind → Block × Nat
  | .store d => (b.acsWr o n (leNat d), 0)
  | .atomic op t x => let old := b.acsRd o n; (b.acsWr o n (atomNew op t old x), old)
  | .cas _ cmp new => let old := b.acsRd o n; (if old = cmp then b.acsWr o n new else b, old)
  | _ => (b, b.acsRd o n)

/-! ### Requests -/

/-- The access has been performed or refused. -/
def Req.fin (r : Req) : Bool := match r.st with | .done _ _ | .failed _ _ _ _ => true | _ => false

/-- The access can no longer fault (R282): one to a bank from its issue, a write without a read once the HA has translated its
address, and any write that a migration's window holds (R410). -/
def Req.sure (r : Req) : Bool :=
  r.space = 4 || r.space = 5 || r.space = 6 || match r.st with
    | .done _ _ | .failed _ _ _ _ | .confirmed _ _ => true
    | _ => !r.fixed.isEmpty

/-- What a request does at its performing point (R274 to R276). -/
def ReqKind.haOp : ReqKind → HaOp
  | .store d => .wr d
  | .atomic op t x => .rmw (fun old => some (atomNew op t old x))
  | .cas _ cmp new => .rmw (fun old => if old = cmp then some new else none)
  | _ => .rd

/-- The byte ranges of a request, by the space whose addresses they are; spaces 0x0 to 0x3 and 0x7 share their addresses (R100,
R107). -/
def reqBytes (c : Ctx) (r : Req) : List (Nat × Nat × Nat) :=
  (reqParts c r).map (fun p => (if r.space ≤ 3 ∨ r.space = 7 then 0 else r.space, p))

/-- Two ranges of one space share a byte. -/
def meet (a b : Nat × Nat × Nat) : Bool := a.1 = b.1 && decide (a.2.1 < b.2.1 + b.2.2) && decide (b.2.1 < a.2.1 + a.2.2)

/-- The request is of one of the spaces whose lines are global (R107). -/
def Req.global (r : Req) : Bool := r.space ≤ 3 || r.space = 7 || r.space = 15

/-- Two requests of a thread come from one issue; requests that no access of the thread holds come from the one that issues. -/
def Ctx.sameIssue (c : Ctx) (i j : Nat) : Bool :=
  c.accs.all (fun a => a.2.reqs.any (fun q => q.2 = i) = a.2.reqs.any (fun q => q.2 = j))

/-- An earlier access of the thread that must be performed before the request: one of the same lane, or of the same instruction when it
writes, to some of its bytes (R98, R100). -/
def State.behind (s : State) (c : Ctx) (id : Nat) (r : Req) : Bool :=
  s.ms.reqs.any (fun p => p.1 < id && p.2.cid = r.cid && p.2.open_ && p.2.space ≠ 5
    && (p.2.lane = r.lane || (r.kind.writes && c.sameIssue p.1 id))
    && (reqBytes c p.2).any (fun a => (reqBytes c r).any (meet a)))

/-- A request recorded. -/
def State.addReq (s : State) (r : Req) : State × Nat :=
  ({ s with ms := { s.ms with reqs := s.ms.reqs.put s.ms.nextReq r, nextReq := s.ms.nextReq + 1 } }, s.ms.nextReq)

/-- A request replaced. -/
def State.setReq (s : State) (id : Nat) (r : Req) : State := { s with ms := { s.ms with reqs := s.ms.reqs.put id r } }

/-- The request of one part at its performing point (R74). -/
def Req.ha (r : Req) (va n : Nat) (pace : Pace) : HaReq :=
  { asid := r.asid, va := va, n := n, priv := r.priv, pace := pace,
    who := if r.space = 15 then threadPhysW r.cid else threadW r.cid va,
    atL := if r.space = 0 ∨ r.space = 2 ∨ r.space = 7 then .l2 r.die else if r.space = 1 then .l2own r.die else .ha,
    phys := if r.space = 15 then some r.dev else none, fixed := r.fixedAt va, sure := !r.fixed.isEmpty, tc := r.tc, since := some r.since }

/-- The levels in which a load looks, and those that receive the line, the outermost first (R74, R107). -/
def loadLevels (space : Nat) : List Level × List Level :=
  match space with
  | 0 | 7 => ([.l1, .l2, .l3], [.l3, .l2, .l1])
  | 1 => ([.l1, .l2, .l3], [.l3])
  | 2 => ([.l2, .l3], [.l3, .l2])
  | _ => ([], [])

/-- The levels in which a thread's load of an address looks: none holds what the thread's own hidden writes have made of the line (R97), and
a line that the die's L2 owns is served there (R74). -/
def State.lookFor (s : State) (look : List Level) (cid die asid va : Nat) : List Level :=
  if s.ownPending (threadW cid va) then [] else look.filter (fun l => l = .l1 || !s.l2Owns die asid va)

/-- One run of a request performed (R74, R97): a load is served by the first level that may serve it; a write drops the L2's
copy of a line that the L2 does not own. -/
def State.performPart (s : State) (r : Req) (va n : Nat) (pace : Pace) (op : HaOp) : State × HaRes :=
  let q := r.ha va n pace
  match op with
  | .rd =>
    let (look, alloc) := loadLevels r.space
    if look = [] then s.perform q .rd
    else s.cachedRead q r.die r.core r.dev (s.lookFor look r.cid r.die r.asid va) alloc
  | op =>
    let s := if r.space = 15 then s
      else s.dropCopies (fun c => c.lvl = .l2 && c.unit = r.die && c.asid = r.asid && c.va = va / 128 * 128)
    s.perform q op

/-- Several runs performed as one access: nothing is performed unless every run can be (R98, R283). -/
def State.performRuns (s : State) (r : Req) (pace : Pace) (f : Nat → Nat → HaOp) :
    List (Nat × Nat) → Nat → State × HaRes
  | [], _ => (s, .ok 0 0)
  | (va, n) :: ps, o =>
    match s.performPart r va n pace (f o n) with
    | (s, .ok v g) =>
      (match s.performRuns r pace f ps (o + n) with
       | (s, .ok w h) => (s, .ok (v + w * 256 ^ n) (Nat.max g h))
       | x => x)
    | x => x

/-- A request performed whole (R274 to R276). -/
def State.performReq (s : State) (c : Ctx) (r : Req) (pace : Pace) : State × HaRes :=
  match reqParts c r with
  | [(va, n)] => s.performPart r va n pace r.kind.haOp
  | ps =>
    match r.kind.haOp with
    | .rd => let (s', x) := s.performRuns r pace (fun _ _ => .rd) ps 0; (match x with | .ok _ _ => (s', x) | _ => (s, x))
    | .wr bs =>
      let (s', x) := s.performRuns r pace (fun o n => .wr ((bs.drop o).take n)) ps 0
      (match x with | .ok _ _ => (s', x) | _ => (s, x))
    | .rmw f =>
      (match s.performRuns r pace (fun _ _ => .rmw (fun _ => none)) ps 0 with
       | (_, .ok old _) =>
         let new := leBytes r.size ((f old).getD old)
         let (s', x) := s.performRuns r pace (fun o n => .wr ((new.drop o).take n)) ps 0
         (match x with | .ok _ g => (s', .ok old g) | _ => (s, x))
       | (_, x) => (s, x))

/-! ### Accesses that have issued -/

/-- The writes that a completed access makes, for lanes that have not ended (R230, R254, R273, R274). -/
def Acc.writes (a : Acc) (c : Ctx) (vals : List (Nat × Nat)) : List RW :=
  let put (t : Ty) : List RW := (vals.filter (fun p => c.alive.getLsbD p.1)).flatMap (fun p =>
    match a.ds.find? (fun d => d.1 = p.1) with
    | some d =>
      let w := Nat.max 32 (8 * t.size)
      let v := if t.size < 4 ∧ t.signed then wrap 32 (sx (8 * t.size) p.2) else p.2
      c.dst p.1 w (t.signed && decide (t ≠ .h2)) d.2 v
    | none => [])
  match a.kind with
  | .load t | .atomic t => put t
  | _ => []

/-- The values of an access's requests, in order, and the greatest completion time. -/
def State.accVals (s : State) (a : Acc) : List (Nat × Nat) × Nat :=
  (a.reqs.filterMap (fun p => match s.ms.reqs.find? p.2 with
      | some r => (match r.st with | .done v _ => some (p.1, v) | _ => none) | none => none),
   a.reqs.foldl (fun m p => match s.ms.reqs.find? p.2 with
      | some r => (match r.st with | .done _ g => Nat.max m g | _ => m) | none => m) 0)

/-- An access whose requests have all been performed: it is over, its results are due and its flag falls with them (R184, R271,
R283). -/
def State.settleAcc (s : State) (cid key : Nat) : State :=
  match s.ctxs.find? cid with
  | none => s
  | some c => match c.accs.find? key with
    | none => s
    | some a =>
      if !a.freed || !a.reqs.all (fun p => match s.ms.reqs.find? p.2 with | some r => r.fin | none => true) then s
      else
        let (vals, g) := s.accVals a
        let image := BitVec.ofNat 640 (vals.zipIdx.foldl (fun m p => m + p.1.2 * 2 ^ (128 * p.2)) 0)
        let ka := match a.kind with
          | .kald => if vals.length = 5 then some (BitVec.ofNat 640 (image.toNat % 2 ^ 635)) else none
          | .kaaddm => if vals.length = 5 then some (kaAddImage c.ka image) else none
          | _ => none
        let quiet := (a.writes c vals).isEmpty && ka.isNone && a.flag.isNone
        let c := { c with accs := c.accs.erase key, gPt := if a.sc then Nat.max c.gPt g else c.gPt,
                          gLoads := c.gLoads.filter (· ≠ key),
                          res := if quiet then c.res
                            else c.res.put (freshKey c.res) { writes := a.writes c vals, flag := a.flag, ka := ka } }
        let s := s.setCtx cid c
        { s with ms := { s.ms with reqs := s.ms.reqs.filter (fun p => !(a.reqs.any (fun q => q.2 = p.1))) } }

/-- The fault that a participant's request met. -/
def Req.faultOf (r : Req) : Option (Cause × Nat × Nat × BitVec 64) :=
  match r.st with | .failed c q l x => some (c, q, l, x) | _ => none

/-- The pointer of the first store of an acc.out that met a fault (R304). -/
def State.badStore (s : State) (a : Acc) : BitVec 64 :=
  match (a.reqs.filterMap (fun p => s.ms.reqs.find? p.2)).find? (fun r => r.faultOf.isSome) with
  | some r => BitVec.ofNat 64 (r.space * 2 ^ 60 + r.va)
  | none => 0

/-- The order in which the checks of an access come (R32): among the parts of an image, the first failing check is reported. -/
def faultRank : Cause → Nat
  | .page => 0
  | .perm => 1
  | .poison => 3
  | _ => 2

/-- The faults that an access's requests met, each with its lane (R282). -/
def State.badOf (s : State) (a : Acc) : List (Nat × Cause × Nat × Nat × BitVec 64) :=
  a.reqs.filterMap (fun p => match s.ms.reqs.find? p.2 with
    | some r => (match r.faultOf with | some f => some (p.1, f) | none => none) | none => none)

/-- The fault that an access reports: of the lowest lane, and there the first in R32's order. -/
def firstFault (bad : List (Nat × Cause × Nat × Nat × BitVec 64)) : Option (Nat × Cause × Nat × Nat × BitVec 64) :=
  bad.foldl (fun m p => match m with
    | none => some p
    | some q => if p.1 < q.1 ∨ (p.1 = q.1 ∧ faultRank p.2.1 < faultRank q.2.1) then some p else some q) none

/-- The requests of an access that none of its lanes keeps: those of the lanes that faulted, which have no effect (R282). -/
def Acc.goneReqs (a : Acc) (mask : Mask) : List (Nat × Nat) := a.reqs.filter (fun p => mask.getLsbD p.1)

/-- Requests gone. -/
def State.forgetReqs (s : State) (gone : List (Nat × Nat)) : State :=
  { s with ms := { s.ms with reqs := s.ms.reqs.filter (fun p => !(gone.any (fun q => q.2 = p.1))) } }

/-- Every participant is confirmed: the split goes on, or the lanes that faulted form the lane fault mask and the split traps
at its instruction (R282, R283). -/
def State.confirm (s : State) (cid k : Nat) : Option State :=
  match s.ctxs.find? cid with
  | none => none
  | some c => match c.splits.find? k with
    | none => none
    | some sp => match sp.wait with
      | .confirm key =>
        (match c.accs.find? key with
         | none => none
         | some a =>
           if !a.reqs.all (fun p => match s.ms.reqs.find? p.2 with | some r => r.sure | none => true) then none
           else
             let bad := s.badOf a
             let mask := maskOf (bad.map (·.1))
             let keep := a.reqs.filter (fun p => !mask.getLsbD p.1)
             let c := { c with accs := c.accs.put key { a with freed := true, part := a.part &&& ~~~ mask, reqs := keep } }
             let all := s
             let s := s.forgetReqs (a.goneReqs mask)
             match firstFault bad with
             | none =>
               let c := match a.sr with | some x => { c with sr := c.sr.put 0 x } | none => c
               some ((s.setCtx cid (c.advance s.pt k)).settleAcc cid key)
             | some (l, cs, q, lv, aux) =>
               let s := (s.setCtx cid c).settleAcc cid key
               let addr := if a.kind = .accOut then all.badStore a else ((a.ptrs.find? (fun p => p.1 = l)).map (·.2)).getD 0
               some (s.takeTrap cid k
                 { cause := cs, qual := q, level := lv, addr := addr, lmask := mask, pmask := a.part, aux := aux, lanes := true }))
      | _ => none

/-- The address space, the privilege and the runs with which a request is translated here: through this package's own window by what that
gave (R420). -/
def Req.runs (c : Ctx) (r : Req) : Nat × Bool × List Nat :=
  match r.arrived with
  | some (asid, va) => (asid, false, [va])
  | none => (r.asid, r.priv, (reqParts c r).map (·.1))

/-- The kind of access that a request's walk checks (R23). -/
def ReqKind.akind : ReqKind → Akind
  | .store _ => .store
  | .atomic _ _ _ | .cas _ _ _ => .atomic
  | _ => .load

/-- The runs of a write translated by the HA before it is performed: the translations, or the fault or the wait of the first that has none.
One that reads too, and one to the pool, can fault no more only where a forwarding entry names the page (R54, R282, R410), and one that
reads only where its line is not poisoned. -/
def State.fixRuns (s : State) (k : ReqKind) (asid : Nat) (priv : Bool) : List Nat → State × Except HaRes (List (Nat × Trans))
  | [] => (s, .ok [])
  | va :: vas =>
    match s.translate asid va k.akind priv with
    | (s, .fault c q l aux) => (s, .error (.fault c q l aux))
    | (s, .hold g) => (s, .error (.hold g))
    | (s, .ok t) =>
      let pa := s.routed t.pa
      let moves : Bool := (s.fwdOf (pa / 0x10000)).isSome
      let pool : Bool := decide (region t.pa = 2) && (decide (s.poolSays t.pa ≠ .serve) || !moves)
      let reads : Bool := decide (k.akind = .atomic) && (!moves || s.poisoned (pa / 128))
      if pool || reads then (s, .error (.hold 0))
      else match s.fixRuns k asid priv vas with
        | (s, .ok ts) => (s, .ok ((va, t) :: ts))
        | r => r

/-- A write of an access translated by the HA before it is performed: it keeps the translations, or has failed (R282, R410). -/
def State.sureReq (s : State) (id : Nat) : State :=
  match s.ms.reqs.find? id with
  | none => s
  | some r =>
    if !r.kind.writes ∨ r.sure ∨ !(r.space ≤ 3 ∨ r.space = 7 ∨ r.arrived.isSome) then s
    else
      let (asid, priv, vas) := r.runs (s.ctx r.cid)
      match s.fixRuns r.kind asid priv vas with
      | (s, .ok ts) => s.setReq id { r with fixed := ts }
      | (s, .error (.fault c q l aux)) => s.setReq id { r with st := .failed c (if r.space = 8 then remote q else q) l aux }
      | (s, .error _) => s

/-- The requests of the access that a split waits for. -/
def State.waitedReqs (s : State) (cid k : Nat) : List Nat :=
  match s.ctxs.find? cid with
  | none => []
  | some c => match c.splits.find? k with
    | none => []
    | some sp => match sp.wait with
      | .confirm key => (match c.accs.find? key with | some a => a.reqs.map (·.2) | none => [])
      | _ => []

/-- ACCESS_CONFIRM (R282, R283): the HA translates what stores still lack, and every participant is confirmed. -/
def execAccessConfirm (w : Who) (s : State) : Out :=
  match ((s.waitedReqs w.cid w.k).foldl State.sureReq s).confirm w.cid w.k with
  | some t => .next t
  | none => .refused (.notEnabled "ACCESS_CONFIRM")

/-! ### Orders (R101 to R105) -/

/-- Every earlier load and atomic has returned its value (R103). -/
def Ctx.loadsBack (c : Ctx) : Bool :=
  c.accs.all (fun p => match p.2.kind with | .load _ | .atomic _ | .kald | .kaaddm => false | _ => true)

/-- What still holds a later access of the thread: an acquire or a sequentially consistent access for all, a release fence for
those that write, issue to an engine or release (R103, R104). -/
def State.gateOf (s : State) (c : Ctx) (writes : Bool) : Option Wait :=
  if !(c.gLoads.all (fun k => (c.accs.find? k).isNone)) || s.pt < c.gPt then some .gate
  else match c.gRel with
    | some sc => if writes && !s.released c sc then some (.release sc) else none
    | none => none

/-- A release fence that has been waited for holds nothing any more. -/
def Ctx.passGate (c : Ctx) (writes : Bool) : Ctx := if writes then { c with gRel := none } else c

/-- The waits before an ordered access (R104), after those of earlier fences. -/
def State.orderWait (s : State) (c : Ctx) (writes : Bool) (ord : Ord) (sc : Scope) : Option Wait :=
  match s.gateOf c writes with
  | some w => some w
  | none =>
    if (ord = .rel ∨ ord = .ar ∨ ord = .sc) ∧ !s.released c sc then some (.release sc)
    else if ord = .sc ∧ !c.loadsBack then some .gate
    else none

/-- Whether the access makes its block not discardable (R382). -/
def placeSpoils : Place → Bool
  | .glob _ _ | .peer _ _ | .fab _ _ _ | .phys _ => true
  | _ => false

/-! ### Issue -/

/-- A memory instruction's shape: bytes and alignment of an access, whether it is an 8-byte ld or st, what the access does in a
lane, and what becomes of the values. -/
structure MemOp where
  n : Nat
  align : Nat
  reg : Bool
  /-- By lane and part: an 80-byte image has five parts (R98), any other access one. -/
  kind : Nat → Nat → ReqKind
  acc : AccKind
  ord : Ord
  sc : Scope
  /-- It is an 80-byte image, performed part by part (R87, R98). -/
  image : Bool := false

/-- The live L1D copy that serves a load at issue, unless an earlier access of the lane to its bytes is under way or a write of the thread
to the line is hidden from others (R74, R97, R100). -/
def State.l1Serve (s : State) (c : Ctx) (r : Req) : Option (State × ReqSt) :=
  match r.kind, reqParts c r with
  | .load, [(va, n)] =>
    if r.space ≠ 0 ∧ r.space ≠ 1 ∧ r.space ≠ 7 ∨ s.behind c s.ms.nextReq r ∨ s.ownPending (threadW r.cid va)
        ∨ s.inBucket (threadW r.cid va) r.asid va n then none
    else (match s.copyHit .l1 r.core r.asid va with
      | some (i, d) => some (s.touch i d, if d.bad then .failed .poison 2 0 (s.seqOf d) else .done (d.read va n) 0)
      | none => none)
  | _, _ => none

/-- An earlier lane of the same store or atomic reaches some of the bytes through its own rank (R15, R285). -/
def State.ownRankBehind (s : State) (c : Ctx) (id : Nat) (r : Req) : Bool :=
  r.kind.writes && s.ms.reqs.any (fun p => p.1 < id && p.2.cid = r.cid && p.2.open_ && p.2.space = 5 && c.sameIssue p.1 id
    && (match s.blk? c.blk with | some b => p.2.rank = b.rank | none => false) && meet (0, p.2.va, p.2.size) (0, r.va, r.size))

/-- An access to a bank of the block has to wait: it is part of an image, or an earlier one to its bytes has not been performed (R87, R98,
R100). -/
def State.bankLater (s : State) (c : Ctx) (image : Bool) (r : Req) : Bool :=
  image || s.behind c s.ms.nextReq r || (r.space = 4 && s.ownRankBehind c s.ms.nextReq r)

/-- One participant's access issued (R282): banks serve at once what need not wait, a live L1D copy serves at once, and the rest become
requests; a write drops the core's L1D copy first (R79). The parts of an 80-byte KA image in space 0x8 lie at the pointer plus their
offset, so past 2^50 they carry into the mesh column: R16 bounds no last byte there (log entry 102). -/
def State.issueLane (s : State) (x : Iss) (image : Bool) (kind : ReqKind) (l n : Nat) (p : Place) : State × Nat :=
  let base (sp va : Nat) : Req :=
    { cid := x.cid, lane := l, kind := kind, space := sp, va := va, size := n, asid := x.c.asid, dev := x.c.dev,
      priv := x.c.stream = .host && x.c.priv, die := s.dieOf x.cid, core := s.coreOf x.cid,
      tc := if x.c.stream = .host then 0 else 1, since := s.pt }
  let poison : ReqSt := .failed .poison 2 0 0
  match p with
  | .asp o =>
    (match s.blk? x.c.blk with
     | none => s.addReq { base 4 o with st := .done 0 0 }
     | some b => match b.aspDo o n kind with
       | none => s.addReq { base 4 o with st := poison }
       | some (b', v) =>
         if s.bankLater x.c image (base 4 o) then s.addReq (base 4 o)
         else (s.setBlk x.c.blk b').addReq { base 4 o with st := .done v s.pt })
  | .acs o =>
    (match s.blk? x.c.blk with
     | none => s.addReq { base 6 o with st := .done 0 0 }
     | some b =>
       if s.bankLater x.c image (base 6 o) then s.addReq (base 6 o)
       else let (b', v) := b.acsDo o n kind; (s.setBlk x.c.blk b').addReq { base 6 o with st := .done v s.pt })
  | .peer r o =>
    let marked : Bool := match kind, (s.blk? x.c.blk).bind (fun b => s.peerOf b r) with
      | .store _, _ => false
      | _, some (_, b) => b.aspPoison o n
      | _, none => false
    s.addReq { base 5 o with rank := r, st := if marked then poison else .waiting }
  | .fab row col o => s.addReq (base 8 (row * 2 ^ 55 + col * 2 ^ 50 + o))
  | .phys pa => s.addReq (base 15 pa)
  | .loc _ | .glob _ _ =>
    let r := match p with | .loc o => base 7 o | .glob pol va => base pol va | _ => base 0 0
    if kind.writes then
      ((reqParts x.c r).foldl (fun s q => s.dropL1 x.cid x.c.asid q.1) s).addReq r
    else match s.l1Serve x.c r with
      | some (s, st) => s.addReq { r with st := st }
      | none =>
        let miss : Bool := r.space = 0 || r.space = 1 || r.space = 7
        let s := if miss then (match s.ctxs.find? x.cid with | some c => s.setCtx x.cid (c.countUp 3 1) | none => s) else s
        s.addReq r

/-- The participants' accesses issued in ascending lane order (R98). -/
def State.issueLanes (s : State) (x : Iss) (m : MemOp) : List (Nat × Nat × Place) → List (Nat × Nat) →
    State × List (Nat × Nat)
  | [], ids => (s, ids.reverse)
  | (l, i, p) :: ps, ids =>
    let (s, id) := s.issueLane x m.image (m.kind l i) l m.n p
    s.issueLanes x m ps ((l, id) :: ids)

/-- The arrival counter of gang-peer writes raised (R90). -/
def Ctx.chargeRmt (c : Ctx) (ids : List Nat) : Ctx :=
  { c with ac := SMap.set 0 c.ac 4 (SMap.get 0 c.ac 4 + ids.length), eng := SMap.set [] c.eng 4 (SMap.get [] c.eng 4 ++ ids) }

/-- The destinations of the participants, index descriptors applied at issue (R185, R192). -/
def Iss.dests (x : Iss) (w : Nat) : List (Nat × Opnd) :=
  (lanesOf x.part).map (fun l => (l, match x.o.d with
    | .vix m off => (match ixReg (x.c.rix l m.toNat) off w x.c.seg with | some n => .v (BitVec.ofNat 8 n) | none => .none)
    | d => d))

/-- The accesses of a memory instruction issued, its record made, and confirmation tried at once (R282). -/
def State.launchAcc (s : State) (x : Iss) (m : MemOp) (ps : List (Nat × Nat × Place)) (ptrs : List (Nat × BitVec 64)) : State :=
  let w : Nat := match m.acc with | .load t | .atomic t => Nat.max 32 (8 * t.size) | _ => 32
  let (s, ids) := s.issueLanes x m ps []
  match s.ctxs.find? x.cid with
  | none => s
  | some c =>
    let key := freshKey c.accs
    let flag := if c.stream = .host then none else x.flag
    let writes := (m.kind 0 0).writes
    let rmt := if writes then
        ids.filterMap (fun p => match s.ms.reqs.find? p.2 with
          | some r => if r.space = 5 ∧ !r.fin then some p.2 else none | none => none) else []
    let rem := if writes then (ps.filter (fun p => match p.2.2 with | .fab _ _ _ => true | _ => false)).length else 0
    let holdLater : Bool := (m.ord = .acq || m.ord = .ar || m.ord = .sc) &&
      (match m.acc with | .load _ | .atomic _ | .kald | .kaaddm => true | _ => decide (m.ord = .sc))
    let a : Acc := { k := x.k, pc := x.sp.pc, kind := m.acc, ds := x.dests w, part := x.part, flag := flag, reqs := ids,
                     ptrs := ptrs, sc := m.ord = .sc && m.sc ≠ .grp }
    let c := ((c.passGate writes).flagUp flag).chargeRmt rmt
    let c := { c with rem8 := c.rem8 + rem, accs := c.accs.put key a,
                      gLoads := if holdLater then c.gLoads ++ [key] else c.gLoads }
    let s := s.setCtx x.cid (c.setSplit x.k { x.sp with wait := .confirm key })
    (s.confirm x.cid x.k).getD s

/-- A memory instruction at issue: the waits of its order and of earlier fences, the SPACE and ALIGN of every participant before
any performs, then the accesses (R32, R104, R282). -/
def State.access (s : State) (x : Iss) (m : MemOp) (lanes : List Nat) : State :=
  let writes := (m.kind 0 0).writes
  match s.orderWait x.c writes m.ord m.sc with
  | some w => s.holdAs x w
  | none =>
    let first (l : Nat) : Nat := x.ptr s l
    let verdicts := lanes.map (fun l => (l, s.place x.c m.reg m.n m.align (first l)))
    let bad := verdicts.filterMap (fun p => match p.2 with | .error e => some (p.1, e) | .ok _ => none)
    match bad with
    | (l, cs, q) :: _ =>
      s.trapAt x { cause := cs, qual := q, lmask := maskOf (bad.map (·.1)), addr := BitVec.ofNat 64 (first l) }
    | [] =>
      let places := verdicts.flatMap (fun p => match p.2 with
        | .ok pl => (if m.n = 80 then (List.range 5).map (fun i => (p.1, i, pl.shift (16 * i))) else [(p.1, 0, pl)])
        | .error _ => [])
      let m := if m.n = 80 then { m with n := 16, image := true } else m
      if 65535 < SMap.get 0 x.c.ac 4 + (if writes then (places.filter (fun p => match p.2.2 with | .peer _ _ => true | _ => false)).length else 0)
      then s.holdAs x (.held 5)
      else
        let s := if writes && places.any (fun p => placeSpoils p.2.2) then s.clearDisc x.c else s
        s.launchAcc x m places (lanes.map (fun l => (l, BitVec.ofNat 64 (first l))))

end Sys2Proof.Machine
end

