-- ==== Sys2Proof/Machine/Vec.lean ====
section
/-! DEFINITION. Class 010 but for the KA images in memory: int16 pairs, packed pixels, cross-lane operations and the
register forms of the Kulisch accumulator (R263 to R270). -/

namespace Sys2Proof.Machine

/-- An instruction on the two .s16 elements of its operands (R263). -/
def State.pairs (s : State) (i : Instr) (o : Opr) (f : Nat → Nat → Nat → Nat) : Out :=
  s.lanewise i (fun s x l => x.wr l 32 true
    (onPairs f (x.rd s l 32 .zero .a) (x.rd s l 32 .zero .b) (x.rd s l 32 .zero .c)))

/-- hadd (R263). -/
def execHadd (o : Opr) (sat : Bool) (s : State) : Out := s.pairs (.hadd o sat) o (fun a b _ => fit16 sat (sx 16 a + sx 16 b))
/-- hsub (R263). -/
def execHsub (o : Opr) (sat : Bool) (s : State) : Out := s.pairs (.hsub o sat) o (fun a b _ => fit16 sat (sx 16 a - sx 16 b))
/-- hmul (R263). -/
def execHmul (o : Opr) (sat : Bool) (s : State) : Out := s.pairs (.hmul o sat) o (fun a b _ => fit16 sat (sx 16 a * sx 16 b))
/-- hmad, from one exact sum (R263). -/
def execHmad (o : Opr) (sat : Bool) (s : State) : Out :=
  s.pairs (.hmad o sat) o (fun a b c => fit16 sat (sx 16 a * sx 16 b + sx 16 c))
/-- hmin (R263). -/
def execHmin (o : Opr) (s : State) : Out := s.pairs (.hmin o) o (fun a b _ => if sx 16 a ≤ sx 16 b then a else b)
/-- hmax (R263). -/
def execHmax (o : Opr) (s : State) : Out := s.pairs (.hmax o) o (fun a b _ => if sx 16 b ≤ sx 16 a then a else b)
/-- hsar (R263). -/
def execHsar (o : Opr) (rnd : Bool) (s : State) : Out := s.pairs (.hsar o rnd) o (fun a b _ => hsarVal rnd a b)
/-- hclamp: Min(Max(a, b), c) (R263). -/
def execHclamp (o : Opr) (s : State) : Out :=
  s.pairs (.hclamp o) o (fun a b c =>
    let m := if sx 16 a ≤ sx 16 b then b else a
    if sx 16 m ≤ sx 16 c then m else c)
/-- pxunpk: two samples of a stream (R264). -/
def execPxunpk (o : Opr) (w : PxW) (s : State) : Out :=
  s.lanewise (.pxunpk o w) (fun s x l => x.wr l 32 false (pxunpkVal w (x.rd s l 64 .zero .a) (x.rd s l 32 .zero .b)))
/-- pxpack: two saturated samples into a stream (R264). -/
def execPxpack (o : Opr) (w : PxW) (s : State) : Out :=
  s.lanewise (.pxpack o w) (fun s x l =>
    x.wr l 64 false (pxpackVal w (x.rd s l 64 .zero .d) (x.rd s l 32 .zero .a) (x.rd s l 32 .zero .b)))

/-! ### Cross-lane -/

/-- 2^SEG of a control word; 6 and 7 act as 5 (R265). -/
def segSize (ctl : Nat) : Nat := 2 ^ Nat.min (ctl % 8) 5

/-- First lane of a lane's segment (R265). -/
def segBase (z l : Nat) : Nat := l - l % z

/-- The source lane of perm for participant l (R266); own is the participant's own control word. -/
def permSrc (m : PermMode) (ctl own l : Nat) : Nat :=
  let z := segSize ctl
  let b := segBase z l
  match m with
  | .gat => own % 32
  | .rot => b + ((l - b) + bits ctl 3 5) % z
  | .rev => b + z - 1 - (l - b)
  | .swp => if bits ctl 3 3 < Nat.min (ctl % 8) 5 then l ^^^ 2 ^ bits ctl 3 3 else l

/-- perm (R265, R266); variable-latency. -/
def execPerm (o : Opr) (t : Ty) (m : PermMode) (s : State) : Out :=
  s.lanewiseVar (.perm o t m) (fun s x l =>
    let ctl := x.rd s (lowest x.part) 32 .zero .b
    let k := permSrc m ctl (x.rd s l 32 .zero .b) l
    x.wr l t.width false (x.rd s (if x.part.getLsbD k then k else l) t.width .zero .a))

/-- The participants whose a is not zero (R267). -/
def Iss.nonzero (x : Iss) (s : State) (op : Operand) : List Nat :=
  (lanesOf x.part).filter (fun l => x.rd s l 32 .zero op ≠ 0)

/-- The result of lmask in lane l for the lanes of M (R267). -/
def lmaskVal (m : LmaskMode) (ls : List Nat) (l : Nat) : Nat :=
  match m with
  | .msk => (maskOf ls).toNat
  | .cnt => ls.length
  | .rank => (ls.filter (· < l)).length
  | .lead => ls.headD 32

/-- lmask (R267); variable-latency. -/
def execLmask (o : Opr) (m : LmaskMode) (s : State) : Out :=
  s.lanewiseVar (.lmask o m) (fun s x l => x.wr l 32 false (lmaskVal m (x.nonzero s .a) l))

/-- lgrp (R267); variable-latency. -/
def execLgrp (o : Opr) (t : Ty) (m : LgrpMode) (s : State) : Out :=
  s.lanewiseVar (.lgrp o t m) (fun s x l =>
    let v (k : Nat) : Nat := x.rd s k t.width .zero .a
    let same := (lanesOf x.part).filter (fun k => v k = v l)
    x.wr l 32 false (match m with
      | .eqm => (maskOf same).toNat
      | .rep => same.headD 0
      | .num => (((lanesOf x.part).map v).dedup).length))

/-- The values of the participants of lane l's segment that a predicate on lanes admits (R268). -/
def Iss.segVals (x : Iss) (s : State) (l ctl : Nat) (op : Operand) (t : Ty) (f : Nat → Bool) : List Nat :=
  let z := segSize ctl
  ((lanesOf x.part).filter (fun k => decide (segBase z k = segBase z l) && f k)).map
    (fun k => x.rd s k t.width (extOf t) op)

/-- lred: the reduction over the participants of the lane's segment (R268); variable-latency. -/
def execLred (o : Opr) (t : Ty) (op : LredOp) (s : State) : Out :=
  s.lanewiseVar (.lred o t op) (fun s x l =>
    let ctl := x.rd s (lowest x.part) 32 .zero .b
    x.wr l t.width t.signed (lredVal op t (x.segVals s l ctl .a t (fun _ => true))))

/-- lpre: the reduction over those at or below the lane, or strictly below under EXCL (R268); variable-latency. -/
def execLpre (o : Opr) (t : Ty) (op : LredOp) (s : State) : Out :=
  s.lanewiseVar (.lpre o t op) (fun s x l =>
    let ctl := x.rd s (lowest x.part) 32 .zero .b
    x.wr l t.width t.signed
      (lredVal op t (x.segVals s l ctl .a t (fun k => if bitOf ctl 3 then decide (k < l) else decide (k ≤ l)))))

/-! ### The Kulisch accumulator -/

/-- A kald or kaaddm of the group is incomplete (R269). -/
def Ctx.kaBusy (c : Ctx) : Bool :=
  c.accs.any (fun p => p.2.kind = .kald || p.2.kind = .kaaddm) || c.res.any (fun p => p.2.ka.isSome)

/-- A KA instruction on registers: it holds while an image read is incomplete (R269). -/
def State.kaIssue (s : State) (i : Instr) (body : State → Iss → State) : Out :=
  s.issue i false (fun s x => if x.c.kaBusy then s.holdAs x (.held 3) else body s x)

/-- kaclr (R270). -/
def execKaclr (o : Opr) (s : State) : Out := s.kaIssue (.kaclr o) (fun s x => s.retire x { x.c with ka := 0 })

/-- kaadd.f32: each participant's a is added (R227, R270). -/
def execKaadd (o : Opr) (s : State) : Out :=
  s.kaIssue (.kaadd o) (fun s x => s.retire x { x.c with
    ka := (lanesOf x.part).foldl (fun k l => kaAddFV k (f32F.val (x.rd s l 32 .zero .a))) x.c.ka })

/-- kamad.f32: each participant's exact product is added (R227, R270). -/
def execKamad (o : Opr) (s : State) : Out :=
  s.kaIssue (.kamad o) (fun s x => s.retire x { x.c with
    ka := (lanesOf x.part).foldl (fun k l =>
      kaAddFV k ((f32F.val (x.rd s l 32 .zero .a)).mul (f32F.val (x.rd s l 32 .zero .b)))) x.c.ka })

/-- karead: KaRead into each participant's d (R228, R270); variable-latency. -/
def execKaread (o : Opr) (t : Ty) (rm : Rm) (s : State) : Out :=
  s.kaIssue (.karead o t rm) (fun s x =>
    let ws := x.laneWrites (fun l => x.wr l t.width false (kaRead t.fmt rm ((s.us x rm 1 l).getD 0 0) x.c.ka))
    s.pend x { x.c with sr := s.srAfter x rm 1 } { writes := ws, flag := none })

end Sys2Proof.Machine
end

