-- ==== Sys2Proof/Machine/Memory.lean ====
section
/-! DEFINITION. The instructions of class 011 and the KA images: ld, st, atom, red, cas, kast, kald, kaaddm, acc.ld, fence,
prefetch and wait.ac (R271 to R281). -/

namespace Sys2Proof.Machine

/-- ld (R273, R274); variable-latency. -/
def execLd (o : Opr) (t : Ty) (ord : Ord) (sc : Scope) (s : State) : Out :=
  s.issue (.ld o t ord sc) false (fun s x => s.access x
    { n := t.size, align := t.size, reg := t.size = 8, kind := fun _ _ => .load, acc := .load t, ord := ord, sc := sc }
    (lanesOf x.part))

/-- The low bytes of a lane's store data (R273). -/
def Iss.storeData (x : Iss) (s : State) (l n : Nat) : List Byte :=
  leBytes n (x.rd s l (Nat.max 32 (8 * n)) .zero .b)

/-- st (R273, R274). -/
def execSt (o : Opr) (t : Ty) (ord : Ord) (sc : Scope) (s : State) : Out :=
  s.issue (.st o t ord sc) false (fun s x => s.access x
    { n := t.size, align := t.size, reg := t.size = 8, kind := fun l _ => .store (x.storeData s l t.size), acc := .store,
      ord := ord, sc := sc } (lanesOf x.part))

/-- The operand of an atomic in a lane. -/
def Iss.atomB (x : Iss) (s : State) (l : Nat) (t : Ty) : Nat := x.rd s l t.width .zero .b

/-- atom: the old value is returned (R275, R106); variable-latency. -/
def execAtom (o : Opr) (t : Ty) (op : AtomOp) (ord : Ord) (sc : Scope) (s : State) : Out :=
  s.issue (.atom o t op ord sc) false (fun s x => s.access x
    { n := t.size, align := t.size, reg := false, kind := fun l _ => .atomic op t (x.atomB s l t), acc := .atomic t,
      ord := ord, sc := sc } (lanesOf x.part))

/-- red: an atomic that returns nothing (R275, R106). -/
def execRed (o : Opr) (t : Ty) (op : AtomOp) (ord : Ord) (sc : Scope) (s : State) : Out :=
  s.issue (.red o t op ord sc) false (fun s x => s.access x
    { n := t.size, align := t.size, reg := false, kind := fun l _ => .atomic op t (x.atomB s l t), acc := .store,
      ord := ord, sc := sc } (lanesOf x.part))

/-- cas (R276); variable-latency. -/
def execCas (o : Opr) (w : CasW) (ord : Ord) (sc : Scope) (s : State) : Out :=
  s.issue (.cas o w ord sc) false (fun s x =>
    let n := w.bits / 8
    s.access x
      { n := n, align := n, reg := false,
        kind := fun l _ => .cas w (x.rd s l w.bits .zero .b) (x.rd s l w.bits .zero .c),
        acc := .atomic w.ty, ord := ord, sc := sc } (lanesOf x.part))

/-! ### KA images (R228, R269, R271) -/

/-- An access to the 80-byte image at the lowest participant's pointer, once no image read of the group is incomplete. -/
def State.kaImage (s : State) (i : Instr) (ord : Ord) (sc : Scope) (acc : AccKind) (kind : Iss → Nat → ReqKind) : Out :=
  s.kaIssue i (fun s x => s.access x
    { n := 80, align := 16, reg := false, kind := fun _ j => kind x j, acc := acc, ord := ord, sc := sc } [lowest x.part])

/-- kast: the image is written, as the KA stands (R271). -/
def execKast (o : Opr) (ord : Ord) (sc : Scope) (s : State) : Out :=
  s.kaImage (.kast o ord sc) ord sc .store (fun x j => .store (leBytes 16 (x.c.ka.toNat / 2 ^ (128 * j))))

/-- kald: the KA becomes the image (R271); variable-latency. -/
def execKald (o : Opr) (ord : Ord) (sc : Scope) (s : State) : Out :=
  s.kaImage (.kald o ord sc) ord sc .kald (fun _ _ => .load)

/-- kaaddm: the image is added to the KA (R227, R271); variable-latency. -/
def execKaaddm (o : Opr) (ord : Ord) (sc : Scope) (s : State) : Out :=
  s.kaImage (.kaaddm o ord sc) ord sc .kaaddm (fun _ _ => .load)

/-! ### acc.ld -/

/-- An accumulator element as acc.ld converts it (R280). -/
def accLdVal (t : Ty) (rm : Rm) (u e : Nat) : Nat :=
  match t with
  | .b128 => e
  | .s64 => wrap 64 (satTo true 64 (sx 128 e))
  | .s32 => wrap 32 (satTo true 32 (sx 128 e))
  | t => fconv b128F t.fmt rm u e

/-- The ACS offset of a lane (R280). -/
def Iss.accOff (x : Iss) (s : State) (l : Nat) : Nat := (x.rd s l 32 .zero .a + x.o.imm.toNat) % 2 ^ 32

/-- acc.ld: bounds before alignment, for every participant first; performed at the bank (R89, R280); variable-latency. -/
def execAccLd (o : Opr) (t : Ty) (rm : Rm) (s : State) : Out :=
  s.issue (.accLd o t rm) false (fun s x =>
    match s.blk? x.c.blk with
    | none => s.trapAt x { cause := .space, qual := 1 }
    | some b =>
      match s.gateOf x.c false with
      | some w => s.holdAs x w
      | none =>
        let far (l : Nat) : Bool := 0x80000 ≤ x.accOff s l || b.acst ≤ x.accOff s l / 0x10000
        let odd (l : Nat) : Bool := x.accOff s l % 16 ≠ 0
        let bad := (lanesOf x.part).filter (fun l => far l || odd l)
        match bad with
        | l :: _ =>
          s.trapAt x { cause := if far l then .space else .align, qual := if far l then 2 else 0, lmask := maskOf bad,
                       addr := BitVec.ofNat 64 (x.accOff s l) }
        | [] =>
          let draws := if t.isFloat then 1 else 0
          let ws := x.laneWrites (fun l =>
            x.wr l t.width t.signed (accLdVal t rm ((s.us x rm draws l).headD 0) (b.acsRd (x.accOff s l) 16)))
          s.pend x { x.c with sr := if t.isFloat then s.srAfter x rm 1 else x.c.sr } { writes := ws, flag := none })

/-! ### fence, prefetch, wait.ac -/

/-- The wider of two scopes (R102). -/
def scopeRank : Scope → Nat
  | .grp => 0 | .blk => 1 | .gang => 2 | .die => 3 | .pkg => 4 | .fab => 5

/-- The scope of a release fence added to one that still holds. -/
def scopeMax (a : Option Scope) (b : Scope) : Option Scope :=
  match a with | some x => if scopeRank b ≤ scopeRank x then some x else some b | none => some b

/-- The accesses whose return an acquire fence waits for (R103). -/
def Ctx.loadKeys (c : Ctx) : List Nat :=
  (c.accs.filter (fun p => match p.2.kind with | .load _ | .atomic _ | .kald | .kaaddm => true | _ => false)).map (·.1)

/-- fence (R103, R278): acquire holds every later access until earlier loads and atomics have returned, release holds later
writes until the release wait; the sequentially consistent fence completes once both waits are over. -/
def execFence (o : Opr) (ord : Ord) (sc : Scope) (s : State) : Out :=
  s.issue (.fence o ord sc) false (fun s x =>
    match ord with
    | .sc =>
      if !s.released x.c sc then s.holdAs x (.release sc)
      else if !x.c.loadsBack then s.holdAs x .gate
      else s.retire x x.c
    | .acq => s.retire x { x.c with gLoads := x.c.gLoads ++ x.c.loadKeys }
    | .rel => s.retire x { x.c with gRel := scopeMax x.c.gRel sc }
    | _ => s.retire x { x.c with gLoads := x.c.gLoads ++ x.c.loadKeys, gRel := scopeMax x.c.gRel sc })

/-- A prefetch of one line: it raises nothing and may be served by no one. It looks and allocates where a load through its space does, no
nearer than the level that it names (R11, R107, R279). -/
def State.prefetchLane (s : State) (x : Iss) (lv : PfLevel) (l : Nat) : State :=
  match s.place x.c false 1 1 (x.ptr s l) with
  | .ok p =>
    let r : Option Req := match p with
      | .glob pol va => some { cid := x.cid, lane := l, kind := .load, space := pol, va := va, size := 1, asid := x.c.asid,
                               dev := x.c.dev, priv := x.c.stream = .host && x.c.priv, die := s.dieOf x.cid, core := s.coreOf x.cid,
                               tc := if x.c.stream = .host then 0 else 1 }
      | .loc o => some { cid := x.cid, lane := l, kind := .load, space := 7, va := o, size := 1, asid := x.c.asid,
                         dev := x.c.dev, priv := x.c.stream = .host && x.c.priv, die := s.dieOf x.cid, core := s.coreOf x.cid,
                         tc := if x.c.stream = .host then 0 else 1 }
      | _ => none
    (match r with
     | some r => (match reqParts x.c r with
       | (va, n) :: _ =>
         let (look, all) := loadLevels r.space
         let alloc := match lv with | .l1 => all | .l2 => all.filter (· ≠ .l1) | .l3 => all.filter (· = .l3)
         (s.cachedRead (r.ha va n .inline) r.die r.core r.dev (s.lookFor look r.cid r.die r.asid va) alloc).1
       | [] => s)
     | none => s)
  | .error _ => s

/-- prefetch (R279). -/
def execPrefetch (o : Opr) (lv : PfLevel) (s : State) : Out :=
  s.issue (.prefetch o lv) false (fun s x =>
    if (s.gateOf x.c false).isSome then s.retire x x.c
    else
      let s := (lanesOf x.part).foldl (fun s l => s.prefetchLane x lv l) s
      s.retire x x.c)

/-- The number of an arrival counter (R281). -/
def acNum : AcCtr → Nat
  | .cpy => 0 | .dcx => 1 | .srd => 2 | .col => 3 | .rmt => 4 | .rsd => 5

/-- The trap that a latch raises at a wait of its thread (R317). -/
def Latch.info (l : Latch) : TrapInfo :=
  { cause := l.cause, qual := l.qual, level := l.level, addr := l.addr, aux := l.aux, latch := some l }

/-- The threshold of wait.ac: 32 bits in a lane stream, the whole s register in a cox (R281). -/
def Iss.threshold (x : Iss) (s : State) : Nat :=
  x.rd s (lowest x.part) (if x.c.stream = .cox then 64 else 32) .zero .a

end Sys2Proof.Machine
end

