-- ==== Sys2Proof/Machine/Charge.lean ====
section
/-! DEFINITION. Arrival counters, the order in which they fall, and engine-fault latches (R90, R281, R308, R314 to R317). -/

namespace Sys2Proof.Machine

/-- An operation charged to a thread's counter (R314). -/
def Ctx.charge (c : Ctx) (ctr op : Nat) : Ctx :=
  { c with ac := SMap.set 0 c.ac ctr (SMap.get 0 c.ac ctr + 1), eng := SMap.set [] c.eng ctr (SMap.get [] c.eng ctr ++ [op]) }

/-- The operation has counted out. -/
def State.opOut (s : State) (op : Nat) : Bool :=
  match s.eng.ops.find? op with | some o => (match o.st with | .counted _ => true | _ => false) | none => true

/-- A counter falls past the operations at its head that have counted out (R315). -/
def State.fallCtr (s : State) (cid ctr : Nat) : State :=
  match s.ctxs.find? cid with
  | none => s
  | some c =>
    let l := (SMap.get [] c.eng ctr).dropWhile s.opOut
    s.setCtx cid { c with eng := SMap.set [] c.eng ctr l, ac := SMap.set 0 c.ac ctr l.length }

/-- The gang-peer counter of a thread falls past the writes at its head that have been performed (R90). -/
def State.fallRmt (s : State) (cid : Nat) : State :=
  match s.ctxs.find? cid with
  | none => s
  | some c =>
    let l := (SMap.get [] c.eng 4).dropWhile (fun id => match s.ms.reqs.find? id with | some r => r.fin | none => true)
    s.setCtx cid { c with eng := SMap.set [] c.eng 4 l, ac := SMap.set 0 c.ac 4 l.length }

/-- A latch set by a counted-out fault, or its count of later faults raised (R317). -/
def Ctx.latchFault (c : Ctx) (o : EOp) (f : Cause × Nat × Nat × BitVec 64) : Ctx :=
  match c.latch.find? o.ctr with
  | some l => { c with latch := c.latch.put o.ctr { l with count := Nat.min (l.count + 1) 255 } }
  | none =>
    let (cs, q, lv, addr) := f
    { c with latch := c.latch.put o.ctr { cause := cs, qual := q, level := lv, addr := addr, aux := o.aux, opc := o.opc, md := o.md,
                                          imm := o.imm, a := o.a, b := o.b, c := o.c, e := o.e, count := 0, line := o.line } }

/-- Register of an SRE channel (R325). -/
def chanReg (c r : Nat) : Nat := engB + 0x2000 + 0x40 * c + r

/-- A command that the drive has and has not answered (R325). -/
def NvCmd.flying (c : NvCmd) : Bool := c.sub.isSome && !c.done

/-- A command that the SRE still holds: the drive has it, or it is to be submitted (R316, R320). -/
def EOp.holds (o : EOp) (c : NvCmd) : Bool := !c.done && (c.sub.isSome || decide (o.st = .running))

/-- A channel whose EN is to clear does so when no command of it is in flight (R325). -/
def State.chanSettle (s : State) (ch : Nat) : State :=
  match s.eng.chOff.find? ch with
  | none => s
  | some x =>
    if s.eng.ops.any (fun p => decide (p.2.kind = EKind.srd) && p.2.chan = ch && p.2.cmds.any p.2.holds) then s
    else ({ s with eng := { s.eng with chOff := s.eng.chOff.erase ch } }).setReg (chanReg ch 0) x

/-- Operations that are over leave: none of their threads' counters still counts them, and the drive has none of their commands. -/
def State.dropOver (s : State) : State :=
  let live (p : Nat × EOp) : Bool := match p.2.st with
    | .counted _ => p.2.cmds.any NvCmd.flying || p.2.charged.any (fun cid => match s.ctxs.find? cid with
      | some c => (SMap.get [] c.eng p.2.ctr).contains p.1 | none => false)
    | _ => true
  { s with eng := { s.eng with ops := s.eng.ops.filter live } }

/-- An operation counts out: its fault enters the latch of its counter in each thread charged, its bytes are counted, and each
counter falls as far as it may (R315, R317, R345). A channel that waits for it may clear (R325). -/
def State.countOut (s : State) (op : Nat) (f : Option (Cause × Nat × Nat × BitVec 64)) (bytes : Nat) : State :=
  match s.eng.ops.find? op with
  | none => s
  | some o =>
    let s := { s with eng := { s.eng with ops := s.eng.ops.put op { o with st := .counted f } } }
    let s := o.charged.foldl (fun s cid => match s.ctxs.find? cid with
      | some c =>
        let c := match f with | some f => c.latchFault o f | none => c
        s.setCtx cid (c.countUp 5 bytes)
      | none => s) s
    let s := (o.charged.foldl (fun s cid => s.fallCtr cid o.ctr) s).dropOver
    let keep (x : Coll) : Bool := x.op ≠ some op || (x.rank = 0 && x.decided.isNone)
    ({ s with eng := { s.eng with colls := s.eng.colls.filter keep } }).chanSettle o.chan

/-- Operations in a cluster's CPY queue, or in its DCX queue (R308, R320). -/
def State.queued (s : State) (cluster : Nat) (dcx : Bool) : Nat :=
  (s.eng.ops.filter (fun p => p.2.cluster = cluster && (match p.2.st with | .counted _ => false | _ => true) &&
    (match p.2.kind with | .cpy | .cpy2d | .fill => !dcx | .dcx _ => dcx | _ => false))).length

/-- A new operation recorded and charged. -/
def State.addOp (s : State) (o : EOp) : State × Nat :=
  let id := s.eng.next
  let s := { s with eng := { s.eng with ops := s.eng.ops.put id o, next := id + 1 } }
  (o.charged.foldl (fun s cid => match s.ctxs.find? cid with | some c => s.setCtx cid (c.charge o.ctr id) | none => s) s, id)

/-- The party that stands for no thread in a request. -/
def noThreadId : Nat := 2 ^ 50

/-- The poisoned physical line that an address of an address space leads to. -/
def State.badAt (s : State) (asid va : Nat) : Option Nat :=
  match s.paOf asid va with | some (pa, _) => if s.poisoned (pa / 128) then some (pa / 128) else none | none => none

end Sys2Proof.Machine
end

