-- ==== Sys2Proof/Machine/TreeOps.lean ====
section
/-! DEFINITION. Token trees (R147 to R152, R309, R310). -/

namespace Sys2Proof.Machine

/-- A node of the tree. -/
def Tree.node (t : Tree) (i : Nat) : TNode := (t.nodes[i]?).getD { parent := 0, accept := false, user := 0, token := 0, score := 0 }

/-- Depth of a node; a parent's index is below its node's, so the chain ends within the fuel (R148). -/
def Tree.depthF (t : Tree) : Nat → Nat → Nat
  | 0, _ => 0
  | n + 1, i => if i = 0 then 0 else t.depthF n (t.node i).parent + 1

/-- Depth(i) of R148. -/
def Tree.depth (t : Tree) (i : Nat) : Nat := t.depthF 257 i
/-- Pos(i) of R148. -/
def Tree.pos (t : Tree) (i : Nat) : Nat := t.base + t.depth i

/-- Node i and its ancestors. -/
def Tree.path (t : Tree) : Nat → Nat → List Nat
  | 0, i => [i]
  | n + 1, i => if i = 0 then [0] else i :: t.path n (t.node i).parent

/-- Mask(i) of R148. -/
def Tree.mask (t : Tree) (i : Nat) : Nat := ((t.path 257 i).dedup).foldl (fun m j => m ||| 2 ^ j) 0

/-- The node image of R148. -/
def Tree.image (t : Tree) (i : Nat) : Nat :=
  let n := t.node i
  let leaf := !((t.nodes.zipIdx).any (fun p => p.2 ≠ 0 && p.1.parent = i))
  n.parent % 256 + at' (bit n.accept) 8 1 + at' (bit leaf) 9 1 + at' n.user 10 6 + at' (t.depth i) 16 8
    + at' n.token.toNat 32 32 + at' n.score.toNat 64 32 + at' (t.pos i) 96 32

/-- Accept of R150: a and every ancestor. -/
def Tree.acceptNode (t : Tree) (a : Nat) : Tree :=
  let p := t.path 257 a
  { t with nodes := t.nodes.zipIdx.map (fun q => if p.contains q.2 then { q.1 with accept := true } else q.1) }

/-- The accepted children of a node. -/
def Tree.acceptedKids (t : Tree) (c : Nat) : List Nat :=
  (t.nodes.zipIdx.filter (fun p => p.2 ≠ 0 && p.1.parent = c && p.1.accept)).map (·.2)

/-- The committed path below a node, by fuel (R150). -/
def Tree.committed (t : Tree) : Nat → Nat → List Nat
  | 0, _ => []
  | n + 1, c => match t.acceptedKids c with | [d] => d :: t.committed n d | _ => []

/-- Prune of R150 and the list of R151: the new tree, the committed count and the entries. -/
def Tree.prune (t : Tree) : Tree × Nat × List Nat :=
  let path := t.committed 256 0
  let c := path.getLastD 0
  let keep := (List.range t.nodes.length).filter (fun i =>
    i = c || (i ≠ c && (t.path 257 i).contains c && (t.node i).accept))
  let idx (i : Nat) : Nat := (keep.idxOf i)
  let nodes := keep.map (fun i =>
    let n := t.node i
    { n with accept := false, parent := if i = c then 0 else idx n.parent })
  let first := path.map (fun i => at' (t.pos i) 0 32 + at' i 32 8)
  let rest := (keep.filter (· ≠ c)).map (fun i => at' (idx i) 0 32 + at' i 32 8 + 2 ^ 40 + (if idx i = i then 2 ^ 41 else 0))
  ({ base := t.base + path.length, nodes := nodes }, path.length, first ++ rest)

/-- The trap of a tree instruction. -/
def treeTrap (q : Nat) : TrapInfo := { cause := .tree, qual := q }

/-- A tree instruction at issue: the block must have claimed a TRF (R309). -/
def State.treeIssue (s : State) (i : Instr) (body : State → Iss → Block → Tree → State) : Out :=
  s.issue i false (fun s x =>
    match s.blk? x.c.blk with
    | none => s.trapAt x (treeTrap 0)
    | some b => match b.tree with
      | none => s.trapAt x (treeTrap 0)
      | some t => body s x b t)

/-- A node-index operand. -/
def Iss.nodeIx (x : Iss) (s : State) : Nat := x.rd s 0 64 .zero .a

/-- A cox source of 64 bits. -/
def Iss.s64 (x : Iss) (s : State) (op : Operand) : Nat := x.rd s 0 64 .zero op

/-- The writes of a result of consecutive s registers, the first lowest (R286). -/
def Iss.sWrites (x : Iss) (n v : Nat) : List RW :=
  match x.o.d with
  | .s d => (List.range n).map (fun j => .s (d.toNat + j) (BitVec.ofNat 64 (v / 2 ^ (64 * j))))
  | _ => []

/-- A block with its tree replaced. -/
def State.setTree (s : State) (x : Iss) (b : Block) (t : Tree) : State := s.setBlk x.c.blk { b with tree := some t }

/-- tree.clr (R309). -/
def execTreeClr (o : Opr) (s : State) : Out :=
  s.treeIssue (.treeClr o) (fun s x b _ =>
    let a := x.s64 s .a
    let w := x.s64 s .b
    if 2 ^ 32 ≤ a then s.trapAt x (treeTrap 3)
    else
      let root : TNode := { parent := 0, accept := false, user := 0, token := BitVec.ofNat 32 w, score := BitVec.ofNat 32 (w / 2 ^ 32) }
      (s.setTree x b { base := a, nodes := [root] }).retire x x.c)

/-- tree.add (R149, R309); D is available to the next instruction. -/
def execTreeAdd (o : Opr) (s : State) : Out :=
  s.treeIssue (.treeAdd o) (fun s x b t =>
    let a := x.s64 s .a
    let l := x.s64 s .b
    let par := bits l 0 8
    if bits l 14 50 ≠ 0 then s.trapAt x (treeTrap 2)
    else if t.nodes.length = 256 then s.trapAt x (treeTrap 1)
    else if t.nodes.length ≤ par then s.trapAt x (treeTrap 2)
    else if 0xFFFFFFFF < t.base + (t.depth par + 1) then s.trapAt x (treeTrap 3)
    else
      let n : TNode := { parent := par, accept := false, user := bits l 8 6, token := BitVec.ofNat 32 a,
                         score := BitVec.ofNat 32 (a / 2 ^ 32) }
      (s.setTree x b { t with nodes := t.nodes ++ [n] }).retire x (x.c.applyAll (x.sWrites 1 t.nodes.length)))

/-- tree.mask (R309); variable-latency. -/
def execTreeMask (o : Opr) (s : State) : Out :=
  s.treeIssue (.treeMask o) (fun s x _ t =>
    if t.nodes.length ≤ x.nodeIx s then s.trapAt x (treeTrap 4)
    else s.pend x x.c { writes := x.sWrites 4 (t.mask (x.nodeIx s)), flag := none })

/-- tree.pos (R309); variable-latency. -/
def execTreePos (o : Opr) (s : State) : Out :=
  s.treeIssue (.treePos o) (fun s x _ t =>
    let i := x.nodeIx s
    if t.nodes.length ≤ i then s.trapAt x (treeTrap 4)
    else s.pend x x.c { writes := x.sWrites 1 (at' (t.depth i) 32 8 + at' (t.pos i) 0 32), flag := none })

/-- tree.accept (R150, R309). -/
def execTreeAccept (o : Opr) (s : State) : Out :=
  s.treeIssue (.treeAccept o) (fun s x b t =>
    let i := x.nodeIx s
    if t.nodes = [] then s.trapAt x (treeTrap 5)
    else if t.nodes.length ≤ i then s.trapAt x (treeTrap 4)
    else (s.setTree x b (t.acceptNode i)).retire x x.c)

/-- An earlier access of the cox to bytes of its own ASP has not been performed (R100). -/
def State.aspOpen (s : State) (x : Iss) (b : Block) (o n : Nat) : Bool :=
  s.ms.reqs.any (fun p => p.2.cid = x.cid && p.2.open_ && (p.2.space = 4 || (p.2.space = 5 && p.2.rank = b.rank))
    && meet (4, p.2.va, p.2.size) (4, o, n))

/-- tree.prune (R150, R151, R309): bounds before alignment. The list is stored at the bank before D is written, behind the cox's fences and
after its own earlier accesses to those bytes, as any store (R100, R103); variable-latency. -/
def execTreePrune (o : Opr) (s : State) : Out :=
  s.treeIssue (.treePrune o) (fun s x b t =>
    let a := x.s64 s .a
    if t.nodes = [] then s.trapAt x (treeTrap 5)
    else if b.aspBytes < a + 2048 then s.trapAt x { cause := .space, qual := 2, addr := BitVec.ofNat 64 a }
    else if a % 8 ≠ 0 then s.trapAt x { cause := .align, addr := BitVec.ofNat 64 a }
    else if s.aspOpen x b a (8 * t.prune.2.2.length) then s.holdAs x (.held 7)
    else match s.gateOf x.c true with
    | some w => s.holdAs x w
    | none =>
      let (t', k, es) := t.prune
      let b := { b.aspWr a (es.flatMap (leBytes 8)) with tree := some t' }
      (s.setBlk x.c.blk b).pend x (x.c.passGate true)
        { writes := x.sWrites 1 (at' k 0 8 + at' es.length 8 8 + at' t'.nodes.length 16 9), flag := none })

/-- tree.rd (R148, R309); variable-latency. -/
def execTreeRd (o : Opr) (s : State) : Out :=
  s.treeIssue (.treeRd o) (fun s x _ t =>
    let i := x.nodeIx s
    if t.nodes.length ≤ i then s.trapAt x (treeTrap 4)
    else s.pend x x.c { writes := x.sWrites 2 (t.image i), flag := none })

end Sys2Proof.Machine
end

