-- ==== Sys2Proof/Machine/Residency.lean ====
section
/-! DEFINITION. Weight residencies (R117 to R133, R307, R308): states, the source watch, fills and rebuilds, the mirror, and the
residency instructions and commands. -/

namespace Sys2Proof.Machine

/-! ### Lookup -/

/-- The map key of a handle. -/
def rsdKey (dev h : Nat) : Nat := dev * 65536 + h

/-- A live residency. -/
def State.rsd? (s : State) (dev h : Nat) : Option Rsd :=
  match s.rsds.find? (rsdKey dev h) with | some r => if h = 0 ∨ r.st = .free then none else some r | none => none

/-- A residency replaced. -/
def State.setRsd (s : State) (key : Nat) (r : Rsd) : State := { s with rsds := s.rsds.put key r }

/-- A state change of R122 recorded with its PT. -/
def Rsd.go (r : Rsd) (st : RState) (pt : Nat) : Rsd := { r with st := st, eventpt := pt, dirtyMirror := true }

/-- STATE codes (R121). -/
def RState.code : RState → Nat
  | .free => 0 | .allocated => 1 | .filling => 2 | .ready => 3 | .stale => 4 | .dropped => 5 | .rebuilding => 6 | .poisoned => 7

/-- CAUSE codes (R121). -/
def RCause.code : RCause → Nat
  | .none => 0 | .write => 1 | .remap => 2 | .rebuildFault => 3 | .sourcePoison => 4 | .cell => 5

/-- The 256-bit descriptor (R121). -/
def Rsd.desc (r : Rsd) : Nat :=
  if r.st = .free then 0
  else at' (RState.code r.st) 0 3 + at' (bit r.pin) 3 1 + at' (bit r.shard) 4 1 + at' r.cores 8 8 + at' r.vcl 16 6
    + at' r.nt 24 9 + at' (RCause.code r.cause) 33 3 + at' r.asid 48 16 + at' r.src 64 56 + at' r.fillpt 128 64
    + at' r.eventpt 192 64

/-- The cores of the set. -/
def coreCount (cores : Nat) : Nat := popcVal 8 cores

/-- The rank of a core in the set (R119). -/
def coreRank (cores i : Nat) : Nat := popcVal 8 (cores % 2 ^ i)

/-- L of R119. -/
def Rsd.len (r : Rsd) : Nat := r.nt * 16384 * (if r.shard then coreCount r.cores else 1)

/-- The source offset of a tile on a core (R119). -/
def Rsd.tileOff (r : Rsd) (core t : Nat) : Nat := (if r.shard then coreRank r.cores core * r.nt + t else t) * 16384

/-- The physical cluster of a device's cluster number (R163, R397). -/
def State.physCluster (s : State) (v vcl : Nat) : Option Nat :=
  let e := s.fld (pslot v + 8 + 8 * (vcl / 8)) (8 * (vcl % 8)) 8
  if e < 128 then none else some (e - 128)

/-- Slots of a core charged to a device (R127). -/
def State.charged (s : State) (v vcl core : Nat) : Nat :=
  s.rsds.foldl (fun n p => if p.1 / 65536 = v ∧ p.2.st ≠ .free ∧ p.2.vcl = vcl ∧ bits p.2.cores core 1 = 1 then n + p.2.nt else n) 0

/-- Slots of a physical core held by residencies that are not dropped (R127, R129). -/
def State.held (s : State) (cl core : Nat) : Nat :=
  s.rsds.foldl (fun n p =>
    if p.2.st ≠ .free ∧ p.2.st ≠ .dropped ∧ bits p.2.cores core 1 = 1 ∧ s.physCluster (p.1 / 65536) p.2.vcl = some cl
    then n + p.2.nt else n) 0

/-! ### The watch (R124 to R126) -/

/-- The residency watches no line any more. -/
def State.unwatch (s : State) (key : Nat) : State :=
  let w := (s.ms.watch.map (fun p => (p.1, p.2.filter (· ≠ key)))).filter (fun p => !p.2.isEmpty)
  { s with ms := { s.ms with watch := w } }

/-- A line watched for a residency. -/
def State.watchLine (s : State) (key l : Nat) : State :=
  let ks := SMap.get [] s.ms.watch l
  if ks.contains key then s else { s with ms := { s.ms with watch := s.ms.watch.put l (ks ++ [key]) } }

/-! ### Fills and rebuilds -/

/-- The cause under which a rebuild that finds a source page remapped is recorded until it ends (R131); no fill meets STALE
otherwise. -/
def remapMark : Cause × Nat × Nat × Nat := (.stale, 0, 0, 0)

/-- The party that reads for a fill: one of its own (R111). -/
def fillW (i : Nat) : Nat := 2 ^ 45 + i

/-- The copy of a rebuild enters the CPY queue of its cluster when that has room (R131, R308, R320). -/
def State.enterRebuild (s : State) (key : Nat) (r : Rsd) : Option State :=
  match r.st, r.op with
  | .rebuilding, none =>
    (match s.physCluster (key / 65536) r.vcl with
     | none => none
     | some cl =>
       if 64 ≤ s.queued cl false then none
       else
         let (s, op) := s.addOp
           { kind := .fill, blk := 0, cid := noThreadId, cluster := cl, core := 0, dev := key / 65536,
             asid := r.asid, ctr := 5, charged := [], opc := 0, md := 0, imm := 0, a := 0, b := 0, c := 0, e := 0 }
         some (s.setRsd key { r with op := some op }))
  | _, _ => some s

/-- A fill's request is over. -/
def State.dropReq (s : State) (id : Nat) : State := { s with ms := { s.ms with reqs := s.ms.reqs.erase id } }

/-- A fault stops a fill. -/
def State.fillStop (s : State) (id key : Nat) (f : Cause × Nat × Nat × Nat) : State :=
  match s.rsds.find? key with
  | some r => (s.dropReq id).setRsd key { r with fault := some f, filled := true }
  | none => s.dropReq id

/-- A source line has been read for a fill: its bytes, poison, watch and page are recorded, and the next line follows (R119, R124, R126,
R131, R132). -/
def State.fillTook (s : State) (id : Nat) (q : Req) (key : Nat) (bs : List Byte) : State :=
  match s.rsds.find? key with
  | none => s.dropReq id
  | some r => match s.paOf r.asid (r.src + q.va) with
    | none => s.dropReq id
    | some (pa, _) =>
      let known := r.ppns[(r.src + q.va) / 65536 - r.src / 65536]?
      if r.st = .rebuilding ∧ known.isSome ∧ known ≠ some (pa / 65536) then s.fillStop id key remapMark
      else
        let r : Rsd := { r with
          cells := bs.zipIdx.foldl (fun m p => SMap.set 0 m (q.va + p.2) p.1) r.cells,
          badLine := if r.badLine.isNone && s.poisoned (pa / 128) then some (pa / 128) else r.badLine,
          ppns := if known.isSome then r.ppns else r.ppns ++ [pa / 65536] }
        let s := s.watchLine key (pa / 128)
        if r.len ≤ q.va + 128 then (s.dropReq id).setRsd key { r with filled := true }
        else (s.setRsd key r).setReq id { q with va := q.va + 128, st := .waiting, since := s.pt }

/-- One source line read for a fill, like an engine read. A fault stops the fill. None while a rebuild has no place in the CPY queue. -/
def State.fillLine (s : State) (id : Nat) (q : Req) (key : Nat) (pace : Pace) : Option (State × HaRes) :=
  match (s.rsds.find? key).bind (s.enterRebuild key), s.rsds.find? key with
  | some s, some r =>
    let va := r.src + q.va
    let hq : HaReq := { asid := r.asid, va := va, n := 128, priv := false, who := fillW id, atL := .ha, engine := true, pace := pace,
                        tc := 3 }
    some (match s.perform hq .rd with
    | (s, .ok v _) => (s.fillTook id q key (leBytes 128 v), .ok 0 0)
    | (s, .fault c ql l _) => (s.fillStop id key (c, ql, l, va), .ok 0 0)
    | r => r)
  | _, _ => none

/-- The request that reads the lines of a fill. -/
def State.startFill (s : State) (key : Nat) (r : Rsd) : State :=
  (s.addReq { cid := noThreadId, lane := 0, kind := .fill key, space := 99, va := 0, size := 128, asid := r.asid,
              dev := key / 65536, priv := false, die := 0, core := 0, tc := 3, since := s.pt }).1

/-- The state in which a completed fill or rebuild leaves a residency: poison before staleness (R122, R132). -/
def Rsd.ended (r : Rsd) (pt : Nat) : Rsd :=
  let r := { r with fillpt := pt, filled := false, op := none, dirtyMirror := true }
  if r.badLine.isSome then { r with st := .poisoned, cause := .sourcePoison, eventpt := pt }
  else if r.wrote then { r with st := .stale, cause := .write, eventpt := r.wroteG }
  else { r with st := .ready, cause := .none, eventpt := pt }

/-- A fill ends (R122, R308): the counter falls in its turn. -/
def State.fillEnd (s : State) (key : Nat) : Option State :=
  match s.rsds.find? key with
  | none => none
  | some r =>
    if r.st ≠ .filling ∨ !r.filled then none
    else match r.fault with
      | some (c, q, l, va) =>
        let s := s.setRsd key { (r.go .allocated s.pt) with cause := .none, fault := none, filled := false, op := none }
        some (match r.op with | some op => s.countOut op (some (c, q, l, BitVec.ofNat 64 va)) 0 | none => s)
      | none =>
        let s := s.setRsd key (r.ended s.pt)
        some (match r.op with | some op => s.countOut op none 0 | none => s)

/-- A rebuild ends, or stops on a fault or a remapped page (R131). -/
def State.rebuildEnd (s : State) (key : Nat) : Option State :=
  match s.rsds.find? key with
  | none => none
  | some r =>
    if r.st ≠ .rebuilding ∨ !r.filled then none
    else match r.fault with
      | some f =>
        some (s.setRsd key { (r.go .stale s.pt) with
          cause := if f.1 = .stale then .remap else .rebuildFault, fault := none, filled := false, op := none })
      | none => some (s.setRsd key (r.ended s.pt))

/-- An uncorrectable error in the cells (R122, R132). -/
def execCellError (vdev h : Nat) (s : State) : Out :=
  match s.rsd? vdev h with
  | some r =>
    if r.st = .ready then .next (s.setRsd (rsdKey vdev h) { (r.go .poisoned s.pt) with cause := .cell })
    else .refused (.notEnabled "CELL_ERROR")
  | none => .refused (.notEnabled "CELL_ERROR")

/-- RDT_MIRROR_WRITE: a changed descriptor, or zero for a freed handle (R121). -/
def execRdtMirrorWrite (vdev h : Nat) (s : State) : Out :=
  match s.rsds.find? (rsdKey vdev h) with
  | none => .refused (.notEnabled "RDT_MIRROR_WRITE")
  | some r =>
    if !r.dirtyMirror then .refused (.notEnabled "RDT_MIRROR_WRITE")
    else
      let o := rsdB + 0x40 * vdev
      let s := if r.st = .free then { s with rsds := s.rsds.erase (rsdKey vdev h) }
        else s.setRsd (rsdKey vdev h) { r with dirtyMirror := false }
      if s.fld o 0 1 = 1 then .next (s.physWr (s.fld o 21 31 * 2 ^ 21 + 32 * h) (leBytes 32 r.desc)).1 else .next s

/-! ### Freeing (R127, R133) -/

/-- A matrix instruction reads the residency's cells: its results are still due (R127). -/
def State.rsdInUse (s : State) (key : Nat) : Bool := s.ctxs.any (fun p => p.2.res.any (fun r => r.2.rsd = some key))

/-- Free or revoke, once no matrix instruction reads the cells: a fill in flight stops and its counter falls, the watch is disarmed and
the handle is FREE. -/
def State.freeRsd (s : State) (key : Nat) : State :=
  match s.rsds.find? key with
  | none => s
  | some r =>
    let s := s.unwatch key
    let s := { s with ms := { s.ms with reqs := s.ms.reqs.filter (fun p => decide (p.2.kind ≠ ReqKind.fill key)) } }
    let s := s.setRsd key { st := .free, dirtyMirror := true }
    match r.op with | some op => s.countOut op none 0 | none => s

/-- RSTAT of a device's residency slot. -/
def State.setRstat (s : State) (v st reason : Nat) : State :=
  s.setReg (rsdB + 0x40 * v + 0x18) (BitVec.ofNat 64 (st + reason * 16))

/-- A handle named by a revoke: FREE at once, or when the matrix instructions that read its cells have finished (R127). DEDUCED (log
entry 86): those that issue while the revoke waits see the live residency. -/
def State.revokeRsd (s : State) (key : Nat) : State :=
  match s.rsds.find? key with
  | none => s
  | some r => if s.rsdInUse key then s.setRsd key { r with revoke := true } else s.freeRsd key

/-- A device's RSTAT is DONE once every handle named is FREE (R133). -/
def State.rstatDone (s : State) (v : Nat) : State :=
  if s.rsds.any (fun p => p.1 / 65536 = v && p.2.revoke) then s.setRstat v 1 0 else s.setRstat v 2 0

/-- Revokes that wait no longer (R127, R133). -/
def State.settleRevokes (s : State) : State :=
  s.rsds.foldl (fun s p => if p.2.revoke && !s.rsdInUse p.1 then (s.freeRsd p.1).rstatDone (p.1 / 65536) else s) s

/-! ### Instructions (R307, R308) -/

/-- The trap of a residency instruction. -/
def rsdTrap (q h : Nat) : TrapInfo := { cause := .rsd, qual := q, aux := BitVec.ofNat 64 (h % 2 ^ 16) }

/-- A residency instruction at issue: release fences hold it as they hold an engine issue, and its block is no longer
discardable (R103, R382). -/
def State.rsdIssue (s : State) (i : Instr) (body : State → Iss → Block → State) : Out :=
  s.issue i false (fun s x =>
    match s.blk? x.c.blk with
    | none => s.trapAt x (rsdTrap 0 (x.s64 s .a))
    | some _ =>
      let s := s.clearDisc x.c
      (match s.blk? x.c.blk with | some b => body s x b | none => s))

/-- The handle operand. -/
def Iss.handle (x : Iss) (s : State) : Nat := x.s64 s .a

/-- Cores of the set that fail a test. -/
def coresFail (cores : Nat) (f : Nat → Bool) : Bool := (List.range 8).any (fun c => bits cores c 1 = 1 && f c)

/-- rsd.alloc: the conditions of R127 in their order. -/
def execRsdAlloc (o : Opr) (s : State) : Out :=
  s.rsdIssue (.rsdAlloc o) (fun s x b =>
    let h := x.handle s
    let w := x.s64 s .b
    let cores := bits w 0 8
    let nt := bits w 8 9
    let vcl := s.vcluster b.dev b.cluster
    if h = 0 ∨ 0xFFFF < h then s.trapAt x (rsdTrap 0 h)
    else if (s.rsd? b.dev h).isSome then s.trapAt x (rsdTrap 1 h)
    else if bits w 17 47 ≠ 0 ∨ cores = 0 ∨ nt = 0 ∨ 384 < nt then s.trapAt x (rsdTrap 6 h)
    else if coresFail cores (fun c => s.fld (rsdB + 0x40 * b.dev + 8) 0 9 < s.charged b.dev vcl c + nt) then
      s.trapAt x { cause := .quota, qual := 1 }
    else if coresFail cores (fun c => 384 < s.held b.cluster c + nt) then s.trapAt x (rsdTrap 3 h)
    else
      let r : Rsd := { st := .allocated, cores := cores, nt := nt, vcl := vcl, eventpt := s.pt, dirtyMirror := true }
      (s.setRsd (rsdKey b.dev h) r).retire x x.c)

/-- A pointer that must lie in spaces 0x0 to top: its SPACE qualifier when it does not (R319). -/
def spaceFail (ptr top : Nat) : Option Nat :=
  let sp := bits ptr 60 4
  if 9 ≤ sp ∧ sp ≤ 14 then some 0 else if top < sp then some 1 else none

/-- A range of global bytes is out of bounds: a must-be-zero bit, or an end beyond 2^56 (R12, R319). -/
def globFar (ptr n : Nat) : Bool := bits ptr 56 4 ≠ 0 || 2 ^ 56 < bits ptr 0 56 + n

/-- rsd.load: accepted into FILLING, the fill issued through the cluster's CPY and charged to the cox's ac.rsd (R122, R307,
R308). -/
def execRsdLoad (o : Opr) (shard : Bool) (s : State) : Out :=
  s.rsdIssue (.rsdLoad o shard) (fun s x b =>
    let h := x.handle s
    let src := x.s64 s .b
    if 0xFFFF < h then s.trapAt x (rsdTrap 0 h)
    else match s.rsd? b.dev h with
      | none => s.trapAt x (rsdTrap 0 h)
      | some r =>
        let r' := { r with shard := shard, asid := b.asid, src := bits src 0 56 }
        let bad (t : TrapInfo) : State := s.trapAt x { t with addr := BitVec.ofNat 64 src }
        if s.physCluster b.dev r.vcl ≠ some b.cluster then s.trapAt x (rsdTrap 5 h)
        else if r.st = .filling ∨ r.st = .rebuilding ∨ r.st = .dropped then s.trapAt x (rsdTrap 5 h)
        else match spaceFail src 3 with
          | some q => bad { cause := .space, qual := q }
          | none =>
            if bits src 56 4 ≠ 0 then bad { cause := .space, qual := 2 }
            else if src % 128 ≠ 0 then bad { cause := .align }
            else if globFar src r'.len then bad { cause := .space, qual := 2 }
            else if 64 ≤ s.queued b.cluster false ∨ SMap.get 0 x.c.ac 5 = 65535 then s.holdAs x (.held 8)
            else match s.gateOf x.c true with
              | some w => s.holdAs x w
              | none =>
                let key := rsdKey b.dev h
                let s := s.unwatch key
                let (s, op) := s.addOp
                  { kind := .fill, blk := x.c.blk, cid := x.cid, cluster := b.cluster, core := b.core, dev := b.dev,
                    asid := b.asid, ctr := 5, charged := [x.cid], opc := 0x291, md := bit shard, imm := o.imm,
                    a := BitVec.ofNat 64 h, b := BitVec.ofNat 64 src, c := 0, e := 0 }
                let r2 : Rsd :=
                  { (r'.go .filling s.pt) with cells := [], ppns := [], wrote := false, wroteG := 0, badLine := none, fault := none,
                                               filled := false, op := some op }
                let s := (s.setRsd key r2).startFill key r2
                match s.ctxs.find? x.cid with | some c => s.retire x (c.passGate true) | none => s)

/-- rsd.pin and rsd.unpin (R122). DESIGN CHOICE (log entry 85): a pin during a fill or a rebuild counts as made at the PT of the
instruction (R129). -/
def State.pinRsd (s : State) (i : Instr) (v : Bool) : Out :=
  s.rsdIssue i (fun s x b =>
    let h := x.handle s
    if 0xFFFF < h then s.trapAt x (rsdTrap 0 h)
    else match s.rsd? b.dev h with
      | none => s.trapAt x (rsdTrap 0 h)
      | some r => (s.setRsd (rsdKey b.dev h) { r with pin := v, pinAt := if v then s.pt else r.pinAt, dirtyMirror := true }).retire x x.c)

/-- rsd.pin (R122, R307). -/
def execRsdPin (o : Opr) (s : State) : Out := s.pinRsd (.rsdPin o) true
/-- rsd.unpin (R122, R307). -/
def execRsdUnpin (o : Opr) (s : State) : Out := s.pinRsd (.rsdUnpin o) false

/-- rsd.query: the low 64 bits of the descriptor as the hub holds them; no fault (R307); variable-latency. -/
def execRsdQuery (o : Opr) (s : State) : Out :=
  s.rsdIssue (.rsdQuery o) (fun s x b =>
    let h := x.handle s
    let d := if 0xFFFF < h then 0 else match s.rsd? b.dev h with | some r => r.desc % 2 ^ 64 | none => 0
    s.pend x x.c { writes := x.sWrites 1 d, flag := none })

/-! ### Commands (R133) -/

/-- The device whose residency slot a write reaches. -/
def rsdSlotOf (off : Nat) : Nat := (off - rsdB) / 0x40

/-- The live handles of a device, ascending. -/
def State.liveHandles (s : State) (v : Nat) : List Nat :=
  (s.rsds.filter (fun p => p.1 / 65536 = v && p.2.st ≠ .free)).map (·.1)

/-- RCMD with another OP (R133). -/
def execRcmdBadcmd (w : RegW) (s : State) : Out :=
  let v := rsdSlotOf w.off
  if s.fld (rsdB + 0x40 * v + 0x18) 0 2 = 1 then .next s else .next (s.setRstat v 3 2)

/-! ### The switch of a cluster (R129, R131) -/

/-- A residency dropped (R122, R129, R130). -/
def Rsd.drop (r : Rsd) (pt : Nat) : Rsd := { (r.go .dropped pt) with was := r.st, wasCause := r.cause }

/-- The pinned residency of another device that was pinned last, on a core (R129). -/
def State.lastPinned (s : State) (cl core inc : Nat) : Option Nat :=
  (s.rsds.foldl (fun (m : Option (Nat × Nat)) p =>
    if p.1 / 65536 ≠ inc ∧ p.2.pin ∧ p.2.st ≠ .free ∧ p.2.st ≠ .dropped ∧ bits p.2.cores core 1 = 1
        ∧ s.physCluster (p.1 / 65536) p.2.vcl = some cl then
      (match m with | some (_, t) => if t ≤ p.2.pinAt then some (p.1, p.2.pinAt) else m | none => some (p.1, p.2.pinAt))
    else m) none).map (·.1)

/-- Step 2 of R129 on one core, by fuel. -/
def State.makeRoom (s : State) (cl core inc : Nat) : Nat → State
  | 0 => s
  | n + 1 =>
    let p := s.rsds.foldl (fun a p =>
      if p.1 / 65536 ≠ inc ∧ p.2.pin ∧ p.2.st ≠ .free ∧ p.2.st ≠ .dropped ∧ bits p.2.cores core 1 = 1
        ∧ s.physCluster (p.1 / 65536) p.2.vcl = some cl then a + p.2.nt else a) 0
    if p + s.fld (rsdB + 0x40 * inc + 8) 0 9 ≤ 384 then s
    else match s.lastPinned cl core inc with
      | some k => (match s.rsds.find? k with
        | some r => (s.setRsd k (r.drop s.pt)).makeRoom cl core inc n
        | none => s)
      | none => s

/-- A dropped residency at its device's resume (R131). -/
def State.resumeRsd (s : State) (key : Nat) (r : Rsd) : State :=
  if r.cause = .write then
    s.setRsd key { (r.go .stale s.pt) with cause := .write, eventpt := r.wroteG }
  else if r.was ≠ .ready then s.setRsd key { (r.go r.was s.pt) with cause := r.wasCause }
  else
    let r : Rsd :=
      { (r.go .rebuilding s.pt) with cells := [], wrote := false, wroteG := 0, badLine := none, fault := none, filled := false, op := none }
    let s := s.setRsd key r
    ((s.enterRebuild key r).getD s).startFill key r

/-- Residencies at the switch of a cluster from one device to another (R129, R131). -/
def State.switchRsds (s : State) (cl out inc : Nat) : State :=
  if out = inc then s
  else
    let here (s : State) (p : Nat × Rsd) (v : Nat) : Bool := p.1 / 65536 = v && s.physCluster v p.2.vcl = some cl
    let s := { s with rsds := s.rsds.map (fun p =>
      if here s p out && !p.2.pin && decide (p.2.st ≠ RState.free) && decide (p.2.st ≠ RState.dropped) then (p.1, p.2.drop s.pt)
      else p) }
    let s := (List.range 8).foldl (fun s c => s.makeRoom cl c inc 400) s
    s.rsds.foldl (fun t p => if here s p inc && decide (p.2.st = RState.dropped) then
      (match t.rsds.find? p.1 with | some r => t.resumeRsd p.1 r | none => t) else t) s

end Sys2Proof.Machine
end

