-- ==== Sys2Proof/Machine/Unpack.lean ====
section
/-! DEFINITION. The decoders of dcx (R323): Deflate raw streams (RFC 1951), LZ4 frames and Zstandard frames (RFC 8878). The spec names
these formats by reference; what they say is taken from their own documents (PRESUMED, log entry 61). A decoder answers with its
output, or with the offset of the first source byte that it could not accept. -/

namespace Sys2Proof.Machine

/-! ### Output -/

/-- The bytes decoded so far, and the source offset whose decoding wrote byte number cap, the first that does not fit (R323). -/
structure OutBuf where
  bytes : Array Byte := #[]
  cap : Nat
  past : Option Nat := none
  deriving DecidableEq, Repr

/-- What a decoder answers. -/
abbrev Dec (α : Type) := Except Nat α

/-- A byte written, by the decoding of the source byte at an offset. -/
def OutBuf.push (o : OutBuf) (b : Byte) (pos : Nat) : OutBuf :=
  { o with bytes := o.bytes.push b, past := if o.bytes.size = o.cap ∧ o.past.isNone then some pos else o.past }

/-- n bytes copied from a distance behind, one after another. -/
def OutBuf.copy (o : OutBuf) (dist pos : Nat) : Nat → OutBuf
  | 0 => o
  | n + 1 => (o.push (o.bytes.getD (o.bytes.size - dist) 0) pos).copy dist pos n

/-- A source byte. -/
def srcAt (src : Array Byte) (i : Nat) : Nat := (src.getD i 0).toNat

/-- k source bytes from an offset, little-endian. -/
def wordAt (src : Array Byte) (i : Nat) : Nat → Nat
  | 0 => 0
  | k + 1 => srcAt src i + 256 * wordAt src (i + 1) k

/-- n bits from bit position p, the low bit of the first byte being position 0; bits past the end read as zero. -/
def bitsLE (src : Array Byte) (p n : Nat) : Nat := wordAt src (p / 8) (n / 8 + 2) / 2 ^ (p % 8) % 2 ^ n

/-- n bits that must be there. -/
def needBits (src : Array Byte) (p n : Nat) : Dec Nat := if 8 * src.size < p + n then .error src.size else .ok (bitsLE src p n)

/-- k bytes that must be there. -/
def needBytes (src : Array Byte) (i k : Nat) : Dec Nat := if src.size < i + k then .error src.size else .ok (wordAt src i k)

/-- n source bytes written as they are. -/
def OutBuf.raw (o : OutBuf) (src : Array Byte) (i : Nat) : Nat → OutBuf
  | 0 => o
  | n + 1 => (o.push (src.getD i 0) i).raw src (i + 1) n

/-! ### Deflate (RFC 1951) -/

/-- A canonical Huffman code: how many codes have each length, and the symbols in code order (RFC 1951, 3.2.2). -/
structure Huff where
  count : List Nat
  syms : Array Nat
  deriving DecidableEq, Repr

/-- The code of a list of lengths. -/
def mkHuff (lens : List Nat) : Huff :=
  { count := (List.range 16).map (fun n => if n = 0 then 0 else (lens.filter (· = n)).length),
    syms := ((List.range 15).flatMap (fun n => (lens.zipIdx.filter (fun p => p.1 = n + 1)).map (·.2))).toArray }

/-- Codes left over at length 15: none when the lengths name more codes than there are. -/
def Huff.left (h : Huff) : Option Nat :=
  (h.count.drop 1).foldl (fun a n => a.bind (fun x => if 2 * x < n then none else some (2 * x - n))) (some 1)

/-- A set of codes that may be used: complete, or a single code of one bit, or none at all. -/
def Huff.ok (h : Huff) : Bool :=
  match h.left with
  | none => false
  | some 0 => true
  | some _ => h.syms.size = 0 || (h.syms.size = 1 && h.count.getD 1 0 = 1)

/-- One symbol, its bits from the most significant on. -/
def Huff.go (h : Huff) (src : Array Byte) : Nat → Nat → Nat → Nat → Nat → Nat → Dec (Nat × Nat)
  | 0, _, p, _, _, _ => .error ((p - 1) / 8)
  | f + 1, len, p, code, first, index =>
    if 8 * src.size ≤ p then .error src.size
    else
      let code := code + bitsLE src p 1
      let n := h.count.getD len 0
      if code < first + n then .ok (h.syms.getD (index + (code - first)) 0, p + 1)
      else h.go src f (len + 1) (p + 1) (2 * code) (2 * (first + n)) (index + n)

/-- The symbol at a bit position, and the position after it. -/
def Huff.sym (h : Huff) (src : Array Byte) (p : Nat) : Dec (Nat × Nat) := h.go src 15 1 p 0 0 0

/-- Base and extra bits of the length symbols from 257 on (RFC 1951, 3.2.5). -/
def dflLens : List (Nat × Nat) :=
  [(3, 0), (4, 0), (5, 0), (6, 0), (7, 0), (8, 0), (9, 0), (10, 0), (11, 1), (13, 1), (15, 1), (17, 1), (19, 2), (23, 2), (27, 2),
   (31, 2), (35, 3), (43, 3), (51, 3), (59, 3), (67, 4), (83, 4), (99, 4), (115, 4), (131, 5), (163, 5), (195, 5), (227, 5), (258, 0)]

/-- Base and extra bits of the distance symbols. -/
def dflDists : List (Nat × Nat) :=
  [(1, 0), (2, 0), (3, 0), (4, 0), (5, 1), (7, 1), (9, 2), (13, 2), (17, 3), (25, 3), (33, 4), (49, 4), (65, 5), (97, 5), (129, 6),
   (193, 6), (257, 7), (385, 7), (513, 8), (769, 8), (1025, 9), (1537, 9), (2049, 10), (3073, 10), (4097, 11), (6145, 11),
   (8193, 12), (12289, 12), (16385, 13), (24577, 13)]

/-- The symbols of a block up to its end. -/
def dflSyms (src : Array Byte) (lit dist : Huff) : Nat → Nat → OutBuf → Dec (Nat × OutBuf)
  | 0, _, _ => .error src.size
  | f + 1, p, o =>
    match lit.sym src p with
    | .error e => .error e
    | .ok (x, p) =>
      let here := (p - 1) / 8
      if x < 256 then dflSyms src lit dist f p (o.push (BitVec.ofNat 8 x) here)
      else if x = 256 then .ok (p, o)
      else match dflLens[x - 257]? with
        | none => .error here
        | some (base, n) => match needBits src p n with
          | .error e => .error e
          | .ok v => match dist.sym src (p + n) with
            | .error e => .error e
            | .ok (y, p) => match dflDists[y]? with
              | none => .error ((p - 1) / 8)
              | some (db, dn) => match needBits src p dn with
                | .error e => .error e
                | .ok w =>
                  let here := (p + dn - 1) / 8
                  if o.bytes.size < db + w then .error here
                  else dflSyms src lit dist f (p + dn) (o.copy (db + w) here (base + v))

/-- The code lengths of a dynamic block, run lengths expanded (RFC 1951, 3.2.7). -/
def dflLengths (src : Array Byte) (h : Huff) (total : Nat) : Nat → Nat → List Nat → Dec (Nat × List Nat)
  | 0, _, _ => .error src.size
  | f + 1, p, ls =>
    if total ≤ ls.length then (if ls.length = total then .ok (p, ls) else .error ((p - 1) / 8))
    else match h.sym src p with
      | .error e => .error e
      | .ok (x, p) =>
        let here := (p - 1) / 8
        if x < 16 then dflLengths src h total f p (ls ++ [x])
        else if x = 16 then
          (match ls.getLast?, needBits src p 2 with
           | _, .error e => .error e
           | none, _ => .error here
           | some l, .ok v => dflLengths src h total f (p + 2) (ls ++ List.replicate (3 + v) l))
        else
          let n := if x = 17 then 3 else 7
          match needBits src p n with
          | .error e => .error e
          | .ok v => dflLengths src h total f (p + n) (ls ++ List.replicate ((if x = 17 then 3 else 11) + v) 0)

/-- The order in which the code length codes come. -/
def dflOrder : List Nat := [16, 17, 18, 0, 8, 7, 9, 6, 10, 5, 11, 4, 12, 3, 13, 2, 14, 1, 15]

/-- The two codes of a dynamic block. -/
def dflDynamic (src : Array Byte) (p : Nat) : Dec (Nat × Huff × Huff) :=
  match needBits src p 14 with
  | .error e => .error e
  | .ok v =>
    let nl := v % 32 + 257
    let nd := v / 32 % 32 + 1
    let nc := v / 1024 + 4
    let here := (p + 13) / 8
    if 286 < nl then .error here
    else match needBits src (p + 14) (3 * nc) with
      | .error e => .error e
      | .ok w =>
        let cl := (List.range 19).map (fun s => match dflOrder.idxOf? s with
          | some i => if i < nc then w / 8 ^ i % 8 else 0 | none => 0)
        let h := mkHuff cl
        let p := p + 14 + 3 * nc
        if h.left ≠ some 0 then .error ((p - 1) / 8)
        else match dflLengths src h (nl + nd) (nl + nd + 1) p [] with
          | .error e => .error e
          | .ok (p, ls) =>
            let lit := mkHuff (ls.take nl)
            let dist := mkHuff (ls.drop nl)
            if ls.getD 256 0 = 0 ∨ !lit.ok ∨ !dist.ok then .error ((p - 1) / 8) else .ok (p, lit, dist)

/-- The fixed literal and length code. -/
def dflFixedLit : Huff :=
  mkHuff (List.replicate 144 8 ++ List.replicate 112 9 ++ List.replicate 24 7 ++ List.replicate 8 8)

/-- The fixed distance code. -/
def dflFixedDist : Huff := mkHuff (List.replicate 32 5)

/-- The blocks of a stream; what follows the final one is ignored (R323). -/
def dflBlocks (src : Array Byte) : Nat → Nat → OutBuf → Dec OutBuf
  | 0, _, _ => .error src.size
  | f + 1, p, o =>
    match needBits src p 3 with
    | .error e => .error e
    | .ok hd =>
      let fin := hd % 2 = 1
      let next (r : Dec (Nat × OutBuf)) : Dec OutBuf := match r with
        | .error e => .error e
        | .ok (p, o) => if fin then .ok o else dflBlocks src f p o
      if hd / 2 = 0 then
        let i := (p + 3 + 7) / 8
        (match needBytes src i 4 with
         | .error e => .error e
         | .ok v =>
           let n := v % 65536
           let c := 65535 - v / 65536
           if n % 256 ≠ c % 256 then .error (i + 2)
           else if n ≠ c then .error (i + 3)
           else if src.size < i + 4 + n then .error src.size
           else next (.ok (8 * (i + 4 + n), o.raw src (i + 4) n)))
      else if hd / 2 = 1 then next (dflSyms src dflFixedLit dflFixedDist (8 * src.size + 1) (p + 3) o)
      else if hd / 2 = 2 then
        (match dflDynamic src (p + 3) with
         | .error e => .error e
         | .ok (p, lit, dist) => next (dflSyms src lit dist (8 * src.size + 1) p o))
      else .error ((p + 2) / 8)

/-- A raw Deflate stream (RFC 1951). -/
def inflate (src : Array Byte) (cap : Nat) : Dec OutBuf := dflBlocks src (8 * src.size + 1) 0 { cap := cap }

/-! ### The checksums of LZ4 and Zstandard frames -/

/-- A rotation left within w bits. -/
def rotN (w x r : Nat) : Nat := x * 2 ^ r % 2 ^ w + x / 2 ^ (w - r)

/-- The constants of xxHash, of 32 bits or of 64. -/
def xxP (wide : Bool) (i : Nat) : Nat :=
  if wide then [11400714785074694791, 14029467366897019727, 1609587929392839161, 9650029242287828579, 2870177450012600261].getD i 0
  else [2654435761, 2246822519, 3266489917, 668265263, 374761393].getD i 0

/-- One lane's round of the 64-bit hash. -/
def xxRound (wide : Bool) (acc x : Nat) : Nat :=
  let w := if wide then 64 else 32
  rotN w ((acc + x * xxP wide 1) % 2 ^ w) (if wide then 31 else 13) * xxP wide 0 % 2 ^ w

/-- The stripes of four lanes. -/
def xxStripes (wide : Bool) (d : Array Byte) : Nat → Nat → Nat × Nat × Nat × Nat → Nat × Nat × Nat × Nat
  | 0, _, a => a
  | n + 1, i, (a, b, c, e) =>
    let k := if wide then 8 else 4
    xxStripes wide d n (i + 4 * k)
      (xxRound wide a (wordAt d i k), xxRound wide b (wordAt d (i + k) k), xxRound wide c (wordAt d (i + 2 * k) k),
        xxRound wide e (wordAt d (i + 3 * k) k))

/-- The bytes after the last whole word. -/
def xxTail (wide : Bool) (d : Array Byte) : Nat → Nat → Nat → Nat
  | 0, _, h => h
  | n + 1, i, h =>
    let h := if wide then rotN 64 (h ^^^ (srcAt d i * xxP true 4 % 2 ^ 64)) 11 * xxP true 0 % 2 ^ 64
      else rotN 32 ((h + srcAt d i * xxP false 4) % 2 ^ 32) 11 * xxP false 0 % 2 ^ 32
    xxTail wide d n (i + 1) h

/-- The words after the last whole stripe: of eight bytes in the 64-bit hash, then of four. -/
def xxWords (wide : Bool) (d : Array Byte) : Nat → Nat → Nat → Nat
  | 0, i, h =>
    if wide ∧ i + 4 ≤ d.size then
      let h := (rotN 64 (h ^^^ (wordAt d i 4 * xxP true 0 % 2 ^ 64)) 23 * xxP true 1 + xxP true 2) % 2 ^ 64
      xxTail wide d (d.size - (i + 4)) (i + 4) h
    else xxTail wide d (d.size - i) i h
  | n + 1, i, h =>
    if wide then
      xxWords wide d n (i + 8) ((rotN 64 (h ^^^ xxRound true 0 (wordAt d i 8)) 27 * xxP true 0 + xxP true 3) % 2 ^ 64)
    else xxWords wide d n (i + 4) (rotN 32 ((h + wordAt d i 4 * xxP false 2) % 2 ^ 32) 17 * xxP false 3 % 2 ^ 32)

/-- xxHash with seed 0. -/
def xxHash (wide : Bool) (d : Array Byte) : Nat :=
  let w := if wide then 64 else 32
  let k := if wide then 8 else 4
  let stripes := d.size / (4 * k)
  let i := 4 * k * stripes
  let h0 :=
    if stripes = 0 then xxP wide 4
    else
      let (a, b, c, e) := xxStripes wide d stripes 0
        ((xxP wide 0 + xxP wide 1) % 2 ^ w, xxP wide 1, 0, 2 ^ w - xxP wide 0)
      let h := (rotN w a 1 + rotN w b 7 + rotN w c 12 + rotN w e 18) % 2 ^ w
      if wide then [a, b, c, e].foldl (fun h x => ((h ^^^ xxRound true 0 x) * xxP true 0 + xxP true 3) % 2 ^ 64) h else h
  let h := xxWords wide d ((d.size - i) / k) i ((h0 + d.size) % 2 ^ w)
  let h := (h ^^^ (h / 2 ^ (if wide then 33 else 15))) * xxP wide 1 % 2 ^ w
  let h := (h ^^^ (h / 2 ^ (if wide then 29 else 13))) * xxP wide 2 % 2 ^ w
  h ^^^ (h / 2 ^ (if wide then 32 else 16))

/-- The checksum at an offset must be that of the bytes given: the offset of its first byte when it is not. -/
def checkSum (src : Array Byte) (i : Nat) (wide : Bool) (d : Array Byte) : Dec Unit :=
  match needBytes src i 4 with
  | .error e => .error e
  | .ok v => if v = xxHash wide d % 2 ^ 32 then .ok () else .error i

/-- The magic number of a frame: true for a frame, false for a skippable one. -/
def frameMagic (src : Array Byte) (i : Nat) (magic : List Nat) : Dec Bool :=
  let skip : Bool := srcAt src i / 16 = 5
  let want := if skip then [srcAt src i, 0x2A, 0x4D, 0x18] else magic
  match (List.range 4).find? (fun k => src.size ≤ i + k || decide (srcAt src (i + k) ≠ want.getD k 0)) with
  | some k => .error (Nat.min src.size (i + k))
  | none => .ok (!skip)

/-- A skippable frame: the offset after it. -/
def skipFrame (src : Array Byte) (i : Nat) : Dec Nat :=
  match needBytes src (i + 4) 4 with
  | .error e => .error e
  | .ok n => if src.size < i + 8 + n then .error src.size else .ok (i + 8 + n)

/-! ### LZ4 frames -/

/-- A length that goes on in bytes of 255 within a block. -/
def lz4Len (src : Array Byte) (stop : Nat) : Nat → Nat → Nat → Dec (Nat × Nat)
  | 0, i, _ => .error i
  | f + 1, i, n =>
    if stop ≤ i then .error (i - 1)
    else if srcAt src i = 255 then lz4Len src stop f (i + 1) (n + 255)
    else .ok (n + srcAt src i, i + 1)

/-- The sequences of a block: low is the oldest output byte that a match may reach. -/
def lz4Seqs (src : Array Byte) (stop low : Nat) : Nat → Nat → OutBuf → Dec OutBuf
  | 0, i, _ => .error i
  | f + 1, i, o =>
    if stop ≤ i then .error (i - 1)
    else
      let tok := srcAt src i
      match (if tok / 16 = 15 then lz4Len src stop stop (i + 1) 15 else .ok (tok / 16, i + 1)) with
      | .error e => .error e
      | .ok (n, i) =>
        if stop < i + n then .error (stop - 1)
        else
          let o := o.raw src i n
          let i := i + n
          if i = stop then .ok o
          else if stop < i + 2 then .error (stop - 1)
          else
            let dist := wordAt src i 2
            if dist = 0 ∨ o.bytes.size < low + dist then .error (i + 1)
            else match (if tok % 16 = 15 then lz4Len src stop stop (i + 2) 15 else .ok (tok % 16, i + 2)) with
              | .error e => .error e
              | .ok (m, i) => lz4Seqs src stop low f i (o.copy dist (i - 1) (m + 4))

/-- What the header of a frame says. -/
structure Lz4Frame where
  indep : Bool
  blockSum : Bool
  sum : Bool
  size : Option Nat
  max : Nat
  start : Nat
  deriving DecidableEq, Repr

/-- The header of a frame whose magic number stands at an offset: what it says, and the offset after it. -/
def lz4Header (src : Array Byte) (i start : Nat) : Dec (Lz4Frame × Nat) :=
  match needBytes src (i + 4) 1, needBytes src (i + 5) 1 with
  | .error e, _ => .error e
  | .ok flg, bd =>
    if flg / 64 ≠ 1 ∨ flg / 2 % 2 = 1 ∨ flg % 2 = 1 then .error (i + 4)
    else match bd with
      | .error e => .error e
      | .ok bd =>
        if bd / 128 = 1 ∨ bd % 16 ≠ 0 ∨ bd / 16 % 8 < 4 then .error (i + 5)
        else
          let n := if flg / 8 % 2 = 1 then 8 else 0
          match needBytes src (i + 6) n, needBytes src (i + 6 + n) 1 with
          | .error e, _ => .error e
          | _, .error e => .error e
          | .ok size, .ok hc =>
            if hc ≠ xxHash false (src.extract (i + 4) (i + 6 + n)) / 256 % 256 then .error (i + 6 + n)
            else .ok ({ indep := flg / 32 % 2 = 1, blockSum := flg / 16 % 2 = 1, sum := flg / 4 % 2 = 1,
                        size := if n = 8 then some size else none, max := 2 ^ (2 * (bd / 16 % 8) + 8), start := start }, i + 7 + n)

/-- The blocks of a frame up to its end mark, and the checksum after it. -/
def lz4Blocks (src : Array Byte) (h : Lz4Frame) : Nat → Nat → OutBuf → Dec (Nat × OutBuf)
  | 0, _, _ => .error src.size
  | f + 1, i, o =>
    match needBytes src i 4 with
    | .error e => .error e
    | .ok 0 =>
      if (match h.size with | some n => decide (o.bytes.size - h.start ≠ n) | none => false) then .error (i + 3)
      else if h.sum then
        (match checkSum src (i + 4) false (o.bytes.extract h.start o.bytes.size) with
         | .error e => .error e
         | .ok _ => .ok (i + 8, o))
      else .ok (i + 4, o)
    | .ok v =>
      let n := v % 2 ^ 31
      if h.max < n then .error (i + 3)
      else if src.size < i + 4 + n then .error src.size
      else
        let r : Dec OutBuf := if v / 2 ^ 31 = 1 then .ok (o.raw src (i + 4) n)
          else lz4Seqs src (i + 4 + n) (if h.indep then o.bytes.size else h.start) (n + 1) (i + 4) o
        match r with
        | .error e => .error e
        | .ok o' =>
          if o.bytes.size + h.max < o'.bytes.size then .error (i + 3 + n)
          else if h.blockSum then
            (match checkSum src (i + 4 + n) false (src.extract (i + 4) (i + 4 + n)) with
             | .error e => .error e
             | .ok _ => lz4Blocks src h f (i + 8 + n) o')
          else lz4Blocks src h f (i + 4 + n) o'

/-- Concatenated frames. -/
def lz4Frames (src : Array Byte) : Nat → Nat → OutBuf → Dec OutBuf
  | 0, _, _ => .error src.size
  | f + 1, i, o =>
    match frameMagic src i [0x04, 0x22, 0x4D, 0x18] with
    | .error e => .error e
    | .ok frame =>
      let r : Dec (Nat × OutBuf) :=
        if !frame then (match skipFrame src i with | .error e => .error e | .ok j => .ok (j, o))
        else match lz4Header src i o.bytes.size with
          | .error e => .error e
          | .ok (h, j) => lz4Blocks src h (src.size + 1) j o
      match r with
      | .error e => .error e
      | .ok (j, o) => if src.size ≤ j then .ok o else lz4Frames src f j o

/-- LZ4 frames. -/
def unLz4 (src : Array Byte) (cap : Nat) : Dec OutBuf := lz4Frames src (src.size + 1) 0 { cap := cap }

/-! ### Zstandard (RFC 8878): entropy tables -/

/-- The largest power of two at or below a number, as its exponent; 0 for 0. -/
def logTwo (n : Nat) : Nat := Nat.log2 n

/-- An FSE decoding table: its accuracy, and for each state the symbol, the bits to read and the base of the next state. -/
structure Fse where
  al : Nat
  rows : Array (Nat × Nat × Nat)
  deriving DecidableEq, Repr

/-- The numbering of the states of each symbol, in state order (4.1.1). -/
def fseRows (al : Nat) : List Nat → List Nat → List (Nat × Nat × Nat) → List (Nat × Nat × Nat)
  | [], _, acc => acc.reverse
  | s :: ss, next, acc =>
    let x := next.getD s 0
    let n := al - logTwo x
    fseRows al ss (next.set s (x + 1)) ((s, n, x * 2 ^ n - 2 ^ al) :: acc)

/-- The decoding table of a distribution; a probability of −1 is one state with a full reset. -/
def fseTable (al : Nat) (probs : List Int) : Fse :=
  let size := 2 ^ al
  let low := (probs.zipIdx.filter (fun p => p.1 = -1)).map (·.2)
  let spread := ((List.range size).map (fun k => k * (size / 2 + size / 8 + 3) % size)).filter (fun p => decide (p < size - low.length))
  let syms := probs.zipIdx.flatMap (fun p => List.replicate p.1.toNat p.2)
  let cells := (spread.zip syms) ++ low.zipIdx.map (fun p => (size - 1 - p.2, p.1))
  let table := cells.foldl (fun (t : Array Nat) p => t.setIfInBounds p.1 p.2) (Array.replicate size 0)
  { al := al, rows := (fseRows al table.toList (probs.map (fun p => p.natAbs)) []).toArray }

/-- A table of one symbol that reads no bits. -/
def fseOne (s : Nat) : Fse := { al := 0, rows := #[(s, 0, 0)] }

/-- Zero probabilities that follow a zero: pairs of bits while they are 3. -/
def fseZeros (src : Array Byte) : Nat → Nat → List Int → Nat × List Int
  | 0, p, ps => (p, ps)
  | f + 1, p, ps =>
    let n := bitsLE src p 2
    let ps := ps ++ List.replicate n 0
    if n = 3 then fseZeros src f (p + 2) ps else (p + 2, ps)

/-- The probabilities of a table description. -/
def fseProbs (src : Array Byte) : Nat → Nat → Nat → List Int → Nat × Nat × List Int
  | 0, p, rem, ps => (p, rem, ps)
  | f + 1, p, rem, ps =>
    if rem = 0 then (p, rem, ps)
    else
      let n := logTwo (rem + 1) + 1
      let v := bitsLE src p n
      let half := 2 ^ (n - 1)
      let t := 2 ^ n - 1 - (rem + 1)
      let (v, p) := if v % half < t then (v % half, p + n - 1) else if half ≤ v then (v - t, p + n) else (v, p + n)
      let pr : Int := (v : Int) - 1
      let rem := rem - pr.natAbs
      if pr = 0 then
        let (p, ps) := fseZeros src f p (ps ++ [0])
        fseProbs src f p rem ps
      else fseProbs src f p rem (ps ++ [pr])

/-- A table description that starts at a byte and must end before another: the table and the offset after it (4.1.1). -/
def fseRead (src : Array Byte) (i stop maxAl maxSym : Nat) : Dec (Fse × Nat) :=
  if stop ≤ i then .error (stop - 1)
  else
    let al := bitsLE src (8 * i) 4 + 5
    if maxAl < al then .error i
    else
      let (p, rem, ps) := fseProbs src 300 (8 * i + 4) (2 ^ al) []
      let j := (p + 7) / 8
      if stop < j ∨ rem ≠ 0 ∨ maxSym + 1 < ps.length then .error (Nat.min (stop - 1) (j - 1)) else .ok (fseTable al ps, j)

/-- A stream read backwards: its first byte, and the bits that are left. -/
structure Back where
  base : Nat
  left : Int
  deriving DecidableEq, Repr

/-- A stream of the bytes from i up to stop: the highest bit set of the last byte marks its end (4.1). -/
def backOpen (src : Array Byte) (i stop : Nat) : Dec Back :=
  if stop ≤ i ∨ srcAt src (stop - 1) = 0 then .error (stop - 1)
  else .ok { base := i, left := (8 * (stop - 1 - i) + logTwo (srcAt src (stop - 1)) : Nat) }

/-- The next n bits; below the start bits read as zero. -/
def Back.peek (b : Back) (src : Array Byte) (n : Nat) : Nat :=
  if (n : Int) ≤ b.left then bitsLE src (8 * b.base + (b.left - n).toNat) n
  else bitsLE src (8 * b.base) b.left.toNat * 2 ^ (n - b.left.toNat) % 2 ^ n

/-- n bits taken. -/
def Back.drop (b : Back) (n : Nat) : Back := { b with left := b.left - n }

/-- The byte that holds the next bit not yet read. -/
def Back.pos (b : Back) : Nat := b.base + b.left.toNat / 8

/-- A row of a table. -/
def Fse.row (t : Fse) (st : Nat) : Nat × Nat × Nat := t.rows.getD st (0, 0, 0)

/-- The next state, from the bits of a stream. -/
def Fse.next (t : Fse) (src : Array Byte) (st : Nat) (b : Back) : Nat × Back :=
  let (_, n, base) := t.row st
  (base + b.peek src n, b.drop n)

/-- The weights that two interleaved states give until the stream is used up (4.2.1.2). -/
def hufWeights (src : Array Byte) (t : Fse) : Nat → Nat → Nat → Back → List Nat → List Nat
  | 0, _, _, _, ws => ws
  | f + 1, a, c, b, ws =>
    let ws := ws ++ [(t.row a).1]
    let (a', b) := t.next src a b
    if b.left < 0 then ws ++ [(t.row c).1] else hufWeights src t f c a' b ws

/-- A Huffman table of Zstandard: its depth, and for each index the symbol and its bits. -/
structure Huf where
  depth : Nat
  rows : Array (Nat × Nat)
  deriving DecidableEq, Repr

/-- The table of the weights of all symbols but the last (4.2.1.1, 4.2.1.3): none when the weights name no table. -/
def hufTable (ws : List Nat) : Option Huf :=
  let sum := ws.foldl (fun a w => a + (if w = 0 then 0 else 2 ^ (w - 1))) 0
  if sum = 0 then none
  else
    let depth := logTwo sum + 1
    let rest := 2 ^ depth - sum
    if 11 < depth ∨ rest ≠ 2 ^ logTwo rest ∨ 255 < ws.length then none
    else
      let all := ws ++ [logTwo rest + 1]
      some { depth := depth,
             rows := ((List.range depth).flatMap (fun w => (all.zipIdx.filter (fun p => p.1 = w + 1)).flatMap
               (fun p => List.replicate (2 ^ w) (p.2, depth - w)))).toArray }

/-- A Huffman tree description: the table and the offset after it. -/
def hufRead (src : Array Byte) (i stop : Nat) : Dec (Huf × Nat) :=
  if stop ≤ i then .error (stop - 1)
  else
    let n := srcAt src i
    let k := if n < 128 then n else (n - 127 + 1) / 2
    if stop < i + 1 + k then .error (stop - 1)
    else
      let ws : Dec (List Nat) :=
        if 128 ≤ n then .ok ((List.range (n - 127)).map (fun q =>
          let x := srcAt src (i + 1 + q / 2)
          if q % 2 = 0 then x / 16 else x % 16))
        else match fseRead src (i + 1) (i + 1 + n) 6 255 with
          | .error e => .error e
          | .ok (t, j) => match backOpen src j (i + 1 + n) with
            | .error e => .error e
            | .ok b =>
              let a := b.peek src t.al
              let b := b.drop t.al
              let c := b.peek src t.al
              let b := b.drop t.al
              if b.left < 0 then .error j else .ok (hufWeights src t 256 a c b [])
      match ws with
      | .error e => .error e
      | .ok ws => match hufTable ws with | some t => .ok (t, i + 1 + k) | none => .error (i + k)

/-- n literals of a stream, each with the offset of the byte that ended its code. -/
def hufLits (src : Array Byte) (t : Huf) : Nat → Back → Array (Byte × Nat) → Dec (Array (Byte × Nat))
  | 0, b, ls => if b.left = 0 then .ok ls else .error b.pos
  | n + 1, b, ls =>
    let (s, k) := t.rows.getD (b.peek src t.depth) (0, 0)
    let b := b.drop k
    if b.left < 0 then .error b.base else hufLits src t n b (ls.push (BitVec.ofNat 8 s, b.pos))

/-- A stream of n literals. -/
def hufStream (src : Array Byte) (t : Huf) (i stop n : Nat) (ls : Array (Byte × Nat)) : Dec (Array (Byte × Nat)) :=
  match backOpen src i stop with
  | .error e => .error e
  | .ok b => hufLits src t n b ls

/-! ### Zstandard: blocks -/

/-- What a frame carries from block to block: the Huffman table, the three sequence tables and the last offsets. -/
structure ZTables where
  huf : Option Huf := none
  ll : Option Fse := none
  off : Option Fse := none
  ml : Option Fse := none
  reps : Nat × Nat × Nat := (1, 4, 8)
  deriving DecidableEq, Repr

/-- The literals section of a block: the literals and the offset after it (3.1.1.3.1). -/
def zLits (src : Array Byte) (i stop : Nat) (z : ZTables) : Dec (Array (Byte × Nat) × Nat × ZTables) :=
  if stop ≤ i then .error (stop - 1)
  else
    let b0 := srcAt src i
    let kind := b0 % 4
    let fmt := b0 / 4 % 4
    if kind < 2 then
      let k := if fmt % 2 = 0 then 1 else if fmt = 1 then 2 else 3
      if stop < i + k then .error (stop - 1)
      else
        let n := wordAt src i k / (if k = 1 then 8 else 16)
        let j := i + k
        if kind = 0 then
          (if stop < j + n then .error (stop - 1)
           else .ok (((List.range n).map (fun q => (src.getD (j + q) 0, j + q))).toArray, j + n, z))
        else if stop < j + 1 then .error (stop - 1)
        else .ok (Array.replicate n (src.getD j 0, j), j + 1, z)
    else
      let k := if fmt < 2 then 3 else fmt + 2
      let w := if fmt < 2 then 10 else 4 * fmt + 6
      if stop < i + k then .error (stop - 1)
      else
        let v := wordAt src i k / 16
        let n := v % 2 ^ w
        let size := v / 2 ^ w
        let j := i + k
        let fin := j + size
        if stop < fin then .error (stop - 1)
        else
          let tab : Dec (Huf × Nat) :=
            if kind = 2 then hufRead src j fin else match z.huf with | some t => .ok (t, j) | none => .error i
          match tab with
          | .error e => .error e
          | .ok (t, j) =>
            let z := { z with huf := some t }
            if fmt = 0 then (match hufStream src t j fin n #[] with | .error e => .error e | .ok ls => .ok (ls, fin, z))
            else if fin < j + 6 then .error (fin - 1)
            else
              let each := (n + 3) / 4
              let s1 := j + 6 + wordAt src j 2
              let s2 := s1 + wordAt src (j + 2) 2
              let s3 := s2 + wordAt src (j + 4) 2
              if fin < s3 ∨ n < 3 * each then .error (j + 5)
              else match hufStream src t (j + 6) s1 each #[] with
                | .error e => .error e
                | .ok ls => match hufStream src t s1 s2 each ls with
                  | .error e => .error e
                  | .ok ls => match hufStream src t s2 s3 each ls with
                    | .error e => .error e
                    | .ok ls => match hufStream src t s3 fin (n - 3 * each) ls with
                      | .error e => .error e
                      | .ok ls => .ok (ls, fin, z)

/-- Base and extra bits of the literals length codes. -/
def zLL : List (Nat × Nat) :=
  (List.range 16).map (fun n => (n, 0)) ++
  [(16, 1), (18, 1), (20, 1), (22, 1), (24, 2), (28, 2), (32, 3), (40, 3), (48, 4), (64, 6), (128, 7), (256, 8), (512, 9), (1024, 10),
   (2048, 11), (4096, 12), (8192, 13), (16384, 14), (32768, 15), (65536, 16)]

/-- Base and extra bits of the match length codes. -/
def zML : List (Nat × Nat) :=
  (List.range 32).map (fun n => (n + 3, 0)) ++
  [(35, 1), (37, 1), (39, 1), (41, 1), (43, 2), (47, 2), (51, 3), (59, 3), (67, 4), (83, 4), (99, 5), (131, 7), (259, 8), (515, 9),
   (1027, 10), (2051, 11), (4099, 12), (8195, 13), (16387, 14), (32771, 15), (65539, 16)]

/-- The predefined tables (3.1.1.3.2.2). -/
def zDefLL : Fse := fseTable 6
  [4, 3, 2, 2, 2, 2, 2, 2, 2, 2, 2, 2, 2, 1, 1, 1, 2, 2, 2, 2, 2, 2, 2, 2, 2, 3, 2, 1, 1, 1, 1, 1, -1, -1, -1, -1]
/-- Predefined match lengths. -/
def zDefML : Fse := fseTable 6
  ([1, 4, 3, 2, 2, 2, 2, 2, 2] ++ List.replicate 37 1 ++ List.replicate 7 (-1))
/-- Predefined offsets. -/
def zDefOff : Fse := fseTable 5
  ([1, 1, 1, 1, 1, 1, 2, 2, 2] ++ List.replicate 15 1 ++ List.replicate 5 (-1))

/-- One of the three tables of a block: predefined, one symbol, described, or the last one again. -/
def zTable (src : Array Byte) (mode i stop maxAl maxSym : Nat) (dflt : Fse) (last : Option Fse) : Dec (Fse × Nat) :=
  match mode with
  | 0 => .ok (dflt, i)
  | 1 => if stop ≤ i then .error (stop - 1) else if maxSym < srcAt src i then .error i else .ok (fseOne (srcAt src i), i + 1)
  | 2 => fseRead src i stop maxAl maxSym
  | _ => match last with | some t => .ok (t, i) | none => .error (i - 1)

/-- The offset that an offset value names, and the last three offsets after it (3.1.1.5). -/
def zOffset (v ll : Nat) (r : Nat × Nat × Nat) : Nat × (Nat × Nat × Nat) :=
  let (a, b, c) := r
  if 3 < v then (v - 3, (v - 3, a, b))
  else
    let k := if ll = 0 then v + 1 else v
    if k = 1 then (a, r) else if k = 2 then (b, (b, a, c)) else if k = 3 then (c, (c, a, b)) else (a - 1, (a - 1, a, b))

/-- Literals written. -/
def OutBuf.lits (o : OutBuf) (ls : Array (Byte × Nat)) (i : Nat) : Nat → OutBuf
  | 0 => o
  | n + 1 => let x := ls.getD i (0, 0); (o.push x.1 x.2).lits ls (i + 1) n

/-- Where the decoding of sequences stands. -/
structure ZSeq where
  b : Back
  ll : Nat
  off : Nat
  ml : Nat
  lit : Nat
  reps : Nat × Nat × Nat
  o : OutBuf

/-- The sequences of a block, executed as they are decoded (3.1.1.4, 3.1.1.5). -/
def zSeqs (src : Array Byte) (tl to' tm : Fse) (ls : Array (Byte × Nat)) (low window : Nat) : Nat → ZSeq → Dec ZSeq
  | 0, q => .ok q
  | n + 1, q =>
    let oc := (to'.row q.off).1
    match zLL[(tl.row q.ll).1]?, zML[(tm.row q.ml).1]? with
    | some (lb, ln), some (mb, mn) =>
      if 31 < oc then .error q.b.pos
      else
        let ov := 2 ^ oc + q.b.peek src oc
        let b := q.b.drop oc
        let m := mb + b.peek src mn
        let b := b.drop mn
        let l := lb + b.peek src ln
        let b := b.drop ln
        let here := b.pos
        if b.left < 0 then .error b.base
        else
          let (dist, reps) := zOffset ov l q.reps
          if ls.size < q.lit + l then .error here
          else
            let o := q.o.lits ls q.lit l
            if dist = 0 ∨ o.bytes.size < low + dist ∨ window < dist then .error here
            else
              let o := o.copy dist here m
              if n = 0 then .ok { q with b := b, lit := q.lit + l, reps := reps, o := o }
              else
                let (sl, b) := tl.next src q.ll b
                let (sm, b) := tm.next src q.ml b
                let (so, b) := to'.next src q.off b
                if b.left < 0 then .error b.base
                else zSeqs src tl to' tm ls low window n { b := b, ll := sl, off := so, ml := sm, lit := q.lit + l, reps := reps, o := o }
    | _, _ => .error q.b.pos

/-- A compressed block of the bytes from i up to stop (3.1.1.3). -/
def zBlock (src : Array Byte) (i stop low window : Nat) (z : ZTables) (o : OutBuf) : Dec (OutBuf × ZTables) :=
  match zLits src i stop z with
  | .error e => .error e
  | .ok (ls, i, z) =>
    if stop ≤ i then .error (stop - 1)
    else
      let b0 := srcAt src i
      let k := if b0 < 128 then 1 else if b0 < 255 then 2 else 3
      if stop < i + k then .error (stop - 1)
      else
        let n := if b0 < 128 then b0 else if b0 < 255 then (b0 - 128) * 256 + srcAt src (i + 1) else wordAt src (i + 1) 2 + 0x7F00
        if n = 0 then (if stop ≠ i + k then .error (i + k) else .ok (o.lits ls 0 ls.size, z))
        else if stop ≤ i + k then .error (stop - 1)
        else
          let modes := srcAt src (i + k)
          if modes % 4 ≠ 0 then .error (i + k)
          else match zTable src (modes / 64) (i + k + 1) stop 9 35 zDefLL z.ll with
            | .error e => .error e
            | .ok (tl, j) => match zTable src (modes / 16 % 4) j stop 8 31 zDefOff z.off with
              | .error e => .error e
              | .ok (to', j) => match zTable src (modes / 4 % 4) j stop 9 52 zDefML z.ml with
                | .error e => .error e
                | .ok (tm, j) => match backOpen src j stop with
                  | .error e => .error e
                  | .ok b =>
                    let sl := b.peek src tl.al
                    let b := b.drop tl.al
                    let so := b.peek src to'.al
                    let b := b.drop to'.al
                    let sm := b.peek src tm.al
                    let b := b.drop tm.al
                    if b.left < 0 then .error j
                    else match zSeqs src tl to' tm ls low window n
                        { b := b, ll := sl, off := so, ml := sm, lit := 0, reps := z.reps, o := o } with
                      | .error e => .error e
                      | .ok q =>
                        if q.b.left ≠ 0 then .error q.b.pos
                        else .ok (q.o.lits ls q.lit (ls.size - q.lit),
                          { z with ll := some tl, off := some to', ml := some tm, reps := q.reps })

/-- What the header of a frame says. -/
structure ZFrame where
  window : Nat
  size : Option Nat
  sum : Bool
  start : Nat
  deriving DecidableEq, Repr

/-- The header of a frame whose magic number stands at an offset (3.1.1.1). -/
def zHeader (src : Array Byte) (i start : Nat) : Dec (ZFrame × Nat) :=
  match needBytes src (i + 4) 1 with
  | .error e => .error e
  | .ok d =>
    if d / 8 % 2 = 1 then .error (i + 4)
    else
      let single : Bool := d / 32 % 2 = 1
      let nw := if single then 0 else 1
      let nd := [0, 1, 2, 4].getD (d % 4) 0
      let ns := if d / 64 = 0 then (if single then 1 else 0) else 2 ^ (d / 64)
      let iw := i + 5
      let id := iw + nw
      let is := id + nd
      match needBytes src iw nw with
      | .error e => .error e
      | .ok w =>
        let base := 2 ^ (10 + w / 8)
        let window := base + base / 8 * (w % 8)
        if !single ∧ 2 ^ 23 < window then .error iw
        else match needBytes src id nd with
          | .error e => (match (List.range nd).find? (fun k => srcAt src (id + k) ≠ 0) with | some k => .error (id + k) | none => .error e)
          | .ok _ => match (List.range nd).find? (fun k => srcAt src (id + k) ≠ 0) with
            | some k => .error (id + k)
            | none => match needBytes src is ns with
              | .error e => .error e
              | .ok v =>
                let size := if ns = 2 then v + 256 else v
                if single ∧ 2 ^ 23 < size then .error (is + ns - 1)
                else .ok ({ window := if single then size else window, size := if ns = 0 then none else some size,
                            sum := d / 4 % 2 = 1, start := start }, is + ns)

/-- The blocks of a frame, and the checksum after the last (3.1.1.2). -/
def zBlocks (src : Array Byte) (h : ZFrame) : Nat → Nat → ZTables → OutBuf → Dec (Nat × OutBuf)
  | 0, _, _, _ => .error src.size
  | f + 1, i, z, o =>
    match needBytes src i 3 with
    | .error e => .error e
    | .ok v =>
      let n := v / 8
      let kind := v / 2 % 4
      let most := Nat.min h.window (2 ^ 17)
      let len := if kind = 1 then 1 else n
      if kind = 3 then .error i
      else if most < n then .error (i + 2)
      else if src.size < i + 3 + len then .error src.size
      else
        let j := i + 3 + len
        let r : Dec (OutBuf × ZTables) :=
          if kind = 0 then .ok (o.raw src (i + 3) n, z)
          else if kind = 1 then .ok ((List.replicate n ()).foldl (fun o _ => o.push (src.getD (i + 3) 0) (i + 3)) o, z)
          else zBlock src (i + 3) j h.start h.window z o
        match r with
        | .error e => .error e
        | .ok (o', z) =>
          if o.bytes.size + most < o'.bytes.size then .error (j - 1)
          else if v % 2 = 0 then zBlocks src h f j z o'
          else if (match h.size with | some n => decide (o'.bytes.size - h.start ≠ n) | none => false) then .error (j - 1)
          else if h.sum then
            (match checkSum src j true (o'.bytes.extract h.start o'.bytes.size) with | .error e => .error e | .ok _ => .ok (j + 4, o'))
          else .ok (j, o')

/-- Concatenated frames. -/
def zFrames (src : Array Byte) : Nat → Nat → OutBuf → Dec OutBuf
  | 0, _, _ => .error src.size
  | f + 1, i, o =>
    match frameMagic src i [0x28, 0xB5, 0x2F, 0xFD] with
    | .error e => .error e
    | .ok frame =>
      let r : Dec (Nat × OutBuf) :=
        if !frame then (match skipFrame src i with | .error e => .error e | .ok j => .ok (j, o))
        else match zHeader src i o.bytes.size with
          | .error e => .error e
          | .ok (h, j) => zBlocks src h (src.size + 1) j {} o
      match r with
      | .error e => .error e
      | .ok (j, o) => if src.size ≤ j then .ok o else zFrames src f j o

/-- Zstandard frames (RFC 8878). -/
def unZstd (src : Array Byte) (cap : Nat) : Dec OutBuf := zFrames src (src.size + 1) 0 { cap := cap }

/-- The output of a source in a format of R323, decoded whole whatever the capacity, or the offset of the first byte that is not
acceptable. -/
def unpack (f : DcxFmt) (src : Array Byte) (cap : Nat) : Dec OutBuf :=
  match f with
  | .zstd => unZstd src cap
  | .lz4 => unLz4 src cap
  | .dfl => inflate src cap

end Sys2Proof.Machine
end

