-- ==== Sys2Proof/Machine/Window.lean ====
section
/-! DEFINITION. Fabric windows (R16, R419, R420) and what this package does with an access that arrives through one (R109). -/

namespace Sys2Proof.Machine

/-- Word i of fabric window e (R419). -/
def State.fwinW (s : State) (e i : Nat) : Nat := (s.reg (fabB + 0x1000 + 32 * e + 8 * i)).toNat

/-- The first enabled window whose source and device agree (R420). -/
def State.fwinMatch (s : State) (row col vdev : Nat) : Option Nat :=
  (List.range 256).find? (fun e =>
    let w := s.fwinW e 0
    bitOf w 0 && (bitOf w 18 || (bits w 8 5 = row && bits w 13 5 = col)) && bits w 24 6 = vdev)

/-- The party of a thread's accesses through space 0x8 (R109). -/
def fabricW (cid : Nat) : Nat := 2 ^ 43 + cid
/-- The party of another package's accesses. -/
def foreignW (row col vdev : Nat) : Nat := 2 ^ 44 + row * 2 ^ 16 + col * 2 ^ 8 + vdev

/-- An access matched with the windows as it arrives: the address space and VA that it reaches, or its fault with the REMOTE bit
(R420). -/
def State.fabMatch (s : State) (row col vdev off : Nat) (writes : Bool) : Except (Cause × Nat) (Nat × Nat) :=
  match s.fwinMatch row col vdev with
  | none => .error (.perm, remote qGrant)
  | some e =>
    let w := s.fwinW e 0
    if !(if writes then bitOf w 2 else bitOf w 1) then .error (.perm, remote qKind)
    else if bits (s.fwinW e 2) 0 50 ≤ off then .error (.page, remote qAbsent)
    else .ok (bits w 48 16, (bits (s.fwinW e 1) 0 56 + off) % 2 ^ 56)

/-- A matched access performed past the L2, without privilege, its faults with the REMOTE bit (R16, R420). -/
def State.fabPerform (s : State) (q : HaReq) (op : HaOp) : State × HaRes :=
  match s.perform { q with priv := false, atL := .ha } op with
  | (s, .fault c q l x) => (s, .fault c (remote q) l x)
  | r => r

/-- An access through the windows: matched, then performed (R16, R420). -/
def State.fabServe (s : State) (row col vdev off : Nat) (q : HaReq) (op : HaOp) : State × HaRes :=
  match s.fabMatch row col vdev off op.writes with
  | .error (c, q) => (s, .fault c q 0 0)
  | .ok (asid, va) => s.fabPerform { q with asid := asid, va := va } op

/-- This package's position (R417). -/
def State.meshPos (s : State) : Nat × Nat := (s.fld fabB 0 5, s.fld fabB 5 5)

/-- Coordinates of a space-0x8 pointer name this package. -/
def State.ownMesh (s : State) (va : Nat) : Bool := (bits va 55 5, bits va 50 5) = s.meshPos

/-- An arriving access as an operation at its performing point (R420). -/
def fabOp (f : FabAcc) : HaOp :=
  match f.kind with
  | .load => .rd
  | .store d => .wr d
  | .atomic op t d => .rmw (fun old => some (atomNew op t old (leNat d)))
  | .cas c n => .rmw (fun old => if old = leNat c then some (leNat n) else none)

/-- The request of another package's access. DESIGN CHOICE (log entry 84): its traffic class is that of lanes and cox threads. -/
def fabReq (f : FabAcc) : HaReq :=
  { asid := 0, va := 0, n := f.size, priv := false, who := foreignW f.srow f.scol f.svdev, atL := .ha, pace := .queue, tc := 1 }

end Sys2Proof.Machine
end

