-- ==== Sys2Proof/Machine/Engine.lean ====
section
/-! DEFINITION. Engine operations (R110, R314 to R326): the issue of cpy, cpy2d, dcx, srd and coll, what each operation reads and
writes, storage reads, and wait.ac. Collectives after issue stand in Coll.lean. -/

namespace Sys2Proof.Machine

/-! ### Issue -/

/-- An engine instruction's fields and operand values at issue (R318). -/
structure EIss where
  cid : Nat
  opc : Nat
  md : Nat
  imm : BitVec 32
  a : BitVec 64
  b : BitVec 64
  c : BitVec 64
  e : BitVec 64 := 0
  e2 : BitVec 64 := 0
  deriving DecidableEq, Repr

/-- RANGE with the OPERAND qualifier (R314, R319). -/
def rangeOperand : TrapInfo := { cause := .range, qual := 4 }

/-- The counter an opcode charges (R314). -/
def engCtr (opc : Nat) : Nat := if opc ≤ 0x301 then 0 else if opc = 0x302 then 1 else if opc = 0x303 then 2 else 3

/-- The threads that CHG selects (R314). -/
def State.chargedBy (s : State) (cid md : Nat) : List Nat :=
  match s.ctxs.find? cid with
  | none => []
  | some c =>
    let g := bits md 0 6
    let cox := coxKey c.blk
    let groups := match s.blk? c.blk with
      | some b => ((List.range b.ngrp).map (ctxKey c.blk)).filter (fun k => match s.ctxs.find? k with | some d => d.alive ≠ 0 | none => false)
      | none => []
    if g = 63 then [cox] else if g = 62 then (if groups = [] then [cox] else groups) else [ctxKey c.blk g]

/-- The check of one pointer: SPACE over the spaces named, BOUNDS of its range, with the alignment still to come (R12, R319).
top is the highest of spaces 0x0 to 0x3 or 0x4; fab says that 0x8 is named. -/
def Block.engSpace (b : Block) (ptr n : Nat) (glob asp fab : Bool) : Option TrapInfo :=
  let bad (q : Nat) : Option TrapInfo := some { cause := .space, qual := q, addr := BitVec.ofNat 64 ptr }
  let sp := bits ptr 60 4
  if 9 ≤ sp ∧ sp ≤ 14 then bad 0
  else if sp ≤ 3 ∧ glob then (if globFar ptr n then bad 2 else none)
  else if sp = 4 ∧ asp then (if bits ptr 21 39 ≠ 0 ∨ b.aspBytes < bits ptr 0 21 + n then bad 2 else none)
  else if sp = 8 ∧ fab then
    (if 24 ≤ bits ptr 55 5 ∨ 24 ≤ bits ptr 50 5 ∨ 2 ^ 50 < bits ptr 0 50 + n then bad 2 else none)
  else bad 1

/-- ALIGN of a pointer. -/
def engAlign (ptr n : Nat) : Option TrapInfo :=
  if ptr % n ≠ 0 then some { cause := .align, addr := BitVec.ofNat 64 ptr } else none

/-- The first of a list of checks to fail. -/
def firstTrap (l : List (Option TrapInfo)) : Option TrapInfo := (l.filterMap id).head?

/-- Bytes from a copy's base to the end of its last row (R321). -/
def copySpan (w h stride : Nat) : Nat := (h - 1) * stride + w

/-- LBA size of a channel (R325). -/
def State.lbaSize (s : State) (c : Nat) : Nat := if s.fld (chanReg c 0) 14 2 = 0 then 512 else 4096

/-- The checks of R319 from 2 on, with those of R321, R322, R324 and R328. -/
def State.engCheck (s : State) (b : Block) (q : EIss) : Option TrapInfo :=
  let g := bits q.md 0 6
  let a := q.a.toNat
  let bp := q.b.toNat
  if g < 48 ∧ b.ngrp ≤ g then some rangeOperand
  else if q.opc = 0x300 ∨ q.opc = 0x301 then
    let (w, h, ss, ds) := copyShape q.opc q.c q.e
    let badOp : Bool := if q.opc = 0x300 then decide (w % 16 ≠ 0 ∨ 0xFFFFFFF0 < w)
      else decide (bits q.c.toNat 48 16 ≠ 0 ∨ w % 16 ≠ 0 ∨ w = 0 ∨ h = 0 ∨ ss % 16 ≠ 0 ∨ ds % 16 ≠ 0)
    if badOp then some rangeOperand
    else firstTrap [b.engSpace a (copySpan w h ds) true true true, b.engSpace bp (copySpan w h ss) true false true,
      engAlign a 16, engAlign bp 16]
  else if q.opc = 0x302 then
    let e := q.e.toNat
    let l := q.c.toNat
    let cap := bits e 0 21
    let lw := bits e 32 21
    let d := bits a 0 21
    let nlw := bitOf e 63
    let lwPtr := 4 * 2 ^ 60 + lw
    if l = 0 ∨ 0xFFFFFFFF < l ∨ bits e 21 11 ≠ 0 ∨ bits e 53 10 ≠ 0 ∨ cap = 0 ∨ 0x180000 < cap then some rangeOperand
    else if !nlw ∧ bits a 60 4 = 4 ∧ lw < d + cap ∧ d < lw + 8 then some rangeOperand
    else firstTrap [b.engSpace a cap false true false, b.engSpace bp l true false false,
      if nlw then none else b.engSpace lwPtr 8 false true false, engAlign a 16, if nlw then none else engAlign lwPtr 8]
  else if q.opc = 0x303 then
    let len := bits q.c.toNat 0 32
    let ch := bits q.c.toNat 32 6
    let sz := s.lbaSize ch
    if bits q.c.toNat 38 26 ≠ 0 ∨ len = 0 ∨ len % sz ≠ 0 ∨ 0x4000000 < len then some rangeOperand
    else
      let first := s.fld (chanReg ch 8) 0 48
      let deny : Bool := s.fld (chanReg ch 0) 0 1 = 0 || s.fld (chanReg ch 0) 8 6 ≠ b.dev ||
        bp < first || first + s.fld (chanReg ch 0x10) 0 48 < bp + len / sz
      firstTrap [b.engSpace a len true true false, engAlign a 16,
        if deny then some { cause := .perm, qual := qGrant } else none]
  else
    let ne := q.c.toNat
    let sig := bitOf q.imm.toNat 12
    if ne = 0 ∨ 0xFFFFFFFF < ne then some rangeOperand
    else firstTrap [b.engSpace a (ne * collBytes (collTyOf q.imm)) true false false, b.engSpace bp 64 true false false,
      if sig then b.engSpace q.e.toNat 8 true false false else none,
      engAlign a 128, engAlign bp 64, if sig then engAlign q.e.toNat 8 else none]

/-- The commands of a storage read (R326): an LBA begins a new command when its first destination byte lies in another 128 KiB
region than that of the command's first LBA. -/
def nvCmds (d sz : Nat) : Nat → Nat → Nat → List NvCmd → List NvCmd
  | 0, _, _, l => l.reverse
  | n + 1, lba, off, [] => nvCmds d sz n (lba + 1) (off + sz) [{ lba := lba, blocks := 1, off := off }]
  | n + 1, lba, off, c :: l =>
    if (d + off) / 0x20000 = (d + c.off) / 0x20000 then nvCmds d sz n (lba + 1) (off + sz) ({ c with blocks := c.blocks + 1 } :: l)
    else nvCmds d sz n (lba + 1) (off + sz) ({ lba := lba, blocks := 1, off := off } :: c :: l)

/-- Commands of storage reads that are not over (R320). -/
def State.nvOut (s : State) : Nat :=
  s.eng.ops.foldl (fun n p => n + (p.2.cmds.filter p.2.holds).length) 0

/-- Collectives in flight (R320). -/
def State.collOut (s : State) : Nat :=
  (s.eng.ops.filter (fun p => decide (p.2.kind = EKind.coll) && (match p.2.st with | .counted _ => false | _ => true))).length

/-- The engine's queue has no room (R320). -/
def State.engFull (s : State) (b : Block) (q : EIss) : Bool :=
  if q.opc ≤ 0x301 then decide (64 ≤ s.queued b.cluster false)
  else if q.opc = 0x302 then decide (16 ≤ s.queued b.cluster true)
  else if q.opc = 0x303 then
    decide (4096 < s.nvOut + (nvCmds (bits q.a.toNat 0 56) (s.lbaSize (bits q.c.toNat 32 6))
      (bits q.c.toNat 0 32 / s.lbaSize (bits q.c.toNat 32 6)) 0 0 []).length)
  else decide (256 ≤ s.collOut)

/-- A counter that is charged stands at its greatest value (R314). -/
def State.ctrFull (s : State) (q : EIss) : Bool :=
  (s.chargedBy q.cid q.md).any (fun k => match s.ctxs.find? k with
    | some c => SMap.get 0 c.ac (engCtr q.opc) = 65535 | none => false)

/-- The EKind of an opcode. -/
def engKind (q : EIss) : EKind :=
  if q.opc = 0x300 then .cpy else if q.opc = 0x301 then .cpy2d
  else if q.opc = 0x302 then .dcx ((DcxFmt.ofCode (bits q.md 6 2)).getD .zstd) else if q.opc = 0x303 then .srd else .coll

/-- The space under which the requests of engine operations stand. -/
def engSpaceNo : Nat := 98

/-- The request by which an operation proceeds: phase 0 reads, phase 1 writes. -/
def State.engReq (s : State) (op : Nat) (o : EOp) (phase : Nat) : State :=
  (s.addReq { cid := noThreadId, lane := phase, kind := .engine op, space := engSpaceNo, va := 0, size := 16, asid := o.asid,
              dev := o.dev, priv := false, die := 0, core := 0, tc := 2, since := s.pt }).1

/-- Queue state of a channel: submission entry, completion entry and phase tag (R326). -/
def State.chanQ (s : State) (ch : Nat) : Nat × Nat × Bool := (s.eng.chq.find? ch).getD (0, 0, true)

/-- The Read command of a storage read, as NVM Express lays it out (R326): opcode, identifier, namespace, PRPs that name the hub's own
buffers, starting LBA and the count less one. PRESUMED (log entry 88). -/
def nvRead (slot nsid prp1 prp2 : Nat) (c : NvCmd) : List Byte :=
  leBytes 64 (0x02 + slot * 2 ^ 16 + nsid * 2 ^ 32 + prp1 * 2 ^ 192 + prp2 * 2 ^ 256 + c.lba * 2 ^ 320 + (c.blocks - 1) * 2 ^ 384)

/-- One command placed in the submission queue and the doorbell rung (R325, R326). -/
def State.nvPut (s : State) (ch op i : Nat) (o : EOp) (c : NvCmd) : State :=
  let (t, h, ph) := s.chanQ ch
  let p1 := (Config.free s.fresh).toNat % 2 ^ 64
  let p2 := (Config.free (s.fresh + 1)).toNat % 2 ^ 64
  let s := { s with fresh := s.fresh + 2 }
  let s := (s.physWr (s.fld (chanReg ch 0x18) 12 40 * 4096 + 64 * t) (nvRead t (s.fld (chanReg ch 0) 32 32) p1 p2 c)).1
  let t' := (t + 1) % (s.fld (chanReg ch 0x18) 0 10 + 1)
  let s := (s.physWr (s.fld (chanReg ch 0x28) 2 50 * 4) (leBytes 4 t')).1
  { s with eng := { s.eng with chq := s.eng.chq.put ch (t', h, ph),
                               ops := s.eng.ops.put op { o with cmds := o.cmds.set i { c with sub := some s.pt, slot := t } } } }

/-- The oldest command of a channel that is still to be submitted. -/
def State.nvNext (s : State) (ch : Nat) : Option (Nat × Nat × EOp × NvCmd) :=
  s.eng.ops.findSome? (fun p =>
    if p.2.kind = .srd ∧ p.2.chan = ch ∧ p.2.st = .running then
      (p.2.cmds.zipIdx.find? (fun c => c.1.sub.isNone)).map (fun c => (p.1, c.2, p.2, c.1))
    else none)

/-- Commands of a channel that the drive has. -/
def State.nvBusy (s : State) (ch : Nat) : Nat :=
  s.eng.ops.foldl (fun n p => if p.2.kind = .srd ∧ p.2.chan = ch then n + (p.2.cmds.filter NvCmd.flying).length else n) 0

/-- Commands submitted to the drive, as far as its submission queue has room (R325, R326): by fuel. -/
def State.nvFeed (s : State) (ch : Nat) : Nat → State
  | 0 => s
  | n + 1 =>
    match s.nvNext ch with
    | some (op, i, o, c) =>
      if s.nvBusy ch < s.fld (chanReg ch 0x18) 0 10 then (s.nvPut ch op i o c).nvFeed ch n else s
    | none => s

/-- Commands submitted to the drive of a channel. -/
def State.nvSubmit (s : State) (ch : Nat) : State := s.nvFeed ch 1024

/-- The operation of an accepted engine instruction starts: it is charged and its first request made (R314, R320, R321). -/
def State.engStart (s : State) (blk : Nat) (b : Block) (q : EIss) : State × Nat :=
  let o : EOp :=
    { kind := engKind q, blk := blk, cid := q.cid, cluster := b.cluster, core := b.core, dev := b.dev, asid := b.asid,
      ctr := engCtr q.opc, charged := s.chargedBy q.cid q.md, opc := q.opc, md := q.md, imm := q.imm, a := q.a, b := q.b,
      c := q.c, e := q.e, e2 := q.e2, since := s.pt }
  if q.opc ≤ 0x301 ∧ (copyShape q.opc q.c q.e).1 = 0 then s.addOp { o with st := .written 0 none }
  else if q.opc = 0x303 then
    let ch := bits q.c.toNat 32 6
    let sz := s.lbaSize ch
    let cs := nvCmds (bits q.a.toNat 0 56) sz (bits q.c.toNat 0 32 / sz) q.b.toNat 0 []
    let (s, id) := s.addOp { o with chan := ch, cmds := cs }
    ((s.engReq id o 1).nvSubmit ch, id)
  else let (s, id) := s.addOp o; (s.engReq id o 0, id)

/-- The engine issue makes its block not discardable, unless its destination is the block's own ASP (R382). -/
def engSpoils (q : EIss) : Bool := q.opc = 0x304 || bits q.a.toNat 60 4 ≠ 4

/-- An engine instruction at issue (R103, R319, R320). -/
def State.engIssue (s : State) (i : Instr) (mk : State → Iss → EIss) : Out :=
  s.issue i false (fun s x =>
    match s.blk? x.c.blk with
    | none => s.trapAt x rangeOperand
    | some b =>
      let q := mk s x
      match s.engCheck b q with
      | some t => s.trapAt x t
      | none =>
        if s.engFull b q || s.ctrFull q then s.holdAs x (.held 8)
        else match s.gateOf x.c true with
          | some w => s.holdAs x w
          | none =>
            let s := if engSpoils q then s.clearDisc x.c else s
            let s := (s.engStart x.c.blk b q).1
            match s.ctxs.find? x.cid with | some c => s.retire x (c.passGate true) | none => s)

/-- The value of an s register operand or special source, 64 bits. -/
def Iss.w64 (x : Iss) (s : State) (op : Operand) : BitVec 64 := BitVec.ofNat 64 (x.s64 s op)

/-- cpy (R321). -/
def execCpy (o : Opr) (chg : BitVec 6) (s : State) : Out :=
  s.engIssue (.cpy o chg) (fun s x =>
    { cid := x.cid, opc := 0x300, md := chg.toNat, imm := o.imm, a := x.w64 s .a, b := x.w64 s .b, c := x.w64 s .c })

/-- cpy2d (R321). -/
def execCpy2d (o : Opr) (chg : BitVec 6) (e : BitVec 8) (s : State) : Out :=
  s.engIssue (.cpy2d o chg e) (fun s x =>
    { cid := x.cid, opc := 0x301, md := chg.toNat, imm := e ++ 0#24, a := x.w64 s .a, b := x.w64 s .b, c := x.w64 s .c,
      e := x.eWord s 0 e })

/-- dcx (R322). -/
def execDcx (o : Opr) (chg : BitVec 6) (f : DcxFmt) (e : BitVec 8) (s : State) : Out :=
  s.engIssue (.dcx o chg f e) (fun s x =>
    { cid := x.cid, opc := 0x302, md := chg.toNat + 64 * DcxFmt.code f, imm := e ++ 0#24, a := x.w64 s .a, b := x.w64 s .b,
      c := x.w64 s .c, e := x.eWord s 0 e })

/-- srd (R324). -/
def execSrd (o : Opr) (chg : BitVec 6) (s : State) : Out :=
  s.engIssue (.srd o chg) (fun s x =>
    { cid := x.cid, opc := 0x303, md := chg.toNat, imm := o.imm, a := x.w64 s .a, b := x.w64 s .b, c := x.w64 s .c })

/-! ### Progress -/

/-- Bytes of a copy. -/
def EOp.total (o : EOp) : Nat :=
  match o.kind with
  | .cpy | .cpy2d => let (w, h, _, _) := copyShape o.opc o.c o.e; w * h
  | .dcx _ => o.c.toNat
  | _ => 0

/-- Bytes that may be moved at an offset without crossing a row or a line of the source or the destination. -/
def EOp.chunk (o : EOp) (off : Nat) : Nat :=
  let left := match o.kind with
    | .cpy | .cpy2d => let (w, _, _, _) := copyShape o.opc o.c o.e; Nat.min (w - off % w) (128 - o.dstAt off % 128)
    | _ => o.total - off
  Nat.min left (128 - o.srcAt off % 128)

/-- A destination byte overlaps a source byte of the same copy, so that it is undefined (R321). -/
def EOp.overlaps (o : EOp) (ptr : Nat) : Bool :=
  let (w, h, ss, _) := copyShape o.opc o.c o.e
  let same : Bool := (bits ptr 60 4 ≤ 3 && bits o.b.toNat 60 4 ≤ 3) || (bits ptr 50 14 = bits o.b.toNat 50 14 && bits ptr 60 4 = 8)
  let d := bits ptr 0 56
  let b := bits o.b.toNat 0 56
  let r := if ss = 0 then 0 else Nat.min (h - 1) ((d - b) / ss)
  same && b ≤ d && d < b + r * ss + w

/-- A copy within one address space whose destination may overlap its source: it is read whole before anything is written, so that
every byte that is not undefined is copied (R321). -/
def EOp.folds (o : EOp) : Bool :=
  let (w, h, ss, ds) := copyShape o.opc o.c o.e
  let same : Bool := (bits o.a.toNat 60 4 ≤ 3 && bits o.b.toNat 60 4 ≤ 3)
    || (bits o.a.toNat 50 14 = bits o.b.toNat 50 14 && bits o.a.toNat 60 4 = 8)
  let d := bits o.a.toNat 0 56
  let b := bits o.b.toNat 0 56
  same && d < b + (h - 1) * ss + w && b < d + (h - 1) * ds + w

/-- Free bytes drawn (R321, R326). -/
def State.drawBytes (s : State) (n : Nat) : State × List Byte :=
  ({ s with fresh := s.fresh + n }, (List.range n).map (fun i => (Config.free (s.fresh + i)).setWidth 8))

/-- An operation replaced. -/
def State.setOp (s : State) (id : Nat) (o : EOp) : State := { s with eng := { s.eng with ops := s.eng.ops.put id o } }

/-- A data fault recorded: the lowest offset is kept (R317), with the physical line when it is poison of this package's memory (R64). -/
def EOp.mark (o : EOp) (off : Nat) (c : Cause) (q : Nat) (addr : Nat) (line : Option Nat) : EOp :=
  let put : EOp := { o with bad := some (off, c, q, 0, BitVec.ofNat 64 addr), line := line }
  match o.bad with
  | some (x, _) => if x ≤ off then o else put
  | none => put

/-- The request of an operation goes on: its next access begins. -/
def State.goOn (s : State) (rid : Nat) (r : Req) (phase va : Nat) : State :=
  s.setReq rid { r with lane := phase, va := va, st := .waiting, since := s.pt, arrived := none }

/-- The operation's requests are over: it waits to count out, with its fault (R315, R316). -/
def State.engDone (s : State) (id : Nat) (f : Option (Cause × Nat × Nat × BitVec 64)) : State :=
  match s.eng.ops.find? id with
  | none => s
  | some o =>
    let s := { s with ms := { s.ms with reqs := s.ms.reqs.filter (fun p => decide (p.2.kind ≠ ReqKind.engine id)) } }
    s.setOp id { o with st := .written o.g (match f with | some x => some x | none => o.bad.map (·.2)) }

/-- An operation's access of n bytes to its address space (R81, R110). -/
def EOp.ha (o : EOp) (id va n : Nat) (pace : Pace) : HaReq :=
  { asid := o.asid, va := va, n := n, priv := false, who := engW id, atL := .ha, engine := true, pace := pace, tc := 2 }

/-- Where an access through this package's own fabric window leads: as its request found the windows when it arrived (R420). -/
def State.fabTo (s : State) (r : Req) (dev off : Nat) (writes : Bool) : Except (Cause × Nat) (Nat × Nat) :=
  match r.arrived with
  | some x => .ok x
  | none => let (row, col) := s.meshPos; s.fabMatch row col dev off writes

/-- An engine access within a line to global memory, through this package's window or not: the outcome and the address that it reached;
none for another package (R16, R110, R316). -/
def State.engReach (s : State) (id : Nat) (r : Req) (o : EOp) (ptr n : Nat) (pace : Pace) (op : HaOp) (mark : Bool := false) :
    Option (State × HaRes × Nat × Nat) :=
  if bits ptr 60 4 = 8 then
    if s.ownMesh ptr then
      (match s.fabTo r o.dev (bits ptr 0 50) op.writes with
       | .error (c, q) => some (s, .fault c q 0 0, 0, 0)
       | .ok (asid, va) =>
         let (s, x) := s.fabPerform { o.ha id va n pace with asid := asid, mark := mark } op
         some (s, x, asid, va))
    else none
  else let (s, x) := s.perform { o.ha id (bits ptr 0 56) n pace with mark := mark } op; some (s, x, o.asid, bits ptr 0 56)

/-- An engine write within a line or a bank word, poisoned or not; none for another package (R87, R110, R316). -/
def State.engWrite (s : State) (id : Nat) (r : Req) (o : EOp) (ptr : Nat) (bs : List Byte) (bad : Bool) (pace : Pace) :
    Option (State × HaRes) :=
  if bits ptr 60 4 = 4 then
    match s.blk? o.blk with
    | none => some (s, .ok 0 0)
    | some b =>
      let b := b.aspWr (bits ptr 0 21) bs
      let b := if bad then { b with aspBad := (wordsOf (bits ptr 0 21) bs.length).foldl (fun m w => SMap.set false m w true) b.aspBad } else b
      some (s.setBlk o.blk b, .ok 0 0)
  else match s.engReach id r o ptr bs.length pace (.wr bs) bad with
    | none => none
    | some (s, x, _, _) => some (s, x)

/-- What the decoder makes of a source that has been read (R322, R323): the pieces to write, the length word, and the fault. -/
def EOp.decode (o : EOp) (f : DcxFmt) : List (Nat × List Byte × Bool) × Nat × Option (Cause × Nat × Nat × BitVec 64) :=
  let cap := bits o.e.toNat 0 21
  let fail (q addr : Nat) : List (Nat × List Byte × Bool) × Nat × Option (Cause × Nat × Nat × BitVec 64) :=
    ([(0, List.replicate cap 0, true)], 2 ^ 64 - 1, some (.poison, q, 0, BitVec.ofNat 64 addr))
  match unpack f o.src.toArray cap with
  | .error k => fail 4 (o.b.toNat + k)
  | .ok out => match out.past, o.bad with
    | some k, _ => fail 5 (o.b.toNat + k)
    | none, some (_, _, _, _, addr) => fail 2 addr.toNat
    | none, none => ([(0, out.bytes.toList, false)], out.bytes.size, none)

/-- The bytes taken in at the end of a read of a copy or dcx, with the qualifier and the line of the poison met (R316, R321, R323). -/
def State.engTook (s : State) (rid id : Nat) (r : Req) (o : EOp) (bs : List Byte) (bad : Option (Nat × Option Nat)) : State :=
  let n := bs.length
  let o := match bad with | some (q, l) => o.mark r.va .poison q (o.srcAt r.va) l | none => o
  match o.kind with
  | .cpy | .cpy2d =>
    let s := s.setOp id { o with outq := o.outq ++ [(r.va, bs, bad.isSome)] }
    if o.folds && r.va + n < o.total then s.goOn rid r 0 (r.va + n) else s.goOn rid r 1 r.va
  | .dcx _ =>
    let s := s.setOp id { o with src := o.src ++ bs }
    if r.va + n < o.total then s.goOn rid r 0 (r.va + n) else s.goOn rid r 1 0
  | _ => s

/-- The poison that a read within a line meets: DATA, with the REMOTE bit through space 0x8 (R33, R316). -/
def State.engBad (s : State) (ptr asid va : Nat) : Option (Nat × Option Nat) :=
  (s.badAt asid va).map (fun l => (if bits ptr 60 4 = 8 then remote 2 else 2, some l))

/-- HA_READ for an operation of CPY or DCX (R110, R316). -/
def State.engReadStep (s : State) (rid id : Nat) (r : Req) (o : EOp) (pace : Pace) : Option (State × HaRes) :=
  if r.lane ≠ 0 then none
  else
    let n := o.chunk r.va
    let ptr := o.srcAt r.va
    match s.engReach id r o ptr n pace .rd with
    | none => none
    | some (s, .ok v g, asid, va) => some (s.engTook rid id r o (leBytes n v) (s.engBad ptr asid va), .ok v g)
    | some (s, .fault c q l x, _, _) =>
      some ((s.setOp id { o with aux := x }).engDone id (some (c, q, l, BitVec.ofNat 64 ptr)), .ok 0 0)
    | some (s, h, _, _) => some (s, h)

/-- A collective's bucket made free bytes, because a participant wrote it (R112). -/
def State.collSpoiled (s : State) (id : Nat) (o : EOp) : State :=
  let (s, bs) := s.drawBytes (o.c.toNat * collBytes (collTyOf o.imm))
  s.setOp id { o with st := .running, outq := [(0, bs, false)], spoiled := false }

/-- The results of a collective are written, or its buckets left: free bytes take their place in a bucket that a participant wrote (R112),
and the signal store is still to come when there is one (R333). -/
def State.collWritten (s : State) (rid id : Nat) (r : Req) : State :=
  match s.eng.ops.find? id with
  | some o =>
    if o.spoiled then (s.collSpoiled id o).goOn rid r 1 r.va
    else if o.sigv.isSome then s.goOn rid r 3 r.va else s.engDone id none
  | none => s

/-- An operation meets a fault that stops it (R316); a collective leaves its signal, and keeps the fault it already has (R331,
R333). -/
def State.engStop (s : State) (rid id : Nat) (r : Req) (o : EOp) (f : Cause × Nat × Nat × BitVec 64) (aux : BitVec 64) : State :=
  match o.kind with
  | .coll =>
    let o := { o with outq := [], bad := match o.bad with | some b => some b | none => some (0, f),
                      aux := if o.bad.isSome then o.aux else aux,
                      sigv := if o.bad.isSome then o.sigv else o.sigv.map (fun _ => 0x80000000000000FF) }
    (s.setOp id o).collWritten rid id r
  | _ => (s.setOp id { o with aux := aux }).engDone id (some f)

/-- A write of an operation performed: its bytes leave the queue, and the operation goes on or is over. -/
def State.engWrote (s : State) (rid id : Nat) (r : Req) (o : EOp) (n g : Nat) : State :=
  match o.outq with
  | [] => s
  | (off, bs, bad) :: rest =>
    let q := if n < bs.length then (off + n, bs.drop n, bad) :: rest else rest
    let o := { o with outq := q, g := Nat.max o.g g, wrote := o.wrote + n }
    let s := s.setOp id o
    if q ≠ [] then s.goOn rid r r.lane r.va
    else match o.kind with
      | .cpy | .cpy2d =>
        let next := off + bs.length
        if next < o.total then s.goOn rid r 0 next else s.engDone id none
      | .srd => if o.cmds.all (·.done) then s.engDone id none else s.goOn rid r 1 r.va
      | .dcx _ => s.goOn rid r 2 0
      | .coll => s.collWritten rid id r
      | _ => s.engDone id none

/-- The bytes that a piece writes, those of an overlap free (R321). -/
def State.engBytes (s : State) (o : EOp) (off : Nat) (bs : List Byte) (bad : Bool) : State × List Byte :=
  if bad then s.drawBytes bs.length
  else match o.kind with
    | .cpy | .cpy2d =>
      if (List.range bs.length).any (fun i => o.overlaps (o.dstAt off + i)) then
        let (s, fs) := s.drawBytes bs.length
        (s, (List.range bs.length).map (fun i => if o.overlaps (o.dstAt off + i) then fs.getD i 0 else bs.getD i 0))
      else (s, bs)
    | _ => (s, bs)

/-- Bytes of a piece that one write takes: up to the end of a line, or of a bank word in ASP (R84, R87). -/
def EOp.run (o : EOp) (off : Nat) (bs : List Byte) : Nat :=
  let w := if bits (o.dstAt off) 60 4 = 4 then 16 else 128
  Nat.min bs.length (w - o.dstAt off % w)

/-- HA_WRITE for an operation: the next bytes of its queue (R110). dcx decodes first, and writes its length word last (R323). -/
def State.engWriteStep (s : State) (rid id : Nat) (r : Req) (o : EOp) (pace : Pace) : Option (State × HaRes) :=
  match o.kind, r.lane with
  | .dcx f, 1 =>
    let (ps, _, _) := o.decode f
    let ps := ps.filter (fun p => !p.2.1.isEmpty)
    some ((s.setOp id { o with outq := ps }).goOn rid r (if ps = [] then 2 else 4) 0, .ok 0 0)
  | .dcx f, 2 =>
    let (_, lw, flt) := o.decode f
    let lwPtr := 4 * 2 ^ 60 + bits o.e.toNat 32 21
    let s := if bitOf o.e.toNat 63 then s
      else (match s.engWrite id r o lwPtr (leBytes 8 lw) false pace with | some (s, _) => s | none => s)
    some ((s.setOp id { o with bad := none }).engDone id flt, .ok 0 0)
  | _, lane =>
    if lane ≠ 1 ∧ lane ≠ 4 then none
    else match o.outq with
      | [] => none
      | (off, bs, bad) :: _ =>
        let n := o.run off bs
        let (s0, ws) := s.engBytes o off (bs.take n) bad
        match s0.engWrite id r o (o.dstAt off) ws bad pace with
        | none => none
        | some (s, .ok v g) => some (s.engWrote rid id r o n g, .ok v g)
        | some (s, .fault c q l x) =>
          some (s.engStop rid id r o (c, q, l, BitVec.ofNat 64 (o.dstAt off)) x, .ok 0 0)
        | some (s, h) => some (s, h)

/-- The answer of another package to an operation's access: its faults carry the REMOTE bit (R16, R33, R109, R316). -/
def State.engReply (s : State) (rid id : Nat) (r : Req) (o : EOp) (a : FabReply) : Option State :=
  let ptr := o.ptrOf r
  if bits ptr 60 4 ≠ 8 || s.ownMesh ptr then none
  else match a with
    | .fault c q l =>
      if r.lane = 0 ∧ c = .poison then some (s.engTook rid id r o (List.replicate (o.chunk r.va) 0) (some (remote q, none)))
      else some (s.engStop rid id r o (c, remote q, l, BitVec.ofNat 64 ptr) 0)
    | .done d =>
      if r.lane = 0 then (if d.length = o.chunk r.va then some (s.engTook rid id r o d none) else none)
      else match o.outq with
        | (off, bs, _) :: _ => some (s.engWrote rid id r o (o.run off bs) 0)
        | [] => none

/-- ENGINE_COUNT_OUT (R110, R315): every write of the operation is visible, or the operation stopped. A collective whose bucket a
participant has written makes it free bytes first (R112). -/
def execEngineCountOut (id : Nat) (s : State) : Out :=
  match s.eng.ops.find? id with
  | some o =>
    (match o.st with
     | .written g f =>
       if o.spoiled then .next ((s.collSpoiled id o).engReq id o 1)
       else if g ≤ s.pt then .next (s.countOut id f o.wrote) else .refused (.notEnabled "ENGINE_COUNT_OUT")
     | _ => .refused (.notEnabled "ENGINE_COUNT_OUT"))
  | none => .refused (.notEnabled "ENGINE_COUNT_OUT")

/-! ### Storage reads (R326) -/

/-- A completion taken from the completion queue: the drive's entry, with its command's identifier, the phase tag and the status, and the
doorbell (R325, R326). PRESUMED (log entry 88). -/
def State.nvTake (s : State) (ch : Nat) (c : NvCmd) (status : Nat) : State :=
  let (t, h, ph) := s.chanQ ch
  let own := (Config.free s.fresh).toNat % 2 ^ 32
  let s := { s with fresh := s.fresh + 1 }
  let s := (s.physWr (s.fld (chanReg ch 0x20) 12 40 * 4096 + 16 * h)
    (leBytes 16 (own * 2 ^ 64 + c.slot * 2 ^ 96 + bit ph * 2 ^ 112 + status % 2 ^ 15 * 2 ^ 113))).1
  let h' := (h + 1) % (s.fld (chanReg ch 0x20) 0 10 + 1)
  let s := (s.physWr (s.fld (chanReg ch 0x30) 2 50 * 4) (leBytes 4 h')).1
  { s with eng := { s.eng with chq := s.eng.chq.put ch (t, h', if h' = 0 then !ph else ph) } }

/-- A command of a storage read is over: its bytes wait to be written, poisoned unless it succeeded, and the latch's fault is
noted (R316, R326). An operation that has stopped writes nothing more. -/
def State.nvOver (s : State) (id cmd : Nat) (o : EOp) (c : NvCmd) (data : List Byte) (fault : Option Nat) : State :=
  let o := { o with cmds := o.cmds.set cmd { c with done := true } }
  let o := if o.st ≠ .running then o
    else
      let o := { o with outq := o.outq ++ [(c.off, data, fault.isSome)] }
      match fault with | some st => o.mark c.off .poison 3 (bits c.lba 0 48 + st % 2 ^ 15 * 2 ^ 48) none | none => o
  (((s.setOp id o).nvSubmit o.chan).dropOver).chanSettle o.chan

/-- The bytes of a command. -/
def EOp.cmdBytes (o : EOp) (c : NvCmd) : Nat :=
  c.blocks * (bits o.c.toNat 0 32 / Nat.max 1 ((o.cmds.map (·.blocks)).foldl (· + ·) 0))

/-- NVME_COMPLETION (R326). -/
def execNvmeCompletion (id cmd status : Nat) (data : List (BitVec 8)) (s : State) : Out :=
  match s.eng.ops.find? id with
  | none => .refused (.notEnabled "NVME_COMPLETION")
  | some o => match o.cmds[cmd]? with
    | none => .refused (.notEnabled "NVME_COMPLETION")
    | some c =>
      let n := o.cmdBytes c
      if !c.flying || decide (o.kind ≠ EKind.srd) then .refused (.notEnabled "NVME_COMPLETION")
      else if status % 2 ^ 15 ≠ 0 then .next ((s.nvTake o.chan c status).nvOver id cmd o c (List.replicate n 0) (some status))
      else if data.length ≠ n then .refused (.notEnabled "NVME_COMPLETION")
      else .next ((s.nvTake o.chan c 0).nvOver id cmd o c data none)

/-- NVME_TIMEOUT (R326): no completion within CHTMO. -/
def execNvmeTimeout (id cmd : Nat) (s : State) : Out :=
  match s.eng.ops.find? id with
  | none => .refused (.notEnabled "NVME_TIMEOUT")
  | some o => match o.cmds[cmd]? with
    | none => .refused (.notEnabled "NVME_TIMEOUT")
    | some c =>
      match c.sub with
      | some t =>
        if c.done || decide (s.pt < t + s.fld (chanReg o.chan 0x38) 0 32 * 1024) || decide (o.kind ≠ EKind.srd) then
          .refused (.notEnabled "NVME_TIMEOUT")
        else .next (s.nvOver id cmd o c (List.replicate (o.cmdBytes c) 0) (some 0x7FFF))
      | none => .refused (.notEnabled "NVME_TIMEOUT")

/-- A CHCFG value that may set EN (R325). -/
def State.chanOk (s : State) (ch v : Nat) : Bool :=
  bits v 1 7 = 0 && bits v 20 12 = 0 && bits v 14 2 < 2 && s.fld (chanReg ch 0x18) 0 10 ≠ 0 && s.fld (chanReg ch 0x20) 0 10 ≠ 0
    && s.fld (chanReg ch 0x38) 0 32 ≠ 0

/-- CHCFG_WRITE (R325): EN is set only over a sound slot, a refused write changes nothing, and clearing EN waits for the commands
in flight. Setting EN starts both queue indexes at 0 with phase tag 1, on which the spec is silent (log entry 102). -/
def execChcfgWrite (w : RegW) (s : State) : Out :=
  let ch := (w.off - chanReg 0 0) / 0x40
  let v := w.val.toNat
  let keep := bits v 0 1 + at' (bits v 8 12) 8 12 + at' (bits v 32 32) 32 32
  if s.fld (chanReg ch 0) 0 1 = 1 then
    if bitOf v 0 then .next s
    else .next (({ s with eng := { s.eng with chOff := s.eng.chOff.put ch (BitVec.ofNat 64 keep) } }).chanSettle ch)
  else if bitOf v 0 then
    (if s.chanOk ch v then
       .next (({ s with eng := { s.eng with chq := s.eng.chq.erase ch } }).setReg (chanReg ch 0) (BitVec.ofNat 64 keep)) else .next s)
  else .next (s.setReg (chanReg ch 0) (BitVec.ofNat 64 keep))

/-! ### wait.ac (R281, R317, R341) -/

/-- The operation of a latch as an issue of the thread that holds it. -/
def Latch.asIss (l : Latch) (cid : Nat) : EIss :=
  { cid := cid, opc := l.opc, md := l.md, imm := l.imm, a := l.a, b := l.b, c := l.c, e := l.e }

/-- The AUX of a latch's trap: the error-log number of the poisoned line that was met, else what the latch recorded (R64, R370). -/
def State.latchAux (s : State) (l : Latch) : BitVec 64 :=
  match l.line with | some n => BitVec.ofNat 64 (s.poisonSeq (n * 128)) | none => l.aux

/-- wait.ac once any operation to be issued again has issued: the split waits until the counter is at or below the threshold
(R110, R281); when it would complete while the counter's latch is set, it traps instead and the latch clears (R317). -/
def State.waitAc (s : State) (x : Iss) (n : Nat) : State :=
  if x.threshold s < SMap.get 0 x.c.ac n then s.holdAs x (.held 6)
  else match x.c.latch.find? n with
    | some l =>
      (s.setCtx x.cid { x.c with latch := x.c.latch.erase n }).trapAt x { l.info with aux := s.latchAux l }
    | none => s.retire x x.c

/-- wait.ac; in the replay of one that trapped on a latch of cpy, cpy2d, dcx or srd, that operation is issued again first, with
its recorded operands and charge (R341). -/
def execWaitAc (o : Opr) (ac : AcCtr) (s : State) : Out :=
  s.issue (.waitAc o ac) false (fun s x =>
    match x.sp.relatch, s.blk? x.c.blk with
    | some l, some b =>
      let q := l.asIss (coxKey x.c.blk)
      (match s.engCheck b q with
       | some t =>
         (s.setCtx x.cid (x.c.setSplit x.k { x.sp with relatch := none })).trapAt x { t with latch := some { l with count := 0 } }
       | none =>
         if s.engFull b q || s.ctrFull q then s.holdAs x (.held 8)
         else match s.gateOf x.c true with
           | some w => s.holdAs x w
           | none =>
             let s := if engSpoils q then s.clearDisc x.c else s
             let s := (s.engStart x.c.blk b q).1
             match s.ctxs.find? x.cid with
             | some c =>
               let sp := { x.sp with relatch := none }
               let c := (c.passGate true).setSplit x.k sp
               (s.setCtx x.cid c).waitAc { x with c := c, sp := sp } (acNum ac)
             | none => s)
    | _, _ => s.waitAc x (acNum ac))

end Sys2Proof.Machine
end

