-- ==== Sys2Proof/Machine/Float.lean ====
section
/-! DEFINITION. Class 001: floating point (R256 to R262). -/

namespace Sys2Proof.Machine

/-- Elements of an operand of a floating-point type: two packed 16-bit ones, else one (R206, R256). -/
def elemsOf (t : Ty) : Nat := if t.fbits = 16 then 2 else 1

/-- An operation on each element of the operands, element 0 first (R256); the list holds the rounding inputs. -/
def onElems (t : Ty) (f : Nat → Nat → Nat → Nat → Nat) (us : List Nat) (a b c : Nat) : Nat :=
  if t.fbits = 16 then
    f (elemOf 16 0 a) (elemOf 16 0 b) (elemOf 16 0 c) (us.getD 0 0)
      + 2 ^ 16 * f (elemOf 16 1 a) (elemOf 16 1 b) (elemOf 16 1 c) (us.getD 1 0)
  else f a b c (us.getD 0 0)

/-- A source of the type's width (R256). -/
def Iss.fl (x : Iss) (s : State) (l : Nat) (t : Ty) (op : Operand) : Nat := x.rd s l t.width (extOf t) op

/-- A class-001 instruction on elements that rounds (R218, R257). -/
def State.fpRound (s : State) (i : Instr) (o : Opr) (t : Ty) (rm : Rm) (f : Nat → Nat → Nat → Nat → Nat) : Out :=
  s.rounding i rm (elemsOf t) false (fun s x l us =>
    x.wr l t.width false (onElems t f us (x.fl s l t .a) (x.fl s l t .b) (x.fl s l t .c)))

/-- A class-001 instruction on elements that does not round. -/
def State.fpPlain (s : State) (i : Instr) (o : Opr) (t : Ty) (f : Nat → Nat → Nat) : Out :=
  s.lanewise i (fun s x l => x.wr l t.width false
    (onElems t (fun a b _ _ => f a b) [] (x.fl s l t .a) (x.fl s l t .b) 0))

/-- fadd on one element (R257, R258). -/
def faddVal (t : Ty) (rm : Rm) (a b u : Nat) : Nat := t.fmt.enc rm u (sumFV rm [t.fmt.val a, t.fmt.val b])
/-- fsub on one element (R257, R258). -/
def fsubVal (t : Ty) (rm : Rm) (a b u : Nat) : Nat := t.fmt.enc rm u (sumFV rm [t.fmt.val a, (t.fmt.val b).neg])
/-- fmul on one element (R257, R258). -/
def fmulVal (t : Ty) (rm : Rm) (a b u : Nat) : Nat := t.fmt.enc rm u ((t.fmt.val a).mul (t.fmt.val b))
/-- ffma on one element, with one rounding (R257, R258). -/
def ffmaVal (t : Ty) (rm : Rm) (a b c u : Nat) : Nat :=
  t.fmt.enc rm u (sumFV rm [(t.fmt.val a).mul (t.fmt.val b), t.fmt.val c])

/-- fadd (R257). -/
def execFadd (o : Opr) (t : Ty) (rm : Rm) (s : State) : Out :=
  s.fpRound (.fadd o t rm) o t rm (fun a b _ u => faddVal t rm a b u)
/-- fsub (R257). -/
def execFsub (o : Opr) (t : Ty) (rm : Rm) (s : State) : Out :=
  s.fpRound (.fsub o t rm) o t rm (fun a b _ u => fsubVal t rm a b u)
/-- fmul (R257). -/
def execFmul (o : Opr) (t : Ty) (rm : Rm) (s : State) : Out :=
  s.fpRound (.fmul o t rm) o t rm (fun a b _ u => fmulVal t rm a b u)
/-- ffma (R257). -/
def execFfma (o : Opr) (t : Ty) (rm : Rm) (s : State) : Out :=
  s.fpRound (.ffma o t rm) o t rm (fun a b c u => ffmaVal t rm a b c u)
/-- fmin (R258). -/
def execFmin (o : Opr) (t : Ty) (s : State) : Out := s.fpPlain (.fmin o t) o t (t.fmt.minMax false)
/-- fmax (R258). -/
def execFmax (o : Opr) (t : Ty) (s : State) : Out := s.fpPlain (.fmax o t) o t (t.fmt.minMax true)
/-- fabs: the sign bit cleared (R204, R258). -/
def execFabs (o : Opr) (t : Ty) (s : State) : Out := s.fpPlain (.fabs o t) o t (fun a _ => a % 2 ^ (t.fbits - 1))
/-- fneg: the sign bit inverted (R204, R258). -/
def execFneg (o : Opr) (t : Ty) (s : State) : Out := s.fpPlain (.fneg o t) o t (fun a _ => a ^^^ 2 ^ (t.fbits - 1))
/-- frnd: to an integral value in the format (R261). -/
def execFrnd (o : Opr) (t : Ty) (rm : Rm) (s : State) : Out :=
  s.fpRound (.frnd o t rm) o t rm (fun a _ _ u => t.fmt.rnd rm u a)

/-- fcmp: 1 when the condition holds, else 0 (R259). -/
def execFcmp (o : Opr) (t : Ty) (cc : FCond) (s : State) : Out :=
  s.lanewise (.fcmp o t cc) (fun s x l =>
    x.wr l 32 false (bit (cc.holds (t.fmt.val (x.fl s l t .a)) (t.fmt.val (x.fl s l t .b)))))

/-- fclass: one bit of nine (R259). -/
def execFclass (o : Opr) (t : Ty) (s : State) : Out :=
  s.lanewise (.fclass o t) (fun s x l => x.wr l 32 false (t.fmt.classOf (x.fl s l t .a)))

/-- Elements of an fcvt (R260). -/
def cvtElems (t src : Ty) : Nat :=
  if Nat.max t.fbits src.fbits = 64 then 1 else 32 / Nat.max t.fbits src.fbits

/-- The low bit of element i on one side of an fcvt: the narrower side is part q of its register (R260). -/
def cvtLo (w other n q i : Nat) : Nat := w * i + (if w < other then n * w * q else 0)

/-- fcvt on whole operands: a is the source, d the old destination (R260). -/
def fcvtVal (t src : Ty) (rm : Rm) (q : Nat) (us : List Nat) (a d : Nat) : Nat :=
  let n := cvtElems t src
  (List.range n).foldl (fun r i =>
    putBits r (cvtLo t.fbits src.fbits n q i) t.fbits
      (fconv src.fmt t.fmt rm (us.getD i 0) (bits a (cvtLo src.fbits t.fbits n q i) src.fbits)))
    (if t.fbits < src.fbits then d else 0)

/-- fcvt (R219, R260). -/
def execFcvt (o : Opr) (t src : Ty) (rm : Rm) (q : BitVec 3) (s : State) : Out :=
  s.rounding (.fcvt o t src rm q) rm (cvtElems t src) false (fun s x l us =>
    x.wr l t.width false
      (fcvtVal t src rm q.toNat us (x.rd s l src.width (extOf src) .a) (x.rd s l t.width .zero .d)))

/-- fcvti: a float to an integer, saturating (R220, R261). -/
def execFcvti (o : Opr) (t src : Ty) (rm : Rm) (q : BitVec 3) (s : State) : Out :=
  s.rounding (.fcvti o t src rm q) rm 1 false (fun s x l us =>
    let a := x.rd s l src.width (extOf src) .a
    let e := if src.fbits = 16 then elemOf 16 q.toNat a else a
    x.wr l t.width t.signed ((src.fmt.val e).toIntSat t.signed t.width rm (us.getD 0 0)))

/-- The element that icvtf makes of an integer (R220). -/
def icvtfVal (t : Ty) (rm : Rm) (i : Int) (u : Nat) : Nat := t.fmt.enc rm u (FV.ofInt i)

/-- icvtf: an integer to a float (R220, R261). -/
def execIcvtf (o : Opr) (t src : Ty) (rm : Rm) (q : BitVec 3) (s : State) : Out :=
  s.rounding (.icvtf o t src rm q) rm (if src = .h2 then 2 else 1) false (fun s x l us =>
    let a := x.rd s l src.width (extOf src) .a
    x.wr l t.width false
      (if src = .h2 then
        icvtfVal t rm (sx 16 (elemOf 16 0 a)) (us.getD 0 0) + 2 ^ 16 * icvtfVal t rm (sx 16 (elemOf 16 1 a)) (us.getD 1 0)
       else if t.fbits = 16 then
        putBits (x.rd s l 32 .zero .d) (16 * q.toNat) 16 (icvtfVal t rm (intVal src src.width a) (us.getD 0 0))
       else icvtfVal t rm (intVal src src.width a) (us.getD 0 0)))

/-- A special function of one argument (R262); variable-latency. -/
def State.special1 (s : State) (i : Instr) (o : Opr) (t : Ty) (f : Nat → Nat) : Out :=
  s.lanewiseVar i (fun s x l => x.wr l t.width false (f (x.fl s l t .a)))

/-- frcp (R262). -/
def execFrcp (o : Opr) (t : Ty) (s : State) : Out := s.special1 (.frcp o t) o t t.fmt.rcp
/-- frsqrt (R262). -/
def execFrsqrt (o : Opr) (t : Ty) (s : State) : Out := s.special1 (.frsqrt o t) o t t.fmt.rsqrt
/-- fsqrt, correctly rounded (R262). -/
def execFsqrt (o : Opr) (t : Ty) (rm : Rm) (s : State) : Out :=
  s.rounding (.fsqrt o t rm) rm 1 true (fun s x l us =>
    x.wr l t.width false (t.fmt.enc rm (us.getD 0 0) (t.fmt.val (x.fl s l t .a)).sqrt))
/-- fexp2 (R262). -/
def execFexp2 (o : Opr) (t : Ty) (s : State) : Out := s.special1 (.fexp2 o t) o t (specialVal .exp2)
/-- flog2 (R262). -/
def execFlog2 (o : Opr) (t : Ty) (s : State) : Out := s.special1 (.flog2 o t) o t (specialVal .log2)
/-- fsin (R262). -/
def execFsin (o : Opr) (t : Ty) (s : State) : Out := s.special1 (.fsin o t) o t (specialVal .sin)
/-- fcos (R262). -/
def execFcos (o : Opr) (t : Ty) (s : State) : Out := s.special1 (.fcos o t) o t (specialVal .cos)
/-- ftanh (R262). -/
def execFtanh (o : Opr) (t : Ty) (s : State) : Out := s.special1 (.ftanh o t) o t (specialVal .tanh)
/-- fdiv, correctly rounded (R262). -/
def execFdiv (o : Opr) (t : Ty) (rm : Rm) (s : State) : Out :=
  s.rounding (.fdiv o t rm) rm 1 true (fun s x l us =>
    x.wr l t.width false (t.fmt.enc rm (us.getD 0 0) ((t.fmt.val (x.fl s l t .a)).div (t.fmt.val (x.fl s l t .b)))))

end Sys2Proof.Machine
end

