-- ==== Sys2Proof/Machine/KvTable.lean ====
section
/-! DEFINITION. KV tables (R134 to R146, R311, R312): lookups, the KVT cache, inserts and deletes by the update unit, and the
quarantine. -/

namespace Sys2Proof.Machine

/-- What a chain of reads comes to: a value, a trap of the instruction, or a wait. -/
inductive Got (α : Type) where
  | ok (a : α)
  | trap (t : TrapInfo)
  | hold
  deriving DecidableEq, Repr

/-- One read after another. -/
def andThen {α β : Type} (r : State × Got α) (f : State → α → State × Got β) : State × Got β :=
  match r with
  | (s, .ok a) => f s a
  | (s, .trap t) => (s, .trap t)
  | (s, .hold) => (s, .hold)

/-- KVMISS qualifiers (R144). -/
def kvTrap (q : Nat) (ptr : Nat) : TrapInfo := { cause := .kvmiss, qual := q, addr := BitVec.ofNat 64 ptr }

/-- Who reads a table: a cox through its KVT, or the update unit at the HA. -/
structure KvWho where
  asid : Nat
  dev : Nat
  who : Nat → Nat
  core : Option Nat
  die : Nat
  /-- The thread whose earlier writes come first. -/
  cid : Option Nat := none

/-- The SPACE of a pointer whose must-be-zero bits are set, or that an index has carried past the end of the space (R12). -/
def kvFar (ptr : Nat) : Option TrapInfo :=
  if bits ptr 56 4 ≠ 0 then some { cause := .space, qual := 2, addr := BitVec.ofNat 64 ptr } else none

/-- A read of a table's memory (R139, R140, R146): a KVT is filled as an L1D is. -/
def State.kvRd (s : State) (w : KvWho) (ptr n : Nat) : State × Got Nat :=
  let va := bits ptr 0 56
  let q : HaReq := { asid := w.asid, va := va, n := n, priv := false, who := w.who va, atL := .ha }
  match kvFar ptr with
  | some t => (s, .trap t)
  | none =>
  if (match w.cid with | some c => s.writesOpen c va n | none => false) then (s, .hold)
  else
  let r := match w.core with
    | some c =>
      let look : List Level := (if s.ownPending (w.who va) then [] else [Level.kvt]) ++ (if s.l2Owns w.die w.asid va then [] else [Level.l2, Level.l3])
      s.cachedRead { q with atL := .l2 w.die } w.die c w.dev look [.l3, .l2, .kvt]
    | none => s.perform q .rd
  match r with
  | (s, .ok v _) => (s, .ok v)
  | (s, .fault c ql l aux) => (s, .trap { cause := c, qual := ql, level := l, addr := BitVec.ofNat 64 ptr, aux := aux })
  | (s, _) => (s, .hold)

/-! ### Descriptors, entries and nodes (R134 to R136) -/

/-- A table descriptor. -/
structure KvDesc where
  ptr : Nat
  tbase : Nat
  obase : Nat
  kvbase : Nat
  lnb : Nat
  lbs : Nat
  nov : Nat
  seed : Nat
  bstride : Nat
  ofree : Nat
  deriving DecidableEq, Repr

/-- The fields of a descriptor record. -/
def kvDescOf (ptr x : Nat) : KvDesc :=
  { ptr := ptr, tbase := bits x 0 64, obase := bits x 64 64, kvbase := bits x 128 64, lnb := bits x 192 6, lbs := bits x 200 4,
    nov := bits x 208 16, seed := bits x 224 32, bstride := bits x 256 32, ofree := bits x 288 16 }

/-- The record is valid (R134). -/
def kvDescOk (x : Nat) : Bool :=
  let d := kvDescOf 0 x
  let sp (p : Nat) : Bool := bits p 60 4 ≤ 3
  bits x 198 2 = 0 && bits x 204 4 = 0 && bits x 304 208 = 0 && 4 ≤ d.lnb && d.lnb ≤ 24 && 4 ≤ d.lbs && d.lbs ≤ 8
    && d.bstride ≠ 0 && sp d.tbase && sp d.obase && sp d.kvbase && d.tbase % 256 = 0 && d.obase % 256 = 0

/-- The descriptor read and checked. -/
def State.kvDesc (s : State) (w : KvWho) (ptr : Nat) : State × Got KvDesc :=
  andThen (s.kvRd w ptr 64) (fun s x => if kvDescOk x then (s, .ok (kvDescOf ptr x)) else (s, .trap (kvTrap 7 ptr)))

/-- An entry read and checked (R135, R139). -/
def State.kvEntry (s : State) (w : KvWho) (d : KvDesc) (p : Nat) : State × Got Nat :=
  andThen (s.kvRd w (d.tbase + 16 * p) 16) (fun s e =>
    if bits e 56 2 ≥ 2 ∨ bits e 58 6 ≠ 0 ∨ bits e 96 32 ≠ 0 then (s, .trap (kvTrap 7 d.ptr)) else (s, .ok e))

/-- A node read and checked (R136, R139). -/
def State.kvNode (s : State) (w : KvWho) (d : KvDesc) (n : Nat) : State × Got Nat :=
  andThen (s.kvRd w (d.obase + 16 * n) 16) (fun s o =>
    if bits o 56 2 = 3 ∨ bits o 58 6 ≠ 0 ∨ bits o 88 8 ≠ 0 ∨ bits o 112 16 ≠ 0 then (s, .trap (kvTrap 7 d.ptr)) else (s, .ok o))

/-- KvHash of R138. -/
def kvHash (d : KvDesc) (seq lblk : Nat) : Nat :=
  let x := ((seq ^^^ d.seed) * 0x9E3B + lblk * 0x0101) % 2 ^ 32
  (x ^^^ (x / 2 ^ 13)) % 2 ^ d.lnb

/-- The entry or node holds the key and is VALID. -/
def kvMatch (e seq lblk : Nat) : Bool := bits e 56 2 = 1 && bits e 0 32 = seq && bits e 32 24 = lblk

/-- What a lookup finds: the block, and where the key stands in a chain: the node and its predecessor (none is the head). -/
structure KvHit where
  p : Nat
  node : Option (Nat × Option Nat) := none
  deriving DecidableEq, Repr

/-- The eight probes (R139). -/
def State.kvProbe (s : State) (w : KvWho) (d : KvDesc) (seq lblk h : Nat) : Nat → Nat → State × Got (Option KvHit)
  | 0, _ => (s, .ok none)
  | n + 1, i =>
    let p := (h + i) % 2 ^ d.lnb
    andThen (s.kvEntry w d p) (fun s e =>
      if kvMatch e seq lblk then (s, .ok (some { p := p })) else s.kvProbe w d seq lblk h n (i + 1))

/-- The chain of a bucket (R139): at most sixteen nodes. -/
def State.kvChain (s : State) (w : KvWho) (d : KvDesc) (seq lblk : Nat) : Nat → Nat → Option Nat → State × Got (Option KvHit)
  | fuel, n, pred =>
    if n = 0 then (s, .ok none)
    else match fuel with
      | 0 => (s, .trap (kvTrap 1 d.ptr))
      | fuel + 1 =>
        if d.nov ≤ n then (s, .trap (kvTrap 1 d.ptr))
        else andThen (s.kvNode w d n) (fun s o =>
          if kvMatch o seq lblk then
            let p := bits o 64 24
            if 2 ^ d.lnb ≤ p then (s, .trap (kvTrap 7 d.ptr))
            else andThen (s.kvEntry w d p) (fun s e =>
              if bits e 56 2 = 1 then (s, .ok (some { p := p, node := some (n, pred) })) else (s, .trap (kvTrap 7 d.ptr)))
          else s.kvChain w d seq lblk fuel (bits o 96 16) (some n))

/-- KvLookup of R139. -/
def State.kvLookup (s : State) (w : KvWho) (d : KvDesc) (seq lblk : Nat) : State × Got (Option KvHit) :=
  let h := kvHash d seq lblk
  andThen (s.kvProbe w d seq lblk h 8 0) (fun s r => match r with
    | some x => (s, .ok (some x))
    | none => andThen (s.kvEntry w d h) (fun s e => s.kvChain w d seq lblk 16 (bits e 80 16) none))

/-- The nodes of a chain counted, up to sixteen (R141). -/
def State.kvChainLen (s : State) (w : KvWho) (d : KvDesc) : Nat → Nat → Nat → State × Got Nat
  | 0, _, c => (s, .ok c)
  | fuel + 1, n, c =>
    if n = 0 then (s, .ok c)
    else if d.nov ≤ n then (s, .trap (kvTrap 1 d.ptr))
    else andThen (s.kvNode w d n) (fun s o => s.kvChainLen w d fuel (bits o 96 16) (c + 1))

/-! ### kv.find -/

/-- The checks of the descriptor pointer and key that come before R134 (R311). -/
def kvOperandTrap (ptr key : Nat) : Option TrapInfo :=
  if 4 ≤ bits ptr 60 4 then some (kvTrap 7 ptr)
  else if (kvFar ptr).isSome then kvFar ptr
  else if ptr % 64 ≠ 0 then some { cause := .align, addr := BitVec.ofNat 64 ptr }
  else if bits key 56 8 ≠ 0 then some (kvTrap 7 ptr)
  else none

/-- A KV-table instruction at issue. -/
def State.kvIssue (s : State) (i : Instr) (spoil : Bool) (body : State → Iss → Block → State) : Out :=
  s.issue i false (fun s x =>
    match s.blk? x.c.blk with
    | none => s.trapAt x { cause := .kvmiss, qual := 7 }
    | some _ =>
      let s := if spoil then s.clearDisc x.c else s
      (match s.blk? x.c.blk with | some b => body s x b | none => s))

/-- The cox as a reader of tables. -/
def State.kvCox (s : State) (x : Iss) : KvWho :=
  { asid := x.c.asid, dev := x.c.dev, who := threadW x.cid, core := some (s.coreOf x.cid), die := s.dieOf x.cid,
    cid := some x.cid }

/-- The copies of the lines that a lookup has read, newest state: a result depends on them (R146). -/
def State.kvtLines (s : State) (w : KvWho) (vas : List Nat) : Option Nat :=
  vas.foldl (fun m va => match m, s.copyHit .kvt (w.core.getD 0) w.asid va with
    | some t, some (_, c) => some (Nat.min t c.exp)
    | _, _ => none) (some (2 ^ 64))

/-- The lines that a successful lookup read: descriptor, probes and chain (R139). -/
def State.kvLinesRead (s : State) (w : KvWho) (d : KvDesc) (seq lblk : Nat) (r : KvHit) : List Nat :=
  let h := kvHash d seq lblk
  let probes := match r.node with
    | none => (r.p + 2 ^ d.lnb - h) % 2 ^ d.lnb + 1
    | some _ => 8
  let ents := (List.range probes).map (fun i => d.tbase + 16 * ((h + i) % 2 ^ d.lnb))
  let rec walk : Nat → Nat → List Nat
    | 0, _ => []
    | f + 1, n => if n = 0 then [] else
        let a := d.obase + 16 * n
        a :: (match r.node with
          | some (m, _) => if m = n then [] else (match (s.kvNode w d n).2 with | .ok o => walk f (bits o 96 16) | _ => [])
          | none => [])
  let chain := match r.node with
    | none => []
    | some _ => (match (s.kvEntry w d h).2 with | .ok e => walk 17 (bits e 80 16) | _ => []) ++ [d.tbase + 16 * r.p]
  ((d.ptr :: ents ++ chain).map (fun p => bits p 0 56 / 128 * 128)).dedup

/-- A result kept by the KVT, which holds 1,024 of them (R146): those that have expired leave first. DESIGN CHOICE (log entry 89): else the
oldest of the core's results makes room. -/
def State.keepResult (s : State) (r : KvtRes) : State :=
  let live := s.kv.kvt.filter (fun q => s.pt < q.exp)
  let rest := if 1024 ≤ (live.filter (fun q => q.core = r.core)).length then
      (match live.find? (fun q => q.core = r.core) with | some q => live.erase q | none => live) else live
  { s with kv := { s.kv with kvt := rest ++ [r] } }

/-- A lookup served from the KVT while a live result exists, else made; a found block is kept as a result under the leases of
the lines read (R139, R146). -/
def State.kvFind (s : State) (x : Iss) (ptr seq lblk : Nat) : State × Got (Option Nat) :=
  let w := s.kvCox x
  let core := s.coreOf x.cid
  match s.kv.kvt.find? (fun r => r.core = core && r.asid = w.asid && r.desc = bits ptr 0 56 && r.seq = seq && r.lblk = lblk
      && s.pt < r.exp) with
  | some r => (s, .ok (some r.p))
  | none =>
    andThen (s.kvDesc w ptr) (fun s d =>
      andThen (s.kvLookup w d seq lblk) (fun s r => match r with
        | none => (s, .ok none)
        | some hit =>
          let lines := s.kvLinesRead w d seq lblk hit
          let s := match s.kvtLines w lines with
            | some exp => s.keepResult { core := core, asid := w.asid, desc := bits ptr 0 56, seq := seq, lblk := lblk, p := hit.p,
                                         exp := exp, lines := lines.map (· / 128) }
            | none => s
          (s, .ok (some hit.p))))

/-- A lookup that waits has begun (R139). -/
def State.lookHold (s : State) (x : Iss) : State :=
  let k := x.cid * 8 + x.k
  let s := if (s.kv.look.find? k).isSome then s else { s with kv := { s.kv with look := s.kv.look.put k s.pt } }
  s.holdAs x (.held 7)

/-- A lookup is over. -/
def State.lookDone (s : State) (x : Iss) : State := { s with kv := { s.kv with look := s.kv.look.erase (x.cid * 8 + x.k) } }

/-- kv.find (R311, R312); variable-latency. -/
def execKvFind (o : Opr) (s : State) : Out :=
  s.kvIssue (.kvFind o) false (fun s x _ =>
    let ptr := x.s64 s .a
    let key := x.s64 s .b
    match kvOperandTrap ptr key with
    | some t => s.trapAt x t
    | none => match s.gateOf x.c false with
      | some g => s.holdAs x g
      | none => match s.kvFind x ptr (bits key 0 32) (bits key 32 24) with
        | (s, .hold) => s.lookHold x
        | (s, .trap t) => (s.lookDone x).trapAt x t
        | (s, .ok r) =>
          let s := s.lookDone x
          s.pend x x.c { writes := x.sWrites 1 (match r with | some p => 2 ^ 63 + p | none => 0), flag := none })

/-- KV_LOOKUP_RESTART: a lookup whose reads have not all returned starts again from the descriptor (R139). -/
def execKvLookupRestart (w : Who) (s : State) : Out :=
  match s.kv.look.find? (w.cid * 8 + w.k) with
  | some t =>
    if t + 32768 ≤ s.pt then .next { s with kv := { s.kv with look := s.kv.look.put (w.cid * 8 + w.k) s.pt } }
    else .refused (.notEnabled "KV_LOOKUP_RESTART")
  | none => .refused (.notEnabled "KV_LOOKUP_RESTART")

/-! ### kv.insert and kv.delete -/

/-- The wait of a cox for its table update. -/
def kvWait : Wait := .confirm (2 ^ 60)

/-- Before an update leaves the core, its KVT drops what it holds of the table: the lines that the update may write and the results that
depend on them (R146). -/
def State.kvDropTable (s : State) (w : KvWho) (d : KvDesc) : State :=
  let u := w.core.getD 0
  let hits (va : Nat) : Bool := va / 128 = bits d.ptr 0 56 / 128
    || (decide (bits d.tbase 0 56 / 128 * 128 ≤ va) && decide (va < bits d.tbase 0 56 + 16 * 2 ^ d.lnb))
    || (decide (bits d.obase 0 56 / 128 * 128 ≤ va) && decide (va < bits d.obase 0 56 + 16 * d.nov))
  let s := s.dropCopies (fun c => c.lvl = .kvt && c.unit = u && c.asid = w.asid && hits c.va)
  { s with kv := { s.kv with kvt := s.kv.kvt.filter (fun r => !(r.core = u && r.asid = w.asid && r.lines.any (fun l => hits (l * 128)))) } }

/-- An update sent to the update unit, after an acquire-release of package scope (R104, R140, R312). -/
def State.kvUpdate (s : State) (i : Instr) (o : Opr) (insert : Bool) : Out :=
  s.kvIssue i true (fun s x _ =>
    let ptr := x.s64 s .a
    let key := x.s64 s .b
    match kvOperandTrap ptr key with
    | some t => s.trapAt x t
    | none => match s.orderWait x.c true .ar .pkg with
      | some w => s.holdAs x w
      | none =>
        let w := s.kvCox x
        match s.kvRd { w with core := none } ptr 64 with
        | (s, .hold) => s.holdAs x (.held 7)
        | (s, .trap t) => s.trapAt x t
        | (s, .ok x64) =>
          let s := s.kvDropTable w (kvDescOf ptr x64)
          let table := match s.paOf w.asid (bits ptr 0 56) with | some (pa, _) => pa / 128 | none => 0
          let u : KvUpd := { cid := x.cid, k := x.k, insert := insert, desc := BitVec.ofNat 64 ptr, table := table,
                             seq := bits key 0 32, lblk := bits key 32 24, p := if insert then x.s64 s .c else 0, asid := w.asid }
          let s := { s with kv := { s.kv with upds := s.kv.upds ++ [u] } }
          s.setCtx x.cid ((x.c.passGate true).setSplit x.k { x.sp with wait := kvWait }))

/-- kv.insert (R141, R311, R312). -/
def execKvInsert (o : Opr) (s : State) : Out := s.kvUpdate (.kvInsert o) o true
/-- kv.delete (R142, R311, R312). -/
def execKvDelete (o : Opr) (s : State) : Out := s.kvUpdate (.kvDelete o) o false

/-- Bytes of an entry or node. -/
def kv16 (x : Nat) : List Byte := leBytes 16 x

/-- The writes of an insert, after its checks (R141). -/
def State.kvInsertPlan (s : State) (w : KvWho) (u : KvUpd) (d : KvDesc) : State × Got (List KvW) :=
  if 2 ^ d.lnb ≤ u.p then (s, .trap (kvTrap 6 d.ptr))
  else andThen (s.kvLookup w d u.seq u.lblk) (fun s r =>
    if r.isSome then (s, .trap (kvTrap 3 d.ptr))
    else
      let h := kvHash d u.seq u.lblk
      andThen (s.kvEntry w d u.p) (fun s e => andThen (s.kvEntry w d h) (fun s eh =>
        let valid : Bool := bits e 56 2 = 1
        let need : Bool := valid || 8 ≤ (u.p + 2 ^ d.lnb - h) % 2 ^ d.lnb
        let ea := d.tbase + 16 * u.p
        let key := u.seq + u.lblk * 2 ^ 32 + 2 ^ 56
        let own : KvW := if valid then { va := ea + 8, bytes := [], delta := some true }
          else { va := ea, bytes := leBytes 10 (key + 2 ^ 64) }
        if valid ∧ bits e 64 16 = 0xFFFF then (s, .trap (kvTrap 5 d.ptr))
        else if !need then (s, .ok [own])
        else if d.ofree = 0 then (s, .trap (kvTrap 2 d.ptr))
        else andThen (s.kvChainLen w d 17 (bits eh 80 16) 0) (fun s len =>
          if 16 ≤ len then (s, .trap (kvTrap 2 d.ptr))
          else if d.nov ≤ d.ofree then (s, .trap (kvTrap 1 d.ptr))
          else andThen (s.kvNode w d d.ofree) (fun s n =>
            (s, .ok [{ va := d.ptr + 36, bytes := leBytes 2 (bits n 96 16) },
                     { va := d.obase + 16 * d.ofree, bytes := kv16 (key + u.p * 2 ^ 64 + bits eh 80 16 * 2 ^ 96) },
                     own, { va := d.tbase + 16 * h + 10, bytes := leBytes 2 d.ofree }]))))))

/-- The writes of a delete, after its checks (R142). -/
def State.kvDeletePlan (s : State) (w : KvWho) (u : KvUpd) (d : KvDesc) : State × Got (List KvW) :=
  andThen (s.kvLookup w d u.seq u.lblk) (fun s r => match r with
    | none => (s, .trap (kvTrap 0 d.ptr))
    | some hit =>
      andThen (s.kvEntry w d hit.p) (fun s e =>
        let primary : Bool := bits e 0 32 = u.seq && bits e 32 24 = u.lblk
        if primary ∧ 1 < bits e 64 16 then (s, .trap (kvTrap 4 d.ptr))
        else if bits e 64 16 = 0 then (s, .trap (kvTrap 5 d.ptr))
        else
          let ea := d.tbase + 16 * hit.p
          let last : KvW := if primary then { va := ea, bytes := leBytes 10 0 } else { va := ea + 8, bytes := [], delta := some false }
          match hit.node with
          | none => (s, .ok [last])
          | some (n, pred) =>
            andThen (s.kvNode w d n) (fun s o =>
              let link := match pred with
                | none => d.tbase + 16 * kvHash d u.seq u.lblk + 10
                | some m => d.obase + 16 * m + 12
              (s, .ok [{ va := link, bytes := leBytes 2 (bits o 96 16) },
                       { va := d.obase + 16 * n + 7, bytes := [BitVec.ofNat 8 2], quar := some n }, last]))))

/-- The update unit as a reader and writer: outside every group, at the HA (R140). -/
def kvUnit (u : KvUpd) : KvWho := { asid := u.asid, dev := 0, who := fun _ => hubW, core := none, die := 2, cid := some u.cid }

/-- The lines that an update will write, translated as stores (R140). -/
def State.kvCheckWrites (s : State) (u : KvUpd) : List KvW → State × Got Unit
  | [] => (s, .ok ())
  | w :: ws =>
    match kvFar w.va with
    | some t => (s, .trap t)
    | none => match s.translate u.asid (bits w.va 0 56) (if w.delta.isSome then .atomic else .store) false with
      | (s, .ok _) => s.kvCheckWrites u ws
      | (s, .fault c q l aux) => (s, .trap { cause := c, qual := q, level := l, addr := BitVec.ofNat 64 w.va, aux := aux })
      | (s, .hold _) => (s, .hold)

/-- One write of an update at the home agent (R140, R141, R142). -/
def State.kvWrite (s : State) (asid : Nat) (w : KvW) : State × HaRes :=
  let va := bits w.va 0 56
  let q (n : Nat) : HaReq := { asid := asid, va := va, n := n, priv := false, who := hubW, atL := .ha }
  match w.delta with
  | some up => s.perform (q 2) (.rmw (fun old => some (if up then (old + 1) % 2 ^ 16 else (old + 2 ^ 16 - 1) % 2 ^ 16)))
  | none => s.perform (q w.bytes.length) (.wr w.bytes)

/-- The update is the first of its table in the unit's order (R140). -/
def State.kvTurn (s : State) (u : KvUpd) : Bool :=
  match s.kv.upds.find? (fun v => v.table = u.table) with | some v => decide (v = u) | none => false

/-- An update replaced by another, or taken out of the unit. -/
def State.setUpd (s : State) (u : KvUpd) (v : Option KvUpd) : State :=
  { s with kv := { s.kv with upds := s.kv.upds.flatMap (fun x => if x = u then v.toList else [x]) } }

/-- The space of a request that keeps a KV-unit write's place in a migration's window. -/
def kvuSpace : Nat := 94

/-- A write of the update unit that meets a page in its catch takes its place in the stalled-write window; with the window full it waits and
tries again (R47, R49). -/
def State.kvPlace (s : State) (asid f line : Nat) : State × Option Nat :=
  match s.mig.fwd.find? f with
  | none => (s, none)
  | some e =>
    if 64 ≤ ((e.window.map (·.1)).dedup).length then (s, none)
    else
      let (s, id) := s.addReq { cid := noThreadId, lane := 0, kind := .store [], space := kvuSpace, va := 0, size := 1, asid := asid, dev := e.dev,
                                priv := false, die := 2, core := 0, since := s.pt, st := .window f }
      ({ s with mig := { s.mig with fwd := s.mig.fwd.put f { e with window := e.window ++ [(id, line, true)] } } }, some id)

/-- The release of a quarantined node is still to come. -/
def State.quarHas (s : State) (a : Nat × BitVec 64 × Nat) : Bool :=
  s.kv.quar.any (fun q => decide (q.asid = a.1 ∧ q.desc = a.2.1 ∧ q.node = a.2.2))

/-- A delete at its quarantining write waits: the quarantine is full, or the node that was its oldest when the delete found it so has not been
released (R143). -/
def State.quarWait (s : State) (u : KvUpd) : Bool :=
  match u.ws with
  | w :: _ => w.quar.isSome && (match u.awaits with | some a => s.quarHas a | none => false)
  | [] => false

/-- The next write of an update in its write phase (R140, R142, R143). DESIGN CHOICE (log entry 102): a write that meets a fault now, after the
read phase has passed, is left out and the update goes on. -/
def State.kvWriteStep (s : State) (u : KvUpd) (w : KvW) (ws : List KvW) : Option State :=
  if s.quarWait u then none
  else match w.quar.isSome && decide (256 ≤ s.kv.quar.length), s.kv.quar with
    | true, q :: _ => some (s.setUpd u (some { u with awaits := some (q.asid, q.desc, q.node) }))
    | _, _ => match s.kvWrite u.asid w with
      | (s, .ok _ g) =>
        let s := s.setUpd u (some { u with ws := ws, g := g, awaits := none })
        let s := match w.quar with
          | some n =>
            let dev := match s.ctxs.find? u.cid with | some c => c.dev | none => 0
            { s with kv := { s.kv with quar := s.kv.quar ++
              [{ dev := dev, asid := u.asid, desc := u.desc, table := u.table, node := n, due := s.pt + 65536 }] } }
          | none => s
        some s
      | (s, .fault _ _ _ _) => some (s.setUpd u (some { u with ws := ws }))
      | (s, .window f _ line _) => (match s.kvPlace u.asid f line with
          | (s, some id) => some (s.setUpd u (some { u with held := some id }))
          | (s, none) => some s)
      | (s, _) => some s

/-- KV_UPDATE: the read phase of an update, its next write, or its end; each is one step of the unit (R140 to R143). A write whose place is
held in a migration's window waits for its release (R49). -/
def State.kvStep (s : State) (u : KvUpd) : Option State :=
  if !s.kvTurn u || u.held.isSome then none
  else if !u.began then
    if s.kv.quar.any (fun q => q.table = u.table && q.half.isSome) then none
    else
      let w := kvUnit u
      let r := andThen (s.kvDesc w u.desc.toNat) (fun s d =>
        andThen (if u.insert then s.kvInsertPlan w u d else s.kvDeletePlan w u d) (fun s ws =>
          andThen (s.kvCheckWrites u ws) (fun s _ => (s, .ok ws))))
      match r with
      | (s, .hold) => some s
      | (s, .trap t) =>
        let s := s.setUpd u none
        (match s.ctxs.find? u.cid with
         | some c => (match c.splits.find? u.k with
           | some sp => some (s.takeTrap u.cid u.k { t with lmask := sp.mask, pmask := sp.mask })
           | none => some s)
         | none => some s)
      | (s, .ok ws) => some (s.setUpd u (some { u with began := true, ws := ws, g := s.pt }))
  else if s.pt < u.g then none
  else match u.ws with
    | [] =>
      let s := s.setUpd u none
      (match s.ctxs.find? u.cid with
       | some c => some (s.setCtx u.cid (c.advance s.pt u.k))
       | none => some s)
    | w :: ws => s.kvWriteStep u w ws

/-- KV_UPDATE of the thread's update. -/
def execKvUpdate (w : Who) (s : State) : Out :=
  match s.kv.upds.find? (fun u => u.cid = w.cid && u.k = w.k) with
  | some u => (match s.kvStep u with | some t => .next t | none => .refused (.notEnabled "KV_UPDATE"))
  | none => .refused (.notEnabled "KV_UPDATE")

/-- The only update of the table in progress, if any, is a delete that waits for quarantine space (R143). -/
def State.kvQuiet (s : State) (table : Nat) : Bool :=
  match s.kv.upds.find? (fun u => u.table = table) with
  | none => true
  | some u => !u.began || s.quarWait u

/-- One write of a release (R143): the node first, then OFREE. Where the table is no longer to be reached the node is
forgotten. -/
def State.quarStep (s : State) (i : Nat) (q : QNode) : Option State :=
  let w : KvWho := { asid := q.asid, dev := q.dev, who := fun _ => hubW, core := none, die := 2 }
  let put (s : State) (v : Option QNode) : State :=
    { s with kv := { s.kv with quar := s.kv.quar.take i ++ v.toList ++ s.kv.quar.drop (i + 1) } }
  let placed (f line : Nat) (s : State) : State := match s.kvPlace q.asid f line with
    | (s, some id) => put s (some { q with held := some id })
    | (s, none) => s
  if s.pt < q.due ∨ q.held.isSome then none
  else match s.kvDesc w q.desc.toNat with
    | (s, .hold) => some s
    | (s, .trap _) => some (put s none)
    | (s, .ok d) =>
      match q.half with
      | none =>
        if !s.kvQuiet q.table ∨ s.kv.quar.any (fun r => r.table = q.table && r.half.isSome) then none
        else
          (match s.kvNode w d q.node with
           | (s, .ok o) =>
             let o' := putBits (putBits o 56 2 0) 96 16 d.ofree
             (match s.kvWrite q.asid { va := d.obase + 16 * q.node, bytes := kv16 o' } with
              | (s, .ok _ g) => some (put s (some { q with half := some g }))
              | (s, .fault _ _ _ _) => some (put s none)
              | (s, .window f _ line _) => some (placed f line s)
              | (s, _) => some s)
           | (s, .trap _) => some (put s none)
           | (s, .hold) => some s)
      | some g =>
        if s.pt < g then none
        else match s.kvWrite q.asid { va := d.ptr + 36, bytes := leBytes 2 q.node } with
          | (s, .ok _ _) => some (put s none)
          | (s, .fault _ _ _ _) => some (put s none)
          | (s, .window f _ line _) => some (placed f line s)
          | (s, _) => some s

/-- A write of the update unit whose place in a migration's window has come: it is made now (R48, R49). -/
def State.serveKvu (s : State) (id : Nat) : Option State :=
  let s := { s with ms := { s.ms with reqs := s.ms.reqs.erase id } }
  match s.kv.upds.find? (fun u => u.held = some id) with
  | some u =>
    let u' : KvUpd := { u with held := none }
    let s := s.setUpd u (some u')
    some ((s.kvStep u').getD s)
  | none =>
    match s.kv.quar.findIdx? (fun q => q.held = some id), s.kv.quar.find? (fun q => q.held = some id) with
    | some i, some q =>
      let q' : QNode := { q with held := none }
      let s := { s with kv := { s.kv with quar := s.kv.quar.take i ++ [q'] ++ s.kv.quar.drop (i + 1) } }
      some ((s.quarStep i q').getD s)
    | _, _ => some s

/-- QUARANTINE_RELEASE of the i-th quarantined node (R143). -/
def execQuarantineRelease (i : Nat) (s : State) : Out :=
  match s.kv.quar[i]? with
  | some q => (match s.quarStep i q with | some t => .next t | none => .refused (.notEnabled "QUARANTINE_RELEASE"))
  | none => .refused (.notEnabled "QUARANTINE_RELEASE")

end Sys2Proof.Machine
end

