-- ==== Sys2Proof/Machine/Coll.lean ====
section
/-! DEFINITION. Collectives (R112, R327 to R333). -/

namespace Sys2Proof.Machine

/-! ### Records of collectives -/

/-- The collective that an event names. -/
def State.coll? (s : State) (c : CollId) : Option Coll :=
  s.eng.colls.find? (fun x => x.vdev = c.vdev && x.cid = c.cid && x.seq = c.seq)

/-- A collective's record replaced or added. -/
def State.setColl (s : State) (x : Coll) : State :=
  let rest := s.eng.colls.filter (fun y => !(y.vdev = x.vdev && y.cid = x.cid && y.seq = x.seq))
  { s with eng := { s.eng with colls := rest ++ [x] } }

/-- The sequence count of a communicator (R330). -/
def State.collSeq (s : State) (vdev cid : Nat) : Nat := SMap.get 0 s.eng.seqs (vdev * 2 ^ 32 + cid)

/-- The collective has not been issued here and its turn is still to come. -/
def State.collAhead (s : State) (c : CollId) : Bool := s.collSeq c.vdev c.cid ≤ c.seq

/-- A record for a collective not issued here. -/
def collBlank (c : CollId) : Coll := { vdev := c.vdev, cid := c.cid, seq := c.seq }

/-- The first element and the end of chunk i (R328). -/
def Coll.chunkOf (x : Coll) (i : Nat) : Nat × Nat :=
  let n := x.members.length
  (i * x.ne / n, (i + 1) * x.ne / n)

/-- Byte range of the contribution that this participant reads from its bucket. -/
def Coll.ownRange (x : Coll) : Nat × Nat :=
  let z := collBytes x.ct
  match x.kd with
  | .ag => let (a, b) := x.chunkOf x.rank; (a * z, b * z)
  | _ => (0, x.ne * z)

/-- Bytes that this participant needs of rank i's contribution. -/
def Coll.need (x : Coll) (i : Nat) : Nat :=
  let z := collBytes x.ct
  let sz (k : Nat) : Nat := let (a, b) := x.chunkOf k; (b - a) * z
  match x.kd with | .ar => x.ne * z | .rs => sz x.rank | .ag => sz i

/-- Every datum for the result is held (R331). -/
def Coll.full (x : Coll) : Bool :=
  x.readOwn && (List.range x.members.length).all (fun i => (x.data.find? i).isSome)

/-- What the other members' collectives must be (R330). -/
def Coll.par (x : Coll) : CollPar :=
  { kd := x.kd, cop := x.cop, ct := x.ct, ne := x.ne, deadline := x.deadline / 65536, members := x.members }

/-- What another member has sent shows that the collectives differ (R330). -/
def Coll.mismatch (x : Coll) : Bool :=
  x.pars.any (fun p => p.2 ≠ x.par) || x.data.any (fun p => p.1 ≠ x.rank && p.2.length ≠ x.need p.1)

/-- The first of the causes that abort a collective is kept at rank 0 (R331). -/
def Coll.blame (x : Coll) (q : Nat) : Coll := { x with abort := match x.abort with | some p => some p | none => some q }

/-- The participant's report of what it holds: ready, or a mismatch (R330, R331). -/
def Coll.report (x : Coll) : Coll :=
  if x.decided.isSome || x.op.isNone then x
  else if x.mismatch then (if x.rank = 0 then x.blame 1 else { x with asked := true })
  else if x.full && !x.said then { x with said := true, ready := if x.rank = 0 then x.ready ++ [0] else x.ready }
  else x

/-- The name of a collective among its members. -/
def Coll.id (x : Coll) : CollId := { vdev := x.vdev, cid := x.cid, seq := x.seq }

/-- A message to a member, by rank; a member of a record that names this package is not told. -/
def State.tellRank (s : State) (x : Coll) (rank : Nat) (m : PodMsg) : State :=
  match x.members[rank]? with | some dst => if rank = x.rank then s else s.tell dst m | none => s

/-- A message to every other member. -/
def State.tellAll (s : State) (x : Coll) (m : PodMsg) : State :=
  (List.range x.members.length).foldl (fun s i => s.tellRank x i m) s

/-- The record with its report made: what it adds is sent to rank 0 (R331). -/
def State.collReport (s : State) (x : Coll) : State :=
  let y := x.report
  let s := s.setColl y
  if y.rank = 0 then s
  else if y.asked && !x.asked then s.tellRank y 0 (.collRequest y.id 1)
  else if y.said && !x.said then s.tellRank y 0 (.collReady y.id y.rank)
  else s

/-- What the member of a rank needs of this participant's contribution (R328, R331). -/
def Coll.share (x : Coll) (i : Nat) : List Byte :=
  let own := SMap.get [] x.data x.rank
  match x.kd with
  | .rs => let z := collBytes x.ct; let (a, b) := x.chunkOf i; (own.drop (a * z)).take ((b - a) * z)
  | _ => own

/-! ### Results (R329) -/

/-- One step of a reduction. -/
def collStep (ct : CollTy) (op : CollOp) (acc x : Nat) : Nat :=
  let mm (F : FFmt) : Nat := F.minMax (op = .max) acc x
  match ct, op with
  | .f32, .sum => faddVal .f32 .rne acc x 0
  | .f32, _ => mm f32F
  | .bf16, .sum | .f16, .sum => faddVal .f32 .rne acc x 0
  | .bf16, _ => mm bf16F
  | .f16, _ => mm f16F
  | .s32, .sum => (acc + x) % 2 ^ 32
  | .s32, .max => if sx 32 acc < sx 32 x then x else acc
  | .s32, .min => if sx 32 x < sx 32 acc then x else acc
  | .ka, _ => (kaAddImage (BitVec.ofNat 640 acc) (BitVec.ofNat 640 x)).toNat

/-- An element as it enters and leaves a reduction: 16-bit sums run in FP32 (R329). -/
def collIn (ct : CollTy) (op : CollOp) (x : Nat) : Nat :=
  match ct, op with
  | .bf16, .sum => fconv bf16F f32F .rne 0 x
  | .f16, .sum => fconv f16F f32F .rne 0 x
  | _, _ => x

/-- The rounding that ends a 16-bit sum. -/
def collOut (ct : CollTy) (op : CollOp) (x : Nat) : Nat :=
  match ct, op with
  | .bf16, .sum => fconv f32F bf16F .rne 0 x
  | .f16, .sum => fconv f32F f16F .rne 0 x
  | _, _ => x

/-- Element e of rank i's data, which begins at element base. -/
def Coll.elem (x : Coll) (i base e : Nat) : Nat :=
  let z := collBytes x.ct
  collIn x.ct x.cop (leNat (((SMap.get [] x.data i).drop ((e - base) * z)).take z))

/-- Element e reduced over the ranks in ascending order (R329); base is the first element of every datum but this rank's own,
which begins at own. -/
def Coll.reduce (x : Coll) (base own e : Nat) : Nat :=
  let at' (i : Nat) : Nat := x.elem i (if i = x.rank then own else base) e
  let r := (List.range (x.members.length - 1)).foldl (fun acc i => collStep x.ct x.cop acc (at' (i + 1))) (at' 0)
  collOut x.ct x.cop r

/-- What a commit writes into the bucket (R328): the bytes of a reduced range, or the other members' chunks. -/
def Coll.pieces (x : Coll) : List (Nat × List Byte) :=
  let z := collBytes x.ct
  let red (lo hi base : Nat) : List Byte := (List.range (hi - lo)).flatMap (fun i => leBytes z (x.reduce base 0 (lo + i)))
  match x.kd with
  | .ar => [(0, red 0 x.ne 0)]
  | .rs => let (a, b) := x.chunkOf x.rank; [(a * z, red a b a)]
  | .ag => ((List.range x.members.length).filter (· ≠ x.rank)).map (fun i => ((x.chunkOf i).1 * z, SMap.get [] x.data i))

/-! ### Ends -/

/-- COLL_ABORT at a participant: the operation will count out with the qualifier, and its buckets are undefined (R112, R331,
R333). -/
def State.collAbort (s : State) (id qual : Nat) (seq : Nat) (cid : Nat) : State :=
  match s.eng.ops.find? id with
  | none => s
  | some o =>
    match o.st with
    | .running =>
      let (s, bs) := s.drawBytes (o.c.toNat * collBytes (collTyOf o.imm))
      let o := { o with bad := some (0, .collAbort, qual, 0, 0), aux := BitVec.ofNat 64 (cid + seq * 2 ^ 32),
                        sigv := if bitOf o.imm.toNat 12 then some (BitVec.ofNat 64 (2 ^ 63 + qual)) else none,
                        outq := [(0, bs, false)] }
      let s := { s with ms := { s.ms with reqs := s.ms.reqs.filter (fun p => decide (p.2.kind ≠ ReqKind.engine id)) } }
      (s.setOp id o).engReq id o 1
    | _ => s

/-- A fault of a participant's own before commit: it counts out with its cause, rank 0 learns of it, and its buckets are
undefined (R331, R333). -/
def State.collFault (s : State) (id : Nat) (x : Coll) (f : Cause × Nat × Nat × BitVec 64) (aux : BitVec 64) (line : Option Nat) : State :=
  match s.eng.ops.find? id with
  | none => s
  | some o =>
    let (s, bs) := s.drawBytes (o.c.toNat * collBytes (collTyOf o.imm))
    let o := { o with bad := some (0, f), aux := aux, line := line, outq := [(0, bs, false)],
                      sigv := if bitOf o.imm.toNat 12 then some 0x80000000000000FF else none }
    let s := { s with ms := { s.ms with reqs := s.ms.reqs.filter (fun p => decide (p.2.kind ≠ ReqKind.engine id)) } }
    let s := (s.setOp id o).engReq id o 1
    if x.rank = 0 then s.setColl (x.blame 3) else (s.setColl { x with asked := true }).tellRank x 0 (.collRequest x.id 3)

/-- The operation of a collective has still to be decided at this participant. -/
def State.collOpen (s : State) (x : Coll) : Bool :=
  match x.op with
  | none => false
  | some id => match s.eng.ops.find? id with
    | some o => o.bad.isNone && x.decided.isNone && (match o.st with | .running => true | _ => false)
    | none => false

/-! ### Issue -/

/-- The communicator record as read (R327). -/
structure Comm where
  cid : Nat
  n : Nat
  deadline : Nat
  members : List (Nat × Nat)
  ok : Bool
  deriving DecidableEq, Repr

/-- A record of 64 + 2N bytes judged (R327): head is its first 512 bits, tail the members. -/
def commOf (head tail : Nat) (own : Nat × Nat) : Comm :=
  let n := bits head 32 10
  let ms := (List.range n).map (fun i => (bits tail (16 * i) 5, bits tail (16 * i + 5) 5))
  { cid := bits head 0 32, n := n, deadline := bits head 48 16, members := ms,
    ok := bits head 42 6 = 0 && bits head 64 448 = 0 && 2 ≤ n && n ≤ 576 && bits head 48 16 ≠ 0
      && (List.range n).all (fun i => bits tail (16 * i + 10) 6 = 0)
      && ms.all (fun m => m.1 < 24 && m.2 < 24) && ms.dedup.length = ms.length && ms.contains own }

/-- The members of a record read in runs of 64 bytes. -/
def State.readRuns (s : State) (w : KvWho) (ptr n : Nat) : Nat → Nat → Nat → State × Got Nat
  | 0, _, acc => (s, .ok acc)
  | k + 1, i, acc =>
    if n ≤ 64 * i then (s, .ok acc)
    else andThen (s.kvRd w (ptr + 64 * i) (Nat.min 64 (n - 64 * i))) (fun s x => s.readRuns w ptr n k (i + 1) (acc + x * 2 ^ (512 * i)))

/-- The communicator record read by the issuing cox (R328). -/
def State.readComm (s : State) (x : Iss) (b : Block) (ptr : Nat) : State × Got Comm :=
  let w : KvWho := { asid := b.asid, dev := b.dev, who := threadW x.cid, core := none, die := 2, cid := some x.cid }
  andThen (s.kvRd w ptr 64) (fun s head =>
    let n := bits head 32 10
    if 576 < n then (s, .ok { (commOf head 0 s.meshPos) with ok := false })
    else match b.engSpace ptr (64 + 2 * n) true false false with
      | some t => (s, .trap t)
      | none => andThen (s.readRuns w (ptr + 64) (2 * n) 20 0 0) (fun s tail => (s, .ok (commOf head tail s.meshPos))))

/-- The collective of an accepted coll (R330, R331): its contribution is to be read, or it aborts at issue. -/
def State.collStart (s : State) (blk : Nat) (b : Block) (q : EIss) (m : Comm) : State :=
  let seq := s.collSeq b.dev m.cid
  let c : CollId := { vdev := b.dev, cid := m.cid, seq := seq }
  let s := { s with eng := { s.eng with seqs := s.eng.seqs.put (b.dev * 2 ^ 32 + m.cid) ((seq + 1) % 2 ^ 32) } }
  let (s, id) := s.addOp
    { kind := .coll, blk := blk, cid := q.cid, cluster := b.cluster, core := b.core, dev := b.dev, asid := b.asid, ctr := 3,
      charged := s.chargedBy q.cid q.md, opc := q.opc, md := q.md, imm := q.imm, a := q.a, b := q.b, c := q.c, e := q.e,
      e2 := q.e2, coll := some (m.cid, seq) }
  if !m.ok then s.collAbort id 2 seq m.cid
  else
    let old := (s.coll? c).getD (collBlank c)
    let x : Coll :=
      { old with op := some id, kd := (CollKind.ofCode (bits q.imm.toNat 0 3)).getD .ar,
                 cop := (CollOp.ofCode (bits q.imm.toNat 3 3)).getD .sum, ct := collTyOf q.imm, members := m.members,
                 rank := (m.members.findIdx? (· = s.meshPos)).getD 0, ne := q.c.toNat, issue := s.pt,
                 deadline := m.deadline * 65536 }
    let s := s.setColl x
    match x.decided with
    | some (some qual) => (if x.rank = 0 then s.tellAll x (.collDecision c (some qual)) else s).collAbort id qual seq m.cid
    | _ => match s.eng.ops.find? id with | some o => s.engReq id o 0 | none => s

/-- A write that the thread issued before a moment and that has not been performed reaches some of n bytes at an address: in their
address space, in their physical lines, or through this package's own window (R98, R112). -/
def State.stillWrites (s : State) (cid before asid va n : Nat) : Bool :=
  s.ms.reqs.any (fun p => p.2.cid = cid && p.2.kind.writes && p.2.open_ && decide (p.2.since < before) &&
    ((p.2.asid = asid && (reqBytes (s.ctx cid) p.2).any (meet (0, va, n)))
      || (p.2.space = 8 && s.ownMesh p.2.va)
      || (match s.paOf asid va with
          | some (pa, _) => (s.reqPas p.2).any (fun x => (linesOf x p.2.size).contains (pa / 128))
          | none => p.2.space = 15)))

/-- coll (R319, R327 to R331). -/
def execColl (o : Opr) (chg : BitVec 6) (kd : CollKind) (op : CollOp) (ct : CollTy) (wcls : BitVec 3) (sig : Bool)
    (e : BitVec 8) (s : State) : Out :=
  s.issue (.coll o chg kd op ct wcls sig e) false (fun s x =>
    match s.blk? x.c.blk with
    | none => s.trapAt x rangeOperand
    | some b =>
      let imm := CollKind.code kd + 8 * CollOp.code op + 64 * CollTy.code ct + 512 * wcls.toNat + 4096 * bit sig + 2 ^ 24 * e.toNat
      let n := match eOpnd o.a e with | .s n => n.toNat | _ => 0
      let q : EIss := { cid := x.cid, opc := 0x304, md := chg.toNat, imm := BitVec.ofNat 32 imm, a := x.w64 s .a, b := x.w64 s .b,
                        c := x.w64 s .c, e := if sig then x.c.rs n else 0, e2 := if sig then x.c.rs (n + 1) else 0 }
      match s.engCheck b q with
      | some t => s.trapAt x t
      | none =>
        if s.engFull b q || s.ctrFull q then s.holdAs x (.held 8)
        else match s.gateOf x.c true with
          | some w => s.holdAs x w
          | none =>
            match s.readComm x b q.b.toNat with
            | (s, .hold) => s.holdAs x (.held 8)
            | (s, .trap t) => s.trapAt x t
            | (s, .ok m) =>
              if m.ok ∧ kd ≠ .ar ∧ q.c.toNat % m.n ≠ 0 then s.trapAt x rangeOperand
              else
                let s := (s.clearDisc x.c).collStart x.c.blk b q m
                match s.ctxs.find? x.cid with | some c => s.retire x (c.passGate true) | none => s)

/-! ### Progress -/

/-- This participant's contribution has been read: the other members are sent what they need, and its report follows (R331). -/
def State.collGathered (s : State) (x : Coll) (own : List Byte) : State :=
  let x := { x with readOwn := true, data := x.data.put x.rank own }
  let s := (List.range x.members.length).foldl (fun s i => s.tellRank x i (.collData x.id x.rank x.par (x.share i))) s
  s.collReport x

/-- HA_READ for a collective: a run of its own contribution, once the thread's earlier writes to it have been performed (R112, R331). -/
def State.collReadStep (s : State) (rid id : Nat) (r : Req) (o : EOp) (pace : Pace) : Option (State × HaRes) :=
  match s.eng.colls.find? (fun x => x.op = some id) with
  | none => none
  | some x =>
    let (lo, hi) := x.ownRange
    let off := lo + r.va
    let ptr := o.a.toNat + off
    let n := Nat.min (hi - off) (128 - ptr % 128)
    if r.lane ≠ 0 || s.stillWrites o.cid x.issue o.asid (bits ptr 0 56) n then none
    else match s.engReach id r o ptr n pace .rd with
      | none => none
      | some (s, .ok v g, asid, va) =>
        (match s.engBad ptr asid va with
         | some (q, l) => some (s.collFault id x (.poison, q, 0, BitVec.ofNat 64 ptr) 0 l, .ok 0 0)
         | none =>
           let o := { o with src := o.src ++ leBytes n v }
           let s := s.setOp id o
           if off + n < hi then some (s.goOn rid r 0 (r.va + n), .ok v g)
           else some ((s.goOn rid r 2 r.va).collGathered x o.src, .ok v g))
      | some (s, .fault c q l aux, _, _) => some (s.collFault id x (c, q, l, BitVec.ofNat 64 ptr) aux none, .ok 0 0)
      | some (s, h, _, _) => some (s, h)

/-- HA_WRITE for the signal store, once the results are visible (R333). -/
def State.collSignal (s : State) (id : Nat) (r : Req) (o : EOp) (pace : Pace) : Option (State × HaRes) :=
  if r.lane ≠ 3 ∨ s.pt < o.g then none
  else match o.sigv with
    | none => none
    | some v =>
      match s.engReach id r o o.e.toNat 8 pace (.wr (leBytes 8 v.toNat)) with
      | none => none
      | some (s, .ok w g, _, _) => some ((s.setOp id { o with g := Nat.max o.g g, sigv := none }).engDone id none, .ok w g)
      | some (s, .fault c q l aux, _, _) =>
        let f : Cause × Nat × Nat × BitVec 64 := (c, q, l, o.e)
        some ((s.setOp id { o with sigv := none, bad := match o.bad with | some b => some b | none => some (0, f),
                                   aux := if o.bad.isSome then o.aux else aux }).engDone id none, .ok 0 0)
      | some (s, h, _, _) => some (s, h)

/-- The writes of a collective that has committed: its results, and free bytes where its bucket is undefined (R328). -/
def State.collResults (s : State) (id : Nat) (x : Coll) : State :=
  match s.eng.ops.find? id with
  | none => s
  | some o =>
    let z := collBytes x.ct
    let (s, rest) : State × List (Nat × List Byte × Bool) := match x.kd with
      | .rs =>
        let (a, b) := x.chunkOf x.rank
        let (s, lo) := s.drawBytes (a * z)
        let (s, hi) := s.drawBytes ((x.ne - b) * z)
        (s, ((if lo = [] then [] else [(0, lo, false)]) ++ (if hi = [] then [] else [(b * z, hi, false)])))
      | _ => (s, [])
    let o := { o with outq := x.pieces.map (fun p => (p.1, p.2, false)) ++ rest,
                      sigv := if bitOf o.imm.toNat 12 then some o.e2 else none }
    let s := { s with ms := { s.ms with reqs := s.ms.reqs.filter (fun p => decide (p.2.kind ≠ ReqKind.engine id)) } }
    (s.setOp id o).engReq id o 1

/-! ### Events -/

/-- The bytes of data held for collectives not issued here (R332). -/
def State.stagedBytes (s : State) : Nat :=
  s.eng.colls.foldl (fun n x => if x.op.isSome then n else n + (x.data.map (fun p => p.2.length)).foldl (· + ·) 0) 0

/-- A collective as this package names it, or the qualifier of a refusal (R327, R419, R420): the first enabled window whose source package
and source device agree with the traffic admits it, and names the local device. from_ gives the sender's package, where it is known, for
what the collective is called here. -/
def State.collHere (s : State) (c : CollId) (from_ : CollId → Option (Nat × Nat)) : Except Nat CollId :=
  let here (w : Nat) : CollId := { c with vdev := bits w 32 6 }
  match ((List.range 256).map (fun e => s.fwinW e 0)).find? (fun w => bitOf w 0 && bits w 24 6 = c.vdev &&
    (bitOf w 18 || match from_ (here w) with | some (r, k) => bits w 8 5 = r && bits w 13 5 = k | none => true)) with
  | none => .error qGrant
  | some w => if bitOf w 2 then .ok (here w) else .error qKind

/-- The package of a member of a collective, as far as it is known here. -/
def State.memberAt (s : State) (rank : Nat) (c : CollId) : Option (Nat × Nat) := (s.coll? c).bind (fun x => x.members[rank]?)

/-- Collective traffic refused: its sender is told, with the fault (R420). -/
def State.collRefuse (s : State) (c : CollId) (src : Option (Nat × Nat)) (q : Nat) : State :=
  match src with
  | some dst => s.tell dst (.collRefused c .perm (remote q))
  | none => s

/-- COLL_DATA (R330 to R332): another member's contribution arrives, with what its collective is; before the issue it is held in
staging, and flow control keeps it back while there is no room. What no window admits is refused and its sender told (R420). A datum
of a rank that it cannot have here shows that the records differ. -/
def execCollData (c : CollId) (rank : Nat) (m : CollMsg) (s : State) : Out :=
  let p := m.par
  let data := m.data
  let full : Bool := s.fld engB 0 1 = 0 || decide (s.fld (engB + 8) 0 16 * 2 ^ 21 < s.stagedBytes + data.length)
  match s.collHere c (fun _ => p.members[rank]?) with
  | .error q => .next (s.collRefuse c p.members[rank]? q)
  | .ok c =>
    match s.coll? c with
    | some x =>
      if x.decided.isSome then .next s
      else if x.op.isSome then
        (if x.members.length ≤ rank ∨ rank = x.rank then
           (if p = x.par then .refused (.notEnabled "COLL_DATA") else .next (s.collReport { x with pars := x.pars.put rank p }))
         else .next (s.collReport { x with data := x.data.put rank data, pars := x.pars.put rank p }))
      else if full then .refused (.notEnabled "COLL_DATA")
      else .next (s.setColl { x with data := x.data.put rank data, pars := x.pars.put rank p })
    | none =>
      if !s.collAhead c then .next s
      else if full then .refused (.notEnabled "COLL_DATA")
      else .next (s.setColl { (collBlank c) with data := [(rank, data)], pars := [(rank, p)] })

/-- A member's ready report at rank 0 (R331). -/
def State.collReadyAt (s : State) (c : CollId) (rank : Nat) : Out :=
  match s.coll? c with
  | some x =>
    if x.op.isNone ∨ x.rank ≠ 0 ∨ rank = 0 ∨ x.members.length ≤ rank then .refused (.notEnabled "COLL_READY")
    else if x.decided.isSome ∨ x.ready.contains rank then .next s
    else .next (s.setColl { x with ready := x.ready ++ [rank] })
  | none => if s.collAhead c then .refused (.notEnabled "COLL_READY") else .next s

/-- COLL_READY (R331): a member's ready report reaches rank 0 through the windows (R420). -/
def execCollReady (c : CollId) (rank : Nat) (s : State) : Out :=
  match s.collHere c (s.memberAt rank) with
  | .error q => .next (s.collRefuse c (s.memberAt rank c) q)
  | .ok d => s.collReadyAt d rank

/-- A commit at this participant: at rank 0 once it holds every ready report before its deadline and nothing aborts the collective, and every
member is told; elsewhere once it has reported. Results are written only now (R331). -/
def State.collCommitAt (s : State) (c : CollId) : Out :=
  match s.coll? c with
  | some x =>
    let can : Bool := x.rank ≠ 0 || (x.abort.isNone && decide (s.pt < x.issue + x.deadline)
      && (List.range x.members.length).all (fun i => x.ready.contains i))
    if s.collOpen x && x.said && can then
      (match x.op with
       | some id =>
         let s := if x.rank = 0 then s.tellAll x (.collDecision c none) else s
         .next ((s.setColl { x with decided := some none }).collResults id x)
       | none => .refused (.notEnabled "COLL_COMMIT"))
    else .refused (.notEnabled "COLL_COMMIT")
  | none => .refused (.notEnabled "COLL_COMMIT")

/-- The collective is one whose rank 0 this package holds, and has issued. -/
def State.collLeads (s : State) (c : CollId) : Bool := match s.coll? c with | some x => x.op.isSome && x.rank = 0 | none => false

/-- COLL_COMMIT (R331): rank 0 commits, or its decision arrives at another participant through the windows (R420). -/
def execCollCommit (c : CollId) (s : State) : Out :=
  if s.collLeads c then s.collCommitAt c
  else match s.collHere c (s.memberAt 0) with
    | .error q => .next (s.collRefuse c (s.memberAt 0 c) q)
    | .ok d => s.collCommitAt d

/-- The collective ends in an abort at this participant, or the abort is kept for its issue (R331). Rank 0 tells every member. -/
def State.collDecide (s : State) (x : Coll) (qual : Nat) : State :=
  let opened := s.collOpen x
  let s := s.setColl { x with decided := some (some qual), data := if x.op.isSome then x.data else [] }
  let s := if x.op.isSome ∧ x.rank = 0 then s.tellAll x (.collDecision x.id (some qual)) else s
  match x.op with
  | some id => if opened then s.collAbort id qual x.seq x.cid else s
  | none => s

/-- A decision to abort at this participant: rank 0's on what it holds, or that of rank 0 at a member, issued or not (R331). -/
def State.collAbortAt (s : State) (c : CollId) (qual : Nat) : Out :=
  match s.coll? c with
  | some x =>
    if x.decided.isSome ∨ 4 < qual then .refused (.notEnabled "COLL_ABORT_DECISION")
    else if x.op.isSome ∧ x.rank = 0 ∧ x.abort ≠ some qual then .refused (.notEnabled "COLL_ABORT_DECISION")
    else .next (s.collDecide x qual)
  | none =>
    if 4 < qual then .refused (.notEnabled "COLL_ABORT_DECISION")
    else if s.collAhead c then .next (s.collDecide (collBlank c) qual) else .next s

/-- COLL_ABORT_DECISION (R331): rank 0 aborts, or its decision arrives at another participant through the windows (R420). -/
def execCollAbortDecision (c : CollId) (qual : Nat) (s : State) : Out :=
  if s.collLeads c then s.collAbortAt c qual
  else match s.collHere c (s.memberAt 0) with
    | .error q => .next (s.collRefuse c (s.memberAt 0 c) q)
    | .ok d => s.collAbortAt d qual

/-- COLL_ABORT_REQUEST (R330, R331): an abort request, mismatch or fault report reaches rank 0's package through the windows (R420), which
takes it whether or not rank 0 has issued. Which member sent one that no window admits is not known here (log entry 37). -/
def execCollAbortRequest (c : CollId) (qual : Nat) (s : State) : Out :=
  if 4 < qual then .refused (.notEnabled "COLL_ABORT_REQUEST")
  else match s.collHere c (fun _ => none) with
  | .error _ => .next s
  | .ok c =>
    match s.coll? c with
    | some x =>
      if x.decided.isSome then .next s
      else if x.op.isNone then .next (s.collDecide x qual)
      else if x.rank ≠ 0 then .refused (.notEnabled "COLL_ABORT_REQUEST")
      else .next (s.setColl (x.blame qual))
    | none => if s.collAhead c then .next (s.collDecide (collBlank c) qual) else .next s

/-- COLL_DEADLINE (R331): rank 0 aborts; another participant asks it to, once. -/
def execCollDeadline (c : CollId) (s : State) : Out :=
  match s.coll? c with
  | some x =>
    if !s.collOpen x || decide (s.pt < x.issue + x.deadline) || x.asked || x.abort.isSome then .refused (.notEnabled "COLL_DEADLINE")
    else if x.rank = 0 then .next (s.setColl (x.blame 0))
    else .next ((s.setColl { x with asked := true }).tellRank x 0 (.collRequest c 0))
  | none => .refused (.notEnabled "COLL_DEADLINE")

/-- COLL_NODECISION (R331): no decision of rank 0 by twice the deadline; the participant aborts alone. -/
def execCollNodecision (c : CollId) (s : State) : Out :=
  match s.coll? c with
  | some x =>
    if !s.collOpen x || x.rank = 0 || decide (s.pt < x.issue + 2 * x.deadline) then .refused (.notEnabled "COLL_NODECISION")
    else .next (s.collDecide x 5)
  | none => .refused (.notEnabled "COLL_NODECISION")

/-! ### What else ends or spoils a collective -/

/-- The operations of a killed queue leave their collectives: unless a decision has come, rank 0 aborts with KILLED and tells every member, and
another participant asks it to (R331, R346). -/
def State.collKill (s : State) (dead : Nat → Bool) : State :=
  s.eng.colls.foldl (fun s x => match x.op with
    | some id =>
      if !dead id then s
      else
        let s := if x.decided.isSome then s
          else if x.rank = 0 then s.tellAll x (.collDecision x.id (some 4)) else s.tellRank x 0 (.collRequest x.id 4)
        { s with eng := { s.eng with colls := s.eng.colls.filter (fun y => y.op ≠ some id) } }
    | none => s) s

/-- A member has refused this participant's traffic: it counts out with the fault and rank 0 learns of it (R420). -/
def State.collRefusal (s : State) (c : CollId) (cause : Cause) (qual : Nat) : State :=
  match s.coll? c with
  | some x => (match x.op with
    | some id =>
      if s.collOpen x then
        (match s.eng.ops.find? id with | some o => s.collFault id x (cause, remote qual, 0, o.a) 0 none | none => s)
      else s
    | none => s)
  | none => s

/-- Another participant has written its named buffer of a collective in flight: this one's is undefined too (R112). -/
def State.collSpoil (s : State) (c : CollId) : State :=
  match (s.coll? c).bind (·.op) with
  | some id => (match s.eng.ops.find? id with | some o => s.setOp id { o with spoiled := true } | none => s)
  | none => s

end Sys2Proof.Machine
end

