-- ==== Sys2Proof/Machine/Int.lean ====
section
/-! DEFINITION. Class 000: integers, bits, predicates, index descriptors and register segments (R229 to R247). -/

namespace Sys2Proof.Machine

/-- A source read as an integer of the type (R210, R230). -/
def Iss.int (x : Iss) (s : State) (l : Nat) (t : Ty) (op : Operand) : Int := intVal t t.width (x.rd s l t.width (extOf t) op)

/-- A result of the type's width written to D (R230). -/
def Iss.put (x : Iss) (l : Nat) (t : Ty) (v : Nat) : List RW := x.wr l t.width t.signed v

/-- add: d := Fit(a + b) (R232). -/
def execAdd (o : Opr) (t : Ty) (sat : Bool) (s : State) : Out :=
  s.lanewise (.add o t sat) (fun s x l => x.put l t (fit t sat (x.int s l t .a + x.int s l t .b)))

/-- sub: d := Fit(a − b) (R232). -/
def execSub (o : Opr) (t : Ty) (sat : Bool) (s : State) : Out :=
  s.lanewise (.sub o t sat) (fun s x l => x.put l t (fit t sat (x.int s l t .a - x.int s l t .b)))

/-- mul: d := Fit(a × b) (R232). -/
def execMul (o : Opr) (t : Ty) (sat : Bool) (s : State) : Out :=
  s.lanewise (.mul o t sat) (fun s x l => x.put l t (fit t sat (x.int s l t .a * x.int s l t .b)))

/-- mulhi: the high half of the exact product (R232). -/
def execMulhi (o : Opr) (t : Ty) (s : State) : Out :=
  s.lanewise (.mulhi o t) (fun s x l => x.put l t (wrap t.width (x.int s l t .a * x.int s l t .b / ((2 ^ t.width : Nat) : Int))))

/-- mad: d := Fit(a × b + c), one exact sum (R232). -/
def execMad (o : Opr) (t : Ty) (sat : Bool) (s : State) : Out :=
  s.lanewise (.mad o t sat) (fun s x l => x.put l t (fit t sat (x.int s l t .a * x.int s l t .b + x.int s l t .c)))

/-- div: the quotient towards zero (R233); variable-latency. -/
def execDiv (o : Opr) (t : Ty) (s : State) : Out :=
  s.lanewiseVar (.div o t) (fun s x l => x.put l t (wrap t.width (divVal t (x.int s l t .a) (x.int s l t .b))))

/-- rem: the remainder with the dividend's sign (R233); variable-latency. -/
def execRem (o : Opr) (t : Ty) (s : State) : Out :=
  s.lanewiseVar (.rem o t) (fun s x l => x.put l t (wrap t.width (remVal (x.int s l t .a) (x.int s l t .b))))

/-- min (R232). -/
def execMin (o : Opr) (t : Ty) (s : State) : Out :=
  s.lanewise (.min o t) (fun s x l => x.put l t (wrap t.width (if x.int s l t .a ≤ x.int s l t .b then x.int s l t .a else x.int s l t .b)))

/-- max (R232). -/
def execMax (o : Opr) (t : Ty) (s : State) : Out :=
  s.lanewise (.max o t) (fun s x l => x.put l t (wrap t.width (if x.int s l t .b ≤ x.int s l t .a then x.int s l t .a else x.int s l t .b)))

/-- abs: d := Fit(|a|) (R232). -/
def execAbs (o : Opr) (t : Ty) (sat : Bool) (s : State) : Out :=
  s.lanewise (.abs o t sat) (fun s x l => x.put l t (fit t sat ((x.int s l t .a).natAbs : Int)))

/-- neg: d := Fit(−a) (R232). -/
def execNeg (o : Opr) (t : Ty) (sat : Bool) (s : State) : Out :=
  s.lanewise (.neg o t sat) (fun s x l => x.put l t (fit t sat (-(x.int s l t .a))))

/-- and (R234). -/
def execAnd (o : Opr) (t : Ty) (s : State) : Out :=
  s.lanewise (.and o t) (fun s x l => x.put l t (x.rd s l t.width .zero .a &&& x.rd s l t.width .zero .b))

/-- or (R234). -/
def execOr (o : Opr) (t : Ty) (s : State) : Out :=
  s.lanewise (.or o t) (fun s x l => x.put l t (x.rd s l t.width .zero .a ||| x.rd s l t.width .zero .b))

/-- xor (R234). -/
def execXor (o : Opr) (t : Ty) (s : State) : Out :=
  s.lanewise (.xor o t) (fun s x l => x.put l t (x.rd s l t.width .zero .a ^^^ x.rd s l t.width .zero .b))

/-- not (R234). -/
def execNot (o : Opr) (t : Ty) (s : State) : Out :=
  s.lanewise (.not o t) (fun s x l => x.put l t (2 ^ t.width - 1 - x.rd s l t.width .zero .a))

/-- shl by the whole 32-bit count (R234). -/
def execShl (o : Opr) (t : Ty) (s : State) : Out :=
  s.lanewise (.shl o t) (fun s x l => x.put l t (shlVal t.width (x.rd s l t.width .zero .a) (x.rd s l 32 .zero .b)))

/-- shr by the whole 32-bit count (R234). -/
def execShr (o : Opr) (t : Ty) (s : State) : Out :=
  s.lanewise (.shr o t) (fun s x l => x.put l t (shrVal t.width (x.rd s l t.width .zero .a) (x.rd s l 32 .zero .b)))

/-- sar by the whole 32-bit count (R234). -/
def execSar (o : Opr) (t : Ty) (s : State) : Out :=
  s.lanewise (.sar o t) (fun s x l => x.put l t (sarVal t.width (x.rd s l t.width .zero .a) (x.rd s l 32 .zero .b)))

/-- rol by the whole 32-bit count (R234). -/
def execRol (o : Opr) (t : Ty) (s : State) : Out :=
  s.lanewise (.rol o t) (fun s x l => x.put l t (rolVal t.width (x.rd s l t.width .zero .a) (x.rd s l 32 .zero .b)))

/-- ror by the whole 32-bit count (R234). -/
def execRor (o : Opr) (t : Ty) (s : State) : Out :=
  s.lanewise (.ror o t) (fun s x l => x.put l t (rorVal t.width (x.rd s l t.width .zero .a) (x.rd s l 32 .zero .b)))

/-- bfx: a field extracted (R236). -/
def execBfx (o : Opr) (t : Ty) (s : State) : Out :=
  s.lanewise (.bfx o t) (fun s x l => x.put l t (bfxVal t (x.rd s l t.width (extOf t) .a) (x.rd s l 32 .zero .b)))

/-- bfi: a field inserted (R236). -/
def execBfi (o : Opr) (t : Ty) (s : State) : Out :=
  s.lanewise (.bfi o t) (fun s x l => x.put l t (bfiVal t.width (x.rd s l t.width .zero .a) (x.rd s l t.width .zero .b) (x.rd s l 32 .zero .c)))

/-- popc: the number of 1 bits, in 32 bits (R235). -/
def execPopc (o : Opr) (t : Ty) (s : State) : Out :=
  s.lanewise (.popc o t) (fun s x l => x.wr l 32 false (popcVal t.width (x.rd s l t.width .zero .a)))

/-- clz: the 0 bits above the highest 1 bit (R235). -/
def execClz (o : Opr) (t : Ty) (s : State) : Out :=
  s.lanewise (.clz o t) (fun s x l => x.wr l 32 false (clzVal t.width (x.rd s l t.width .zero .a)))

/-- ctz: the 0 bits below the lowest 1 bit (R235). -/
def execCtz (o : Opr) (t : Ty) (s : State) : Out :=
  s.lanewise (.ctz o t) (fun s x l => x.wr l 32 false (ctzVal t.width (x.rd s l t.width .zero .a)))

/-- brev: the bits reversed (R235). -/
def execBrev (o : Opr) (t : Ty) (s : State) : Out :=
  s.lanewise (.brev o t) (fun s x l => x.put l t (brevVal t.width (x.rd s l t.width .zero .a)))

/-- sel: a when c is not zero, else b (R237). -/
def execSel (o : Opr) (t : Ty) (s : State) : Out :=
  s.lanewise (.sel o t) (fun s x l => x.put l t (if x.rd s l 32 .zero .c ≠ 0 then x.rd s l t.width .zero .a else x.rd s l t.width .zero .b))

/-- mov: a copy, or a saturating conversion for the 8-bit and 16-bit types (R238, R240). -/
def execMov (o : Opr) (t : Ty) (s : State) : Out :=
  s.lanewise (.mov o t) (fun s x l => x.put l t (movVal t (x.rd s l t.width (extOf t) .a)))

/-- lea: a + Ext(b) × 2^k modulo 2^64 (R239). -/
def execLea (o : Opr) (t : Ty) (sh : BitVec 3) (s : State) : Out :=
  s.lanewise (.lea o t sh) (fun s x l => x.wr l 64 false (wrap 64 ((x.rd s l 64 (extOf t) .a : Nat) + intVal t 32 (x.rd s l 32 (extOf t) .b) * ((2 ^ sh.toNat : Nat) : Int))))

/-- cmp: 1 when the condition holds, else 0 (R241). -/
def execCmp (o : Opr) (t : Ty) (cc : Cond) (s : State) : Out :=
  s.lanewise (.cmp o t cc) (fun s x l => x.wr l 32 t.signed (bit (cc.holds (x.int s l t .a) (x.int s l t .b))))

/-- A source of predicate logic: true when not zero (R242). -/
def Iss.truth (x : Iss) (s : State) (l : Nat) (op : Operand) : Bool := decide (x.rd s l 32 .zero op ≠ 0)

/-- pand (R242). -/
def execPand (o : Opr) (nb : Bool) (s : State) : Out :=
  s.lanewise (.pand o nb) (fun s x l => x.wr l 32 false (bit (x.truth s l .a && (x.truth s l .b != nb))))

/-- por (R242). -/
def execPor (o : Opr) (nb : Bool) (s : State) : Out :=
  s.lanewise (.por o nb) (fun s x l => x.wr l 32 false (bit (x.truth s l .a || (x.truth s l .b != nb))))

/-- pxor (R242). -/
def execPxor (o : Opr) (nb : Bool) (s : State) : Out :=
  s.lanewise (.pxor o nb) (fun s x l => x.wr l 32 false (bit (x.truth s l .a != (x.truth s l .b != nb))))

/-- pnot (R242). -/
def execPnot (o : Opr)  (s : State) : Out :=
  s.lanewise (.pnot o ) (fun s x l => x.wr l 32 false (bit (!x.truth s l .a)))

/-- The index register that an operand names directly (R243). -/
def Opnd.ixNum : Opnd → Nat
  | .ix m => m.toNat
  | _ => 0

/-- ixset: ixm := a, all 32 bits (R243, R244). -/
def execIxset (o : Opr) (s : State) : Out :=
  s.issue (.ixset o) false (fun s x => s.retire x ((lanesOf x.part).foldl
    (fun c l => c.wix l (Opnd.ixNum o.d) (BitVec.ofNat 32 (x.rd s l 32 .zero .a))) x.c))

/-- ixinc: IDX moves by the signed low byte of a, modulo 256 (R243). -/
def ixIncVal (d a : Nat) : Nat := putBits d 16 8 (wrap 8 ((bits d 16 8 : Nat) + sx 8 (a % 256)))

/-- ixinc (R243, R244). -/
def execIxinc (o : Opr) (s : State) : Out :=
  s.issue (.ixinc o) false (fun s x => s.retire x ((lanesOf x.part).foldl
    (fun c l => c.wix l (Opnd.ixNum o.d)
      (BitVec.ofNat 32 (ixIncVal (x.c.rix l (Opnd.ixNum o.d)).toNat (x.rd s l 32 .zero .a)))) x.c))

/-- ixget: d := ixm (R243). -/
def execIxget (o : Opr) (s : State) : Out :=
  s.lanewise (.ixget o) (fun s x l => x.wr l 32 false (x.rd s l 32 .zero .a))

/-! ### Register segments -/

/-- The block holds its registers and buffers on its core. -/
def Block.onCore (b : Block) : Bool := match b.st with | .resident | .saving _ => true | _ => false

/-- Granules of a core that no group holds: those of a group that has ended are free (R153, R176, R246). -/
def State.freeGranules (s : State) (cluster core : Nat) : Nat :=
  256 - (s.blocks.foldl (fun n p =>
    let b := p.2
    if b.cluster = cluster ∧ b.core = core ∧ b.onCore then
      n + (List.range b.ngrp).foldl (fun m g => match s.ctxs.find? (ctxKey p.1 g) with
        | some c => if c.alive = 0 then m else m + c.seg | none => m) 0
    else n) 0)

/-- The segment's registers at or above a granule are lost (R176, R247). -/
def Ctx.cutSegment (c : Ctx) (g : Nat) : Ctx :=
  { c with seg := g, v := c.v.filter (fun p => p.1 % 256 < 32 * g) }

/-- The predicate writes of the participating lanes. -/
def Iss.predWrites (x : Iss) (b : Bool) : List RW := x.laneWrites (fun l => x.wr l 32 false (bit b))

/-- rgrow: completes at once when nothing is asked or more than 8, else waits for granules (R176, R245, R246). -/
def execRgrow (o : Opr) (s : State) : Out :=
  s.issue (.rgrow o) false (fun s x =>
    if x.c.rgrow.isSome then s.holdAs x (.held 2)
    else
      let want := x.rd s (lowest x.part) 32 .zero .a
      if want ≤ x.c.seg then s.retire x (x.c.applyAll (x.predWrites true))
      else if 8 < want then s.retire x (x.c.applyAll (x.predWrites false))
      else
        let pn := match o.d with | .pred n => n.toNat | _ => 7
        let c := x.c.flagUp x.flag
        s.retire x { c with rgrow := some { want := want, part := x.part, pred := pn, flag := x.flag, since := s.pt } })

/-- rshrink: releases granules at once (R176, R245, R247). -/
def execRshrink (o : Opr) (s : State) : Out :=
  s.issue (.rshrink o) false (fun s x =>
    if x.c.rgrow.isSome then s.holdAs x (.held 2)
    else
      let want := x.rd s (lowest x.part) 32 .zero .a
      let ok : Bool := decide (1 ≤ want ∧ want < x.c.seg)
      let c := x.c.applyAll (x.predWrites ok)
      s.retire x (if ok then c.cutSegment want else c))

end Sys2Proof.Machine
end

