-- ==== Sys2Proof/Machine/Matrix.lean ====
section
/-! DEFINITION. The matrix array (R212, R213, R223 to R225, R286 to R306): address records, operand reads, steps, stopping
part-way and restarting, and the accumulator instructions. -/

namespace Sys2Proof.Machine

/-! ### The address record (R290) -/

/-- The record as one number: s(8k) lowest. -/
def Iss.arec (x : Iss) : Nat :=
  match x.o.a with
  | .s n => (List.range 8).foldl (fun a j => a + (x.c.rs (n.toNat + j)).toNat * 2 ^ (64 * j)) 0
  | _ => 0

/-- The matrix instructions. -/
inductive MKind where
  | mma | mmas (mx : Bool) | mmx | mmt
  deriving DecidableEq, Repr

/-- Stored width of a format in bits (R206, R291). -/
def mfBits : MFmt → Nat
  | .e2m1 => 4 | .bf16 | .f16 | .s16 => 16 | _ => 8

/-- The instruction takes MX scales. -/
def MKind.mx : MKind → Bool
  | .mmas m => m | .mmx => true | _ => false

/-- Its B operand is 2:4 compressed. -/
def MKind.sparse : MKind → Bool
  | .mmas _ => true | _ => false

/-- K-block size (R291). -/
def MKind.kblock (k : MKind) : Nat := if k.mx then 32 else 64

/-- KT of R118. -/
def ktOf (f : MFmt) : Nat := 2048 / (mfBits f)

/-- KD of R291. -/
def MKind.kd (k : MKind) (fb : MFmt) : Nat :=
  match k with | .mmt => 1024 | .mmas _ => 2 * ktOf fb | _ => ktOf fb

/-- Fields of the record. -/
structure ARec where
  aptr : Nat
  stride : Nat
  m : Nat
  row0 : Nat
  kb : Nat
  asc : Nat
  bsc : Nat
  extra : Nat
  seq : Nat
  cpos0 : Nat
  kstr : Nat
  koff : Nat
  ts0 : Nat
  qn0 : Nat
  cmode : Bool
  deriving DecidableEq, Repr

/-- The record's fields. -/
def arecOf (v : Nat) : ARec :=
  { aptr := bits v 0 64, stride := bits v 64 32, m := bits v 96 7, row0 := bits v 103 6, kb := bits v 109 5,
    asc := bits v 128 64, bsc := bits v 192 64, extra := bits v 256 64, seq := bits v 256 32, cpos0 := bits v 288 32,
    kstr := bits v 320 16, koff := bits v 336 16, ts0 := bits v 352 8, qn0 := bits v 360 8, cmode := bits v 368 1 = 1 }

/-- The record satisfies R290 and R291 for the instruction. -/
def arecOk (k : MKind) (fb : MFmt) (v : Nat) : Bool :=
  let r := arecOf v
  let used : Bool := match k with
    | .mma => bits v 128 241 = 0
    | .mmas false => bits v 128 128 = 0 && bits v 320 49 = 0
    | .mmas true => bits v 320 49 = 0
    | .mmx => bits v 256 113 = 0
    | .mmt => r.kstr % 16 = 0 && r.kstr ≠ 0 &&
        (if r.cmode then r.seq = 0 && r.cpos0 = 0 && r.koff = 0 else r.ts0 = 0 && r.cpos0 + 63 ≤ 0xFFFFFFFF)
  used && bits v 114 14 = 0 && bits v 369 143 = 0 && r.stride % 16 = 0 && 1 ≤ r.m && r.m ≤ 64 && r.row0 + r.m ≤ 64
    && 1 ≤ r.kb && r.kb ≤ 16 && r.kb * k.kblock ≤ k.kd fb

/-! ### Operand reads through the MA load pipes -/

/-- The bytes already read, by global line or ASP word, of one instruction. -/
abbrev MaMemo := SMap (List Byte)

/-- The fault of an operand read: where and what. -/
structure MaFault where
  addr : Nat
  cause : Cause
  qual : Nat
  level : Nat
  aux : BitVec 64
  deriving DecidableEq, Repr

/-- What the reads of a step come to. -/
structure MaRead where
  s : State
  memo : MaMemo
  faults : List MaFault := []
  hold : Bool := false

/-- The pieces of a span, each within a line of 128 bytes or a bank word of 16: pointer and length. -/
def piecesOf (unit : Nat) : Nat → Nat → Nat → List (Nat × Nat)
  | 0, _, _ => []
  | f + 1, p, n =>
    if n = 0 then []
    else
      let k := Nat.min n (unit - p % unit)
      (p, k) :: piecesOf unit f (p + k) (n - k)

/-- The issuing thread as the state has it, after reads that have counted misses. -/
def Iss.again (x : Iss) (s : State) : Iss := { x with c := (s.ctxs.find? x.cid).getD x.c }

/-- A read of the cox finds no live L1D copy: a miss of its block (R345). -/
def State.missesL1 (s : State) (x : Iss) (space va : Nat) : Bool :=
  (space = 0 || space = 1) && (s.copyHit .l1 (s.coreOf x.cid) x.c.asid va).isNone

/-- A miss counted. -/
def State.countMiss (s : State) (cid : Nat) : State :=
  match s.ctxs.find? cid with | some c => s.setCtx cid (c.countUp 3 1) | none => s

/-- One piece read for the cox, unless an earlier step has read its line: a relaxed load of the cox of the whole line or bank word, after its
own earlier writes there (R74, R100, R107, R289). -/
def MaRead.piece (r : MaRead) (x : Iss) (blk : Block) (ptr n : Nat) : MaRead :=
  if bits ptr 60 4 = 4 then
    let o := bits ptr 0 21
    let key := 2 ^ 60 + o / 16
    if (r.memo.find? key).isSome then r
    else if r.s.ms.reqs.any (fun p => p.2.cid = x.cid && p.2.space = 4 && p.2.open_ && p.2.kind.writes
        && meet (4, p.2.va, p.2.size) (4, o / 16 * 16, 16)) then
      { r with hold := true }
    else if blk.aspPoison o n then { r with faults := r.faults ++ [⟨ptr, .poison, 2, 0, 0⟩] }
    else { r with memo := r.memo.put key ((List.range 16).map (fun i => SMap.get 0 blk.asp (o / 16 * 16 + i))) }
  else
    let va := bits ptr 0 56
    let line := va / 128 * 128
    if (r.memo.find? line).isSome then r
    else if r.s.writesOpen x.cid line 128 then { r with hold := true }
    else
      let miss := r.s.missesL1 x (bits ptr 60 4) line
      let q : Req := { cid := x.cid, lane := 0, kind := .load, space := bits ptr 60 4, va := line, size := 128, asid := x.c.asid,
                       dev := x.c.dev, priv := false, die := r.s.dieOf x.cid, core := r.s.coreOf x.cid, since := r.s.pt }
      match r.s.performPart q line 128 .inline .rd with
      | (s, .ok v _) => { r with s := if miss then s.countMiss x.cid else s, memo := r.memo.put line (leBytes 128 v) }
      | (s, .fault c ql l aux) => { r with s := s, faults := r.faults ++ [⟨ptr, c, ql, l, aux⟩] }
      | (s, _) => { r with s := s, hold := true }

/-- A span read. -/
def MaRead.span (r : MaRead) (x : Iss) (blk : Block) (ptr n : Nat) : MaRead :=
  let unit := if bits ptr 60 4 = 4 then 16 else 128
  (piecesOf unit (n / unit + 2) ptr n).foldl (fun r p => r.piece x blk p.1 p.2) r

/-- A byte that has been read. -/
def MaMemo.byte (m : MaMemo) (ptr : Nat) : Byte :=
  if bits ptr 60 4 = 4 then ((SMap.get [] m (2 ^ 60 + bits ptr 0 21 / 16))[bits ptr 0 21 % 16]?).getD 0
  else ((SMap.get [] m (bits ptr 0 56 / 128 * 128))[bits ptr 0 56 % 128]?).getD 0

/-- The bytes at a pointer, as a number. -/
def memoNat (m : MaMemo) (ptr n : Nat) : Nat := leNat ((List.range n).map (fun i => MaMemo.byte m (ptr + i)))

/-! ### Elements (R293, R294) -/

/-- The value of an element in float mode; an .s8 element of an MX instruction is q / 64 (R208, R291). -/
def mfVal (f : MFmt) (x : Nat) : FV :=
  match f with
  | .e4m3 => e4m3F.val x | .e5m2 => e5m2F.val x | .e3m2 => e3m2F.val x | .e2m3 => e2m3F.val x | .e2m1 => e2m1F.val x
  | .bf16 => bf16F.val x | .f16 => f16F.val x
  | .s8 => .fin (decide (sx 8 x < 0)) (sx 8 x).natAbs (-6)
  | .s16 => .fin (decide (sx 16 x < 0)) (sx 16 x).natAbs 0

/-- The formats of integer mode (R291). -/
def mfInt : MFmt → Bool
  | .s8 | .s16 => true
  | _ => false

/-- The instruction updates its tile in integer mode. -/
def intMode (k : MKind) (fa : MFmt) : Bool := (mfInt fa) && !k.mx

/-- Element k of a row or column of packed elements that starts at a bit of a number's byte run. -/
def elemBits (f : MFmt) (byte : Nat → Byte) (k : Nat) : Nat :=
  match (mfBits f) with
  | 4 => (byte (k / 2)).toNat / 16 ^ (k % 2) % 16
  | 16 => (byte (2 * k)).toNat + (byte (2 * k + 1)).toNat * 256
  | _ => (byte k).toNat % 2 ^ (match f with | .e3m2 | .e2m3 => 6 | _ => 8)

/-- A matrix instruction at issue. -/
structure MJob where
  k : MKind
  fa : MFmt
  fb : MFmt
  tile : Nat
  z : Bool
  r : ARec
  /-- Cell byte of the named tile. -/
  cell : Nat → Byte
  /-- Key pointer of a column, none where no row sees it. -/
  key : Nat → Option Nat
  /-- The residency that the cells belong to. -/
  rsd : Option Nat := none
  /-- The element (m, n) is masked (R295). -/
  masked : Nat → Nat → Bool

/-- The pairs of dense position and compressed element of a column for one K-block under 2:4 (R294). -/
def MJob.sparseAt (j : MJob) (memo : MaMemo) (n b : Nat) : List (Nat × Nat) :=
  let kt := ktOf j.fb
  let groups := j.k.kblock / 4
  (List.range groups).flatMap (fun i =>
    let g := b * groups + i
    let byte := (MaMemo.byte memo (j.r.extra + n * (kt / 4) + g / 2)).toNat
    let nib := byte / 16 ^ (g % 2) % 16
    [(4 * g + nib % 4, 2 * g), (4 * g + nib / 4, 2 * g + 1)])

/-- B element bits at a compressed or dense index of a column. -/
def MJob.bElem (j : MJob) (memo : MaMemo) (n e : Nat) : Nat :=
  match j.k with
  | .mmt => (match j.key n with | some p => elemBits j.fb (fun i => MaMemo.byte memo (p + i)) e | none => 0)
  | _ => elemBits j.fb (fun i => j.cell (256 * n + i)) e

/-- The (A, B) element bits of block b for element (m, n). -/
def MJob.pairs (j : MJob) (memo : MaMemo) (m n b : Nat) : List (Nat × Nat) :=
  let a (k : Nat) : Nat := elemBits j.fa (fun i => MaMemo.byte memo (j.r.aptr + m * j.r.stride + i)) k
  if j.k.sparse then (j.sparseAt memo n b).map (fun p => (a p.1, j.bElem memo n p.2))
  else (List.range j.k.kblock).map (fun i => let k := b * j.k.kblock + i; (a k, j.bElem memo n k))

/-- The exact sum of block b for element (m, n) in float mode (R223, R224, R293). -/
def MJob.sumF (j : MJob) (memo : MaMemo) (m n b : Nat) : FV :=
  let sa := e8m0Val (MaMemo.byte memo (j.r.asc + 16 * m + b)).toNat
  let sb := e8m0Val (MaMemo.byte memo (j.r.bsc + 64 * b + n)).toNat
  blockSum ((j.pairs memo m n b).map (fun p =>
    let x := ((mfVal j.fa) p.1).mul ((mfVal j.fb) p.2)
    if j.k.mx then (sa.mul ((mfVal j.fa) p.1)).mul ((sb.mul ((mfVal j.fb) p.2))) else x))

/-- The exact sum in integer mode (R225). -/
def MJob.sumI (j : MJob) (memo : MaMemo) (m n b : Nat) : Int :=
  ((j.pairs memo m n b).map (fun p => sx (mfBits j.fa) p.1 * sx (mfBits j.fb) p.2)).foldl (· + ·) 0

/-- −∞ in binary128 (R295). -/
def negInf128 : Word128 := BitVec.ofNat 128 (b128F.inf true)

/-- The updates of step (b, m) (R292). -/
def MJob.stepUpds (j : MJob) (memo : MaMemo) (b m : Nat) : List (Nat × MatUpd) :=
  (List.range 64).flatMap (fun n =>
    let key := 4096 * j.tile + 64 * (j.r.row0 + m) + n
    if j.masked m n then (if b = 0 then [(key, .set negInf128)] else [])
    else
      let z := j.z && b = 0
      [(key, if intMode j.k j.fa then .addI z (j.sumI memo m n b) else .addF z (j.sumF memo m n b))])

/-- The operand spans of step (b, m): the A row's block and its scale; with the first row of a block, its metadata, B scales
and visible keys (R297). -/
def MJob.spans (j : MJob) (b m : Nat) (first : Bool) : List (Nat × Nat) :=
  let ab := j.k.kblock * (mfBits j.fa) / 8
  let bb := j.k.kblock * (mfBits j.fb) / 8
  let kt := ktOf j.fb
  [(j.r.aptr + m * j.r.stride + b * ab, ab)]
    ++ (if j.k.mx then [(j.r.asc + 16 * m + b, 1)] else [])
    ++ (if !first then [] else
        (if j.k.sparse then (List.range 64).map (fun n => (j.r.extra + n * (kt / 4) + b * (j.k.kblock / 8), j.k.kblock / 8)) else [])
        ++ (if j.k.mx then [(j.r.bsc + 64 * b, 64)] else [])
        ++ (match j.k with
            | .mmt => (List.range 64).filterMap (fun n => (j.key n).map (fun p => (p + b * bb, bb)))
            | _ => []))

/-- What running the steps comes to: all done, stopped at a step with the fault to report, or waiting for a read. -/
inductive MaEnd where
  | done | stop (b m : Nat) (f : MaFault) | hold
  deriving DecidableEq, Repr

/-- The fault of the lowest address. -/
def lowestFault : List MaFault → Option MaFault
  | [] => none
  | f :: fs => match lowestFault fs with | none => some f | some g => if g.addr < f.addr then some g else some f

/-- The steps in loop order: every operand read, and the updates of those whose reads returned (R292, R297). -/
def MJob.run (j : MJob) (x : Iss) (blk : Block) :
    List (Nat × Nat × Bool) → State → MaMemo → List (Nat × MatUpd) → State × List (Nat × MatUpd) × MaEnd
  | [], s, _, us => (s, us, .done)
  | (b, m, first) :: ps, s, memo, us =>
    let r := (j.spans b m first).foldl (fun r p => r.span x blk p.1 p.2) ({ s := s, memo := memo } : MaRead)
    if r.hold then (r.s, us, .hold)
    else match lowestFault r.faults with
      | some f => (r.s, us, .stop b m f)
      | none => j.run x blk ps r.s r.memo (us ++ j.stepUpds r.memo b m)

/-- The steps from (b0, m0) on (R292, R298); the Bool marks the first row of a block. -/
def stepsFrom (m kb b0 m0 : Nat) : List (Nat × Nat × Bool) :=
  (List.range kb).flatMap (fun b =>
    if b < b0 then []
    else
      let lo := if b = b0 then m0 else 0
      ((List.range m).filter (fun i => lo ≤ i)).map (fun i => (b, i, decide (i = lo))))

/-! ### MRP (R297 to R299, R306) -/

/-- MRP.VALID, TILE, KBNEXT, MNEXT and PC. -/
def Block.mrpFld (b : Block) (lo n : Nat) : Nat := bits b.mrp.toNat lo n

/-- MRP after a stop; OVF is kept. -/
def Block.mrpStop (b : Block) (pc tile kb m : Nat) : Block :=
  { b with mrp := BitVec.ofNat 128 (at' pc 0 56 + 2 ^ 64 + at' tile 65 3 + at' kb 68 5 + at' m 73 6 + at' (b.mrpFld 80 8) 80 8) }

/-- VALID cleared. -/
def Block.mrpClear (b : Block) : Block := { b with mrp := BitVec.ofNat 128 (putBits b.mrp.toNat 64 1 0) }

/-- StartStep of R298. -/
def Block.startStep (b : Block) (pc tile : Nat) : Nat × Nat :=
  if b.mrpFld 64 1 = 1 ∧ b.mrpFld 0 56 = pc % 2 ^ 56 ∧ b.mrpFld 65 3 = tile then (b.mrpFld 68 5, b.mrpFld 73 6) else (0, 0)

/-! ### Updates of a tile -/

/-- An element after an update, and whether it saturated (R223, R225, R305). -/
def MatUpd.app (u : MatUpd) (old : Word128) : Word128 × Bool :=
  match u with
  | .set x => (x, false)
  | .addF z s => (BitVec.ofNat 128 (addRound (if z then 0 else old.toNat) s), false)
  | .addI z s => let r := addSat (if z then 0 else old.toNat) s; (BitVec.ofNat 128 r.1, r.2)
  | .cvt kd rm sh u =>
    let scale (v : FV) : FV := match v with | .fin n m e => .fin n m (e + sh.toInt) | y => y
    let src : FV := match kd with
      | .iToF | .iToI => FV.ofInt (sx 128 old.toNat)
      | .fToI | .fToF => b128F.val old.toNat
    (BitVec.ofNat 128 (match kd with
      | .iToF | .fToF => b128F.enc rm u (scale src)
      | .fToI | .iToI => (scale src).toIntSat true 128 rm u), false)

/-- One pending update made: the element, and the tile's sticky bit (R213). -/
def Block.matApply (b : Block) (p : Nat × MatUpd) : Block :=
  let (v, ovf) := p.2.app (SMap.get 0 b.acs p.1)
  let t := p.1 / 4096
  { b with acs := SMap.set 0 b.acs p.1 v, mrp := if ovf then b.mrp ||| BitVec.ofNat 128 (2 ^ (80 + t)) else b.mrp }

/-- Tiles that a pending result still updates, or whose sticky bit it is still to clear. -/
def Res.tiles (r : Res) : List Nat :=
  (r.mats.map (fun p => p.1 / 4096)).dedup ++ (List.range 8).filter (fun t => r.ovfClr.getLsbD t)

/-- Sticky bits cleared at the end of an acc.clr or acc.in. -/
def Block.ovfClear (b : Block) (m : BitVec 8) : Block :=
  { b with mrp := b.mrp &&& ~~~ BitVec.ofNat 128 (m.toNat * 2 ^ 80) }

/-- Matrix-array instructions of the cox that are not complete (R288). -/
def Ctx.matBusy (c : Ctx) : Nat :=
  (c.res.filter (fun p => p.2.isMat)).length + (c.accs.filter (fun p => decide (p.2.kind = AccKind.accOut))).length

/-- An earlier instruction still has updates of the tile to make. -/
def Ctx.tileBusy (c : Ctx) (t : Nat) : Bool := c.res.any (fun p => p.2.tiles.contains t)

/-! ### Issue -/

/-- A matrix-array instruction at issue: TILE below ACST comes first (R286), then room among the four (R288). -/
def State.matIssue (s : State) (i : Instr) (tiles : List Nat) (body : State → Iss → Block → State) : Out :=
  s.issue i false (fun s x =>
    match s.blk? x.c.blk with
    | none => s.trapAt x { cause := .space, qual := 2 }
    | some b =>
      if tiles.any (fun t => b.acst ≤ t) then s.trapAt x { cause := .space, qual := 2 }
      else if 4 ≤ x.c.matBusy then s.holdAs x (.held 8)
      else body s x b)

/-- The pointers of a matrix instruction: the highest space each may use, alignment, and bytes from it. -/
def mPtrs (k : MKind) (fa fb : MFmt) (r : ARec) : List (Nat × Nat × Nat × Nat) :=
  let arow := r.kb * k.kblock * (mfBits fa) / 8
  [(r.aptr, 4, 16, (r.m - 1) * r.stride + arow)]
    ++ (if k.mx then [(r.asc, 4, 16, 16 * (r.m - 1) + r.kb), (r.bsc, 4, 16, 64 * r.kb)] else [])
    ++ (if k.sparse then [(r.extra, 4, 128, 64 * (ktOf fb / 4))] else [])
    ++ (match k with | .mmt => [(r.asc, 3, 64, 64), (r.bsc, 4, 16, 1)] | _ => [])

/-- A pointer's SPACE qualifier under check 4 of R296. -/
def Block.maSpace (b : Block) (ptr top n : Nat) : Option Nat :=
  match spaceFail ptr top with
  | some q => some q
  | none =>
    if bits ptr 60 4 = 4 then (if bits ptr 21 39 ≠ 0 ∨ b.aspBytes < bits ptr 0 21 + n then some 2 else none)
    else if globFar ptr n then some 2 else none

/-- The pointer checks of R296: SPACE for every pointer, then ALIGN (checks 4 and 5). -/
def Block.maPtrTrap (b : Block) (ps : List (Nat × Nat × Nat × Nat)) : Option TrapInfo :=
  match ps.filterMap (fun p => (b.maSpace p.1 p.2.1 p.2.2.2).map (fun q => (p.1, q))) with
  | (ptr, q) :: _ => some { cause := .space, qual := q, addr := BitVec.ofNat 64 ptr }
  | [] => match ps.find? (fun p => p.1 % p.2.2.1 ≠ 0) with
    | some p => some { cause := .align, addr := BitVec.ofNat 64 p.1 }
    | none => none

/-- Dense MACs of a number of steps: 64 columns, and a K-block of dense positions each (R345). -/
def MJob.macs (j : MJob) (steps : Nat) : Nat := steps * (64 * j.k.kblock)

/-- MACs counted for the thread that performs them (R345). -/
def State.countMacs (s : State) (cid n : Nat) : State :=
  match s.ctxs.find? cid with | some c => s.setCtx cid (c.countUp 4 n) | none => s

/-- The operand reads, the steps and their end (R289, R292, R297 to R299). -/
def State.matRun (s : State) (x : Iss) (b : Block) (j : MJob) : State :=
  let (b0, m0) := b.startStep x.sp.pc.toNat j.tile
  let steps := stepsFrom j.r.m j.r.kb b0 m0
  match j.run x b steps s [] [] with
  | (s, _, .hold) => s.holdAs (x.again s) (.held 9)
  | (s, us, .stop kb m f) =>
    if x.c.tileBusy j.tile then s.holdAs (x.again s) (.held 9)
    else
      let b := (us.foldl Block.matApply b).mrpStop x.sp.pc.toNat j.tile kb m
      ((s.setBlk x.c.blk b).countMacs x.cid (j.macs (steps.takeWhile (fun p => !(p.1 = kb && p.2.1 = m))).length)).trapAt x
        { cause := f.cause, qual := f.qual, level := f.level, addr := BitVec.ofNat 64 f.addr, aux := f.aux }
  | (s, us, .done) =>
    let mine : Bool := b.mrpFld 64 1 = 1 && b.mrpFld 0 56 = x.sp.pc.toNat % 2 ^ 56 && b.mrpFld 65 3 = j.tile
    let s := if mine then s.setBlk x.c.blk b.mrpClear else s
    s.pend x ((x.again s).c.countUp 4 (j.macs steps.length)) { writes := [], flag := none, mats := us, isMat := true, rsd := j.rsd }

/-- Check 7 of R296: the handle and tile of B (R123, R293). -/
inductive Cells where
  | trap (t : TrapInfo)
  | hold
  | ok (cell : Nat → Byte)

/-- The cells that the B operand names. -/
def State.cellsOf (s : State) (x : Iss) (b : Block) (w : Nat) : Cells :=
  let h := bits w 0 16
  let t := bits w 16 9
  if bits w 25 39 ≠ 0 then .trap (rsdTrap 4 h)
  else match s.rsd? b.dev h with
    | none => .trap (rsdTrap 0 h)
    | some r =>
      if bits r.cores b.core 1 = 0 ∨ s.physCluster b.dev r.vcl ≠ some b.cluster then .trap (rsdTrap 2 h)
      else match r.st with
        | .free => .trap (rsdTrap 0 h)
        | .filling | .rebuilding => .hold
        | .stale => .trap { cause := .stale, aux := BitVec.ofNat 64 (h % 2 ^ 16) }
        | .poisoned =>
          let seq := if r.cause = .cell then 0 else match r.badLine with | some l => s.poisonSeq (l * 128) | none => 0
          .trap { cause := .poison, qual := if r.cause = .cell then 1 else 0, aux := BitVec.ofNat 64 seq }
        | .allocated | .dropped => .trap (rsdTrap 5 h)
        | .ready =>
          if r.nt ≤ t then .trap (rsdTrap 4 h)
          else
            let o := r.tileOff b.core t
            let _ := x
            .ok (fun i => SMap.get 0 r.cells (o + i))

/-- mma, mmas and mmx (R292 to R299). -/
def State.matMul (s : State) (i : Instr) (k : MKind) (o : Opr) (fa fb : MFmt) (tile : Nat) (z : Bool) : Out :=
  s.matIssue i [tile] (fun s x b =>
    if !arecOk k fb x.arec then s.trapAt x { cause := .range, qual := 1 }
    else
      let r := arecOf x.arec
      match b.maPtrTrap (mPtrs k fa fb r) with
      | some t => s.trapAt x t
      | none => match s.cellsOf x b (x.s64 s .b) with
        | .trap t => s.trapAt x t
        | .hold => s.holdAs x (.held 9)
        | .ok cell => match s.gateOf x.c false with
          | some w => s.holdAs x w
          | none => s.matRun x b { k := k, fa := fa, fb := fb, tile := tile, z := z, r := r, cell := cell,
                                   key := fun _ => none, masked := fun _ _ => false,
                                   rsd := some (rsdKey b.dev (bits (x.s64 s .b) 0 16)) })

/-- mma; variable-latency. -/
def execMma (o : Opr) (fa fb : MFmt) (tile : BitVec 3) (z : Bool) (s : State) : Out :=
  s.matMul (.mma o fa fb tile z) .mma o fa fb tile.toNat z
/-- mmas; variable-latency. -/
def execMmas (o : Opr) (fa fb : MFmt) (tile : BitVec 3) (z mx : Bool) (s : State) : Out :=
  s.matMul (.mmas o fa fb tile z mx) (.mmas mx) o fa fb tile.toNat z
/-- mmx; variable-latency. -/
def execMmx (o : Opr) (fa fb : MFmt) (tile : BitVec 3) (z : Bool) (s : State) : Out :=
  s.matMul (.mmx o fa fb tile z) .mmx o fa fb tile.toNat z

/-! ### mmt (R295) -/

/-- Column n is visible to row m. -/
def Tree.visible (t : Tree) (r : ARec) (m n : Nat) : Bool :=
  if r.cmode then
    let j := r.ts0 + n
    1 ≤ j && j < t.nodes.length && j ≤ 255 && bits (t.mask (r.qn0 + m)) j 1 = 1
  else r.cpos0 + n ≤ t.base

/-- Logical blocks of the committed columns that some row sees, ascending. -/
def Tree.blocksSeen (t : Tree) (r : ARec) (lbs : Nat) : List Nat :=
  (((List.range 64).filter (fun n => (List.range r.m).any (fun m => t.visible r m n))).map
    (fun n => (r.cpos0 + n) / 2 ^ lbs)).dedup

/-- Key resolution: each logical block looked up in ascending order (R295). -/
def State.resolve (s : State) (x : Iss) (ptr seq : Nat) : List Nat → List (Nat × Nat) → State × Got (List (Nat × Nat))
  | [], acc => (s, .ok acc)
  | l :: ls, acc =>
    andThen (s.kvFind x ptr seq l) (fun s r => match r with
      | some p => s.resolve x ptr seq ls ((l, p) :: acc)
      | none => (s, .trap (kvTrap 0 ptr)))

/-- The key pointers of the columns, or their trap (check 8 of R296). -/
def State.mmtKeys (s : State) (x : Iss) (t : Tree) (r : ARec) : State × Got (Nat → Option Nat) :=
  let seen (n : Nat) : Bool := (List.range r.m).any (fun m => t.visible r m n)
  if r.cmode then (s, .ok (fun n => if seen n then some (r.bsc + (r.ts0 + n) * r.kstr) else none))
  else if !(List.range 64).any seen then (s, .ok (fun _ => none))
  else
    andThen (s.kvDesc (s.kvCox x) r.asc) (fun s d =>
      andThen (s.resolve x r.asc r.seq (t.blocksSeen r d.lbs) []) (fun s ps =>
        (s, .ok (fun n =>
          if !seen n then none
          else
            let q := r.cpos0 + n
            let p := ((ps.find? (fun e => e.1 = q / 2 ^ d.lbs)).map (·.2)).getD 0
            some (d.kvbase + p * d.bstride * 256 + 16 * r.koff + q % 2 ^ d.lbs * r.kstr)))))

/-- The tree-slot keys that some row sees, as pointers of mmt: every byte of them lies in its space (R12, R86, R296). -/
def Block.keyPtrs (b : Block) (fb : MFmt) (r : ARec) : List (Nat × Nat × Nat × Nat) :=
  match b.tree with
  | some t =>
    if !r.cmode then []
    else ((List.range 64).filter (fun n => (List.range r.m).any (fun m => t.visible r m n))).map
      (fun n => (r.bsc + (r.ts0 + n) * r.kstr, 4, 16, r.kb * 64 * (mfBits fb) / 8))
  | none => []

/-- The trap of the keys that KV resolution gave: SPACE of any of their bytes, then alignment (R12, R295, R296). -/
def Block.keyTrap (b : Block) (fb : MFmt) (r : ARec) (keys : List Nat) : Option TrapInfo :=
  match keys.filterMap (fun p => (b.maSpace p 4 (r.kb * 64 * (mfBits fb) / 8)).map (fun q => (p, q))) with
  | (p, q) :: _ => some { cause := .space, qual := q, addr := BitVec.ofNat 64 p }
  | [] => match keys.filter (fun p => p % 16 ≠ 0) with
    | p :: _ => some { cause := .align, addr := BitVec.ofNat 64 p }
    | [] => none

/-- mmt: a tree-masked pass (R295, R296); variable-latency. -/
def execMmt (o : Opr) (fa fb : MFmt) (tile : BitVec 3) (z : Bool) (s : State) : Out :=
  s.matIssue (.mmt o fa fb tile z) [tile.toNat] (fun s x b =>
    if !arecOk .mmt fb x.arec then s.trapAt x { cause := .range, qual := 1 }
    else
      let r := arecOf x.arec
      match b.maPtrTrap (mPtrs .mmt fa fb r ++ b.keyPtrs fb r) with
      | some t => s.trapAt x t
      | none => match b.tree with
        | none => s.trapAt x (treeTrap 0)
        | some t =>
          if t.nodes.length < r.qn0 + r.m then s.trapAt x (treeTrap 4)
          else match s.gateOf x.c false with
            | some w => s.holdAs x w
            | none => match s.mmtKeys x t r with
              | (s, .hold) => s.lookHold x
              | (s, .trap i) => (s.lookDone x).trapAt x i
              | (s, .ok key) =>
                let s := s.lookDone x
                match b.keyTrap fb r ((List.range 64).filterMap key) with
                | some t => s.trapAt x t
                | none =>
                  (match s.blk? x.c.blk with
                   | some b => s.matRun x b
                      { k := .mmt, fa := fa, fb := fb, tile := tile.toNat, z := z, r := r, cell := fun _ => 0, key := key,
                        masked := fun m n => !t.visible r m n }
                   | none => s))

/-! ### Accumulator instructions (R302 to R306) -/

/-- The keys of a tile's elements in ascending row and column. -/
def tileKeys (t : Nat) : List Nat := (List.range 4096).map (fun i => 4096 * t + i)

/-- A block's MRP after an acc.clr or acc.in of some tiles (R299). -/
def Block.mrpNamed (b : Block) (ts : List Nat) : Block :=
  if b.mrpFld 64 1 = 1 ∧ ts.contains (b.mrpFld 65 3) then b.mrpClear else b

/-- acc.clr (R302); variable-latency. -/
def execAccClr (o : Opr) (tiles : BitVec 8) (s : State) : Out :=
  let ts := (List.range 8).filter (fun t => tiles.getLsbD t)
  s.matIssue (.accClr o tiles) ts (fun s x b =>
    (s.setBlk x.c.blk (b.mrpNamed ts)).pend x x.c
      { writes := [], flag := none, mats := (ts.flatMap tileKeys).map (fun k => (k, .set 0)), isMat := true, ovfClr := tiles })

/-- The element that acc.in makes of a value (R303). -/
def accInVal (t : Ty) (v : Nat) : Word128 :=
  match t with
  | .b128 => BitVec.ofNat 128 v
  | .s64 | .s32 => BitVec.ofNat 128 (wrap 128 (sx t.width v))
  | t => BitVec.ofNat 128 (fconv t.fmt b128F .rne 0 v)

/-- The pointer checks of acc.in and acc.out: space and bounds, then alignment of the pointer and stride (R303, R304). DESIGN CHOICE (log entry
102): the row stride is an unsigned number, and ptr + r × stride does not wrap. -/
def Block.accTrap (b : Block) (ptr stride size : Nat) : Option TrapInfo :=
  let far : Option Nat := match spaceFail ptr 4 with
    | some q => some q
    | none => if bits ptr 60 4 = 4 then (if bits ptr 21 39 ≠ 0 then some 2 else none) else if bits ptr 56 4 ≠ 0 then some 2 else none
  match far with
  | some q => some { cause := .space, qual := q, addr := BitVec.ofNat 64 ptr }
  | none =>
    let n := 63 * stride + 64 * size
    let past : Bool := if bits ptr 60 4 = 4 then decide (b.aspBytes < bits ptr 0 21 + n) else globFar ptr n
    if past then some { cause := .space, qual := 2, addr := BitVec.ofNat 64 ptr }
    else if ptr % 16 ≠ 0 ∨ stride % 16 ≠ 0 then some { cause := .align, addr := BitVec.ofNat 64 ptr }
    else none

/-- acc.in: no element is written until every read has returned (R303); variable-latency. -/
def execAccIn (o : Opr) (t : Ty) (tile : BitVec 3) (s : State) : Out :=
  s.matIssue (.accIn o t tile) [tile.toNat] (fun s x b =>
    let ptr := x.s64 s .a
    let stride := x.s64 s .b
    match b.accTrap ptr stride t.size with
    | some i => s.trapAt x i
    | none => match s.gateOf x.c false with
      | some w => s.holdAs x w
      | none =>
        let r := (List.range 64).foldl (fun r i => r.span x b (ptr + i * stride) (64 * t.size)) ({ s := s, memo := [] } : MaRead)
        if r.hold then r.s.holdAs (x.again r.s) (.held 9)
        else match lowestFault r.faults with
          | some f => r.s.trapAt x
              { cause := f.cause, qual := f.qual, level := f.level, addr := BitVec.ofNat 64 f.addr, aux := f.aux }
          | none =>
            let ups := (List.range 4096).map (fun i =>
              (4096 * tile.toNat + i, MatUpd.set (accInVal t (memoNat r.memo (ptr + i / 64 * stride + i % 64 * t.size) t.size))))
            (r.s.setBlk x.c.blk (b.mrpNamed [tile.toNat])).pend x (x.again r.s).c
              { writes := [], flag := none, mats := ups, isMat := true, ovfClr := BitVec.ofNat 8 (2 ^ tile.toNat) })

/-- The bytes that acc.out writes for an element (R304). -/
def accOutVal (t : Ty) (rm : Rm) (u e : Nat) : Nat :=
  match t with
  | .b128 => e
  | .s64 | .s32 | .s16 | .s8 => let w := 8 * t.size; wrap w (satTo true w (sx 128 e))
  | t => fconv b128F t.fmt rm u e

/-- acc.out to this type rounds: its stochastic mode steps the generator (R218, R304). -/
def accRounds (t : Ty) : Bool := match t with | .b128 | .s64 | .s32 | .s16 | .s8 => false | _ => true

/-- The store of one element by acc.out: a relaxed store of the cox (R304). -/
def State.accStore (s : State) (x : Iss) (ptr : Nat) (bs : List Byte) : Req :=
  { cid := x.cid, lane := 0, kind := .store bs, space := bits ptr 60 4,
    va := if bits ptr 60 4 = 4 then bits ptr 0 21 else bits ptr 0 56, size := bs.length, asid := x.c.asid, dev := x.c.dev, priv := false,
    die := s.dieOf x.cid, core := s.coreOf x.cid, since := s.pt }

/-- The stores of acc.out issued, element by element: each is performed on its own, and the split waits until all are confirmed (R282,
R289, R304). -/
def State.accIssue (s : State) (x : Iss) (es : List (Nat × List Byte)) (sr : Option Word32) : State :=
  let n := s.ms.nextReq
  let reqs := es.map (fun e => s.accStore x e.1 e.2)
  let lines := ((reqs.filter (fun r => r.space ≠ 4)).map (fun r => r.va / 128 * 128)).dedup
  let s := lines.foldl (fun s va => s.dropL1 x.cid x.c.asid va) s
  let m := s.ms
  let s := { s with ms := { m with reqs := m.reqs ++ reqs.zipIdx.map (fun (r : Req × Nat) => (n + r.2, r.1)), nextReq := n + reqs.length } }
  let c := x.c.passGate true
  let key := freshKey c.accs
  let a : Acc := { k := x.k, pc := x.sp.pc, kind := .accOut, ds := [], part := x.part, flag := none,
                   reqs := (List.range reqs.length).map (fun i => (0, n + i)), ptrs := [], sr := sr }
  s.setCtx x.cid ({ c with accs := c.accs.put key a }.setSplit x.k { x.sp with wait := .confirm key })

/-- acc.out: stores of the cox of the tile as it stands after every earlier instruction's updates (R288, R304). -/
def execAccOut (o : Opr) (t : Ty) (rm : Rm) (tile : BitVec 3) (s : State) : Out :=
  s.matIssue (.accOut o t rm tile) [tile.toNat] (fun s x b =>
    let ptr := x.s64 s .a
    let stride := x.s64 s .b
    match b.accTrap ptr stride t.size with
    | some i => s.trapAt x i
    | none =>
      if x.c.tileBusy tile.toNat then s.holdAs x (.held 9)
      else match s.gateOf x.c true with
        | some w => s.holdAs x w
        | none =>
          let us := s.us x rm 4096 0
          let es := (List.range 4096).map (fun i =>
            (ptr + i / 64 * stride + i % 64 * t.size,
              leBytes t.size (accOutVal t rm (us.getD i 0) (SMap.get 0 b.acs (4096 * tile.toNat + i)).toNat)))
          let s0 := if bits ptr 60 4 = 4 then s else s.clearDisc x.c
          s0.accIssue x es (if accRounds t ∧ rm = .sr then (s0.srAfter x rm 4096).find? 0 else none))

/-- acc.cvt (R305); variable-latency. -/
def execAccCvt (o : Opr) (kd : CvtKind) (rm : Rm) (tile : BitVec 3) (sh : BitVec 8) (s : State) : Out :=
  s.matIssue (.accCvt o kd rm tile sh) [tile.toNat] (fun s x _ =>
    let us := s.us x rm 4096 0
    let ups := (List.range 4096).map (fun i => (4096 * tile.toNat + i, MatUpd.cvt kd rm sh (us.getD i 0)))
    s.pend x { x.c with sr := s.srAfter x rm 4096 } { writes := [], flag := none, mats := ups, isMat := true })

/-- mrp.rd: after every earlier matrix-array instruction is complete (R288, R306); variable-latency. -/
def execMrpRd (o : Opr) (s : State) : Out :=
  s.issue (.mrpRd o) false (fun s x =>
    match s.blk? x.c.blk with
    | none => s.retire x x.c
    | some b =>
      if x.c.matBusy ≠ 0 then s.holdAs x (.held 9)
      else s.pend x x.c { writes := x.sWrites 2 b.mrp.toNat, flag := none })

/-- The pair that mrp.wr reads. -/
def Iss.pairA (x : Iss) : Nat :=
  match x.o.a with
  | .s n => (x.c.rs n.toNat).toNat + (x.c.rs (n.toNat + 1)).toNat * 2 ^ 64
  | _ => 0

/-- mrp.wr: every field from the pair; a reserved bit raises RANGE, MRP (R288, R306). -/
def execMrpWr (o : Opr) (s : State) : Out :=
  s.issue (.mrpWr o) false (fun s x =>
    match s.blk? x.c.blk with
    | none => s.retire x x.c
    | some b =>
      if x.c.matBusy ≠ 0 then s.holdAs x (.held 9)
      else
        let v := x.pairA
        if bits v 56 8 ≠ 0 ∨ bits v 79 1 ≠ 0 ∨ bits v 88 40 ≠ 0 then s.trapAt x { cause := .range, qual := 2 }
        else (s.setBlk x.c.blk { b with mrp := BitVec.ofNat 128 v }).retire x x.c)

end Sys2Proof.Machine
end

