-- ==== Sys2Proof/Machine/System.lean ====
section
/-! DEFINITION. The system instructions (R340 to R342, R345): trap, svc, brk, tresume, wrpriv, rdpriv and rdctr. -/

namespace Sys2Proof.Machine

/-- trap: the named cause with the given qualifier, for the participating lanes (R340). -/
def execTrap (o : Opr) (c : Cause) (q : BitVec 8) (s : State) : Out :=
  s.issue (.trap o c q) false (fun s x => s.trapAt x { cause := c, qual := q.toNat })

/-- svc: SVC, with n in the trap record (R340, R370). -/
def execSvc (o : Opr) (n : BitVec 24) (s : State) : Out :=
  s.issue (.svc o n) false (fun s x => s.trapAt x { cause := .svc, aux := n.setWidth 64 })

/-- brk: BRK, with n in the trap record (R340, R370). -/
def execBrk (o : Opr) (n : BitVec 24) (s : State) : Out :=
  s.issue (.brk o n) false (fun s x => s.trapAt x { cause := .brk, aux := n.setWidth 64 })

/-! ### tresume (R341) -/

/-- The number of a token that this package gave and whose record has left the parked split's own state: its map entry, the
split and the trapped split's state; none when the token is stale (R341, R371, R373). -/
def State.liveTok (s : State) (t : BitVec 64) : Option (Nat × Tok × Split) :=
  let n := t.toNat / 2 ^ 16
  match s.trp.toks.find? n with
  | none => none
  | some k => match s.ctxs.find? k.cid with
    | none => none
    | some c => match c.splits.find? k.k with
      | none => none
      | some sp => if sp.parked = some t && !(s.trp.held.any (fun h => h.token = t)) then some (n, k, sp) else none

/-- The latched operation that the record of a trapped wait.ac carries (R341, R370): one of cpy, cpy2d, dcx and srd. -/
def Tok.latched (k : Tok) : Option Latch :=
  let r := leNat k.bytes
  let opc := bits r 832 10
  if bits r 23 1 = 0 ∨ opc < 0x300 ∨ 0x303 < opc then none
  else some
    { cause := (Cause.ofCode (bits r 0 8)).getD .ill, qual := bits r 8 8, level := bits r 16 4, addr := BitVec.ofNat 64 (bits r 128 64),
      aux := BitVec.ofNat 64 (bits r 256 64), opc := opc, md := bits r 842 8, imm := BitVec.ofNat 32 (bits r 850 32),
      a := BitVec.ofNat 64 (bits r 576 64), b := BitVec.ofNat 64 (bits r 640 64), c := BitVec.ofNat 64 (bits r 704 64),
      e := BitVec.ofNat 64 (bits r 768 64), count := 0 }

/-- The participants of a replay: K within the lane fault mask, or the original ones (R284, R341). -/
def Tok.participants (k : Tok) (sp : Split) (mask : Mask) : Mask :=
  match k.fmask with
  | some f => mask &&& f
  | none => if k.fetch then sp.mask else k.pmask

/-- SKIP of the stopped matrix instruction clears MRP.VALID (R299, R341). -/
def State.skipMrp (s : State) (cid : Nat) (sp : Split) : State :=
  match s.ctxs.find? cid with
  | none => s
  | some c => match c.stream, s.blk? c.blk with
    | .cox, some b =>
      if b.mrpFld 64 1 = 1 ∧ b.mrpFld 0 56 = sp.pc.toNat % 2 ^ 56 then s.setBlk c.blk b.mrpClear else s
    | _, _ => s

/-- A token that another package's trap record gave, by its coordinates: the package's row and column (R371). -/
def State.tokAway (s : State) (tok : BitVec 64) : Option (Nat × Nat) :=
  if tok.toNat % 2 ^ 10 = s.fld fabB 0 10 ∨ 24 ≤ tok.toNat % 2 ^ 5 ∨ 24 ≤ tok.toNat / 2 ^ 5 % 2 ^ 5 then none
  else some (tok.toNat % 2 ^ 5, tok.toNat / 2 ^ 5 % 2 ^ 5)

/-- What tresume does with a token: the status and the state after it (R341). One of another package goes there, and the status that
comes back is free (R371; log entry 92); a token of coordinates that no package has names nothing. -/
def State.tresume (s : State) (tok : BitVec 64) (mode : Nat) (mask : Mask) (g : BitVec 64) : State × Nat :=
  if tok.toNat % 2 ^ 10 ≠ s.fld fabB 0 10 then
    match s.tokAway tok with
    | none => (s, 1)
    | some dst => (({ s with fresh := s.fresh + 1 }).tell dst (.tresume tok mode mask g), (Config.free s.fresh).toNat % 4)
  else match s.liveTok tok with
    | none => (s, 1)
    | some (n, k, sp) =>
      if mode = 0 then
        if k.participants sp mask = 0 then (s, 2)
        else
          let m := if k.fmask.isNone && k.fetch then none else some (k.participants sp mask)
          (s.returnFromTrap n k.cid k.k (.replay m k.latched), 0)
      else if mode = 1 then ((s.skipMrp k.cid sp).returnFromTrap n k.cid k.k .skip, 0)
      else if mode = 2 then
        if bits g.toNat 56 8 ≠ 0 ∨ (slotOf g).isNone then (s, 3)
        else (s.returnFromTrap n k.cid k.k (.goto g), 0)
      else (s.returnFromTrap n k.cid k.k .endLanes, 0)

/-- A tresume that another package sends for a split here: its status goes back (R371). -/
def State.peerTresume (s : State) (tok : BitVec 64) (mode : Nat) (mask : Mask) (g : BitVec 64) : State :=
  if tok.toNat % 2 ^ 10 ≠ s.fld fabB 0 10 ∨ 3 < mode then s
  else
    let (s, st) := s.tresume tok mode mask g
    { s with lnk := { s.lnk with sent := some (.done (leBytes 4 st), s.pt) } }

/-- tresume (R341): a release wait at package scope comes first; M[31:2] must be zero, and REDIRECT takes no IMM. An M that
breaks this raises ILL, a cause the rule does not name (log entry 102). -/
def execTresume (o : Opr) (e : BitVec 8) (s : State) : Out :=
  s.issue (.tresume o e) false (fun s x =>
    let l := lowest x.part
    let m := x.rd s l 32 .zero .b
    if bits m 2 30 ≠ 0 ∨ (m = 2 ∧ o.usesImm) then s.trapAt x { cause := .ill }
    else match s.orderWait x.c true .rel .pkg with
      | some w => s.holdAs x w
      | none =>
        let tok := BitVec.ofNat 64 (x.rd s l 64 .zero .a)
        let mask := BitVec.ofNat 32 (x.rd s l 32 .zero .c)
        let g := if o.usesImm then 0 else x.eWord s l e
        let (s, st) := s.tresume tok m mask g
        match s.ctxs.find? x.cid with
        | none => s
        | some c => s.retire x ((c.passGate true).applyAll (x.wr l 32 false st)))

/-! ### Privileged thread registers (R342) -/

/-- The value of a privileged thread register. -/
def State.privReg (s : State) (c : Ctx) (n : Nat) : Nat :=
  match n with
  | 0 => bit c.priv
  | 1 => c.asid
  | 2 => c.llbase.toNat
  | 3 => c.llsize
  | 4 => (s.srOf c 0).toNat
  | 5 => c.dev
  | 6 => c.halarm
  | _ => bit c.hien

/-- A privileged thread register written: reserved bits take nothing, and values that a field refuses are ignored. -/
def Ctx.privSet (c : Ctx) (n v : Nat) : Ctx :=
  match n with
  | 0 => { c with priv := bitOf v 0 }
  | 1 => { c with asid := bits v 0 16 }
  | 2 => if bits v 0 16 = 0 then { c with llbase := BitVec.ofNat 64 (bits v 0 56) } else c
  | 3 => let k := bits v 0 11; if k = 0 ∨ (2 ≤ k ∧ k ≤ 1024) then { c with llsize := k } else c
  | 4 => { c with sr := c.sr.put 0 (BitVec.ofNat 32 (if bits v 0 32 = 0 then 1 else v)) }
  | 6 => { c with halarm := v, alarmed := false }
  | 7 => { c with hien := bitOf v 0 }
  | _ => c

/-- wrpriv: the write takes effect for the thread's next instruction (R342). -/
def execWrpriv (o : Opr) (num : BitVec 12) (s : State) : Out :=
  s.issue (.wrpriv o num) false (fun s x =>
    s.retire x (x.c.privSet num.toNat (x.rd s (lowest x.part) 64 .zero .a)))

/-- rdpriv (R342); variable-latency. -/
def execRdpriv (o : Opr) (num : BitVec 12) (s : State) : Out :=
  s.issue (.rdpriv o num) false (fun s x =>
    s.pend x x.c { writes := x.laneWrites (fun l => x.wr l 64 false (s.privReg x.c num.toNat)), flag := none })

/-! ### Counters (R345) -/

/-- A counter of a thread: cycles while resident, and L1D misses and MACs over the whole block. -/
def State.counter (s : State) (c : Ctx) (n : Nat) : Nat :=
  let own (d : Ctx) : Nat := SMap.get 0 d.ctr n
  if n = 0 then (own c + (s.pt - c.start)) % 2 ^ 64
  else if n = 3 ∨ n = 4 then
    (match c.stream with
     | .host => if n = 4 then 0 else own c
     | _ => (s.ctxs.foldl (fun a p => if p.2.stream ≠ .host ∧ p.2.blk = c.blk then a + own p.2 else a) 0) % 2 ^ 64)
  else own c

/-- A counter as rdctr returns it: the reading instruction is among those issued (R345). -/
def State.ctrRead (s : State) (c : Ctx) (n : Nat) : Nat := (s.counter c n + (if n = 1 then 1 else 0)) % 2 ^ 64

/-- rdctr (R345); variable-latency. -/
def execRdctr (o : Opr) (n : BitVec 8) (s : State) : Out :=
  s.issue (.rdctr o n) false (fun s x =>
    s.pend x x.c { writes := x.laneWrites (fun l => x.wr l 64 false (s.ctrRead x.c n.toNat)), flag := none })

end Sys2Proof.Machine
end

