-- ==== Sys2Proof/Machine/Tier.lean ====
section
/-! DEFINITION. Tier instructions (R338, R339) and the migration engine (R41, R42, R44 to R52). -/

namespace Sys2Proof.Machine

/-! ### Instructions -/

/-- The virtual address of a tier instruction's pointer in a lane, or its SPACE (R319, R338). -/
def State.tierVa (s : State) (x : Iss) (l : Nat) : Except (Cause × Nat) Nat :=
  let ptr := x.rd s l 64 .zero .a
  let sp := bits ptr 60 4
  if sp ≤ 3 ∨ sp = 7 then
    match s.place x.c false 1 1 ptr with
    | .ok (.glob _ va) => .ok va
    | .ok (.loc o) => .ok (x.c.llVa l o)
    | .ok _ => .error badAgent
    | .error e => .error e
  else if 9 ≤ sp ∧ sp ≤ 14 then .error badSelector
  else .error badAgent

/-- Lanes whose tier operand names no tier (R338). -/
def Iss.badTier (x : Iss) (s : State) (op : Operand) : Mask :=
  maskOf ((lanesOf x.part).filter (fun l => decide (2 < x.rd s l 32 .zero op)))

/-- Hints, one for each page: of lanes that name one page the lowest counts. DESIGN CHOICE (log entry 102): so too where they name different
tiers (R338). -/
def pageOnce (hs : List Hint) : List Hint := hs.foldl (fun l h => if l.any (fun g => g.va = h.va) then l else l ++ [h]) []

/-- tier.hint: each page once, no fault (R41, R338). -/
def execTierHint (o : Opr) (s : State) : Out :=
  s.issue (.tierHint o) false (fun s x =>
    if x.badTier s .b ≠ 0 then s.trapAt x { rangeOperand with lmask := x.badTier s .b }
    else match s.gateOf x.c false with
      | some w => s.holdAs x w
      | none =>
        let hs := (lanesOf x.part).filterMap (fun l => match s.tierVa x l with
          | .ok va => some ({ dev := x.c.dev, asid := x.c.asid, va := va / 0x10000 * 0x10000, tier := x.rd s l 32 .zero .b,
                              pinReq := none, priv := x.c.stream = .host && x.c.priv } : Hint)
          | .error _ => none)
        ({ s with mig := { s.mig with hints := s.mig.hints ++ pageOnce hs } }).retire x x.c)

/-- The pin or unpin request of a page, and with a pin the work that it sets MIG (R42). -/
def State.pinReq (s : State) (x : Iss) (va : Nat) (kind : ReqKind) : State × Nat :=
  let priv : Bool := x.c.stream = .host && x.c.priv
  let (s, id) := s.addReq { cid := x.cid, lane := 0, kind := kind, space := 97, va := va, size := 1, asid := x.c.asid, dev := x.c.dev,
                            priv := priv, die := s.dieOf x.cid, core := s.coreOf x.cid, since := s.pt }
  match kind with
  | .pin t =>
    let h : Hint := { dev := x.c.dev, asid := x.c.asid, va := va, tier := t, pinReq := some id, priv := priv }
    ({ s with mig := { s.mig with hints := s.mig.hints ++ [h] } }, id)
  | _ => (s, id)

/-- Requests of lanes that name the same page are one, that of the lowest lane (R338). DESIGN CHOICE (log entry 102): so too where they name
different tiers. -/
def State.pinReqs (s : State) (x : Iss) : List (Nat × Nat × ReqKind) → List (Nat × Nat) → List (Nat × Nat) →
    State × List (Nat × Nat)
  | [], _, ids => (s, ids.reverse)
  | (l, va, k) :: ls, done, ids =>
    match done.find? (fun d => d.1 = va) with
    | some (_, id) => s.pinReqs x ls done ((l, id) :: ids)
    | none => let (s, id) := s.pinReq x va k; s.pinReqs x ls ((va, id) :: done) ((l, id) :: ids)

/-- What the participants ask of the pages that their pointers name (R338). -/
def State.pinWants (s : State) (x : Iss) (o : Opr) (pin : Bool) : List (Nat × Nat × ReqKind) :=
  (lanesOf x.part).filterMap (fun l => match s.tierVa x l with
    | .ok va => some (l, va / 0x10000 * 0x10000, if pin then ReqKind.pin (x.rd s l 32 .zero .b) else ReqKind.unpin)
    | .error _ => none)

/-- The record of a pin or an unpin, and the split that waits for it (R282, R338). -/
def State.pinWait (s : State) (x : Iss) (ids ptrs : List (Nat × Nat)) : State :=
  match s.ctxs.find? x.cid with
  | none => s
  | some c =>
    let key := freshKey c.accs
    let flag := if c.stream = .host then none else x.flag
    let a : Acc := { k := x.k, pc := x.sp.pc, kind := .pin, ds := [], part := x.part, flag := flag, reqs := ids,
                     ptrs := ptrs.map (fun p => (p.1, BitVec.ofNat 64 p.2)) }
    let c := (c.flagUp flag).setSplit x.k { x.sp with wait := .confirm key }
    s.setCtx x.cid { c with accs := c.accs.put key a }

/-- tier.pin and tier.unpin at issue: pointers first, then the pages, confirmed as an access (R282, R338). -/
def State.tierAccess (s : State) (i : Instr) (o : Opr) (pin : Bool) : Out :=
  s.issue i false (fun s x =>
    if pin ∧ x.badTier s .b ≠ 0 then s.trapAt x { rangeOperand with lmask := x.badTier s .b }
    else match s.gateOf x.c false with
      | some w => s.holdAs x w
      | none =>
        let ls := lanesOf x.part
        let bad := ls.filterMap (fun l => match s.tierVa x l with | .error e => some (l, e) | .ok _ => none)
        match bad with
        | (l, cs, q) :: _ =>
          s.trapAt x { cause := cs, qual := q, lmask := maskOf (bad.map (·.1)), addr := BitVec.ofNat 64 (x.rd s l 64 .zero .a) }
        | [] =>
          let r := (s.clearDisc x.c).pinReqs x (s.pinWants x o pin) [] []
          r.1.pinWait x r.2 (ls.map (fun l => (l, x.rd s l 64 .zero .a))))

/-- tier.pin (R42, R338). -/
def execTierPin (o : Opr) (s : State) : Out := s.tierAccess (.tierPin o) o true
/-- tier.unpin (R42, R338). -/
def execTierUnpin (o : Opr) (s : State) : Out := s.tierAccess (.tierUnpin o) o false

/-- The leaf of an address as memory holds it, without the checks of an access: none when there is no well-formed one. -/
def State.leafNow (s : State) (asid va : Nat) : Got (Option (Nat × Nat × Nat)) :=
  if s.fld 0 63 1 = 0 then .ok none
  else match s.poolSays (s.descAt asid), s.walkHold (s.descAt asid) 8 with
    | .wait, _ | .serve, some _ | .lost, some _ => .hold
    | .other _, _ | .absent, _ => .ok none
    | .serve, none | .lost, none =>
      let d := s.asDesc asid
      if d % 2 = 0 ∨ !descOk d ∨ asid = 0 then .ok none
      else match s.walkFrom va 5 (bits d 16 41 * 2 ^ 11) 0 with
        | .hold _ => .hold
        | .fault _ _ | .owner _ _ => .ok none
        | .leaf lvl eA e => .ok (some (lvl, eA, e))

/-- The migration in COPY or CATCH of a page. -/
def State.movingOf (s : State) (ppn : Nat) : Option (Nat × Fwd) :=
  match s.fwdOf ppn with | some (i, f) => if f.st = .committed then none else some (i, f) | none => none

/-- The result of tier.query (R339). -/
def State.tierWord (s : State) (va lvl e : Nat) : Nat :=
  let ppn := bits e 16 36 + pageOff va lvl / 0x10000
  let m := s.movingOf ppn
  bits e 9 2 + at' (bits e 11 2) 2 2 + at' (bits e 13 3) 4 3 + at' (bits e 7 1) 7 1 + at' (bit m.isSome) 8 1
    + at' (match m with | some (_, f) => f.dstTier | none => 0) 9 2 + at' (sizeCode lvl) 11 2 + 2 ^ 13

/-- tier.query (R338, R339): variable-latency. -/
def execTierQuery (o : Opr) (s : State) : Out :=
  s.issue (.tierQuery o) false (fun s x =>
    match s.gateOf x.c false with
    | some w => s.holdAs x w
    | none =>
      let word (l : Nat) : Got Nat := match s.tierVa x l with
        | .error _ => .ok 0
        | .ok va => match s.leafNow x.c.asid va with
          | .ok (some (lvl, _, e)) => .ok (s.tierWord va lvl e)
          | .ok none => .ok 0
          | .trap t => .trap t
          | .hold => .hold
      if (lanesOf x.part).any (fun l => decide (word l = .hold)) then s.holdAs x (.held 7)
      else s.pend x x.c { writes := x.laneWrites (fun l => x.wr l 64 false (match word l with | .ok v => v | _ => 0)), flag := none })

/-! ### Accepting a hint or a pin -/

/-- A free-frame ring entry is acceptable (R51). -/
def State.frameOk (s : State) (v t e : Nat) : Bool :=
  let ppn := bits e 16 36
  bits e 0 16 = 0 && bits e 52 12 = 0 && region (ppn * 0x10000) = t && s.populated (ppn * 0x10000) 0x10000 && s.granted v ppn
    && (t ≠ 2 || match s.mig.facts.find? (ppn - 2 ^ 33) with | some f => f.owned && f.handover.isNone | none => false)

/-- The head of a device's free-frame ring, or none when it is empty or disabled (R51, R66). -/
def State.ringHead (s : State) (v t : Nat) : Option Nat :=
  let i := tslot v + 0x28 + 16 * t
  match s.ring (tslot v + 0x20 + 16 * t) with
  | none => none
  | some (sz, base) => if s.fld i 0 22 = s.fld i 32 22 then none else some (s.physRd (base + s.fld i 0 22 % 2 ^ sz * 8) 8)

/-- Frames taken from the ring until one is acceptable; rejected ones are posted with BADFRAME (R41, R51). DESIGN CHOICE (log entry 91):
no page has a destination then, so NEW is a free value, and ASID is the address space of the leaf for which the frame was sought. -/
def State.takeFrame (s : State) (v t asid : Nat) : Nat → State × Option Nat
  | 0 => (s, none)
  | n + 1 =>
    match s.ringHead v t with
    | none => (s, none)
    | some e =>
      let i := tslot v + 0x28 + 16 * t
      let s := s.setFld i 0 22 ((s.fld i 0 22 + 1) % 2 ^ 22)
      if s.frameOk v t e then (s, some (bits e 16 36))
      else
        let new := (Config.free s.fresh).toNat % 2 ^ 36
        (({ s with fresh := s.fresh + 1 }).postComp v (compRec (bits e 16 36) 4 new asid)).takeFrame v t asid n

/-- Room in the quota of a tier (R44). -/
def State.quotaRoom (s : State) (v t : Nat) : Bool := s.fld (tslot v + 8 * t) 32 32 + 1 ≤ s.fld (tslot v + 8 * t) 0 32

/-- MIG starts a migration (R46): the leaf's MIG is set at its HA, and ownership of the page's lines recalled; so is that of the
frame's, whose lines the copy writes. -/
def State.startMig (s : State) (h : Hint) (t : Trans) (e dst : Nat) : State :=
  let src := bits e 16 36
  let f : Fwd := { src := src, dst := dst, dev := t.vdev, asid := h.asid, va := h.va, leafPA := t.leafPA, srcTier := bits e 9 2,
                   dstTier := h.tier, pin := h.pinReq.isSome, pins := h.pinReq.toList }
  let k := ((List.range 256).find? (fun k => (s.mig.fwd.find? k).isNone)).getD 0
  let s := { s with mig := { s.mig with fwd := s.mig.fwd.put k f } }
  let s := s.usedAdd t.vdev h.tier true
  let s := (s.physWr t.leafPA (leBytes 8 (e ||| 0x100))).1
  (List.range 512).foldl (fun s l => (s.writeBack (src * 512 + l)).writeBack (dst * 512 + l)) s

/-- What becomes of a hint or pin when MIG looks at it. -/
inductive HintRes where
  /-- Done with: it was dropped, honoured, attached or refused. -/
  | over (s : State)
  /-- A pin that waits for an entry or for another migration (R42). -/
  | wait
  /-- The leaf cannot be read yet. -/
  | hold

/-- A pin request ended. -/
def State.pinEnd (s : State) (h : Hint) (st : ReqSt) : State :=
  match h.pinReq with
  | some id => (match s.ms.reqs.find? id with
      | some r => { s with ms := { s.ms with reqs := s.ms.reqs.put id { r with st := st } } } | none => s)
  | none => s

/-- A hint against the leaf as it stands (R41). One whose page lies in the pool and is not this package's to read is dropped (R54). -/
def State.hintStep (s : State) (h : Hint) (t : Trans) (e : Nat) : State :=
  if t.lvl ≠ 4 ∨ bitOf e 7 ∨ bitOf e 8 ∨ !bitOf e (13 + h.tier) ∨ h.tier = bits e 9 2 ∨ !s.quotaRoom t.vdev h.tier
      ∨ 256 ≤ s.mig.fwd.length ∨ s.poolSays (bits e 16 36 * 0x10000) ≠ .serve then s
  else match s.takeFrame t.vdev h.tier h.asid (2 ^ 22) with
    | (s, none) => s
    | (s, some dst) => s.startMig h t e dst

/-- The leaf translated as a load, now that the pin has its effect: its A is set and a lease stands on it (R25, R338). -/
def State.useLeaf (s : State) (h : Hint) (t : Trans) : State × Nat :=
  match s.walk h.asid h.va .load h.priv with
  | (s, .ok u) => (s, u.pte)
  | (s, _) => (s, t.pte)

/-- A pin against the leaf as it stands (R42); one that cannot be honoured changes nothing. One that would move a pool page which is not
this package's to read raises MIGR OWNER, or waits while the page is handed over (R54). -/
def State.pinStep (s : State) (h : Hint) (t : Trans) : HintRes :=
  let e := t.pte
  let no (c : Cause) (q lv : Nat) : HintRes := .over (s.pinEnd h (.failed c q lv 0))
  if !bitOf e (13 + h.tier) then no .migr 0 0
  else if bitOf e 7 ∧ bits e 9 2 ≠ h.tier then no .migr 1 0
  else if t.lvl ≠ 4 ∧ bits e 9 2 ≠ h.tier then no .migr 2 0
  else match (if t.lvl = 4 then s.movingOf (bits e 16 36) else none) with
    | some (i, f) =>
      if f.dstTier = h.tier then
        let (s, _) := s.useLeaf h t
        .over { s with mig := { s.mig with fwd := s.mig.fwd.put i { f with pin := true, pins := f.pins ++ h.pinReq.toList } } }
      else .wait
    | none =>
      if bits e 9 2 = h.tier then
        let (s, e) := s.useLeaf h t
        .over (((s.physWr t.leafPA (leBytes 8 (e ||| 0x80))).1).pinEnd h (.done 0 0))
      else if 256 ≤ s.mig.fwd.length then .wait
      else if !s.quotaRoom t.vdev h.tier then no .quota 0 h.tier
      else match s.poolSays (bits e 16 36 * 0x10000) with
        | .wait => .wait
        | .other aux => .over (s.pinEnd h (.failed .migr 4 0 aux))
        | .absent => no .page qAbsent t.lvl
        | .lost => .over (s.pinEnd h (.failed .poison 2 0 (BitVec.ofNat 64 (s.poisonSeq (bits e 16 36 * 0x10000)))))
        | .serve => match s.takeFrame t.vdev h.tier h.asid (2 ^ 22) with
          | (s, none) => .over (s.pinEnd h (.failed .migr 3 0 0))
          | (s, some dst) => let (s, e) := s.useLeaf h t; .over (s.startMig h t e dst)

/-- A hint or pin judged against what the tables give for a load (R41, R42). -/
def State.migLook (s : State) (h : Hint) : HintRes :=
  match s.look h.asid h.va .load h.priv with
  | .hold _ => .hold
  | .fault c q l aux => .over (s.pinEnd h (.failed c q l aux))
  | .ok t => if h.pinReq.isSome then s.pinStep h t else .over (s.hintStep h t t.pte)

/-- MIG_ACCEPT (R41, R42, R46): the oldest hint or pin is taken. -/
def execMigAccept (s : State) : Out :=
  match s.mig.hints with
  | [] => .refused (.notEnabled "MIG_ACCEPT")
  | h :: rest =>
    let s := { s with mig := { s.mig with hints := rest } }
    match s.migLook h with
    | .over t => .next t
    | .wait => .next { s with mig := { s.mig with waiting := s.mig.waiting ++ [h] } }
    | .hold => .refused (.notEnabled "MIG_ACCEPT")

/-- The first waiting pin that waits no longer. -/
def State.pinRetry (s : State) : List Hint → List Hint → Option State
  | _, [] => none
  | before, h :: rest =>
    match ({ s with mig := { s.mig with waiting := before ++ rest } }).migLook h with
    | .over t => some t
    | _ => s.pinRetry (before ++ [h]) rest

/-- PIN_RETRY (R42): a pin that waited begins again. -/
def execPinRetry (s : State) : Out :=
  match s.pinRetry [] s.mig.waiting with
  | some t => .next t
  | none => .refused (.notEnabled "PIN_RETRY")

/-- The unpin of a page at its leaf's HA (R42): PIN clears, and a pin attached to a migration in flight is detached. -/
def State.unpinStep (s : State) (r : Req) : State × HaRes :=
  match s.walk r.asid r.va .load r.priv with
  | (s, .hold g) => (s, .hold g)
  | (s, .fault c q l aux) => (s, .fault c q l aux)
  | (s, .ok t) =>
    let s := match (if t.lvl = 4 then s.movingOf (bits t.pte 16 36) else none) with
      | some (i, f) =>
        { s with mig := { s.mig with fwd := s.mig.fwd.put i { f with pin := false, pins := [], loose := f.loose ++ f.pins } } }
      | none => s
    if bitOf t.pte 7 then ((s.physWr t.leafPA (leBytes 8 (t.pte - 0x80))).1, .ok 0 0) else (s, .ok 0 0)

/-! ### The migration -/

/-- A forwarding entry replaced. -/
def State.setFwd (s : State) (i : Nat) (f : Fwd) : State := { s with mig := { s.mig with fwd := s.mig.fwd.put i f } }

/-- The key under which a migrating page is held: its leaf's. -/
def State.fwdKey (s : State) (f : Fwd) : Nat := bits (s.physRd f.leafPA 8) 52 12

/-- The poison marks of a run of lines carried to another. -/
def State.carryPoison (s : State) (src dst n : Nat) : State :=
  (List.range n).foldl (fun s i => s.setPoison (dst + i) (s.poisoned (src + i))) s

/-- The lines of a chunk that MIG's copy finds under a key that is OFF, poisoned where they are not yet: one error-log entry of class
KEYOFF each (R407). -/
def State.poisonOff (s : State) (dev line n : Nat) : State :=
  (List.range n).foldl (fun s i => if s.poisoned (line + i) then s else s.poisonLine ((line + i) * 128) 6 dev) s

/-- CHUNK_COPY (R47): one chunk is copied and marked in one step; after the last the catch begins (R48). MIG's reads and writes of pool pages
are the HA's to serve (R54), and under a key that is OFF they poison the lines, at the source and at the destination (R407). -/
def execChunkCopy (f : Nat) (s : State) : Out :=
  match s.mig.fwd.find? f with
  | some e =>
    let src := e.src * 0x10000 + e.copied * 4096
    let dst := e.dst * 0x10000 + e.copied * 4096
    if e.st ≠ .copying ∨ 16 ≤ e.copied ∨ s.poolSays src ≠ .serve ∨ s.poolSays dst ≠ .serve then .refused (.notEnabled "CHUNK_COPY")
    else
      let key := s.fwdKey e
      let s := if s.keyMode key = 0 then (s.poisonOff e.dev (src / 128) 32).poisonOff e.dev (dst / 128) 32
        else (s.wrBytes key dst (s.rdBytes key src 4096)).carryPoison (src / 128) (dst / 128) 32
      let e := { e with copied := e.copied + 1 }
      .next (s.setFwd f (if e.copied = 16 then { e with st := .catching, catchAt := s.pt } else e))
  | none => .refused (.notEnabled "CHUNK_COPY")

/-- A line's directory entry handed to its new home, with the source tier's floor when it had none (R37, R48). -/
def State.handLine (s : State) (v a b : Nat) : State :=
  let d := s.dirOf v a
  let old := s.dirOf v b
  let m := s.ms
  let s := { s with ms := { m with dir := m.dir.erase a } }
  s.setDir b { d with owner := none, exp := Nat.max d.exp old.exp, gprev := Nat.max d.gprev old.gprev, pend := d.pend ++ old.pend }

/-- A line of a page that has moved. -/
def movedLine (src dst l : Nat) : Nat := if l / 512 = src then dst * 512 + l % 512 else l

/-- What names a page's lines follows the page: the source watch (R126), the tails that the scheduler watches (R355), and the tables of
updates and quarantined nodes (R140, R143). -/
def State.handWatch (s : State) (src dst : Nat) : State :=
  let w := (List.range 512).foldl (fun (w : SMap (List Nat)) i =>
    match w.find? (src * 512 + i) with
    | some ks => (w.erase (src * 512 + i)).put (dst * 512 + i) ((SMap.get [] w (dst * 512 + i)) ++ ks)
    | none => w) s.ms.watch
  { s with ms := { s.ms with watch := w },
           sch := { s.sch with tails := s.sch.tails.map (fun p => (p.1, (movedLine src dst p.2.1, p.2.2))) },
           kv := { s.kv with upds := s.kv.upds.map (fun u => { u with table := movedLine src dst u.table }),
                             quar := s.kv.quar.map (fun q => { q with table := movedLine src dst q.table }) },
           rsds := s.rsds.map (fun p => (p.1, { p.2 with ppns := p.2.ppns.map (fun n => if n = src then dst else n) })) }

/-- The held requests of a window go on, in the order in which they came (R48, R49). -/
def State.releaseWindow (s : State) (f : Fwd) : State :=
  let ids := (f.window.map (·.1)).reverse.dedup.reverse
  let s := ids.foldl (fun s id => match s.ms.reqs.find? id with
    | some r => { s with ms := { s.ms with reqs := s.ms.reqs.put id { r with st := .waiting } } } | none => s) s
  let next (id : Nat) : Instr := match s.ms.reqs.find? id with
    | some r => (match r.kind with | .load | .fill _ => .haRead id | .engine _ => (if r.lane = 0 then .haRead id else .haWrite id)
                                   | _ => .haWrite id)
    | none => .haRead id
  { s with todo := s.todo ++ ids.map next }

/-- The leaf after the swap: the destination's page and tier, MIG clear, and the pin that stands (R42, R48). -/
def Fwd.newLeaf (f : Fwd) (old : Nat) : Nat :=
  putBits (putBits (putBits (putBits old 16 36 f.dst) 9 2 f.dstTier) 8 1 0) 7 1 (bit f.pin)

/-- CATCH_SWAP (R48): the leaf is swapped, the directory and the watch are handed over, the entry is COMMITTED and the held
requests are released to the destination. -/
def execCatchSwap (f : Nat) (s : State) : Out :=
  match s.mig.fwd.find? f with
  | some e =>
    if e.st ≠ .catching ∨ e.catchAt + 6000 ≤ s.pt then .refused (.notEnabled "CATCH_SWAP")
    else
      let old := s.physRd e.leafPA 8
      let s := s.carryPoison (e.src * 512) (e.dst * 512) 512
      let s := s.dirtyLog e.dev (e.dst * 0x10000) 0 true
      let s := (s.physWr e.leafPA (leBytes 8 (e.newLeaf old))).1
      let s := (List.range 512).foldl (fun s i => s.handLine e.dev (e.src * 512 + i) (e.dst * 512 + i)) s
      let s := (s.handWatch e.src e.dst).usedAdd e.dev e.srcTier false
      let s := s.setFwd f { e with st := .committed, window := [], pins := [], loose := [],
                                   retireAt := SMap.get 0 s.ms.leafExp e.leafPA }
      .next ((s.pinsDone (e.pins ++ e.loose)).releaseWindow e)
  | none => .refused (.notEnabled "CATCH_SWAP")

/-- A write that the window holds was confirmed under a translation whose lease is about to end: MIG then reaches step 5 of R48 without
further delay, so that the write is performed within it (R114, R410). -/
def State.leaseEnds (s : State) (f : Fwd) : Bool :=
  f.window.any (fun w => match s.ms.reqs.find? w.1 with
    | some r => r.fixed.any (fun t => decide (t.2.exp ≤ s.pt + 200)) | none => false)

/-- CATCH_TIMEOUT (R49): 6,000 ticks after the catch began, back to COPY with every chunk copied, or abandoned after the third failure; the
held requests are released to the source. -/
def execCatchTimeout (f : Nat) (s : State) : Out :=
  match s.mig.fwd.find? f with
  | some e =>
    if e.st ≠ .catching ∨ s.pt < e.catchAt + 6000 then .refused (.notEnabled "CATCH_TIMEOUT")
    else
      let e' := { e with st := .copying, window := [], fails := e.fails + 1, retryAt := s.pt + 30000, status := 0 }
      let s := (s.setFwd f e').releaseWindow e
      .next (if e'.fails = 3 then s.abandon f 1 else s)
  | none => .refused (.notEnabled "CATCH_TIMEOUT")

/-- CATCH_RETRY (R49). -/
def execCatchRetry (f : Nat) (s : State) : Out :=
  match s.mig.fwd.find? f with
  | some e =>
    if e.st ≠ .copying ∨ e.copied ≠ 16 ∨ s.pt < e.retryAt then .refused (.notEnabled "CATCH_RETRY")
    else .next (s.setFwd f { e with st := .catching, catchAt := s.pt })
  | none => .refused (.notEnabled "CATCH_RETRY")

/-- MIG_RETIRE (R51): once the last translation lease on the old leaf has expired and the completion ring has room. -/
def execMigRetire (f : Nat) (s : State) : Out :=
  match s.mig.fwd.find? f with
  | some e =>
    let b := tslot e.dev + 0x50
    if e.st ≠ .committed ∨ s.pt < e.retireAt ∨ s.ringFull b (b + 8) ∨ s.mig.posts.any (fun p => p.1 = e.dev) then
      .refused (.notEnabled "MIG_RETIRE")
    else .next ((s.dropFwd f).postComp e.dev (compRec e.src e.status e.dst e.asid))
  | none => .refused (.notEnabled "MIG_RETIRE")

end Sys2Proof.Machine
end

