-- ==== Sys2Proof/Machine/Launch.lean ====
section
/-! DEFINITION. Launch records and their checks (R154 to R159), launch queues (R334, R352 to R358), completion (R164, R354, R356)
and the claims of rectangle launches (R363). -/

namespace Sys2Proof.Machine

/-! ### The launch record (R154 to R156) -/

/-- A level descriptor: DOM, EXT and the reserved bits (R155). -/
def levelOf (x l : Nat) : Nat × Nat × Nat := let w := bits x (128 + 32 * l) 32; (bits w 0 3, bits w 8 24, bits w 3 5)

/-- A range descriptor: START, LEN and the reserved bits (R156). -/
def rangeOf (x i : Nat) : Nat × Nat × Nat :=
  let w := bits x (1024 + 128 * i) 128
  (bits w 0 56, bits w 64 40, bits w 56 8 + bits w 104 24)

/-- A reserved field of the record is not zero (R7, R154). -/
def recReserved (x : Nat) : Bool :=
  [(11, 1), (15, 1), (24, 8), (48, 16), (116, 12), (440, 8), (504, 8), (760, 8), (779, 21), (812, 4), (825, 199)].any
      (fun f => bits x f.1 f.2 ≠ 0)
    || (List.range 8).any (fun l => (levelOf x l).2.2 ≠ 0 || (levelOf x l).1 = 7
        || (bits x 16 4 ≤ l && bits x (128 + 32 * l) 32 ≠ 0))
    || (List.range 8).any (fun i => (rangeOf x i).2.2 ≠ 0)

/-- The fields of a record (R154). -/
def lrecOf (x : Nat) : LRec :=
  { format := bits x 0 8, idemp := bitOf x 8, tree := bitOf x 9, cint := bitOf x 10, opp := bits x 12 3, nlev := bits x 16 4,
    gfall := bits x 20 4, asid := bits x 32 16, grid := bits x 64 32, mrowb := bits x 96 5, mcolb := bits x 101 5,
    mrows := bits x 106 5, mcols := bits x 111 5,
    levels := (List.range (Nat.min (bits x 16 4) 8)).map (fun l => ((levelOf x l).1, (levelOf x l).2.1)),
    coxpc := BitVec.ofNat 64 (bits x 384 56), lanepc := BitVec.ofNat 64 (bits x 448 56), args := BitVec.ofNat 64 (bits x 512 64),
    compaddr := BitVec.ofNat 64 (bits x 576 64), compval := BitVec.ofNat 64 (bits x 640 64),
    llbase := BitVec.ofNat 64 (bits x 704 56), llsize := bits x 768 11, vgran := bits x 800 8, acst := bits x 808 4,
    aspk := bits x 816 9, ranges := (List.range 8).map (fun i => ((rangeOf x i).1, (rangeOf x i).2.1)),
    reservedSet := recReserved x }

/-- DOM and EXT of a level. -/
def LRec.level (r : LRec) (l : Nat) : Nat × Nat := (r.levels[l]?).getD (0, 0)
/-- GROUP EXT: lanes of a group. -/
def LRec.lanes (r : LRec) : Nat := (r.level 1).2
/-- BLOCK EXT: groups of a block. -/
def LRec.groups (r : LRec) : Nat := (r.level 2).2
/-- Levels above BLOCK. -/
def LRec.upper (r : LRec) : List (Nat × Nat) := r.levels.drop 3
/-- The MESH levels. -/
def LRec.mesh (r : LRec) : List (Nat × Nat) := r.levels.filter (fun l => l.1 = 6)
/-- The preferred gang size (R160). -/
def LRec.gangExt (r : LRec) : Nat := match r.levels.find? (fun l => l.1 = 3) with | some l => l.2 | none => 1
/-- TB of R158. -/
def LRec.tb (r : LRec) : Nat := r.upper.foldl (fun n l => n * l.2) r.grid
/-- Blocks of one unit of a level: the product of the extents from GANG level to it. -/
def LRec.blocksIn (r : LRec) (dom : Nat) : Nat := (r.upper.filter (fun l => l.1 ≤ dom)).foldl (fun n l => n * l.2) 1
/-- The launch names a level of the domain. -/
def LRec.has (r : LRec) (dom : Nat) : Bool := r.levels.any (fun l => l.1 = dom)

/-- COMPADDR is 0, or passes check 11 (R157). -/
def LRec.sigOk (r : LRec) : Bool := r.compaddr = 0 || (bits r.compaddr.toNat 60 4 ≤ 3 && r.compaddr.toNat % 8 = 0)

/-- Each DOM is above the one below it, but for a MESH on a MESH (check 3 of R157). -/
def domsRise : List (Nat × Nat) → Bool
  | a :: b :: ls => (decide (a.1 < b.1) || (a.1 = 6 && b.1 = 6)) && domsRise (b :: ls)
  | _ => true

/-- Every MESH level stands on PACKAGE or on another MESH (check 12 of R157). -/
def meshOnPackage : List (Nat × Nat) → Bool
  | a :: b :: ls => (b.1 ≠ 6 || a.1 = 5 || a.1 = 6) && meshOnPackage (b :: ls)
  | _ => true

/-- Check 12 of R157 fails. -/
def LRec.meshBad (r : LRec) : Bool :=
  let ms := r.mesh
  if ms = [] then r.mrowb ≠ 0 || r.mcolb ≠ 0 || r.mrows ≠ 0 || r.mcols ≠ 0
  else !meshOnPackage r.levels || decide (24 < r.mrowb + r.mrows) || decide (24 < r.mcolb + r.mcols) || r.mrows = 0 || r.mcols = 0
    || r.grid ≠ 1 || (match ms with
      | [m] => m.2 ≠ r.mrows * r.mcols
      | [a, b] => a.2 ≠ r.mcols || b.2 ≠ r.mrows
      | _ => true)

/-- Checks 1 to 12 of R157, in order: the code of the first to fail. -/
def LRec.check (r : LRec) : Option Nat :=
  let bad : List (Nat × Bool) :=
    [(1, r.format ≠ 1), (2, r.reservedSet),
     (3, r.nlev < 3 || 8 < r.nlev || r.level 0 ≠ (0, 1) || (r.level 1).1 ≠ 1 || (r.level 2).1 ≠ 2 || !domsRise r.levels),
     (4, r.lanes = 0 || 32 < r.lanes || r.groups = 0 || 48 < r.groups || r.levels.any (fun l => l.2 = 0) || r.grid = 0
         || 0xFFFFFFFF < r.tb),
     (5, r.gfall = 0 || 8 < r.gfall || (if r.has 3 then 8 < r.gangExt || r.gangExt % r.gfall ≠ 0 else r.gfall ≠ 1)),
     (6, r.vgran = 0 || 8 < r.vgran || 256 < r.groups * r.vgran),
     (7, 384 < r.aspk || 8 < r.acst),
     (8, r.coxpc.toNat % 64 ≠ 0 || r.lanepc.toNat % 64 ≠ 0),
     (9, (r.llsize ≠ 0 && (r.llsize < 2 || 1024 < r.llsize)) || r.llbase.toNat % 0x10000 ≠ 0),
     (10, r.ranges.any (fun g => g.2 ≠ 0 && 2 ^ 56 < g.1 + g.2)),
     (11, !r.sigOk), (12, r.meshBad)]
  ((bad.filter (·.2)).head?).map (·.1)

/-- Check 13 of R157 passes for a device. -/
def State.asidOk (s : State) (asid v : Nat) : Bool :=
  let d := s.asDesc asid
  d % 2 = 1 && descOk d && bits d 8 6 = v

/-! ### Queues (R352, R353) -/

/-- A register of a queue's slot. -/
def qreg (q r : Nat) : Nat := schB + 0x40 * q + r

/-- Launches of a queue taken and not complete (R352). -/
def State.takenOf (s : State) (q : Nat) : Nat := (s.sch.launches.filter (fun p => p.2.queue = q && p.2.home.isNone)).length

/-- The owner of a queue. -/
def State.qdev (s : State) (q : Nat) : Nat := s.fld (qreg q 0) 8 6

/-- A queue event recorded, the first kept and later ones counted, with the device's queue interrupt (R352, R356, R357). -/
def State.queueEvent (s : State) (q ev code qual index : Nat) : State :=
  let o := qreg q 0x28
  let s := if s.fld o 0 4 = 0 then
      s.setReg o (BitVec.ofNat 64 (at' ev 0 4 + at' code 4 8 + at' qual 12 4 + at' index 16 32))
    else s.setFld o 48 16 (Nat.min (s.fld o 48 16 + 1) 0xFFFF)
  s.interrupt (s.qdev q) 1 0x7F q 0

/-- A queue stopped (R355, R356). -/
def State.queueStop (s : State) (q : Nat) : State := s.setFld (qreg q 0x20) 0 2 2

/-- A RINGFAULT (R355). -/
def State.ringFault (s : State) (q : Nat) (c : Cause) (qual index : Nat) : State :=
  (s.queueStop q).queueEvent q 4 c.code qual index

/-- QCFG_WRITE: a write to a queue's slot (R353): while EN = 1 only a write that clears EN counts; one that sets EN is refused
whole when a reserved bit is set or a host queue's SIZE lies outside 4 to 16. DESIGN CHOICE (log entry 102): the tail word is read anew once
EN is set, before anything is taken. -/
def execQcfgWrite (w : RegW) (s : State) : Out :=
  let q := (w.off - schB) / 0x40
  let r := (w.off - schB) % 0x40
  let v := w.val.toNat
  if s.fld (qreg q 0) 0 1 = 1 then
    .next (if r = 0 ∧ !bitOf v 0 then (s.setFld (qreg q 0) 0 1 0).setFld (qreg q 0x20) 0 2 0 else s)
  else if r = 0 then
    let bad : Bool := bits v 3 5 ≠ 0 || bits v 14 2 ≠ 0 || bits v 19 1 ≠ 0 || bits v 29 3 ≠ 0 || bits v 48 16 ≠ 0
      || (!bitOf v 1 && (bits v 24 5 < 4 || 16 < bits v 24 5))
    let keep := bits v 0 3 + at' (s.qdev q) 8 6 + at' (bits v 16 3) 16 3 + at' (bits v 20 4) 20 4 + at' (bits v 24 5) 24 5
      + at' (bits v 32 16) 32 16
    if bitOf v 0 then
      if bad then .next s
      else
        let s := (s.setReg (qreg q 0) (BitVec.ofNat 64 keep)).setFld (qreg q 0x20) 0 2 1
        .next { s with sch := { s.sch with tails := s.sch.tails.erase q } }
    else .next (s.setReg (qreg q 0) (BitVec.ofNat 64 keep))
  else if r = 8 then .next (s.setReg w.off (BitVec.ofNat 64 (bits v 8 48 * 2 ^ 8)))
  else if r = 0x10 then .next (s.setReg w.off (BitVec.ofNat 64 (bits v 4 52 * 2 ^ 4)))
  else if r = 0x18 then .next (s.setFld w.off 0 32 v)
  else .next s

/-! ### Completion (R164, R354, R356) -/

/-- A launch replaced. -/
def State.setLaunch (s : State) (l : Nat) (x : Launch) : State := { s with sch := { s.sch with launches := s.sch.launches.put l x } }

/-- A claim of a home's launch freed (R363). -/
def State.dropClaim (s : State) (row col id : Nat) : State :=
  { s with sch := { s.sch with claims := s.sch.claims.filter (fun r => !(r.row = row && r.col = col && r.id = id)) } }

/-- A launch leaves the scheduler. -/
def State.dropLaunch (s : State) (l : Nat) : State :=
  let m := s.sch
  { s with sch := { m with launches := m.launches.erase l, order := m.order.filter (· ≠ l) } }

/-- The home releases every claim of a launch: its own, and those of the members that have been asked (R363). -/
def State.releaseClaims (s : State) (l : Nat) (x : Launch) : State :=
  let s := s.dropClaim s.meshPos.1 s.meshPos.2 l
  match x.rect with
  | some g => ((g.members.take (g.granted + 1)).filter (· ≠ s.meshPos)).foldl (fun s m => s.tell m (.rectRelease l)) s
  | none => s

/-- A launch is complete: it leaves its queue, its claims are released, QDONE counts it, and the completion interrupt follows (R354,
R363, R404). -/
def State.complete (s : State) (l : Nat) : State :=
  match s.sch.launches.find? l with
  | none => s
  | some x =>
    let s := (s.dropLaunch l).releaseClaims l x
    let o := qreg x.queue 0x30
    let s := s.setReg o (BitVec.ofNat 64 ((s.reg o).toNat + 1))
    if x.record.cint then s.interrupt x.dev 2 0x7F x.queue x.lindex else s

/-- A member's part of another home's launch is over: the home hears of it, and the claim stays until the home releases it (R363). -/
def State.memberEnds (s : State) (l : Nat) : State :=
  match s.sch.launches.find? l with
  | none => s
  | some x => match x.home with
    | some (pos, id) => if x.ended then s else (s.setLaunch l { x with ended := true }).tell (pos / 32, pos % 32) (.rectRetired id)
    | none => s

/-- The space under which completion signals stand. -/
def sigSpace : Nat := 96

/-- The completion signal sent on its way, or the launch complete at once when it has none (R164, R354). -/
def State.signal (s : State) (l val : Nat) : State :=
  match s.sch.launches.find? l with
  | none => s
  | some x =>
    if x.record.compaddr = 0 ∨ !x.record.sigOk then s.complete l
    else
      ((s.setLaunch l { x with ended := true }).addReq
        { cid := noThreadId, lane := l, kind := .store (leBytes 8 val), space := sigSpace, va := x.record.compaddr.toNat, size := 8,
          asid := x.record.asid, dev := x.dev, priv := false, die := 2, core := 0, tc := 1, since := s.pt }).1

/-- The signal store at its performing point, in the launch's ASID without privilege: a fault leaves it unperformed and is a queue
event, and the launch counts as complete (R164, R356). -/
def State.sigStep (s : State) (r : Req) : State × HaRes :=
  let l := r.lane
  let fail (s : State) (c : Cause) (q : Nat) : State :=
    match s.sch.launches.find? l with
    | some x => (s.queueEvent x.queue 2 c.code (q % 16) x.lindex).complete l
    | none => s
  if bits r.va 56 4 ≠ 0 then (fail s .space 2, .ok 0 0)
  else match s.perform { asid := r.asid, va := bits r.va 0 56, n := 8, priv := false, who := hubW, atL := .ha }
      r.kind.haOp with
    | (s, .ok _ g) => (s.complete l, .ok 0 g)
    | (s, .fault c q _ _) => (fail s c q, .ok 0 0)
    | x => x

/-- A launch refused (R157, R356, R363): it starts nothing, its signal carries the code, the event is recorded, and HALT stops its
queue while that is enabled. -/
def State.refuse (s : State) (l code : Nat) : State :=
  match s.sch.launches.find? l with
  | none => s
  | some x =>
    let s := (s.setLaunch l { x with ended := true, rect := none }).releaseClaims l x
    let s := if s.fld (qreg x.queue 0) 0 1 = 1 ∧ s.fld (qreg x.queue 0) 2 1 = 1 then s.queueStop x.queue else s
    (s.queueEvent x.queue 1 code 0 x.lindex).signal l (2 ^ 63 + code)

/-- Every block of the launch has retired here: a member reports it to its home, and at the home of a rectangle its own part is
done (R164, R363). -/
def State.launchDone (s : State) (l : Nat) : State :=
  match s.sch.launches.find? l with
  | none => s
  | some x =>
    if x.home.isSome then s.memberEnds l
    else match x.rect with
    | some g =>
      let done := match g.members.idxOf? s.meshPos with | some i => if g.done.contains i then g.done else g.done ++ [i] | none => g.done
      let s := s.setLaunch l { x with rect := some { g with done := done } }
      if (List.range g.members.length).all (fun i => done.contains i) then s.signal l x.record.compval.toNat else s
    | none => s.signal l x.record.compval.toNat

/-! ### Taking a launch (R354, R356, R157) -/

/-- The members of a rectangle, in the order of claims (R363). -/
def LRec.members (r : LRec) : List (Nat × Nat) :=
  (List.range r.mrows).flatMap (fun i => (List.range r.mcols).map (fun j => (r.mrowb + i, r.mcolb + j)))

/-- The home claims the next member, unless that is itself: its own claim is the event RECT_CLAIM (R363). -/
def State.claimNext (s : State) (l : Nat) : State :=
  match s.sch.launches.find? l with
  | some x => (match x.rect with
    | some g => (match g.members[g.granted]? with
      | some m => if m = s.meshPos then s else
          s.tell m (.rectClaim { row := s.meshPos.1, col := s.meshPos.2, id := l, queue := x.queue, lindex := x.lindex, vdev := x.dev,
                                 prio := x.prio, record := g.bytes })
      | none => s)
    | none => s)
  | none => s

/-- The blocks that a package runs: the first number and how many (R158, R159). -/
def State.ownBlocks (s : State) (r : LRec) : Nat × Nat :=
  if !r.has 6 then (0, r.tb)
  else
    let (row, col) := s.meshPos
    let per := r.blocksIn 5
    if r.mrowb ≤ row ∧ row < r.mrowb + r.mrows ∧ r.mcolb ≤ col ∧ col < r.mcolb + r.mcols then
      (((row - r.mrowb) * r.mcols + (col - r.mcolb)) * per, per)
    else (0, 0)

/-- A record enters a queue: the launch is taken and checked (R157, R354, R356). -/
def State.take (s : State) (q : Nat) (bytes : List Byte) : State :=
  let r := lrecOf (leNat bytes)
  let head := s.fld (qreg q 0x18) 0 32
  let s := s.setFld (qreg q 0x18) 0 32 ((head + 1) % 2 ^ 32)
  let v := s.qdev q
  let (b0, n) := s.ownBlocks r
  let l := s.sch.nextLaunch
  let x : Launch :=
    { queue := q, lindex := head, dev := v, prio := s.fld (qreg q 0) 16 3, record := r, first := b0, total := n,
      rect := if r.has 6 then some { members := r.members, since := s.pt, bytes := bytes } else none }
  let m := s.sch
  let s := { s with sch := { m with launches := m.launches.put l x, nextLaunch := l + 1, order := m.order ++ [l] } }
  match r.check with
  | some c => s.refuse l c
  | none => if s.asidOk r.asid v then s.claimNext l else s.refuse l 13

/-- Bytes read by the scheduler in a queue's address space, without privilege (R355). -/
def State.qread (s : State) (q va n : Nat) : State × HaRes :=
  s.perform { asid := s.fld (qreg q 0) 32 16, va := va, n := n, priv := false, who := hubW, atL := .ha } .rd

/-- A host queue that runs (R352). -/
def State.hostRuns (s : State) (q : Nat) : Bool :=
  s.fld (qreg q 0) 0 1 = 1 && s.fld (qreg q 0) 1 1 = 0 && s.fld (qreg q 0x20) 0 2 = 1

/-- LAUNCH_TAKE (R354, R355): a host queue with room, whose tail word has been read since EN was set, takes its next record and stores the new
HEAD to the head word. -/
def execLaunchTake (q : Nat) (s : State) : Out :=
  let no : Out := .refused (.notEnabled "LAUNCH_TAKE")
  let head := s.fld (qreg q 0x18) 0 32
  if 256 ≤ q ∨ !s.hostRuns q ∨ (s.sch.tails.find? q).isNone ∨ head = s.fld (qreg q 0x18) 32 32 ∨ 16 ≤ s.takenOf q then no
  else
    let va := (s.fld (qreg q 8) 8 48 * 256 + 256 * (head % 2 ^ s.fld (qreg q 0) 24 5)) % 2 ^ 56
    match s.qread q va 128 with
    | (s, .fault c ql _ _) => .next (s.ringFault q c ql head)
    | (s, .ok lo _) =>
      (match s.qread q (va + 128) 128 with
       | (s, .fault c ql _ _) => .next (s.ringFault q c ql head)
       | (s, .ok hi _) =>
         let s := s.take q (leBytes 128 lo ++ leBytes 128 hi)
         (match s.perform { asid := s.fld (qreg q 0) 32 16, va := (s.fld (qreg q 0x10) 4 52 * 16 + 8) % 2 ^ 56, n := 4, priv := false,
                            who := hubW, atL := .ha } (.wr (leBytes 4 ((head + 1) % 2 ^ 32))) with
          | (s, .ok _ _) => .next s
          | (s, .fault c ql _ _) => .next (s.ringFault q c ql head)
          | _ => no)
       | _ => no)
    | _ => no

/-- The tail word is to be read: it has not been since EN was set, or its line has had a write since, whose G has come (R355). -/
def State.tailDue (s : State) (q : Nat) : Bool :=
  match s.sch.tails.find? q with
  | none => true
  | some (_, some g) => decide (g ≤ s.pt)
  | some (_, none) => false

/-- The tail word lies beyond the ring, or has moved back from the value last read (R355, R366). -/
def tailBad (head : Nat) (old : Option Nat) (new size : Nat) : Bool :=
  decide (2 ^ size < (new + 2 ^ 32 - head) % 2 ^ 32)
    || (match old with | some o => decide (2 ^ 31 ≤ (new + 2 ^ 32 - o) % 2 ^ 32) | none => false)

/-- TAIL_WATCH (R355, R366): the tail word is read again after a write of its line, once the write is visible, and when the queue has been
enabled; a tail that moves back or too far ahead is an OVERRUN. Either way TAIL holds the value read (R352). -/
def execTailWatch (q : Nat) (s : State) : Out :=
  if 256 ≤ q ∨ !s.hostRuns q ∨ !s.tailDue q then .refused (.notEnabled "TAIL_WATCH")
  else
    let va := s.fld (qreg q 0x10) 4 52 * 16
    let head := s.fld (qreg q 0x18) 0 32
    let old : Option Nat := if (s.sch.tails.find? q).isSome then some (s.fld (qreg q 0x18) 32 32) else none
    match s.qread q va 4 with
    | (s, .ok t _) =>
      let s := match s.paOf (s.fld (qreg q 0) 32 16) va with
        | some (pa, _) => { s with sch := { s.sch with tails := s.sch.tails.put q (pa / 128, none) } }
        | none => s
      let bad := tailBad head old t (s.fld (qreg q 0) 24 5)
      let s := s.setFld (qreg q 0x18) 32 32 t
      .next (if bad then (s.queueStop q).queueEvent q 3 0 0 head else s)
    | (s, .fault c ql _ _) => .next (s.ringFault q c ql head)
    | _ => .refused (.notEnabled "TAIL_WATCH")

/-! ### The launch instruction (R334, R356) -/

/-- launch: RANGE, SPACE, ALIGN and PERM at issue, a release wait, the record read as package-scope loads, and the status. -/
def execLaunch (o : Opr) (s : State) : Out :=
  s.issue (.launch o) false (fun s x =>
    match s.blk? x.c.blk with
    | none => s.trapAt x rangeOperand
    | some b =>
      let q := x.s64 s .b
      let ptr := x.s64 s .a
      match firstTrap [if 255 < q then some rangeOperand else none, b.engSpace ptr 256 true false false, engAlign ptr 256,
          if s.qdev q ≠ b.dev then some { cause := .perm, qual := qGrant } else none] with
      | some t => s.trapAt x t
      | none => match s.orderWait x.c true .rel .pkg with
        | some w => s.holdAs x w
        | none =>
            let w : KvWho := { asid := b.asid, dev := b.dev, who := threadW x.cid, core := none, die := 2, cid := some x.cid }
            match andThen (s.kvRd w ptr 128) (fun s lo => andThen (s.kvRd w (ptr + 128) 128) (fun s hi => (s, .ok (lo + hi * 2 ^ 1024)))) with
            | (s, .hold) => s.holdAs x (.held 8)
            | (s, .trap t) => s.trapAt x { t with addr := BitVec.ofNat 64 ptr }
            | (s, .ok v) =>
              let s := s.clearDisc x.c
              let st := if s.fld (qreg q 0) 0 1 = 0 ∨ s.fld (qreg q 0x20) 0 2 = 2 ∨ s.fld (qreg q 0) 1 1 = 0 then 2
                else if 16 ≤ s.takenOf q then 1 else 0
              let s := if st = 0 then (s.take q (leBytes 256 v)).setFld (qreg q 0x18) 32 32 ((s.fld (qreg q 0x18) 32 32 + 1) % 2 ^ 32) else s
              match s.ctxs.find? x.cid with
              | some c => s.retire x ((c.passGate true).applyAll (x.sWrites 1 st))
              | none => s)

/-! ### Range dependence (R358) -/

/-- A used range rounded outward, and whether it is written. -/
def LRec.rounded (r : LRec) : List (Nat × Nat × Bool) :=
  (r.ranges.zipIdx.filter (fun p => p.1.2 ≠ 0)).map (fun p =>
    (p.1.1 / 256 * 256, (p.1.1 + p.1.2 + 255) / 256 * 256, decide (4 ≤ p.2)))

/-- Two launches conflict. -/
def LRec.conflicts (a b : LRec) : Bool :=
  a.rounded.any (fun p => b.rounded.any (fun q => decide (p.1 < q.2.1 ∧ q.1 < p.2.1) && (p.2.2 || q.2.2)))

/-- The launch is held by an earlier launch of its queue group that has not completed; at its home only. -/
def State.heldLaunch (s : State) (l : Nat) (x : Launch) : Bool :=
  x.home.isNone && (s.sch.order.takeWhile (· ≠ l)).any (fun e => match s.sch.launches.find? e with
    | some y => y.home.isNone && y.dev = x.dev && s.fld (qreg y.queue 0) 20 4 = s.fld (qreg x.queue 0) 20 4
        && y.record.conflicts x.record
    | none => false)

/-! ### Rectangle launches (R363) -/

/-- A window admits the device from the home (R363, R419). -/
def State.hasWindow (s : State) (row col vdev : Nat) : Bool := (s.fwinMatch row col vdev).isSome

/-- A Kwekor port is up (R417). -/
def State.portUp (s : State) (plane : Nat) : Bool := s.fld (fabB + 0x1C0 + 8 * plane) 0 1 = 1
/-- The planes whose ports are up here. -/
def State.planesUp (s : State) : List Nat := (List.range 8).filter s.portUp
/-- Some plane is. -/
def State.kwekorUp (s : State) : Bool := (List.range 8).any s.portUp

/-- The routing table of n members: a plane, and so a port, for each pair. DESIGN CHOICE (log entry 94): each is a free choice among
the planes whose ports are up at the home. -/
def State.routesFor (s : State) (n : Nat) : List (Nat × Nat × Nat) :=
  ((List.range n).flatMap (fun i => ((List.range n).filter (i < ·)).map (fun j => (i, j)))).zipIdx.map (fun p =>
    (p.1.1, p.1.2, ((s.planesUp)[Config.choice (s.fresh + p.2) % Nat.max 1 s.planesUp.length]?).getD 0))

/-- The check of a member: every route that it must use leads through a port that is up (R363). -/
def State.routesGood (s : State) (me : Nat) (table : List (Nat × Nat × Nat)) : Bool :=
  table.all (fun r => (r.1 ≠ me && r.2.1 ≠ me) || s.portUp r.2.2)

/-- Every member has granted: the home builds the routing table and loads it into each (R363). -/
def State.loadRoutes (s : State) (l : Nat) : State :=
  match s.sch.launches.find? l with
  | some x => (match x.rect with
    | some g =>
      let table := s.routesFor g.members.length
      let s := { s.setLaunch l { x with rect := some { g with table := table, loaded := true } } with fresh := s.fresh + table.length }
      (g.members.filter (· ≠ s.meshPos)).foldl (fun s m => s.tell m (.rectRoutes l table)) s
    | none => s)
  | none => s

/-- A member's answer to the home's claim of it: the next member is claimed, or, with the last grant, the routes are loaded; or the
launch is refused (R363). -/
def State.rectAnswer (s : State) (l : Nat) (refused : Option Nat) : State :=
  match s.sch.launches.find? l with
  | some x => (match x.rect with
    | some g =>
      if x.ended ∨ g.members.length ≤ g.granted ∨ x.home.isSome then s
      else match refused with
        | some c => s.refuse l (if c = 13 then 13 else 14)
        | none =>
          let s := s.setLaunch l { x with rect := some { g with granted := g.granted + 1, since := s.pt } }
          if g.granted + 1 = g.members.length then s.loadRoutes l else s.claimNext l
    | none => s)
  | none => s

/-- The number under which a home's launch runs here. -/
def State.memberOf (s : State) (row col id : Nat) : Option (Nat × Launch) :=
  List.find? (fun p => decide (p.2.home = some (row * 32 + col, id))) s.sch.launches

/-- The routing table of another home's launch arrives (R363). -/
def State.rectRoutes (s : State) (row col id : Nat) (table : List (Nat × Nat × Nat)) : State :=
  match s.memberOf row col id with
  | some (l, x) => (match x.rect with
    | some g => s.setLaunch l { x with rect := some { g with table := table, loaded := true } }
    | none => s)
  | none => s

/-- The next member that a home claims is itself. -/
def State.claimsSelf (s : State) (l : Nat) : Bool :=
  match s.sch.launches.find? l with
  | some x => (match x.rect with
    | some g => !x.ended && x.home.isNone && g.members[g.granted]? = some s.meshPos
    | none => false)
  | none => false

/-- A granted claim of another package: the launch that stands for it here (R363). -/
def State.takeRect (s : State) (r : RectReq) : State :=
  let rec' := lrecOf (leNat r.record)
  let (b0, n) := s.ownBlocks rec'
  let x : Launch :=
    { queue := r.queue, lindex := r.lindex, dev := r.vdev, prio := r.prio, record := rec', first := b0, total := n,
      rect := some { members := rec'.members }, home := some (r.row * 32 + r.col, r.id) }
  let m := s.sch
  { s with sch := { m with launches := m.launches.put m.nextLaunch x, nextLaunch := m.nextLaunch + 1, order := m.order ++ [m.nextLaunch] } }

/-- The reason for which this package refuses a claim on it: no window for its device, or an address space that check 13 turns away
(R363). -/
def State.rectCode (s : State) (r : RectReq) : Option Nat :=
  let asid := match (if (r.row, r.col) = s.meshPos then s.sch.launches.find? r.id else none) with
    | some x => x.record.asid | none => (lrecOf (leNat r.record)).asid
  if !s.hasWindow r.row r.col r.vdev then some 14 else if !s.asidOk asid r.vdev then some 13 else none

/-- RECT_CLAIM (R363): a claim on this package, by its own home or another's, which hears the answer. While the four entries are held
it waits; it is granted when the device has a window here and check 13 passes. -/
def execRectClaim (r : RectReq) (s : State) : Out :=
  let own : Bool := (r.row, r.col) = s.meshPos
  if 4 ≤ s.sch.claims.length ∨ (own ∧ !s.claimsSelf r.id) then .refused (.notEnabled "RECT_CLAIM")
  else if s.sch.claims.any (fun c => c.row = r.row && c.col = r.col && c.id = r.id) then .refused (.notEnabled "RECT_CLAIM")
  else
    let code := s.rectCode r
    let s := if code.isNone then { s with sch := { s.sch with claims := s.sch.claims ++ [r] } } else s
    if own then .next (s.rectAnswer r.id code)
    else
      let s := s.tell (r.row, r.col) (.rectAnswer r.id code)
      .next (if code.isNone then s.takeRect r else s)

/-- RECT_CLAIM_TIMEOUT (R363): no answer within 3,000,000 ticks. The limit covers a member that has not answered the claim, and no
member that granted and has yet to report its route check (log entry 102). -/
def execRectClaimTimeout (l member : Nat) (s : State) : Out :=
  match s.sch.launches.find? l with
  | some x => (match x.rect with
    | some g =>
      if x.ended || x.home.isSome || member ≠ g.granted || decide (g.members.length ≤ member) || decide (s.pt < g.since + 3000000) then
        .refused (.notEnabled "RECT_CLAIM_TIMEOUT")
      else .next (s.refuse l 14)
    | none => .refused (.notEnabled "RECT_CLAIM_TIMEOUT"))
  | none => .refused (.notEnabled "RECT_CLAIM_TIMEOUT")

/-- RECT_ROUTE_REPORT (R363): a member reports its route check, at the home once every member has granted, or as a member of another
home's launch once it holds the table. This package's own check is what its ports say. -/
def execRectRouteReport (l member : Nat) (good : Bool) (s : State) : Out :=
  match s.sch.launches.find? l with
  | some x => (match x.rect with
    | some g =>
      let mine : Bool := g.members[member]? = some s.meshPos
      if x.ended || !g.loaded || decide (g.members.length ≤ member) || g.routed.contains member || g.started
          || (x.home.isSome && !mine) || (mine && good ≠ s.routesGood member g.table) then .refused (.notEnabled "RECT_ROUTE_REPORT")
      else
        let t := s.setLaunch l { x with rect := some { g with routed := g.routed ++ [member] } }
        match x.home with
        | some (pos, id) => .next (t.tell (pos / 32, pos % 32) (.rectReport id good))
        | none => .next (if good then t else s.refuse l 15)
    | none => .refused (.notEnabled "RECT_ROUTE_REPORT"))
  | none => .refused (.notEnabled "RECT_ROUTE_REPORT")

/-- RECT_START (R358, R363): the home, once every member has reported and no earlier launch holds this one, sends the start; or another
home's start arrives at a member that has reported. -/
def execRectStart (l : Nat) (s : State) : Out :=
  match s.sch.launches.find? l with
  | some x => (match x.rect with
    | some g =>
      let home := x.home.isNone
      if x.ended || g.started || !g.loaded || s.heldLaunch l x || (if home then g.routed.length ≠ g.members.length else g.routed = []) then
        .refused (.notEnabled "RECT_START")
      else
        let s := s.setLaunch l { x with rect := some { g with started := true } }
        let s := if home then (g.members.filter (· ≠ s.meshPos)).foldl (fun s m => s.tell m (.rectStart l)) s else s
        .next (if x.total = 0 then s.launchDone l else s)
    | none => .refused (.notEnabled "RECT_START"))
  | none => .refused (.notEnabled "RECT_START")

/-- RECT_MEMBER_RETIRE (R363): another member reports the retirement of its last block; with the last report the home performs the
signal. -/
def execRectMemberRetire (l member : Nat) (s : State) : Out :=
  match s.sch.launches.find? l with
  | some x => (match x.rect with
    | some g =>
      if x.ended || x.home.isSome || !g.started || g.done.contains member || decide (g.members.length ≤ member)
          || g.members[member]? = some s.meshPos then .refused (.notEnabled "RECT_MEMBER_RETIRE")
      else
        let done := g.done ++ [member]
        let s := s.setLaunch l { x with rect := some { g with done := done } }
        .next (if (List.range g.members.length).all (fun i => done.contains i) then s.signal l x.record.compval.toNat else s)
    | none => .refused (.notEnabled "RECT_MEMBER_RETIRE"))
  | none => .refused (.notEnabled "RECT_MEMBER_RETIRE")

end Sys2Proof.Machine
end

