-- ==== Sys2Proof/Machine/Sync.lean ====
section
/-! DEFINITION. Numbered and gang barriers and the decision queue (R105, R170, R171, R335 to R337). -/

namespace Sys2Proof.Machine

/-- RANGE with the BARRIER qualifier (R336). -/
def rangeBarrier : TrapInfo := { cause := .range, qual := 3 }

/-- One arrival at a barrier (R171). -/
def Bar.arrive (b : Bar) (count : Nat) : Bar :=
  let n := if b.arr = 0 then count else b.count
  if b.arr + 1 = n then { phase := !b.phase, arr := 0, count := n } else { b with arr := b.arr + 1, count := n }

/-- The 32-bit value of an operand of the lowest lane that takes part (R335). -/
def Iss.low32 (x : Iss) (s : State) (op : Operand) : Nat := x.rd s (lowest x.part) 32 .zero op

/-- A phase written to D of every lane that takes part. -/
def Iss.phaseWrites (x : Iss) (v : Bool) : List RW := x.laneWrites (fun l => x.wr l 32 false (bit v))

/-- A numbered barrier of a block. -/
def Block.bar (b : Block) (n : Nat) : Bar := SMap.get {} b.bars n
/-- A gang barrier, held with rank 0 (R336). -/
def Block.gbar (b : Block) (n : Nat) : Bar := SMap.get {} b.gbars n

/-- bar.arrive: a release at block scope, counted once for each execution (R336); variable-latency. -/
def execBarArrive (o : Opr) (n : BitVec 4) (s : State) : Out :=
  s.issue (.barArrive o n) false (fun s x =>
    let count := x.low32 s .b
    if count = 0 ∨ 49 < count then s.trapAt x rangeBarrier
    else match s.orderWait x.c true .rel .blk, s.blk? x.c.blk with
      | some w, _ => s.holdAs x w
      | none, none => s.retire x x.c
      | none, some b =>
        let old := b.bar n.toNat
        let s := s.setBlk x.c.blk { b with bars := b.bars.put n.toNat (old.arrive count) }
        s.pend x (x.c.passGate true) { writes := x.phaseWrites old.phase, flag := none })

/-- bar.wait: completes once PHASE differs from ph, as an acquire at block scope (R336). -/
def execBarWait (o : Opr) (n : BitVec 4) (s : State) : Out :=
  s.issue (.barWait o n) false (fun s x =>
    match s.blk? x.c.blk with
    | none => s.retire x x.c
    | some b => if (b.bar n.toNat).phase = bitOf (x.low32 s .a) 0 then s.holdAs x (.held 2) else s.retire x x.c)

/-- gang.arrive: a release at gang scope; D is available to the next instruction (R336). -/
def execGangArrive (o : Opr) (n : BitVec 2) (s : State) : Out :=
  s.issue (.gangArrive o n) false (fun s x =>
    let count := x.low32 s .b
    if count = 0 ∨ 392 < count then s.trapAt x rangeBarrier
    else match s.orderWait x.c true .rel .gang, s.blk? x.c.blk with
      | some w, _ => s.holdAs x w
      | none, none => s.retire x x.c
      | none, some b =>
        match s.blk? b.lead with
        | none => s.retire x x.c
        | some l =>
          let old := l.gbar n.toNat
          let s := s.setBlk b.lead { l with gbars := l.gbars.put n.toNat (old.arrive count) }
          s.retire x ((x.c.passGate true).applyAll (x.phaseWrites old.phase)))

/-- gang.wait: an acquire at gang scope (R336). -/
def execGangWait (o : Opr) (n : BitVec 2) (s : State) : Out :=
  s.issue (.gangWait o n) false (fun s x =>
    match (s.blk? x.c.blk).bind (fun b => s.blk? b.lead) with
    | none => s.retire x x.c
    | some l => if (l.gbar n.toNat).phase = bitOf (x.low32 s .a) 0 then s.holdAs x (.held 3) else s.retire x x.c)

/-- Entries freed: those that every group of the block has popped or ended (R170). -/
def State.dqTrim (s : State) (blk : Nat) (b : Block) : Block :=
  let ixs := (List.range b.ngrp).filterMap (fun g => match s.ctxs.find? (ctxKey blk g) with
    | some c => if c.alive = 0 then none else some c.dqIdx | none => none)
  let lo := ixs.foldl Nat.min (b.dqBase + b.dq.length)
  { b with dq := b.dq.drop (lo - b.dqBase), dqBase := Nat.max b.dqBase lo }

/-- dq.push: a release at block scope; it holds while 16 entries are held (R170, R337). -/
def execDqPush (o : Opr) (s : State) : Out :=
  s.issue (.dqPush o) false (fun s x =>
    match s.orderWait x.c true .rel .blk, s.blk? x.c.blk with
    | some w, _ => s.holdAs x w
    | none, none => s.retire x x.c
    | none, some b =>
      let b := s.dqTrim x.c.blk b
      if 16 ≤ b.dq.length then s.holdAs x (.held 4)
      else
        let b := s.dqTrim x.c.blk { b with dq := b.dq ++ [x.w64 s .a] }
        (s.setBlk x.c.blk b).retire x (x.c.passGate true))

/-- dq.pop: the entry at the group's read index, or none when the cox has ended and nothing remains (R170, R337);
variable-latency. -/
def execDqPop (o : Opr) (p : BitVec 3) (s : State) : Out :=
  s.issue (.dqPop o p) false (fun s x =>
    match s.blk? x.c.blk with
    | none => s.retire x x.c
    | some b =>
      match b.dq[x.c.dqIdx - b.dqBase]? with
      | some e =>
        let ws := x.laneWrites (fun l => x.wr l 64 false e.toNat ++ [RW.p l p.toNat true])
        let c := { x.c with dqIdx := x.c.dqIdx + 1 }
        let s := s.pend x c { writes := ws, flag := none }
        (match s.blk? x.c.blk with | some b => s.setBlk x.c.blk (s.dqTrim x.c.blk b) | none => s)
      | none =>
        let coxGone : Bool := match s.ctxs.find? (coxKey x.c.blk) with | some c => decide (c.alive = 0) | none => true
        if coxGone then s.pend x x.c { writes := x.laneWrites (fun l => [RW.p l p.toNat false]), flag := none }
        else s.holdAs x (.held 4))

end Sys2Proof.Machine
end

