-- ==== Sys2Proof/Machine/Place.lean ====
section
/-! DEFINITION. Windows on clusters (R397, R398), operating points (R359, R360, R429), the placement of blocks (R153, R159, R160,
R162, R172, R175, R361, R362), register segments that grow (R176, R177, R246) and retirement (R164). -/

namespace Sys2Proof.Machine

/-! ### Windows (R397, R398) -/

/-- CSLICE of a device on a cluster. -/
def State.cslice (s : State) (v c : Nat) : Nat := s.fld (pslot v + 0x30 + 8 * (c / 4)) (16 * (c % 4)) 16

/-- The windows of a cluster's cycle as the registers give them: device and length in ticks, in order. -/
def State.windowsNow (s : State) (c : Nat) : List (Nat × Nat) :=
  let kids (p lv : Nat) : List Nat :=
    (List.range 64).filter (fun d => d ≠ 0 && s.active d && s.level d = lv && s.parent d = p && s.cslice d c ≠ 0)
  let sum (ds : List Nat) : Nat := ds.foldl (fun n d => n + s.cslice d c) 0
  let ws := (kids 0 1).flatMap (fun d =>
    (kids d 2).map (fun e => (e, s.cslice e c)) ++ [(d, s.cslice d c - sum (kids d 2))]) ++ [(0, s.cslice 0 c - sum (kids 0 1))]
  (ws.filter (fun w => w.2 ≠ 0)).map (fun w => (w.1, w.2 * 4096))

/-- The windows in force: a change of CSLICE waits for the next cycle (R401). -/
def State.windows (s : State) (c : Nat) : List (Nat × Nat) :=
  match s.sch.oldWin.find? c with
  | some (u, ws) => if s.pt < u then ws else s.windowsNow c
  | none => s.windowsNow c

/-- Length of a cycle. -/
def cycleLen (ws : List (Nat × Nat)) : Nat := ws.foldl (fun n w => n + w.2) 0

/-- The window at a moment of the cycle: its index and where it ends. -/
def windowAt : List (Nat × Nat) → Nat → Nat → Nat → Option (Nat × Nat)
  | [], _, _, _ => none
  | w :: ws, i, at0, t => if t < at0 + w.2 then some (i, at0 + w.2) else windowAt ws (i + 1) (at0 + w.2) t

/-- The operating point that a launch may have on a die: capped by OPPMAX, heat and the power cap (R359, R429). -/
def State.ceiling (s : State) (v die : Nat) : Nat :=
  let cap := bits (leNat (s.mgmt.cfg.take 4)) 16 16
  let w := if cap = 0 ∨ 7200 < cap then 7200 else cap
  Nat.min (s.fld (pslot v + 0x98) 0 3) (Nat.min (SMap.get 7 s.sch.ceil die) (Config.powerCeiling w))

/-- OPPSTAT of a die (R360). -/
def oppReg (die : Nat) : Nat := schB + 0x4000 + 8 * die
/-- The current point. -/
def State.oppCur (s : State) (die : Nat) : Nat := s.fld (oppReg die) 0 3
/-- The point that a launch asks for on a die. -/
def State.oppWant (s : State) (x : Launch) (die : Nat) : Nat := Nat.min x.record.opp (s.ceiling x.dev die)
/-- The die of a cluster. -/
def dieOfCl (cl : Nat) : Nat := if cl < 20 then 0 else 1

/-- Blocks of the launch are still to be placed. -/
def Launch.waiting (x : Launch) : Bool := x.placed < x.total || !x.again.isEmpty

/-- The launch is taken, checked and not held, and its rectangle has started (R361, R363). -/
def State.ready (s : State) (l : Nat) (x : Launch) : Bool :=
  !x.ended && !s.heldLaunch l x && (match x.rect with | some g => g.started | none => true)

/-- The device that holds a cluster (R397); 64 when none does. -/
def State.holderOf (s : State) (c : Nat) : Nat := SMap.get 0 s.sch.holder c

/-- A block stands on its cluster: it is resident, or ended and waiting for its gang (R164, R172). -/
def Block.standing (b : Block) : Bool := match b.st with | .saved _ => false | _ => true

/-! ### Resources of a core (R153, R86) -/

/-- The lowest place for a run among those in use. -/
def runAt (used : List (Nat × Nat)) (n cap : Nat) : Option Nat :=
  if cap < n then none
  else (List.range (cap - n + 1)).find? (fun a => n = 0 || used.all (fun u => decide (a + n ≤ u.1) || decide (u.1 + u.2 ≤ a) || u.2 = 0))

/-- Blocks on a core. -/
def State.blocksOn (s : State) (cl core : Nat) : List (Nat × Block) :=
  s.blocks.filter (fun p => p.2.cluster = cl && p.2.core = core && p.2.standing)

/-- The resident groups of a core: those of blocks that have not retired, ended or not (R153, R164, R177). Of these, only those that
have not ended hold granules (R246). -/
def State.groupsOn (s : State) (cl core : Nat) : List (Nat × Ctx) :=
  ((s.blocksOn cl core).filter (·.2.onCore)).flatMap (fun p => (List.range p.2.ngrp).filterMap (fun g =>
    (s.ctxs.find? (ctxKey p.1 g)).map (fun c => (ctxKey p.1 g, c))))

/-- The groups of a core that hold granules (R246). -/
def State.segsOn (s : State) (cl core : Nat) : List (Nat × Ctx) := (s.groupsOn cl core).filter (fun g => decide (g.2.alive ≠ (0 : Mask)))

/-- What a block takes of a core: groups, granules, ASP units, tiles and a TRF (R153). -/
structure Need where
  groups : Nat
  gran : Nat
  aspk : Nat
  acst : Nat
  tree : Bool
  deriving DecidableEq, Repr

/-- What each block of a launch takes. -/
def LRec.need (r : LRec) : Need := { groups := r.groups, gran := r.groups * r.vgran, aspk := r.aspk, acst := r.acst, tree := r.tree }

/-- Where a block would lie on a core: granules, ASP units and tiles; none when the core cannot take it. -/
def State.room (s : State) (n : Need) (cl core : Nat) : Option (Nat × Nat × Nat) :=
  let bs := s.blocksOn cl core
  let on := bs.filter (·.2.onCore)
  let gs := s.groupsOn cl core
  if 8 ≤ on.length ∨ 48 < gs.length + n.groups ∨ (n.tree ∧ 4 ≤ (on.filter (fun p => p.2.tree.isSome)).length) then none
  else match runAt ((s.segsOn cl core).map (fun g => (g.2.segAt, g.2.seg))) n.gran 256,
      runAt (bs.map (fun p => (p.2.aspAt, p.2.aspk))) n.aspk 384, runAt (on.map (fun p => (p.2.acsAt, p.2.acst))) n.acst 8 with
    | some g, some a, some t => some (g, a, t)
    | _, _, _ => none

/-- The same for a block of a launch that starts. -/
def State.roomOn (s : State) (x : Launch) (cl core : Nat) : Option (Nat × Nat × Nat) := s.room x.record.need cl core

/-- The core has the granules in total and every other resource, but no run (R175). -/
def State.fragmented (s : State) (x : Launch) (cl core : Nat) : Bool :=
  let free := s.freeGranules cl core
  decide (x.record.groups * x.record.vgran ≤ free)
    && (s.roomOn { x with record := { x.record with vgran := 0 } } cl core).isSome && (s.roomOn x cl core).isNone

/-- A pending rgrow of the core could be granted (R246). -/
def State.rgrowDue (s : State) (cl core : Nat) : Bool :=
  (s.groupsOn cl core).any (fun g => match g.2.rgrow with
    | some r => decide (r.want - g.2.seg ≤ s.freeGranules cl core) | none => false)

/-- The clusters on which a device's blocks may be placed now (R361, R397). -/
def State.clustersOf (s : State) (v : Nat) : List Nat :=
  ((List.range 40).filterMap (fun i => s.physCluster v i)).filter (fun c => s.holderOf c = v && (s.sch.pre.find? c).isNone)

/-- The element with the least value; ties go to the first. -/
def leastBy {α : Type} (f : α → Nat) : List α → Option α
  | [] => none
  | a :: l => match leastBy f l with | none => some a | some b => if f a ≤ f b then some a else some b

/-- The n elements with the least values. -/
def leastN {α : Type} [DecidableEq α] (f : α → Nat) : Nat → List α → List α
  | 0, _ => []
  | n + 1, l => match leastBy f l with | some a => a :: leastN f n (l.erase a) | none => []

/-- DIE unit of a block (R159). -/
def LRec.dieUnit (r : LRec) (b : Nat) : Option Nat := if r.has 4 then some (b / r.blocksIn 4) else none

/-- A cluster lies on the die on which the block's DIE unit stands, if any of it is placed. -/
def dieFits (x : Launch) (b cl : Nat) : Bool :=
  match x.record.dieUnit b with
  | some u => (match x.dies.find? u with | some d => d = dieOfCl cl | none => true)
  | none => true

/-- Where a gang of n blocks, or a block of no gang, would be placed among the cores allowed: the cluster and the cores in
ascending order (R362, R398). -/
def State.placeFor (s : State) (x : Launch) (b n : Nat) (ok : Nat → Nat → Bool) : Option (Nat × List Nat) :=
  let groups (cl core : Nat) : Nat := (s.groupsOn cl core).length
  let takes (cl core : Nat) : Bool := ok cl core && (s.roomOn x cl core).isSome
  let cls := (s.clustersOf x.dev).filter (dieFits x b)
  if s.mode x.dev = 1 then
    let map := (List.range 40).filterMap (fun i => s.physCluster x.dev i)
    let k := b - x.first
    let at' := if x.record.gangExt = 1 then (map[k / 8 % Nat.max 1 map.length]?, k % 8)
      else (map[k / x.record.gangExt % Nat.max 1 map.length]?, 0)
    (match at'.1 with
     | some cl =>
       let cores := if x.record.gangExt = 1 then [at'.2] else List.range n
       if cls.contains cl && cores.all (takes cl) then some (cl, cores) else none
     | none => none)
  else if n = 1 ∧ x.record.gangExt = 1 then
    (leastBy (fun p => groups p.1 p.2 * 400 + p.1 * 8 + p.2)
      (cls.flatMap (fun cl => ((List.range 8).filter (takes cl)).map (fun k => (cl, k))))).map (fun p => (p.1, [p.2]))
  else
    let fit := cls.filter (fun cl => decide (n ≤ ((List.range 8).filter (takes cl)).length))
    match leastBy (fun cl => ((List.range 8).foldl (fun a k => a + groups cl k) 0) * 40 + cl) fit with
    | none => none
    | some cl =>
      let cores := leastN (fun k => groups cl k * 8 + k) n ((List.range 8).filter (takes cl))
      some (cl, (List.range 8).filter (fun k => cores.contains k))

/-! ### Starting (R26, R162, R347) -/

/-- The lowest number up to a cap that a list does not hold. -/
def lowestFree (l : List Nat) (cap : Nat) : Nat :=
  ((List.range (Nat.min cap l.length + 1)).find? (fun i => !l.contains i)).getD cap

/-- Lane-local slots of the live groups of a launch (R347). -/
def State.llSlots (s : State) (l : Nat) : List Nat :=
  s.ctxs.filterMap (fun p =>
    let mine : Bool := match s.blk? p.2.blk with | some b => b.launch = l | none => false
    if decide (p.2.stream = .lane) && decide (p.2.alive ≠ 0) && mine then some p.2.llslot else none)

/-- A group starts (R162). -/
def State.startGroup (s : State) (l bid g segAt : Nat) (x : Launch) (cl core : Nat) : State :=
  let r := x.record
  let m := BitVec.ofNat 32 (2 ^ r.lanes - 1)
  let v := (List.range r.lanes).flatMap (fun i => [(256 * i, BitVec.ofNat 32 r.args.toNat), (256 * i + 1, BitVec.ofNat 32 (r.args.toNat / 2 ^ 32))])
  let c : Ctx :=
    { stream := .lane, blk := bid, grp := g, asid := r.asid, dev := x.dev, alive := m,
      splits := [(0, { pc := r.lanepc, mask := m, tgtDue := true, last := s.pt })],
      v := v.foldl (fun a p => SMap.set 0 a p.1 p.2) [], seg := r.vgran, segAt := segAt + g * r.vgran,
      gslot := lowestFree ((s.groupsOn cl core).map (·.2.gslot)) 47,
      llslot := lowestFree (s.llSlots l) 4294967295, llbase := r.llbase, llsize := r.llsize, start := s.pt }
  s.setCtx (ctxKey bid g) c

/-- A block starts on a core that has room for it (R162). -/
def State.startBlock (s : State) (l : Nat) (x : Launch) (num gsize rank lead cl core : Nat) : State :=
  let r := x.record
  let (g0, a0, t0) := (s.roomOn x cl core).getD (0, 0, 0)
  let bid := s.sch.nextBlock
  let b : Block :=
    { launch := l, num := num, gang := num / gsize, gsize := gsize, rank := rank, lead := lead, cluster := cl, core := core,
      ngrp := r.groups, gext := r.lanes, vgran := r.vgran, aspk := r.aspk, acst := r.acst, aspAt := a0, acsAt := t0,
      asid := r.asid, dev := x.dev, queue := x.queue, lindex := x.lindex, tree := if r.tree then some {} else none,
      disc := r.idemp, start := s.pt }
  let s := { s.setBlk bid b with sch := { s.sch with nextBlock := bid + 1 } }
  let cox : Ctx :=
    { stream := .cox, blk := bid, asid := r.asid, dev := x.dev, alive := 1,
      splits := [(0, { pc := r.coxpc, mask := 1, tgtDue := true, last := s.pt })], s := SMap.set 0 [] 0 r.args, start := s.pt }
  let s := s.setCtx (coxKey bid) cox
  (List.range r.groups).foldl (fun s g => s.startGroup l bid g g0 x cl core) s

/-- The next gang to place: its first block, its size and whether it may split into fallback gangs (R160, R362, R382). -/
def Launch.nextGang (x : Launch) : Option (Nat × Nat × Bool) :=
  match leastBy (fun p : Nat × Nat => p.1) x.again with
  | some (b, n) => some (b, n, false)
  | none =>
    if x.total ≤ x.placed then none
    else if 0 < x.fall then some (x.first + x.placed, x.record.gfall, false)
    else some (x.first + x.placed, x.record.gangExt, decide (x.record.gfall < x.record.gangExt))

/-- The launch waits for a die that was chosen for it to reach the point that it asks for: no block of it is placed there (R359). -/
def State.waitsOn (s : State) (x : Launch) (die : Nat) : Bool := (x.chosen.find? die).isSome && decide (s.oppCur die < s.oppWant x die)

/-- Where the next gang of a launch would go among the cores allowed: its first block, its size, the cluster and the cores. -/
def State.gangPlace (s : State) (x : Launch) (ok : Nat → Nat → Bool) : Option (Nat × Nat × Nat × List Nat) :=
  match x.nextGang with
  | none => none
  | some (b, n, _) => (s.placeFor x b n ok).map (fun p => (b, n, p.1, p.2))

/-- The same on dies whose point the launch does not wait for (R359). -/
def State.nextPlace (s : State) (x : Launch) (ok : Nat → Nat → Bool) : Option (Nat × Nat × Nat × List Nat) :=
  s.gangPlace x (fun cl k => ok cl k && !s.waitsOn x (dieOfCl cl))

/-- The launch waits for an operating point, and is not offered: all places for its next gang lie on dies that it waits for (R359, R361). -/
def State.oppWaits (s : State) (x : Launch) : Bool :=
  (s.waitsOn x 0 || s.waitsOn x 1) && (s.nextPlace x (fun _ _ => true)).isNone && (s.gangPlace x (fun _ _ => true)).isSome

/-! ### Who has a cluster (R129, R397, R398) -/

/-- The device has an offered launch, or a saved block to resume (R361, R398). -/
def State.busy (s : State) (v : Nat) : Bool :=
  s.sch.launches.any (fun p => p.2.dev = v && s.ready p.1 p.2 && !s.oppWaits p.2)
    || s.blocks.any (fun p => p.2.dev = v && match p.2.st with | .saved _ => true | _ => false)

/-- The window whose device has the cluster now, by index: that of the moment, or the one to which it has been given. One of an idle FULL
device passes to the next FULL device with work (R397, R398). -/
def State.windowOwner (s : State) (c : Nat) : Option (Nat × Nat) :=
  let ws := s.windows c
  let n := ws.length
  let dev (i : Nat) : Nat := ((ws[i]?).map (·.1)).getD 64
  let now : Option (Nat × Nat) := match s.sch.given.find? c with
    | some (d, u) => if s.pt < u then some ((ws.findIdx? (fun w => w.1 = d)).getD 0, u) else none
    | none => none
  match (match now with | some x => some x | none => windowAt ws 0 0 (s.pt % Nat.max 1 (cycleLen ws))) with
  | none => none
  | some (i, _) =>
    if s.mode (dev i) ≠ 0 ∨ s.busy (dev i) then some (dev i, i)
    else match ((List.range n).map (fun k => (i + 1 + k) % n)).find? (fun j => s.mode (dev j) = 0 && s.busy (dev j)) with
      | some j => some (dev j, j)
      | none => some (dev i, i)

/-- When the slice of the device that holds a cluster ended (R397): at the end of its last window, or of the one given to it; now, when its
own window is given on. -/
def State.sliceOver (s : State) (c out : Nat) : Nat :=
  let ws := s.windows c
  let n := ws.length
  let len := Nat.max 1 (cycleLen ws)
  let dev (i : Nat) : Nat := ((ws[i]?).map (·.1)).getD 64
  let gift : Nat := match s.sch.given.find? c with | some (d, u) => if d = out then u else 0 | none => 0
  match windowAt ws 0 0 (s.pt % len) with
  | none => s.pt
  | some (i, _) =>
    if dev i = out ∨ s.pt < gift then s.pt
    else
      let past := (List.range n).map (fun k => (i + n - 1 - k) % n)
      let back := if past.any (fun j => dev j = out) then (past.takeWhile (fun j => dev j ≠ out)).foldl (fun a j => a + ((ws[j]?).map (·.2)).getD 0) 0
        else 0
      Nat.max gift (s.pt / len * len + cycleLen (ws.take i) - back)

/-! ### Operating points (R359, R360, R398) -/

/-- The target point of a die: what is asked by the launches that have blocks on it or wait for it, by a LOWLAT device that holds one of its
clusters, or 6 (R359, R398). -/
def State.oppTarget (s : State) (die : Nat) : Nat :=
  let here (l : Nat) (x : Launch) : Bool := (!x.ended && x.waiting && (x.chosen.find? die).isSome)
    || s.blocks.any (fun b => b.2.launch = l && b.2.onCore && dieOfCl b.2.cluster = die)
  let wants := (s.sch.launches.filter (fun p => here p.1 p.2)).map (fun p => s.oppWant p.2 die)
  let lowlat := ((List.range 40).filter (fun c => dieOfCl c = die && s.holderOf c < 64 && s.mode (s.holderOf c) = 2)).map
    (fun c => s.ceiling (s.holderOf c) die)
  match wants ++ lowlat with
  | [] => Nat.min 6 (s.ceiling 0 die)
  | l => l.foldl Nat.max 0

/-- The targets of both dies set anew; a die whose target differs from its point begins to change (R359, R360). -/
def State.retune (s : State) : State :=
  [0, 1].foldl (fun s d =>
    let t := s.oppTarget d
    (s.setFld (oppReg d) 3 3 t).setFld (oppReg d) 6 1 (bit (decide (t ≠ s.oppCur d)))) s

/-- OPP_STABLE (R359, R360). -/
def execOppStable (die : Nat) (s : State) : Out :=
  if 2 ≤ die ∨ s.fld (oppReg die) 6 1 = 0 then .refused (.notEnabled "OPP_STABLE")
  else .next ((s.setFld (oppReg die) 0 3 (s.fld (oppReg die) 3 3)).setFld (oppReg die) 6 1 0)

/-- The cluster passes to the device whose window it is, once no block and no fill of the outgoing device is left, and the target points
follow (R129, R397, R398). -/
def State.trySwitch (s : State) (c : Nat) : State :=
  match s.sch.pre.find? c with
  | none => s
  | some p =>
    let filling : Bool := s.rsds.any (fun r => r.1 / 65536 = p.dev && s.physCluster p.dev r.2.vcl = some c
      && (decide (r.2.st = RState.filling) || decide (r.2.st = RState.rebuilding)))
    if s.blocks.any (fun b => b.2.dev = p.dev && b.2.cluster = c && b.2.standing) || filling then s
    else
      let inc := match s.windowOwner c with | some (d, _) => d | none => 64
      let s := { s with sch := { s.sch with pre := s.sch.pre.erase c, holder := s.sch.holder.put c inc } }
      (s.switchRsds c p.dev inc).retune

/-- Every cluster whose switch waits for nothing more passes on (R129, R397). -/
def State.switchAll (s : State) : State := (List.range 40).foldl State.trySwitch s

/-! ### Offers (R361, R362) -/

/-- The logical gang that is next splits: no cluster of its device can take the whole of it (R362, R398). -/
def State.splitsNow (s : State) (x : Launch) : Bool :=
  match x.nextGang with
  | some (b, n, true) => s.mode x.dev ≠ 1 && !(s.clustersOf x.dev).isEmpty && (s.placeFor x b n (fun _ _ => true)).isNone
  | _ => false

/-- Something of the launch could be placed on the cores allowed: its next gang, or a fallback gang of one that splits (R361, R362). -/
def State.couldPlace (s : State) (x : Launch) (ok : Nat → Nat → Bool) : Bool :=
  (s.nextPlace x ok).isSome || (s.splitsNow x && (s.nextPlace { x with fall := x.record.gangExt } ok).isSome)

/-- Priority in offers (R361, R398). -/
def State.offerPrio (s : State) (x : Launch) : Nat := x.prio + (if s.mode x.dev = 2 then 8 else 0)

/-- A launch is offered and has a block waiting (R361). -/
def State.offered (s : State) (l : Nat) (x : Launch) : Bool := s.ready l x && x.waiting && !s.oppWaits x

/-- An earlier offered launch of the same queue has a block waiting (R361). -/
def State.behindOwn (s : State) (l : Nat) (x : Launch) : Bool :=
  x.home = none && s.sch.launches.any (fun p => p.2.queue = x.queue && p.2.home = none && (s.sch.order.takeWhile (· ≠ l)).contains p.1
    && s.offered p.1 p.2)

/-- The place of a queue in the round of its priority (R361). -/
def State.roundAt (s : State) (x : Launch) : Nat := (x.queue + 255 - SMap.get 255 s.sch.turn (s.offerPrio x)) % 256

/-- One launch is offered before another: its priority is higher, or its queue's turn comes first (R361). -/
def State.offeredFirst (s : State) (y x : Launch) : Bool :=
  s.offerPrio x < s.offerPrio y || (s.offerPrio x = s.offerPrio y && decide (s.roundAt y < s.roundAt x))

/-- The order of offers keeps a gang from its place: an earlier launch of its queue still waits, or one that is offered first, and
stands behind no launch of its own queue, could be placed there (R361, R366). -/
def State.outranked (s : State) (l : Nat) (x : Launch) (cl : Nat) (ks : List Nat) : Bool :=
  s.behindOwn l x || s.sch.launches.any (fun p =>
    let y := p.2
    p.1 ≠ l && s.offered p.1 y && !s.behindOwn p.1 y && s.offeredFirst y x
      && s.couldPlace y (fun c k => c = cl && (y.record.gangExt ≠ 1 || x.record.gangExt ≠ 1 || ks.contains k)))

/-- Blocks of a gang start together (R162, R172). -/
def State.startGang (s : State) (l : Nat) (x : Launch) (b n cl : Nat) (ks : List Nat) : State :=
  let lead := s.sch.nextBlock
  (ks.zipIdx).foldl (fun s p => s.startBlock l x (b + p.2) n p.2 lead cl p.1) s

/-- The launch after its next gang has started. -/
def Launch.startedGang (x : Launch) (b n cl : Nat) : Launch :=
  let x := { x with dies := match x.record.dieUnit b with | some u => x.dies.put u (dieOfCl cl) | none => x.dies,
                    chosen := x.chosen.put (dieOfCl cl) true }
  if x.again.any (fun p => p.1 = b) then { x with again := x.again.filter (fun p => p.1 ≠ b) }
  else { x with placed := x.placed + n, fall := x.fall - n }

/-- What the scheduler notes of a start: the cluster's last start, the end of the launch's search for a run of granules, and the turn
of the launch's queue once all its blocks are placed (R175, R361, R362). -/
def State.noteStart (s : State) (l : Nat) (x : Launch) (cl : Nat) : State :=
  let m := s.sch
  { s with sch := { m with lastStart := m.lastStart.put cl s.pt, frag := m.frag.erase l,
                           turn := if x.waiting then m.turn else m.turn.put (s.offerPrio x) x.queue } }

/-- Cores that have the granules for the launch's next block, but no run of them (R175). -/
def State.fragCores (s : State) (x : Launch) : List Nat :=
  (s.clustersOf x.dev).flatMap (fun cl => ((List.range 8).filter (fun k => s.fragmented x cl k)).map (fun k => cl * 8 + k))

/-- BLOCK_START (R153, R159 to R162, R359, R361, R362, R381): the next gang of a launch starts; or a logical gang that no cluster can
take splits; or its die is chosen and begins to rise to the point that the launch asks for; or the search for a run of granules begins. -/
def execBlockStart (l : Nat) (s : State) : Out :=
  let no : Out := .refused (.notEnabled "BLOCK_START")
  match s.sch.launches.find? l with
  | none => no
  | some x =>
    if !s.ready l x || !x.waiting || s.blocks.any (fun p => p.2.dev = x.dev && match p.2.st with | .saved _ => true | _ => false)
    then no
    else match s.nextPlace x (fun _ _ => true) with
      | none =>
        if s.splitsNow x ∧ !s.behindOwn l x then .next (s.setLaunch l { x with fall := x.record.gangExt })
        else if (s.sch.frag.find? l).isSome ∨ s.fragCores x = [] then no
        else .next { s with sch := { s.sch with frag := s.sch.frag.put l s.pt } }
      | some (b, n, cl, ks) =>
        let late : Bool := match s.sch.lastStart.find? cl with | some t => decide (s.pt < t + 8 * n) | none => false
        if s.outranked l x cl ks || late || ks.any (s.rgrowDue cl) then no
        else if s.oppCur (dieOfCl cl) < s.oppWant x (dieOfCl cl) then
          .next ((s.setLaunch l { x with chosen := x.chosen.put (dieOfCl cl) true }).retune)
        else
          let y := x.startedGang b n cl
          .next ((((s.startGang l x b n cl ks).setLaunch l y).noteStart l y cl).retune)

/-! ### Relocation and rgrow (R175 to R177, R246) -/

/-- The segments of a core packed from granule 0 in the order in which they lie, with one group's segment at a new size. -/
def State.pack (s : State) (cl core : Nat) (grown : Nat × Nat) : State :=
  let gs := s.segsOn cl core
  let sizes := gs.map (fun g => (g.1, if g.1 = grown.1 then grown.2 else g.2.seg, g.2.segAt))
  let at0 (g : Nat × Nat × Nat) : Nat :=
    (sizes.filter (fun h => decide (h.2.2 < g.2.2))).foldl (fun n h => n + h.2.1) 0
  sizes.foldl (fun s g => match s.ctxs.find? g.1 with
    | some c => s.setCtx g.1 { c with seg := g.2.1, segAt := at0 g }
    | none => s) s

/-- SEGMENT_RELOCATION (R175): 12,000 ticks after a block began to look for a run on the core, its segments are relocated; no
register changes. -/
def execSegmentRelocation (core : Nat) (s : State) : Out :=
  match List.find? (fun p => (match s.sch.frag.find? p.1 with | some t => decide (t + 12000 ≤ s.pt) | none => false)
      && s.ready p.1 p.2 && p.2.waiting && (s.nextPlace p.2 (fun _ _ => true)).isNone && (s.fragCores p.2).contains core) s.sch.launches with
  | none => .refused (.notEnabled "SEGMENT_RELOCATION")
  | some (l, _) => .next (({ s with sch := { s.sch with frag := s.sch.frag.erase l } }).pack (core / 8) (core % 8) (0, 0))

/-- The core of a group. -/
def State.coreAt (s : State) (cid : Nat) : Nat × Nat := match s.blk? (blkOf cid) with | some b => (b.cluster, b.core) | none => (0, 0)

/-- The rgrow of a group completes: its predicate is written and its flag falls (R246). -/
def Ctx.rgrowEnd (c : Ctx) (r : RGrow) (ok : Bool) : Ctx :=
  (({ c with rgrow := none }).land ((lanesOf r.part).map (fun l => .p l r.pred ok))).flagDown r.flag

/-- RGROW_GRANT (R176, R246): the oldest request of the core that its free granules can serve is granted; segments that do not
adjoin are relocated. -/
def execRgrowGrant (cid : Nat) (s : State) : Out :=
  match s.ctxs.find? cid with
  | none => .refused (.notEnabled "RGROW_GRANT")
  | some c => match c.rgrow with
    | none => .refused (.notEnabled "RGROW_GRANT")
    | some r =>
      let (cl, k) := s.coreAt cid
      let free := s.freeGranules cl k
      let can (q : RGrow) (d : Ctx) : Bool := decide (q.want - d.seg ≤ free)
      let older : Bool := (s.groupsOn cl k).any (fun g => match g.2.rgrow with
        | some q => can q g.2 && decide (q.since < r.since) | none => false)
      let here : Bool := match s.blk? (blkOf cid) with | some b => b.st = .resident | none => false
      if !here || !can r c || older then .refused (.notEnabled "RGROW_GRANT")
      else
        let grown := (c.segAt + c.seg, r.want - c.seg)
        let adjoins : Bool := decide (grown.1 + grown.2 ≤ 256) && (s.segsOn cl k).all (fun g => g.1 = cid
          || decide (g.2.segAt + g.2.seg ≤ grown.1) || decide (grown.1 + grown.2 ≤ g.2.segAt))
        let s := if adjoins then s.setCtx cid { c with seg := r.want } else s.pack cl k (cid, r.want)
        match s.ctxs.find? cid with
        | some c => .next (s.setCtx cid (c.rgrowEnd r true))
        | none => .next s

/-- The instruction at a split's address. -/
def Split.here (sp : Split) : Option Instr :=
  match sp.line, slotOf sp.pc with
  | some bs, some i => (match slotInstr bs i with | .ok x => some x | .error _ => none)
  | _, _ => none

/-- The instruction at which a split is held, as the thread sees it. -/
def Ctx.heldAt (c : Ctx) (cid : Nat) (k : Nat) (sp : Split) : Option Iss :=
  match sp.wait, sp.here with
  | .held _, some i => i.opr?.map (fun o => { i := i, o := o, cid := cid, k := k, c := c, sp := sp, part := partOf c sp o, flag := none })
  | _, _ => none

/-- The split is at a barrier wait, a decision-queue pop or a gang wait that does not complete yet (R177). -/
def State.stillWaits (s : State) (cid : Nat) (c : Ctx) (k : Nat) (sp : Split) : Bool :=
  match c.heldAt cid k sp, s.blk? c.blk with
  | some x, some b =>
    (match x.i with
     | .barWait o n => (b.bar n.toNat).phase = bitOf (x.low32 s .a) 0
     | .gangWait o n => (match s.blk? b.lead with
       | some l => (l.gbar n.toNat).phase = bitOf (x.low32 s .a) 0 | none => false)
     | .dqPop _ _ => (b.dq[c.dqIdx - b.dqBase]?).isNone
         && (match s.ctxs.find? (coxKey c.blk) with | some d => d.alive ≠ 0 | none => false)
     | _ => false)
  | _, _ => false

/-- What holds a split at issue still holds it (R364). DEDUCED (log entry 95): a hold on the memory system, an engine or the matrix array
counts as lasting until the split's next turn. -/
def State.stillHeld (s : State) (cid : Nat) (c : Ctx) (k : Nat) (sp : Split) : Bool :=
  match sp.wait with
  | .release sc => !s.released c sc
  | .gate => true
  | .held _ => (match c.heldAt cid k sp with
    | some x => (match x.i with
      | .barWait _ _ | .gangWait _ _ | .dqPop _ _ => s.stillWaits cid c k sp
      | .rgrow _ | .rshrink _ => c.rgrow.isSome
      | .waitAc _ n => sp.relatch.isSome || decide (x.threshold s < SMap.get 0 c.ac (acNum n))
      | _ => true)
    | none => true)
  | _ => false

/-- The split is not ready to issue: it waits for its line's flags or for an access, is held at issue, or waits where R166 makes it
(R364). -/
def State.notReady (s : State) (cid : Nat) (c : Ctx) (k : Nat) (sp : Split) : Bool :=
  sp.waits || (match sp.wait with | .confirm _ => true | _ => false) || s.stillHeld cid c k sp
    || (match sp.line, sp.inLine with | some bs, none => sp.wait = .none && !c.lineReady (lineWord bs) | _, _ => false)

/-- A group is waiting in rgrow (R246). -/
def State.inRgrow (s : State) (cid : Nat) (c : Ctx) : Bool :=
  c.rgrow.isSome && c.splits.all (fun p => p.2.parked.isNone && s.notReady cid c p.1 p.2)

/-- A group or cox has ended or waits in a way that counts for R177. -/
def State.stuck (s : State) (cid : Nat) (c : Ctx) : Bool :=
  c.alive = 0 || s.inRgrow cid c
    || (c.splits.any (fun p => s.stillWaits cid c p.1 p.2)
        && c.splits.all (fun p => p.2.parked.isNone && (p.2.waits || s.stillWaits cid c p.1 p.2)))

/-- RGROW_DENY (R177): on a core where nothing else can move, the request of the highest group slot is denied. -/
def execRgrowDeny (core : Nat) (s : State) : Out :=
  let cl := core / 8
  let k := core % 8
  let gs := s.groupsOn cl k
  let waiting := gs.filter (fun g => s.inRgrow g.1 g.2)
  let coxes := ((s.blocksOn cl k).filter (·.2.onCore)).filterMap (fun p => (s.ctxs.find? (coxKey p.1)).map (fun c => (coxKey p.1, c)))
  if waiting = [] ∨ s.rgrowDue cl k ∨ !(gs ++ coxes).all (fun g => s.stuck g.1 g.2) then .refused (.notEnabled "RGROW_DENY")
  else match leastBy (fun g => 48 - g.2.gslot) waiting with
    | some (cid, c) => (match c.rgrow with
      | some r => .next (s.setCtx cid (c.rgrowEnd r false))
      | none => .refused (.notEnabled "RGROW_DENY"))
    | none => .refused (.notEnabled "RGROW_DENY")

/-! ### Retirement (R164, R172, R317, R378) -/

/-- The threads of a block. -/
def State.threadsOf (s : State) (b : Nat) : List (Nat × Ctx) := s.ctxs.filter (fun p => 128 ≤ p.1 && blkOf p.1 = b)

/-- The block has ended, its counters read zero and its threads' release waits are over. -/
def State.canRetire (s : State) (b : Nat) : Bool :=
  (s.threadsOf b).all (fun p => p.2.alive = 0 && p.2.ac.all (fun a => a.2 = 0) && p.2.res.isEmpty && p.2.accs.isEmpty
    && p.2.rgrow.isNone && s.released p.2 .pkg)

/-- A latch set at exit posts its record, with the lanes that took part in the exit (R317, R370). -/
def State.postLatches (s : State) (cid : Nat) (c : Ctx) : State :=
  let m : Mask := if c.stream = .lane then c.endMask else 1
  c.latch.foldl (fun s p =>
    let t : TrapInfo := { p.2.info with aux := s.latchAux p.2, lmask := m, pmask := m }
    s.enterRecord { slot := c.dev, bytes := s.trapRec cid c c.endPc 1 0 t, pt := s.pt, cid := noThreadId, k := 0, token := 0 }) s

/-- The running mean of residency (R378). -/
def meanStep (m : Option Nat) (r : Nat) : Nat :=
  match m with | none => r | some l => ((l : Int) + ((r : Int) - (l : Int)) / 8).toNat

/-- Threads of a block gone. -/
def State.dropThreads (s : State) (b : Nat) : State :=
  { s with ctxs := s.ctxs.filter (fun p => !(128 ≤ p.1 && blkOf p.1 = b)) }

/-- A block whose threads have all ended: their latches reach the ring, and its threads, its tree and its cells are gone; the gang's last one
takes the gang's blocks along (R164, R172, R368). -/
def State.freeBlock (s : State) (b : Nat) (x : Block) : State :=
  let s := (s.threadsOf b).foldl (fun s p => s.postLatches p.1 p.2) s
  let s := (s.setBlk b { x with st := .retired, tree := none }).dropThreads b
  let mates := s.blocks.filter (fun p => p.2.launch = x.launch && p.2.lead = x.lead)
  if mates.all (fun p => p.2.st = .retired) then
    { s with blocks := s.blocks.filter (fun p => !(p.2.launch = x.launch && p.2.lead = x.lead)) } else s

/-- A retired block counted in its launch, with the running mean of residency; the last one completes the launch (R164, R378). -/
def State.countRetired (s : State) (x : Block) : State :=
  match s.sch.launches.find? x.launch with
  | some l =>
    let l := { l with retired := l.retired + 1, mean := some (meanStep l.mean (s.pt - x.start)) }
    let s := s.setLaunch x.launch l
    if l.retired = l.total then s.launchDone x.launch else s
  | none => s

/-- BLOCK_RETIRE (R164): the block frees its resources, its ASP once its whole gang has retired (R172); with the launch's last
block the completion signal follows. -/
def execBlockRetire (b : Nat) (s : State) : Out :=
  match s.blk? b with
  | none => .refused (.notEnabled "BLOCK_RETIRE")
  | some x =>
    if x.st ≠ .resident ∨ !s.canRetire b then .refused (.notEnabled "BLOCK_RETIRE")
    else .next ((((s.freeBlock b x).countRetired x).trySwitch x.cluster).retune)

/-! ### Residencies freed (R127, R129, R133): the last fill of a device on a cluster may end so -/

/-- rsd.free (R127, R129, R307): it waits until no matrix instruction reads the cells. -/
def execRsdFree (o : Opr) (s : State) : Out :=
  s.rsdIssue (.rsdFree o) (fun s x b =>
    let h := x.handle s
    if 0xFFFF < h ∨ (s.rsd? b.dev h).isNone then s.trapAt x (rsdTrap 0 h)
    else if s.rsdInUse (rsdKey b.dev h) then s.holdAs x (.held 9)
    else
      let s := (s.freeRsd (rsdKey b.dev h)).switchAll
      match s.ctxs.find? x.cid with | some c => s.retire x c | none => s)

/-- RCMD with OP 0b01: one handle revoked (R127, R129, R133). -/
def execRcmdRevoke (w : RegW) (s : State) : Out :=
  let v := rsdSlotOf w.off
  let h := bits w.val.toNat 0 16
  if s.fld (rsdB + 0x40 * v + 0x18) 0 2 = 1 then .next s
  else if (s.rsd? v h).isNone then .next (s.setRstat v 3 1)
  else .next ((s.revokeRsd (rsdKey v h)).rstatDone v).switchAll

/-- RCMD with OP 0b10: every live handle revoked (R127, R129, R133). -/
def execRcmdRevokeAll (w : RegW) (s : State) : Out :=
  let v := rsdSlotOf w.off
  if s.fld (rsdB + 0x40 * v + 0x18) 0 2 = 1 then .next s
  else .next (((s.liveHandles v).foldl State.revokeRsd s).rstatDone v).switchAll

/-! ### Fills that end (R122, R131) -/

/-- FILL_COMPLETE (R122, R129). -/
def execFillComplete (vdev h : Nat) (s : State) : Out :=
  match s.fillEnd (rsdKey vdev h) with
  | some t => .next (t.switchAll)
  | none => .refused (.notEnabled "FILL_COMPLETE")

/-- REBUILD_COMPLETE (R131): its entry of the CPY queue is free again. -/
def execRebuildComplete (vdev h : Nat) (s : State) : Out :=
  match s.rebuildEnd (rsdKey vdev h) with
  | some t =>
    let t := match s.rsds.find? (rsdKey vdev h) with
      | some r => (match r.op with | some op => t.countOut op none 0 | none => t)
      | none => t
    .next (t.switchAll)
  | none => .refused (.notEnabled "REBUILD_COMPLETE")

end Sys2Proof.Machine
end

