-- ==== Sys2Proof/Machine/Preempt.lean ====
section
/-! DEFINITION. Pre-emption (R377 to R383, R397, R398): the end of a slice, saving, discarding and resuming blocks, and the
queue-level kill. -/

namespace Sys2Proof.Machine

/-! ### Blocks that go (R382, R383) -/

/-- Requests removed, wherever they stand. -/
def State.dropReqs (s : State) (f : Nat × Req → Bool) : State :=
  let gone := (s.ms.reqs.filter f).map (·.1)
  let m := s.ms
  { s with ms := { m with reqs := m.reqs.filter (fun p => !f p), side := m.side.map (fun p => (p.1, p.2.filter (fun i => !gone.contains i))) },
           mig := { s.mig with fwd := s.mig.fwd.map (fun p => (p.1, { p.2 with window := p.2.window.filter (fun i => !gone.contains i.1) })) } }

/-- A save slot returned to its device's pool (R380). -/
def State.freeSlot (s : State) (v slot : Nat) : State :=
  { s with sch := { s.sch with slots := s.sch.slots.put v ((SMap.get [] s.sch.slots v).filter (· ≠ slot)) } }

/-- The engine operations of a block stop, and its collectives abort; a fill goes on for its residency, charged to nobody, and commands
that a drive has stay its own until they are over (R326, R331, R383). -/
def State.dropOps (s : State) (b : Nat) : State :=
  let mine (o : EOp) : Bool := o.blk = b && o.cid ≠ noThreadId
  let stops (o : EOp) : Bool := mine o && decide (o.kind ≠ EKind.fill)
  let ids := (s.eng.ops.filter (fun p => stops p.2)).map (·.1)
  let chans := ((s.eng.ops.filter (fun p => stops p.2 && decide (p.2.kind = EKind.srd))).map (·.2.chan)).dedup
  let s := (s.collKill ids.contains).dropReqs (fun p => match p.2.kind with | .engine id => ids.contains id | _ => false)
  let left (o : EOp) : EOp := { o with charged := [], cid := noThreadId }
  let ops := s.eng.ops.filterMap (fun p =>
    if !mine p.2 then some p
    else if !stops p.2 then some (p.1, left p.2)
    else if p.2.cmds.any NvCmd.flying then some (p.1, { left p.2 with st := .counted none }) else none)
  chans.foldl (fun s ch => (s.nvSubmit ch).chanSettle ch) { s with eng := { s.eng with ops := ops } }

/-- A block gone: its threads, accesses, operations and tokens with it, and its saved image's slot (R382, R383). -/
def State.dropBlock (s : State) (b : Nat) : State :=
  match s.blk? b with
  | none => s
  | some x =>
    let mine (cid : Nat) : Bool := 128 ≤ cid && cid < hubW && blkOf cid = b
    let s := s.dropOps b
    let s := s.dropReqs (fun p => mine p.2.cid)
    let s := { s with kv := { s.kv with upds := s.kv.upds.filter (fun u => !mine u.cid) } }
    let s := (s.trp.toks.filter (fun t => mine t.2.cid)).foldl (fun s t => s.dropToken t.1) s
    let s := match x.st with | .saving i | .saved i => s.freeSlot x.dev i | _ => s
    { (s.dropThreads b) with blocks := s.blocks.erase b }.settleRevokes

/-- The blocks of a gang that a block belongs to (R160, R172). -/
def State.gangOf (s : State) (x : Block) : List (Nat × Block) :=
  s.blocks.filter (fun p => p.2.launch = x.launch && p.2.lead = x.lead)

/-- A gang discarded: its blocks will start again from their beginning (R382). -/
def State.discardGang (s : State) (x : Block) : State :=
  let mates := s.gangOf x
  let b0 := mates.foldl (fun n p => Nat.min n p.2.num) x.num
  let s := mates.foldl (fun s p => s.dropBlock p.1) s
  match s.sch.launches.find? x.launch with
  | some l => s.setLaunch x.launch { l with again := l.again ++ [(b0, x.gsize)] }
  | none => s

/-! ### The queue-level kill (R383) -/

/-- The value of a killed launch's signal: code 16, KILLED. -/
def killedSignal : Nat := 2 ^ 63 + 16

/-- The blocks of a launch stop. -/
def State.dropBlocks (s : State) (l : Nat) : State := (s.blocks.filter (fun p => p.2.launch = l)).foldl (fun s p => s.dropBlock p.1) s

/-- A launch killed: its blocks stop, at its members too, and it completes; a member's part is over here, and its home hears of it
(R363, R383). -/
def State.killLaunch (s : State) (l : Nat) : State :=
  let s := s.dropBlocks l
  match s.sch.launches.find? l with
  | some x =>
    if x.ended then s
    else match x.home with
      | some (pos, id) => (s.setLaunch l { x with ended := true }).tell (pos / 32, pos % 32) (.rectKill id)
      | none => ((s.setLaunch l { x with ended := true, rect := none }).releaseClaims l x).signal l killedSignal
  | none => s

/-- The KILLED record of a queue (R370, R383). -/
def State.killedRec (s : State) (v q n : Nat) : List Byte :=
  leBytes 128 (at' 2 20 3 + at' v 32 6 + at' n 256 64 + at' s.pt 384 64 + at' q 512 8)

/-- A queue killed (R383, R402, R404). -/
def State.killQueue (s : State) (q : Nat) : State :=
  let v := s.qdev q
  let ls := (s.sch.launches.filter (fun p => p.2.queue = q && p.2.home.isNone && !p.2.ended)).map (·.1)
  let s := (s.setFld (qreg q 0) 0 1 0).setFld (qreg q 0x20) 0 2 0
  let s := ls.foldl State.killLaunch s
  let s := s.enterRecord { slot := v, bytes := s.killedRec v q ls.length, pt := s.pt, cid := noThreadId, k := 0, token := 0 }
  let o := fslot v + 0x30
  (s.setFld o 16 16 (Nat.min (s.fld o 16 16 + 1) 0xFFFF)).interrupt v 7 0x7F q 0

/-! ### The image of a block (R380) -/

/-- Registers of a group's segment in the order of a granule: register r of lane l at 128r + 4l (R380, R428). -/
def Ctx.granules (c : Ctx) : List Byte :=
  (List.range (32 * c.seg)).flatMap (fun r => (List.range 32).flatMap (fun l => leBytes 4 (c.rv l r).toNat))

/-- Free bytes of a draw. -/
def freeBytes (draw n : Nat) : List Byte := (List.range n).map (fun i => (Config.free (draw + i)).setWidth 8)

/-- The parts of a block's image: offset and bytes. Layouts that R380 does not give are free bytes. -/
def State.imageOf (s : State) (b : Nat) (x : Block) : List (Nat × List Byte) :=
  let groups := (List.range x.ngrp).filterMap (fun g => s.ctxs.find? (ctxKey b g))
  [(0, freeBytes x.draw 4096), (0x1000, groups.flatMap Ctx.granules), (0x101000, freeBytes (x.draw + 4096) (2048 * x.ngrp)),
   (0x119000, freeBytes (x.draw + 0x20000) 8192)]
  ++ (if x.tree.isSome then [(0x11B000, freeBytes (x.draw + 0x22000) 8192)] else [])
  ++ [(0x11D000, (List.range (x.aspk * 4096)).map (fun i => SMap.get 0 x.asp i)),
      (0x29D000, (List.range (x.acst * 4096)).flatMap (fun e => leBytes 16 (SMap.get 0 x.acs e).toNat))]

/-- The draws that an image takes. -/
def imageDraws : Nat := 0x24000

/-- Address of a save slot (R372, R380). -/
def State.slotAt (s : State) (v slot : Nat) : Nat := s.fld (fslot v + 0x28) 22 30 * 2 ^ 22 + slot * 2 ^ 22

/-- The image of a saved block written to its slot. -/
def State.writeImage (s : State) (b : Nat) : State :=
  match s.blk? b with
  | none => s
  | some x => match x.st with
    | .saving i | .saved i => (s.imageOf b x).foldl (fun s p => (s.physWr (s.slotAt x.dev i + p.1) p.2).1) s
    | _ => s

/-- The slot still holds the image that was written. -/
def State.imageHolds (s : State) (b : Nat) (x : Block) (slot : Nat) : Bool :=
  (s.imageOf b x).all (fun p => decide (s.rdBytes 0 (s.slotAt x.dev slot + p.1) p.2.length = p.2))

/-- A free word of a draw. -/
def freeW (d n : Nat) : BitVec n := (Config.free d).setWidth n

/-- A sparse file of free values: the entries that differ from zero, by index, of those that exist. -/
def freeFile {n : Nat} (d count : Nat) (keep : Nat → Bool) : SMap (BitVec n) :=
  (List.range count).filterMap (fun i => let w : BitVec n := freeW (d + i) n; if w = 0 ∨ !keep i then none else some (i, w))

/-- The registers of a thread as free values (R380). -/
def Ctx.scrambled (c : Ctx) (d : Nat) : Ctx :=
  { c with
    v := freeFile d 8192 (fun i => c.stream = .lane && decide (i % 256 < 32 * c.seg)), p := freeFile (d + 8192) 7 (fun _ => true),
    ix := freeFile (d + 8200) 128 (fun _ => c.stream = .lane), s := freeFile (d + 8400) 64 (fun _ => c.stream = .cox),
    ka := (List.range 10).foldl (fun a i => a ||| ((freeW (d + 8500 + i) 64).setWidth 640 <<< (64 * i))) 0 &&& BitVec.ofNat 640 (2 ^ 635 - 1),
    gwct := (Config.free (d + 8520)).toNat, sr := freeFile (d + 8530) 32 (fun _ => true),
    ac := (List.range 6).map (fun i => (i, (freeW (d + 8600 + i) 16).toNat)) }

/-- Registers, buffers and TRF of a block whose image software has written hold undefined values (R380). -/
def State.scramble (s : State) (b : Nat) (x : Block) : State :=
  let d := s.fresh
  let s := (s.threadsOf b).foldl (fun s p => s.setCtx p.1 (p.2.scrambled (d + 10000 * (p.1 % 64)))) s
  let a := d + 700000
  let y : Block :=
    { x with
      asp := freeFile a (x.aspk * 4096) (fun _ => true),
      acs := (List.range (x.acst * 4096)).filterMap (fun i =>
        let w : Word128 := freeW (a + 2000000 + i) 64 ++ freeW (a + 2100000 + i) 64; if w = 0 then none else some (i, w)),
      mrp := (freeW (a + 2201000) 24).setWidth 128 <<< 64 ||| (freeW (a + 2201001) 56).setWidth 128,
      tree := x.tree.map (fun _ => { base := (freeW (a + 2200000) 32).toNat, nodes := (List.range ((freeW (a + 2200001) 8).toNat)).map (fun i =>
        ({ parent := (freeW (a + 2202100 + 5 * i) 9).toNat, accept := (freeW (a + 2202101 + 5 * i) 1) = 1,
           user := (freeW (a + 2202102 + 5 * i) 16).toNat, token := freeW (a + 2202103 + 5 * i) 32,
           score := freeW (a + 2202104 + 5 * i) 32 } : TNode)) }) }
  { s.setBlk b y with fresh := d + 3000000 }

/-! ### Choosing a mode (R377, R378) -/

/-- MODES and DEADLINE of a device (R372). -/
def State.preModes (s : State) (v : Nat) : Nat := s.fld (fslot v + 0x20) 32 3
/-- DEADLINE in ticks. -/
def State.preDeadline (s : State) (v : Nat) : Nat := s.fld (fslot v + 0x20) 0 32
/-- Slots of a device's pool that hold no image. -/
def State.freeSlots (s : State) (v : Nat) : List Nat :=
  (List.range (s.fld (fslot v + 0x28) 0 16)).filter (fun i => !(SMap.get [] s.sch.slots v).contains i)

/-- Blocks of a device on a cluster that have not ended. -/
def State.residentOn (s : State) (v cl : Nat) : List (Nat × Block) :=
  s.blocks.filter (fun p => p.2.dev = v && p.2.cluster = cl && p.2.onCore)

/-- Bytes of a block's image that it writes (R378, R380). -/
def State.imageBytes (s : State) (p : Nat × Block) : Nat :=
  let b := p.2
  4096 + ((s.threadsOf p.1).foldl (fun n t => if t.2.stream = .lane then n + t.2.seg * 4096 else n) 0) + 2048 * b.ngrp + 8192
    + (if b.tree.isSome then 8192 else 0) + b.aspk * 4096 + b.acst * 0x10000

/-- SaveEst (R378). -/
def State.saveEst (s : State) (bs : List (Nat × Block)) : Nat :=
  let ops := s.eng.ops.filter (fun p => bs.any (fun b => b.1 = p.2.blk) && (match p.2.st with | .counted _ => false | _ => true))
  let left := ops.foldl (fun n p => if p.2.kind = .coll then n
    else n + ((match p.2.kind with | .srd => bits p.2.c.toNat 0 32 | _ => p.2.total) - p.2.wrote)) 0
  let coll := s.eng.colls.foldl (fun n x => match x.op with
    | some id => if ops.any (fun p => p.1 = id) then n + (x.issue + x.deadline - s.pt) else n | none => n) 0
  (bs.foldl (fun n p => n + s.imageBytes p) 0) / 256 + left / 64 + coll

/-- DrainEst (R378): none is infinite. -/
def State.drainEst (s : State) (bs : List (Nat × Block)) : Option Nat :=
  bs.foldl (fun m p => match m, (s.sch.launches.find? p.2.launch).bind (·.mean) with
    | some a, some l =>
      if (s.threadsOf p.1).any (fun t => t.2.splits.any (fun q => q.2.parked.isSome)) then none
      else some (Nat.max a (l - (s.pt - p.2.start)))
    | _, _ => none) (some 0)

/-- Choose of R377, with DRAIN left out for a LOWLAT device that comes (R398). -/
def State.choose (s : State) (v cl inc : Nat) : PMode :=
  let m := s.preModes v
  let bs := s.residentOn v cl
  let drain : Bool := bitOf m 0 && !(inc < 64 && s.mode inc = 2)
  let quick : Bool := match s.drainEst bs with | some d => decide (d ≤ Nat.min (s.saveEst bs) (s.preDeadline v)) | none => false
  if bitOf m 2 && bs.all (·.2.disc) then .discard
  else if drain && quick then .drain
  else if bitOf m 1 && decide ((bs.filter (fun p => !p.2.disc)).length ≤ (s.freeSlots v).length) then .save
  else if drain then .drain
  else if bitOf m 1 then .save
  else .discard

/-- Every block of a gang is discardable and none has ended. -/
def State.discardable (s : State) (x : Block) : Bool := (s.gangOf x).all (fun p => p.2.disc && decide (p.2.st = BState.resident))

/-- A gang's blocks stop issuing and take their slots, when there are enough (R379, R380). -/
def State.beginSave (s : State) (x : Block) : State :=
  let mates := s.gangOf x
  let free := s.freeSlots x.dev
  if free.length < mates.length then s
  else
    let s := (mates.zip free).foldl (fun s p => s.setBlk p.1.1 { p.1.2 with st := .saving p.2 }) s
    { s with sch := { s.sch with slots := s.sch.slots.put x.dev (SMap.get [] s.sch.slots x.dev ++ free.take mates.length) } }

/-- Gangs of a device on a cluster that run, by one block of each. -/
def State.gangsOn (s : State) (v cl : Nat) : List Block :=
  ((s.residentOn v cl).filter (fun p => p.2.st = .resident && (s.gangOf p.2).all (fun q => decide (p.1 ≤ q.1) || q.2.st ≠ .resident))).map (·.2)

/-- Gangs that wait for a slot are saved as slots free, unless they were left to drain (R377). -/
def State.saveMore (s : State) : State :=
  s.sch.pre.foldl (fun s p =>
    if p.2.mode = .save ∧ !bitOf (s.preModes p.2.dev) 0 then
      (s.gangsOn p.2.dev p.1).foldl (fun s x => s.beginSave x) s
    else s) s

/-- What follows when blocks have gone: gangs that wait for a slot, clusters that wait to pass on, and the operating points (R129, R359,
R377). -/
def State.blocksGone (s : State) : State := (s.saveMore.switchAll).retune

/-- The chosen mode applied to each gang of the device on the cluster (R377). -/
def State.applyMode (s : State) (v cl : Nat) (m : PMode) : State :=
  (s.gangsOn v cl).foldl (fun s x =>
    match m with
    | .drain => s
    | .discard => if s.discardable x then s.discardGang x else s
    | .save => if s.discardable x && bitOf (s.preModes v) 2 then s.discardGang x else s.beginSave x) s

/-- The window that a cluster is given on for the rest of it: the device that has it, and its end (R398). -/
def State.givenOn (s : State) (cl : Nat) : SMap (Nat × Nat) :=
  let ws := s.windows cl
  let len := Nat.max 1 (cycleLen ws)
  match s.windowOwner cl, windowAt ws 0 0 (s.pt % len) with
  | some (d, j), some (i, e) => if i = j then s.sch.given.erase cl else s.sch.given.put cl (d, s.pt / len * len + e)
  | _, _ => s.sch.given.erase cl

/-- SLICE_END (R397, R398): the window of the device that holds a cluster is over, or has been given on for the rest of that window; the
cluster chooses how its blocks leave, and DEADLINE counts from the end of the slice. -/
def execSliceEnd (cl : Nat) (s : State) : Out :=
  let out := s.holderOf cl
  let inc := match s.windowOwner cl with | some (d, _) => d | none => 64
  if 40 ≤ cl ∨ inc = out ∨ (s.sch.pre.find? cl).isSome then .refused (.notEnabled "SLICE_END")
  else
    let m := s.choose out cl inc
    let s := { s with sch := { s.sch with given := s.givenOn cl, pre := s.sch.pre.put cl { dev := out, mode := m, since := s.sliceOver cl out } } }
    .next ((s.applyMode out cl m).trySwitch cl).retune

/-- Every completion flag of a thread is clear; a pending rgrow, which is saved ungranted, does not count (R184, R379). -/
def Ctx.flagsClear (c : Ctx) : Bool :=
  c.flags.all (fun f => decide (f.2 ≤ (if (c.rgrow.bind (·.flag)) = some f.1 then 1 else 0)))

/-- A block that stops for its save has nothing outstanding (R379). -/
def State.quiet (s : State) (b : Nat) : Bool :=
  let mine (cid : Nat) : Bool := 128 ≤ cid && cid < hubW && blkOf cid = b
  (s.threadsOf b).all (fun p => p.2.res.isEmpty && p.2.accs.isEmpty && p.2.flagsClear && SMap.get 0 p.2.ac 4 = 0 && p.2.rem8 = 0
      && p.2.splits.all (fun q => match q.2.wait with | .confirm _ => false | _ => true))
    && s.eng.ops.all (fun p => p.2.blk ≠ b || p.2.cid = noThreadId || (match p.2.st with | .counted _ => true | _ => false))
    && s.kv.upds.all (fun u => !mine u.cid)
    && s.ms.reqs.all (fun r => r.2.fin || r.2.space ≠ 5 || !(match s.ctxs.find? r.2.cid with
        | some c => (match (s.blk? c.blk).bind (fun y => s.peerOf y r.2.rank) with | some (k, _) => k = b | none => false)
        | none => false))

/-- The tile of an instruction that performs steps (R292). -/
def matTile : Instr → Option Nat
  | .mma _ _ _ t _ | .mmas _ _ _ t _ _ | .mmx _ _ _ t _ | .mmt _ _ _ t _ => some t.toNat
  | _ => none

/-- A cox that is saved while it is held at an unconfirmed matrix instruction stops it at the boundary of its next step: MRP names the
instruction and that step (R300). -/
def State.stopMatrix (s : State) (b : Nat) : State :=
  match s.blk? b, s.ctxs.find? (coxKey b) with
  | some x, some c =>
    c.splits.foldl (fun s p => match p.2.wait, (p.2.here).bind matTile with
      | .held n, some tile =>
        if n = 7 ∨ n = 9 then
          let (kb, m) := x.startStep p.2.pc.toNat tile
          s.setBlk b (x.mrpStop p.2.pc.toNat tile kb m)
        else s
      | _, _ => s) s
  | _, _ => s

/-- A quiet block saved: what its matrix instructions had begun is noted, and its image is written (R300, R380). -/
def State.saveBlock (s : State) (b i : Nat) (x : Block) : State :=
  let s := s.stopMatrix b
  let y : Block := { (s.blk? b).getD x with draw := s.fresh, savedAt := s.sch.saves, savePt := s.pt }
  let s := { s.setBlk b y with fresh := s.fresh + imageDraws, sch := { s.sch with saves := s.sch.saves + 1 } }
  (s.writeImage b).setBlk b { y with st := .saved i }

/-- SAVE_COMPLETE (R129, R300, R379, R380): a block with nothing outstanding is saved, and the cluster may pass on. -/
def execSaveComplete (b : Nat) (s : State) : Out :=
  match s.blk? b with
  | none => .refused (.notEnabled "SAVE_COMPLETE")
  | some x => match x.st with
    | .saving i =>
      if !s.quiet b then .refused (.notEnabled "SAVE_COMPLETE")
      else .next (((s.saveBlock b i x).trySwitch x.cluster).retune)
    | _ => .refused (.notEnabled "SAVE_COMPLETE")

/-! ### Resuming (R381) -/

/-- Cores for a list of blocks, each to its own. -/
def assignCores (ok : Nat → Nat → Bool) : List Nat → List Nat → Option (List Nat)
  | [], _ => some []
  | b :: bs, free => free.findSome? (fun k => if ok b k then (assignCores ok bs (free.erase k)).map (k :: ·) else none)

/-- What a saved block takes of a core. -/
def State.needOf (s : State) (b : Nat) (x : Block) : Need :=
  let gs := (s.threadsOf b).filter (fun p => decide (p.2.stream = .lane) && decide (p.2.alive ≠ (0 : Mask)))
  { groups := gs.length, gran := gs.foldl (fun n p => n + p.2.seg) 0, aspk := x.aspk, acst := x.acst, tree := x.tree.isSome }

/-- The oldest saved gang of a device (R381). -/
def State.oldestSaved (s : State) (v : Nat) : Option (Nat × Block) :=
  leastBy (fun p : Nat × Block => p.2.savedAt) (s.blocks.filter (fun p => p.2.dev = v && (match p.2.st with | .saved _ => true | _ => false)))

/-- Where a saved gang can resume: a cluster that the device holds and a core for each block. -/
def State.resumePlace (s : State) (x : Block) : Option (Nat × List (Nat × Nat)) :=
  let mates := (s.gangOf x).map (·.1)
  (s.clustersOf x.dev).findSome? (fun cl =>
    let ok (b k : Nat) : Bool := match s.blk? b with | some y => (s.room (s.needOf b y) cl k).isSome | none => false
    (assignCores ok mates (List.range 8)).map (fun ks => (cl, mates.zip ks)))

/-- A saved block resumes on a core: everything is as it was but what names the place and the numbers of its group slots; flags are clear,
and a pending rgrow asks again, with no flag to lower (log entry 96); a block that had ended waits for its gang as before (R163, R172, R379,
R381). -/
def State.resumeBlock (s : State) (b cl core : Nat) : State :=
  match s.blk? b with
  | none => s
  | some x => match x.st with
    | .saved slot =>
      let ok := s.imageHolds b x slot
      let (g0, a0, t0) := (s.room (s.needOf b x) cl core).getD (0, 0, 0)
      let gone := s.pt - x.savePt
      let ended : Bool := (s.threadsOf b).isEmpty
      let used := (s.groupsOn cl core).map (·.2.gslot)
      let (s, _, _) := (s.threadsOf b).foldl (fun (r : State × Nat × List Nat) (p : Nat × Ctx) =>
        let (s, at0, used) := r
        let lane : Bool := decide (p.2.stream = .lane) && decide (p.2.alive ≠ (0 : Mask))
        let c : Ctx := { p.2 with start := p.2.start + gone, flags := [], olds := [], rgrow := p.2.rgrow.map (fun q => { q with since := s.pt, flag := none }) }
        if lane then
          (s.setCtx p.1 { c with segAt := at0, gslot := lowestFree used 47 }, at0 + c.seg, lowestFree used 47 :: used)
        else (s.setCtx p.1 c, at0, used)) (s, g0, used)
      let y : Block := { x with cluster := cl, core := core, aspAt := a0, acsAt := t0, start := x.start + gone,
                                st := if ended then .retired else .resident }
      let s := (s.setBlk b y).freeSlot x.dev slot
      if ok then s else s.scramble b y
    | _ => s

/-- BLOCK_RESUME (R381): the oldest saved gang of its device resumes whole, once a cluster that the device holds can take it. -/
def execBlockResume (b : Nat) (s : State) : Out :=
  match s.blk? b with
  | none => .refused (.notEnabled "BLOCK_RESUME")
  | some x =>
    let whole : Bool := (s.gangOf x).all (fun p => match p.2.st with | .saved _ => true | _ => false)
    let first : Bool := match s.oldestSaved x.dev with | some (_, y) => y.launch = x.launch && y.lead = x.lead | none => false
    if !whole || !first then .refused (.notEnabled "BLOCK_RESUME")
    else match s.resumePlace x with
      | none => .refused (.notEnabled "BLOCK_RESUME")
      | some (cl, ks) => .next ((ks.foldl (fun s p => s.resumeBlock p.1 cl p.2) s).saveMore).retune

/-- The queues of the launches listed killed, and members' parts of other packages' launches (R383). -/
def State.killLaunches (s : State) (ls : List Nat) : State :=
  let isHome (l : Nat) : Bool := match s.sch.launches.find? l with | some x => x.home.isNone | none => false
  let qs := ((ls.filter isHome).filterMap (fun l => (s.sch.launches.find? l).map (·.queue))).dedup
  (ls.filter (fun l => !isHome l)).foldl State.killLaunch (qs.foldl State.killQueue s)

/-- PREEMPT_DEADLINE (R383): blocks of the outgoing device are still on the cluster DEADLINE ticks after the end of its slice:
every queue that has a launch with such a block is killed. -/
def execPreemptDeadline (cl : Nat) (s : State) : Out :=
  match s.sch.pre.find? cl with
  | none => .refused (.notEnabled "PREEMPT_DEADLINE")
  | some p =>
    let bs := s.blocks.filter (fun b => b.2.dev = p.dev && b.2.cluster = cl && b.2.standing)
    if bs = [] ∨ s.pt < p.since + s.preDeadline p.dev then .refused (.notEnabled "PREEMPT_DEADLINE")
    else .next (s.killLaunches (bs.map (·.2.launch)).dedup).blocksGone

/-- The home's release of a claim, or its kill of the launch: whatever of the launch still runs here stops, and the claim is free (R363,
R383). -/
def State.rectRelease (s : State) (row col id : Nat) : State :=
  let s := match s.memberOf row col id with
    | some (l, _) => (s.dropBlocks l).dropLaunch l
    | none => s
  (s.dropClaim row col id).blocksGone

/-- A member has killed its part of a launch: the home kills the launch's queue (R383). -/
def State.rectKill (s : State) (l : Nat) : State :=
  match s.sch.launches.find? l with
  | some x =>
    if x.home.isSome ∨ x.ended then s else (s.killQueue x.queue).blocksGone
  | none => s

end Sys2Proof.Machine
end

