-- ==== Sys2Proof/Machine/Results.lean ====
section
/-! DEFINITION. Results that arrive after their instruction (R89, R184, R185, R288). -/

namespace Sys2Proof.Machine

/-- Updates of accumulator elements made in a thread's block. -/
def State.matUpdate (s : State) (c : Ctx) (ms : List (Nat × MatUpd)) (clr : BitVec 8) : State :=
  match s.blk? c.blk with
  | some b => s.setBlk c.blk ((ms.foldl Block.matApply b).ovfClear clr)
  | none => s

/-- A result lands whole: its register writes, its KA, what is left of its updates, and its flag falls. A residency that no instruction
uses any more may then be freed (R127). -/
def State.landRes (s : State) (cid key : Nat) (c : Ctx) (r : Res) : State :=
  let c1 := (c.land r.writes).flagDown r.flag
  let c2 := { c1 with ka := r.ka.getD c1.ka, res := c1.res.erase key }
  let s := s.setCtx cid c2
  let s := if r.isMat then s.matUpdate c r.mats r.ovfClr else s
  if r.rsd.isSome then s.settleRevokes.switchAll else s

/-- An earlier instruction's update of a tile, or its clearing of the tile's sticky bit, is still to come (R288). -/
def Ctx.tileWaits (c : Ctx) (key t : Nat) : Bool := c.res.any (fun p => decide (p.1 < key) && p.2.tiles.contains t)

/-- VARIABLE_LATENCY_RESULT (R185): of the result with number i div 2^20 of the thread, the rest lands and its flag falls when
i mod 2^20 is 0; else its write or element update with number i mod 2^20 − 1 lands alone. A tile's updates are made in the
order of their instructions (R89, R288). -/
def execVariableLatencyResult (cid i : Nat) (s : State) : Out :=
  let no : Out := .refused (.notEnabled "VARIABLE_LATENCY_RESULT")
  let key := i / 2 ^ 20
  let j := i % 2 ^ 20
  match s.ctxs.find? cid with
  | none => no
  | some c => match c.res.find? key with
    | none => no
    | some r =>
      if j = 0 then (if r.tiles.any (c.tileWaits key) then no else .next (s.landRes cid key c r))
      else if j - 1 < r.writes.length then
        match r.writes[j - 1]? with
        | some w =>
          let c := { c.land [w] with res := c.res.put key { r with writes := r.writes.eraseIdx (j - 1) } }
          .next (s.setCtx cid c)
        | none => no
      else
        let n := j - 1 - r.writes.length
        match r.mats[n]? with
        | some m =>
          if c.tileWaits key (m.1 / 4096) || (r.mats.take n).any (fun q => q.1 = m.1) then no
          else
            let s := s.setCtx cid { c with res := c.res.put key { r with mats := r.mats.eraseIdx n } }
            .next (s.matUpdate c [m] 0)
        | none => no

end Sys2Proof.Machine
end

