-- ==== Sys2Proof/Machine/Keys.lean ====
section
/-! DEFINITION. Encryption keys (R406 to R408). -/

namespace Sys2Proof.Machine

/-- The device of a key-programming slot (R406). -/
def keySlotOf (off : Nat) : Nat := (off - partB) / 0x80

/-- KSTAT of a device. -/
def State.setKstat (s : State) (v st reason : Nat) : State :=
  s.setReg (partB + 0x80 * v + 0x48) (BitVec.ofNat 64 (st + reason * 16))

/-- KDATA of a device as one 512-bit number, low word first. -/
def State.kdataOf (s : State) (v : Nat) : Nat :=
  (List.range 8).foldl (fun n i => n + (SMap.get 0 s.part.kdata (8 * v + i)).toNat * 2 ^ (64 * i)) 0

/-- KDATA cleared, as every KPROG write leaves it. -/
def State.clearKdata (s : State) (v : Nat) : State :=
  { s with part := { s.part with kdata := s.part.kdata.filter (fun p => p.1 / 8 ≠ v) } }

/-- The device may program the key: it is not 0 and stands in its KEYS (R394, R406). -/
def State.keyOwned (s : State) (v k : Nat) : Bool := k ≠ 0 && s.fld (pslot v + 0x100 + 8 * (k / 64)) (k % 64) 1 = 1

/-- A key's mode and material. -/
def State.setKey (s : State) (k : Nat) (x : KeySt) : State := { s with part := { s.part with keys := SMap.set {} s.part.keys k x } }

/-- The lines that an L2 owns under a key. -/
def State.ownedUnder (s : State) (k : Nat) : List Nat :=
  (s.ms.dir.filter (fun p => p.2.owner.isSome && p.2.okey = k)).map (·.1)

/-- A KPROG write judged (R406): what it does when nothing stands against it. -/
def State.kprog (s : State) (w : RegW) (f : State → Nat → Nat → State) : State :=
  let v := keySlotOf w.off
  let k := bits w.val.toNat 0 12
  let m := bits w.val.toNat 12 2
  let data := s.kdataOf v
  let s := s.clearKdata v
  if !s.keyOwned v k then s.setKstat v 3 1
  else if m = 3 ∨ bits w.val.toNat 14 50 ≠ 0 then s.setKstat v 3 2
  else if m = 1 ∧ data % 2 ^ 256 = data / 2 ^ 256 then s.setKstat v 3 3
  else (f s k data).setKstat v 2 0

/-- KEY_OFF (R406, R407): the key has no material any more; lines still owned under it are written back poisoned. -/
def execKeyOff (w : RegW) (s : State) : Host.Outcome State Fault Refusal :=
  .next (s.kprog w (fun s k _ =>
    let ls := s.ownedUnder k
    ls.foldl State.writeBack (s.setKey k {})))

/-- KEY_XTS (R406, R408): lines owned under the key are written back under the old material, then the new takes effect. -/
def execKeyXts (w : RegW) (s : State) : Host.Outcome State Fault Refusal :=
  .next (s.kprog w (fun s k data => ((s.ownedUnder k).foldl State.writeBack s).setKey k { mode := 1, mat := data + 1 }))

/-- KEY_PLAIN (R406, R408). -/
def execKeyPlain (w : RegW) (s : State) : Host.Outcome State Fault Refusal :=
  .next (s.kprog w (fun s k _ => ((s.ownedUnder k).foldl State.writeBack s).setKey k { mode := 2 }))

/-- KEY_BADCMD (R406): MODE 3 or a reserved bit. -/
def execKeyBadcmd (w : RegW) (s : State) : Host.Outcome State Fault Refusal := .next (s.kprog w (fun s _ _ => s))

end Sys2Proof.Machine
end

