-- ==== Sys2Proof/Machine/Caches.lean ====
section
/-! DEFINITION. What caches and directories do of themselves (R24, R37, R40, R69, R72, R75 to R77). -/

namespace Sys2Proof.Machine

/-- TRANSLATION_LEASE_EXPIRY (R24). -/
def execTranslationLeaseExpiry (key : Nat) (s : State) : Out :=
  match s.ms.tlb.find? key with
  | some t => if s.pt < t.exp then .refused (.notEnabled "TRANSLATION_LEASE_EXPIRY") else .next (s.tlbDrop key)
  | none => .refused (.notEnabled "TRANSLATION_LEASE_EXPIRY")

/-- LEASE_EXPIRY (R69): an expired copy is a miss, and goes. -/
def execLeaseExpiry (key : Nat) (s : State) : Out :=
  match s.ms.copies.find? key with
  | some c =>
    if s.pt < c.exp then .refused (.notEnabled "LEASE_EXPIRY")
    else .next { s with ms := { s.ms with copies := s.ms.copies.erase key } }
  | none => .refused (.notEnabled "LEASE_EXPIRY")

/-- The die of a cache unit. -/
def dieOfUnit (lvl : Level) (u : Nat) : Nat :=
  match lvl with
  | .l2 => u
  | .l3 => 0
  | _ => if 1000 ≤ u then 2 else if u / 8 < 20 then 0 else 1

/-- A copy of the same line at a level further out, which grants (R70, R72). -/
def State.outerCopy (s : State) (c : Copy) : Option (Nat × Copy) :=
  let d := dieOfUnit c.lvl c.unit
  (match c.lvl with | .l1 | .ic | .kvt => [Level.l2, .l3] | .l2 => [.l3] | _ => []).findSome? (fun lv => s.copyHit lv (lv.unitOf d c.unit) c.asid c.va)

/-- LEASE_RENEWAL (R72): an expired copy is renewed by the next grantor of its line. DESIGN CHOICE (log entry 78): an L2 or L3 may renew
its own copy at any time, so as to pass down a longer lease. -/
def execLeaseRenewal (key : Nat) (s : State) : Out :=
  match s.ms.copies.find? key with
  | none => .refused (.notEnabled "LEASE_RENEWAL")
  | some c =>
    if (s.pt < c.exp ∧ c.lvl ≠ .l2 ∧ c.lvl ≠ .l3) ∨ (s.asDesc c.asid) % 2 = 0 ∨ !descOk (s.asDesc c.asid) then
      .refused (.notEnabled "LEASE_RENEWAL")
    else match s.outerCopy c with
      | some (i, g) =>
        if g.upd.any (fun p => s.pt < p.1) then .refused (.notEnabled "LEASE_RENEWAL")
        else
          let v := bits (s.asDesc c.asid) 8 6
          let (s, g) := s.stretch v i g
          let (t, x) := s.passDown i g v
          .next (t.renewed key c x (lineSlice g.data c.va c.lvl) g.bad)
      | none => (match s.renewAtHA key c with
        | some t => .next t
        | none => .refused (.notEnabled "LEASE_RENEWAL"))

/-- OWNERSHIP_REQUEST (R54, R75): an L2 asks for write ownership of a line; the HA refuses it for a page that moves or that it does not
serve, and recalls another owner first. -/
def execOwnershipRequest (die asid va vdev : Nat) (s : State) : Out :=
  if 3 ≤ die then .refused (.notEnabled "OWNERSHIP_REQUEST")
  else match s.translate asid va .store true with
  | (_, .hold _) => .refused (.notEnabled "OWNERSHIP_REQUEST")
  | (t, .fault _ _ _ _) => .next t
  | (t, .ok tr) =>
    let pa := t.routed tr.pa
    if tr.vdev ≠ vdev then .refused (.notEnabled "OWNERSHIP_REQUEST")
    else if t.poolSays tr.pa ≠ .serve ∨ t.moving (pa / 0x10000) then .next t
    else
      let q : HaReq := { asid := asid, va := va, n := 128, priv := true, who := hubW, atL := .l2 die }
      let t := if t.ownedAs q vdev (pa / 128) die then t else t.count vdev pa true false (some (asid, va, tr.lvl, tr.pte))
      .next (t.grantOwn q tr (pa / 128) die).1

/-- The line has an owner. -/
def State.hasOwner (s : State) (l : Nat) : Bool := match s.ms.dir.find? l with | some d => d.owner.isSome | none => false

/-- OWNERSHIP_RECALL (R77). -/
def execOwnershipRecall (line : Nat) (s : State) : Out :=
  if s.hasOwner line then .next (s.writeBack line) else .refused (.notEnabled "OWNERSHIP_RECALL")

/-- OWNERSHIP_EXPIRY (R77): at PT ≥ E the L2 performs nothing more under its ownership, and the line stays dirty in it: a later write asks
anew and finds the data there, and any other access recalls it first. -/
def execOwnershipExpiry (line : Nat) (s : State) : Out :=
  match s.ms.dir.find? line with
  | some d => (match d.owner with
    | some (_, _, _, e) => if s.pt < e then .refused (.notEnabled "OWNERSHIP_EXPIRY") else .next s
    | none => .refused (.notEnabled "OWNERSHIP_EXPIRY"))
  | none => .refused (.notEnabled "OWNERSHIP_EXPIRY")

/-- L2_EVICTION (R77, R407). -/
def execL2Eviction (line : Nat) (s : State) : Out :=
  if s.hasOwner line then .next (s.letGo line) else .refused (.notEnabled "L2_EVICTION")

/-- DIRECTORY_DROP (R37, R95): an entry with no write still hidden goes; its owner is recalled and the tier's lease floor rises to
its expiry. -/
def execDirectoryDrop (line : Nat) (s : State) : Out :=
  match s.ms.dir.find? line with
  | none => .refused (.notEnabled "DIRECTORY_DROP")
  | some d =>
    if d.pend.any (fun p => s.pt < p.1) then .refused (.notEnabled "DIRECTORY_DROP")
    else
      let t := region (line * 128)
      let s := s.writeBack line
      let m := s.ms
      .next { s with ms := { m with dir := m.dir.erase line,
                                    floors := SMap.set 0 m.floors t (Nat.max (SMap.get 0 m.floors t) (Nat.max d.exp d.gprev)) } }

/-- COUNTER_WRITEBACK (R40). -/
def execCounterWriteback (key : Nat) (s : State) : Out :=
  match s.ms.counters.find? key with
  | none => .refused (.notEnabled "COUNTER_WRITEBACK")
  | some (x, _) =>
    let s := { s with ms := { s.ms with counters := s.ms.counters.erase key } }
    .next (s.physWr key (leBytes 8 x.toNat)).1

end Sys2Proof.Machine
end

