-- ==== Sys2Proof/Machine/Pool.lean ====
section
/-! DEFINITION. Pool pages between packages (R53 to R57): POTCMD and the handover at both its ends. -/

namespace Sys2Proof.Machine

/-- This package's member index (R66). -/
def State.member (s : State) : Nat := s.fld tierB 0 4
/-- The pool page that a PPN names (R35); none outside the pool. -/
def State.poolPage (s : State) (ppn : Nat) : Option Nat :=
  if ppn < 2 ^ 33 ∨ s.fld tierB 8 33 ≤ ppn - 2 ^ 33 then none else some (ppn - 2 ^ 33)
/-- A POT entry with a reserved bit set is invalid, and so is one whose STATE is reserved (R7, R53). -/
def potOk (e : Nat) : Bool := bits e 10 6 = 0 && bits e 4 2 ≠ 3
/-- The mesh position of a pool member (R55, R66). -/
def State.poolMember (s : State) (m : Nat) : Nat × Nat := (s.fld (tierB + 0x80 + 8 * m) 0 5, s.fld (tierB + 0x80 + 8 * m) 5 5)
/-- POTSTAT set; SEQ changes only with DONE (R66). -/
def State.setPot (s : State) (st reason : Nat) (seq : Option Nat) : State :=
  let s := (s.setFld (tierB + 0x18) 0 2 st).setFld (tierB + 0x18) 4 4 reason
  match seq with | some q => s.setFld (tierB + 0x18) 16 48 q | none => s
/-- POTSTAT reads BUSY. -/
def State.potBusy (s : State) : Bool := s.fld (tierB + 0x18) 0 2 = 1
/-- The POT entry of a page written. -/
def State.putPot (s : State) (n e : Nat) : State :=
  (s.physWr (s.fld (tierB + 8) 16 36 * 2 ^ 16 + 8 * n) (leBytes 8 e)).1
/-- What this HA knows of a page. -/
def State.setFact (s : State) (n : Nat) (f : PoolFact) : State := { s with mig := { s.mig with facts := s.mig.facts.put n f } }
/-- This package owns the page and is not handing it over. -/
def State.ownsPage (s : State) (n : Nat) : Bool := match s.mig.facts.find? n with | some f => f.owned && f.handover.isNone | none => false

/-- A POTCMD is taken: it is counted, as what a late reply may change depends on it (R56). -/
def State.potCmd (s : State) : State := { s with mig := { s.mig with potCmds := s.mig.potCmds + 1 } }

/-- The page of a POTCMD and its entry. DESIGN CHOICE (log entries 98 and 99): a PPN outside the pool, or an invalid entry (R7), is refused
like a page that nobody owns. -/
def State.potTarget (s : State) (ppn : Nat) : Option (Nat × Nat) :=
  match s.poolPage ppn with
  | some n => if potOk (s.potEntry n) then some (n, s.potEntry n) else none
  | none => none

/-- The PPN that a POTCMD names (R66). -/
def potPpn (w : RegW) : Nat := bits w.val.toNat 16 36

/-- REQUEST with the POT entry at hand (R55, R56): a page that is already this package's is recorded at once; otherwise its owner, found
through POOLMAP, is asked. -/
def State.potAsk (s : State) (n e : Nat) : State :=
  if bits e 0 4 = s.member ∧ bits e 4 2 = 1 then
    (s.setFact n { owned := true, handover := none, seq := bits e 16 48 }).setPot 2 0 (some (bits e 16 48))
  else
    let o := s.poolMember (bits e 0 4)
    let s := s.tell o (.handover (n + 2 ^ 33))
    { s with mig := { s.mig with potReq := some (n, s.pt, o.1, o.2) } }.setPot 1 0 none

/-- FORCE with the POT entry at hand (R57): the page is this package's, whoever owned it. -/
def State.potForce (s : State) (n e : Nat) : State :=
  let q := (bits e 16 48 + 1) % 2 ^ 48
  let s := s.putPot n (putBits (putBits (putBits e 0 4 s.member) 4 2 1) 16 48 q)
  (s.setFact n { owned := true, handover := none, seq := q }).setPot 2 0 (some q)

/-- A REQUEST or FORCE taken: it reads the POT entry, and waits, BUSY, while no CXL port is up (R55, R57, R418). -/
def State.potTake (s : State) (force : Bool) (ppn : Nat) : State :=
  if (s.poolPage ppn).isSome && !s.cxlUp then
    { s with mig := { s.mig with potWait := some (force, ppn, s.pt) } }.setPot 1 0 none
  else match s.potTarget ppn with
    | none => s.setPot 3 1 none
    | some (n, e) => if force then s.potForce n e else s.potAsk n e

/-- A POTCMD that waited for a CXL port goes on (R418). -/
def State.potGo (s : State) : State :=
  match s.mig.potWait with
  | some (force, ppn, _) => if s.cxlUp then ({ s with mig := { s.mig with potWait := none } }).potTake force ppn else s
  | none => s

/-- POTCMD REQUEST (R55, R56). -/
def execPotcmdRequest (w : RegW) (s : State) : Out :=
  if s.potBusy then .next s else .next (s.potCmd.potTake false (potPpn w))

/-- POTCMD FORCE (R57). -/
def execPotcmdForce (w : RegW) (s : State) : Out :=
  if s.potBusy then .next s else .next (s.potCmd.potTake true (potPpn w))

/-- POTCMD with another OP (R66). -/
def execPotcmdBadcmd (_w : RegW) (s : State) : Out := if s.potBusy then .next s else .next (s.potCmd.setPot 3 4 none)

/-- A reply of a handover sent: its reason in [3:0] and its SEQ in [63:16]. -/
def State.potReply (s : State) (reason seq : Nat) : State :=
  { s with lnk := { s.lnk with sent := some (.done (leBytes 8 (reason + seq * 2 ^ 16)), s.pt) } }

/-- HANDOVER_REQUEST (R55): the owner refuses, or begins HANDOVER: new requests for the page wait, and ownership of its lines is
recalled, their bytes written back. It reads and writes the POT, and waits for a CXL port (R418). -/
def execHandoverRequest (ppn frm : Nat) (s : State) : Out :=
  if (s.poolPage ppn).isSome && !s.cxlUp then .refused (.notEnabled "HANDOVER_REQUEST") else
  match (s.poolPage ppn).bind (fun n => (s.mig.facts.find? n).map (fun f => (n, f))) with
  | none => .next (s.potReply 1 0)
  | some (n, f) =>
    if !f.owned ∨ !potOk (s.potEntry n) then .next (s.potReply 1 0)
    else if f.handover.isSome ∨ s.mig.fwd.any (fun p => p.2.src = ppn || p.2.dst = ppn) then .next (s.potReply 2 0)
    else
      let e := s.potEntry n
      let s := s.putPot n (putBits (putBits e 4 2 2) 6 4 frm)
      let s := s.setFact n { f with handover := some (frm % 16) }
      .next ((List.range 512).foldl (fun s i => s.writeBack (ppn * 512 + i)) s)

/-- The latest read-lease expiry of a page's lines (R37, R55). -/
def State.pageExp (s : State) (ppn : Nat) : Nat :=
  (List.range 512).foldl (fun m i => Nat.max m (s.dirOf 0 (ppn * 512 + i)).exp) 0

/-- HANDOVER_COMMIT (R55): once every lease has expired the owner writes the new owner, which takes a CXL port (R418), and replies. -/
def execHandoverCommit (ppn : Nat) (s : State) : Out :=
  match (s.poolPage ppn).bind (fun n => (s.mig.facts.find? n).bind (fun f => f.handover.map (fun r => (n, f, r)))) with
  | none => .refused (.notEnabled "HANDOVER_COMMIT")
  | some (n, f, r) =>
    if s.pt ≤ s.pageExp ppn ∨ !s.cxlUp then .refused (.notEnabled "HANDOVER_COMMIT")
    else
      let e := if potOk (s.potEntry n) then s.potEntry n else f.seq * 2 ^ 16
      let q := (bits e 16 48 + 1) % 2 ^ 48
      let s := s.putPot n (putBits (putBits (putBits e 0 4 r) 4 2 1) 16 48 q)
      .next ((s.setFact n { owned := false, handover := none, seq := q }).potReply 0 q)

/-- The greatest SEQ recorded for a page is below the reply's (R56). -/
def State.newerSeq (s : State) (n seq : Nat) : Bool := match s.mig.facts.find? n with | some f => decide (f.seq < seq) | none => true

/-- HANDOVER_REPLY (R55, R56): ownership is recorded when the reply names this package with a greater SEQ. A reply after the timeout
changes POTSTAT only if no POTCMD has been written since. -/
def execHandoverReply (ppn : Nat) (refused : Option Nat) (owner seq : Nat) (s : State) : Out :=
  match s.poolPage ppn with
  | none => .next s
  | some n =>
    let timely : Bool := match s.mig.potReq with | some (m, _) => m = n | none => false
    let forget (s : State) : State := { s with mig := { s.mig with late := s.mig.late.filter (·.1 ≠ n) } }
    let good : Bool := owner = s.member && s.newerSeq n seq
    let own (s : State) : State := s.setFact n { owned := true, handover := none, seq := seq }
    if timely then
      let s0 : State := { s with mig := { s.mig with potReq := none } }
      match refused with
      | some c => .next (s0.setPot 3 c none)
      | none => if good then .next ((own s0).setPot 2 0 (some seq)) else .next s
    else match s.mig.late.find? (·.1 = n), refused with
      | some _, some _ => .next (forget s)
      | some (_, k), none =>
        if !good then .next s
        else
          let t := forget (own s)
          .next (if k = s.mig.potCmds then t.setPot 2 0 (some seq) else t)
      | none, _ => .next s

/-- HANDOVER_TIMEOUT (R55): no reply within 3,000,000 ticks; the request stays open at the HA. A POTCMD that has waited for a CXL port for
LTMO meets an uncorrectable error of its POT line (R418). DESIGN CHOICE (log entry 98): it then reads FAILED with reason TIMEOUT. -/
def execHandoverTimeout (s : State) : Out :=
  match s.mig.potWait, s.mig.potReq with
  | some (_, ppn, t), _ =>
    if s.cxlUp ∨ s.pt < t + s.fld (fabB + 8) 0 32 * 1024 then .refused (.notEnabled "HANDOVER_TIMEOUT")
    else
      let pa := s.fld (tierB + 8) 16 36 * 2 ^ 16 + 8 * (ppn - 2 ^ 33)
      let s := if s.poisoned (pa / 128) then s else s.poisonLine pa 0 0x7F
      .next ({ s with mig := { s.mig with potWait := none } }.setPot 3 3 none)
  | none, some (n, t, _) =>
    if s.pt < t + 3000000 then .refused (.notEnabled "HANDOVER_TIMEOUT")
    else
      let late := s.mig.late.filter (·.1 ≠ n) ++ [(n, s.mig.potCmds)]
      .next ({ s with mig := { s.mig with potReq := none, late := late } }.setPot 3 3 none)
  | none, none => .refused (.notEnabled "HANDOVER_TIMEOUT")

end Sys2Proof.Machine
end

