-- ==== Sys2Proof/Machine/Links.lean ====
section
/-! DEFINITION. Ports and fabric windows (R417 to R421, R430). -/

namespace Sys2Proof.Machine

/-- The bits of a window's words that are not reserved (R6, R419). -/
def fwinMask (i : Nat) : Nat :=
  if i = 0 then 0xFFFF003F3F07FF07 else if i = 1 then 2 ^ 56 - 1 else if i = 2 then 2 ^ 50 - 1 else 0

/-- FWIN_WRITE (R6, R7, R419): a word of a fabric window, its reserved bits taking nothing; a write that sets EN over a window that may not
be enabled is ignored whole, and so is a write of another device than 0 (R417). -/
def execFwinWrite (w : RegW) (s : State) : Out :=
  if w.off < fabB + 0x1000 ∨ fabB + 0x3000 ≤ w.off ∨ w.off % 8 ≠ 0 then .refused (.notEnabled "FWIN_WRITE")
  else if w.dev ≠ 0 then .next s else
  let o := w.off - fabB - 0x1000
  let e := o / 32
  let i := o % 32 / 8
  let v := w.val.toNat
  let base := bits (s.fwinW e 1) 0 56
  let size := bits (s.fwinW e 2) 0 50
  let d := s.asDesc (bits v 48 16)
  let bad : Bool := v &&& fwinMask 0 ≠ v || base % 0x10000 ≠ 0 || decide (2 ^ 56 < base + size) || d % 2 = 0 || !descOk d
    || bits d 8 6 ≠ bits v 32 6
  if i = 0 ∧ bitOf v 0 ∧ bad then .next s else .next (s.setReg w.off (BitVec.ofNat 64 (v &&& fwinMask i)))

/-- FLOW_STOP (R421): a receiver stops a port's transmission in one traffic class. -/
def execFlowStop (port tc : Nat) (s : State) : Out :=
  if 32 ≤ port ∨ 4 ≤ tc ∨ SMap.get false s.lnk.stopped (8 * port + tc) then .refused (.notEnabled "FLOW_STOP")
  else
    let key := 8 * port + tc
    .next { s with lnk := { s.lnk with stopped := SMap.set false s.lnk.stopped key true, stopAt := s.lnk.stopAt.put key s.pt } }

/-- FLOW_GO (R421). -/
def execFlowGo (port tc : Nat) (s : State) : Out :=
  if 32 ≤ port ∨ 4 ≤ tc ∨ !SMap.get false s.lnk.stopped (8 * port + tc) then .refused (.notEnabled "FLOW_GO")
  else .next { s with lnk := { s.lnk with stopped := SMap.set false s.lnk.stopped (8 * port + tc) false } }

/-- LSTAT of a port: 0 to 15 PCIe, 16 to 23 CXL, 24 to 31 Kwekor (R417). -/
def lstat (port : Nat) : Nat := fabB + (if port < 16 then 0x100 + 8 * port else if port < 24 then 0x180 + 8 * (port - 16) else 0x1C0 + 8 * (port - 24))

/-- Widths and speeds at which a port trains (R417, R418). DEDUCED (log entry 62): a PCIe port of four lanes trains at one, two or
four. -/
def trains (port width speed : Nat) : Bool :=
  if port < 16 then decide (width = 1 ∨ width = 2 ∨ width = 4) && decide (1 ≤ speed ∧ speed ≤ 3)
  else decide (0 < width) && (if port < 24 then decide (width ≤ 16) && speed = 2 else decide (width ≤ 8) && decide (4 < width) && speed = 4)

/-- A monitor reads an eye margin (R417, R430): the controller has it, a port that is up shows it in LSTAT, and from when it is below 16/256
UI is kept. -/
def State.noteMargin (s : State) (m v : Nat) : State :=
  let v := v % 256
  let s := { s with mgmt := { s.mgmt with margin := s.mgmt.margin.put m v } }
  if 32 ≤ m ∨ s.fld (lstat m) 0 1 = 0 then s
  else
    let low := if 16 ≤ v then s.lnk.lowAt.erase m else if (s.lnk.lowAt.find? m).isSome then s.lnk.lowAt else s.lnk.lowAt.put m s.pt
    ({ s with lnk := { s.lnk with lowAt := low } }).setFld (lstat m) 16 8 v

/-- A port trained, or down when the width is 0: the eye margin is what its monitors then read (R417, R430). The moment at which the last CXL
port goes down is kept (R418). -/
def State.setLink (s : State) (port width speed : Nat) : State :=
  let o := lstat port
  let again : Bool := SMap.get false s.lnk.trained port
  let s := { s with lnk := { s.lnk with lowAt := s.lnk.lowAt.erase port } }
  if width = 0 then
    let t := s.setFld o 0 24 0
    if s.cxlUp && !t.cxlUp then { t with lnk := { t.lnk with cxlDown := s.pt } } else t
  else
    let n := if again then Nat.min (s.fld o 24 16 + 1) 0xFFFF else s.fld o 24 16
    let s := s.setReg o (BitVec.ofNat 64 (1 + at' width 1 5 + at' speed 6 3 + at' n 24 16))
    ({ s with fresh := s.fresh + 1, lnk := { s.lnk with trained := SMap.set false s.lnk.trained port true } }).noteMargin port
      (Config.free s.fresh).toNat

/-- LINK_STATE_CHANGE (R417): a port trains, retrains or goes down. Without a mesh position no Kwekor port trains. A POTCMD that waited for
a CXL port goes on (R418). -/
def execLinkStateChange (port : Nat) (width speed : Nat) (s : State) : Out :=
  let pos : Bool := decide (s.meshPos.1 < 24) && decide (s.meshPos.2 < 24)
  if 32 ≤ port then .refused (.notEnabled "LINK_STATE_CHANGE")
  else if speed = 0 then .next (s.setLink port 0 0)
  else if trains port width speed && (decide (port < 24) || pos) then .next (s.setLink port width speed).potGo
  else .refused (.notEnabled "LINK_STATE_CHANGE")

/-- The margin of a port has stayed below 16/256 UI for LTMO (R430). -/
def State.marginLow (s : State) (port : Nat) : Bool :=
  match s.lnk.lowAt.find? port with
  | some t => s.fld (lstat port) 0 1 = 1 && decide (t + s.fld (fabB + 8) 0 32 * 1024 ≤ s.pt)
  | none => false

/-- LANE_MARGIN_REMOVE (R430): a Kwekor or CXL port with a lane whose margin has stayed low retrains narrower, by as much as it may; a Kwekor
port of four lanes or fewer is taken down. -/
def execLaneMarginRemove (port : Nat) (s : State) : Out :=
  if port < 16 ∨ 32 ≤ port ∨ !s.marginLow port then .refused (.notEnabled "LANE_MARGIN_REMOVE")
  else
    let w := s.fld (lstat port) 1 5
    let n := if w ≤ 1 then 0 else 1 + Config.choice s.fresh % (w - 1)
    let s := { s with fresh := s.fresh + 1 }
    .next (if 24 ≤ port ∧ n ≤ 4 then s.setLink port 0 0 else s.setLink port n (s.fld (lstat port) 6 3))

end Sys2Proof.Machine
end

