-- ==== Sys2Proof/Machine/HostThread.lean ====
section
/-! DEFINITION. Host threads (R342 to R344, R404): context records, START, STOP, SWAP, the end of a thread and its alarm. -/

namespace Sys2Proof.Machine

/-- The slot of host thread n, and the thread whose slot a register offset lies in (R344). -/
def htslot (n : Nat) : Nat := htB + 0x40 * n
/-- The host thread of an offset. -/
def htOf (off : Nat) : Nat := (off - htB) / 0x40

/-- Bit n of a device's HTHR mask (R395). -/
def State.hthr (s : State) (v n : Nat) : Bool := bitOf (s.reg (pslot v + 0x80 + 8 * (n / 64))).toNat (n % 64)

/-- The deepest device whose mask holds the thread (R343, R393). -/
def State.hvdev (s : State) (n : Nat) : Nat :=
  (List.range 64).foldl (fun m v => if s.active v && s.hthr v n && decide (s.level m < s.level v) then v else m) 0

/-- HTSTAT.CMD and REASON set (R344). -/
def State.htStat (s : State) (n cmd reason : Nat) : State :=
  (s.setFld (htslot n + 0x18) 1 2 cmd).setFld (htslot n + 0x18) 4 4 reason
/-- HTSTAT.RUN set. -/
def State.htRun (s : State) (n v : Nat) : State := s.setFld (htslot n + 0x18) 0 1 v
/-- HTSTAT.CMD reads BUSY. -/
def State.htBusy (s : State) (n : Nat) : Bool := s.fld (htslot n + 0x18) 1 2 = 1

/-! ### The context record (R343) -/

/-- A word of a record. -/
def recW (x off n : Nat) : Nat := bits x (8 * off) n

/-- The record is malformed (R7, R343). -/
def ctxBad (x : Nat) : Bool :=
  let zero (off lo n : Nat) : Bool := bits x (8 * off + lo) n = 0
  let retn := recW x 0xD0 3
  let rspn := bits x (8 * 0xD0 + 3) 8
  !(zero 0 56 8 && zero 8 1 63 && zero 0x10 16 48 && zero 0x18 56 8 && zero 0x20 11 53 && zero 0x28 32 32 && zero 0x38 1 63
    && zero 0x48 7 57 && (List.range (Nat.min retn 4)).all (fun e => zero (0xB0 + 8 * e) 56 8) && zero 0xD0 11 53
    && zero 0xD8 0 (8 * 0x28) && zero 0x130 0 (8 * 0x2D0) && zero 0x800 0 (8 * 0x800))
  || (slotOf (BitVec.ofNat 64 (recW x 0 56))).isNone || recW x 0x18 16 ≠ 0
  || !(recW x 0x20 11 = 0 || (2 ≤ recW x 0x20 11 && recW x 0x20 11 ≤ 1024)) || 4 < retn || 128 < rspn
  || (rspn ≠ 0 && recW x 0x20 11 = 0)

/-- Key and value pairs as a sparse map of words. -/
def sparse {n : Nat} (l : List (Nat × BitVec n)) : SMap (BitVec n) := l.foldl (fun m p => SMap.set 0 m p.1 p.2) []

/-- The thread that a record describes. -/
def ctxOfRec (x pt dev : Nat) : Ctx :=
  let retn := recW x 0xD0 3
  { stream := .host, asid := recW x 0x10 16, dev := dev, alive := 1,
    splits := [(0, { pc := BitVec.ofNat 64 (recW x 0 56), mask := 1, last := pt })], priv := bitOf (recW x 8 8) 0,
    llbase := BitVec.ofNat 64 (recW x 0x18 56), llsize := recW x 0x20 11,
    sr := [(0, BitVec.ofNat 32 (if recW x 0x28 32 = 0 then 1 else recW x 0x28 32))], halarm := recW x 0x30 64,
    hien := bitOf (recW x 0x38 8) 0, gwct := recW x 0x40 64,
    p := sparse ((List.range 7).map (fun n => (n, BitVec.ofNat 32 (bits x (8 * 0x48 + n) 1)))),
    ix := sparse ((List.range 4).map (fun m => (m, BitVec.ofNat 32 (recW x (0x50 + 4 * m) 32)))),
    ka := BitVec.ofNat 640 (recW x 0x60 635),
    ret := [(0, ((List.range retn).map (fun e => BitVec.ofNat 64 (recW x (0xB0 + 8 * e) 64))).reverse)],
    retSp := if bits x (8 * 0xD0 + 3) 8 = 0 then [] else [(0, bits x (8 * 0xD0 + 3) 8)],
    ctr := ((List.range 6).map (fun n => (n, recW x (0x100 + 8 * n) 64))).foldl (fun m p => SMap.set 0 m p.1 p.2) [],
    v := sparse ((List.range 256).map (fun n => (n, BitVec.ofNat 32 (recW x (0x400 + 4 * n) 32)))), start := pt }

/-- The record of a thread: where it issues next is its split's address (R343). -/
def State.recOfCtx (s : State) (c : Ctx) : List Byte :=
  let pc := match c.splits with | (_, sp) :: _ => sp.pc | [] => c.endPc
  let rets := (SMap.get [] c.ret 0).reverse
  let x := at' pc.toNat 0 56 + at' (bit c.priv) (8 * 0x08) 1 + at' c.asid (8 * 0x10) 16 + at' c.llbase.toNat (8 * 0x18) 56
    + at' c.llsize (8 * 0x20) 11 + at' (s.srOf c 0).toNat (8 * 0x28) 32 + at' c.halarm (8 * 0x30) 64 + at' (bit c.hien) (8 * 0x38) 1
    + at' c.gwct (8 * 0x40) 64 + (List.range 7).foldl (fun n i => n + at' (bit (c.rp 0 i)) (8 * 0x48 + i) 1) 0
    + (List.range 4).foldl (fun n m => n + at' (c.rix 0 m).toNat (8 * (0x50 + 4 * m)) 32) 0 + at' c.ka.toNat (8 * 0x60) 640
    + (rets.zipIdx).foldl (fun n p => n + at' p.1.toNat (8 * (0xB0 + 8 * p.2)) 56) 0 + at' rets.length (8 * 0xD0) 3
    + at' (SMap.get 0 c.retSp 0) (8 * 0xD0 + 3) 8
    + (List.range 6).foldl (fun n i => n + at' (s.counter c i) (8 * (0x100 + 8 * i)) 64) 0
    + (List.range 256).foldl (fun n i => n + at' (c.rv 0 i).toNat (8 * (0x400 + 4 * i)) 32) 0
  leBytes 4096 x

/-- A thread loaded from the record at an address and started: the state, or the reason why not (R344). -/
def State.loadThread (s : State) (n pa : Nat) : Except Nat State :=
  if !s.populated pa 4096 then .error 5
  else
    let x := s.physRd pa 4096
    if ctxBad x then .error 1 else .ok ((s.setCtx n (ctxOfRec x s.pt (s.hvdev n))).htRun n 1)

/-- HTCMD START (R344): a thread that does not run is loaded from the record at HTCTX. -/
def execHtcmdStart (w : RegW) (s : State) : Out :=
  let n := htOf w.off
  if s.htBusy n then .next s
  else if s.fld (htslot n + 0x18) 0 1 = 1 then .next (s.htStat n 3 3)
  else match s.loadThread n (s.fld (htslot n) 12 40 * 4096) with
    | .error r => .next (s.htStat n 3 r)
    | .ok t => .next (t.htStat n 2 0)

/-- The thread's parked splits lose their tokens, and records of them that are still held are discarded (R344, R403). -/
def State.unpark (s : State) (n : Nat) : State :=
  match s.ctxs.find? n with
  | some c => c.splits.foldl (fun s p => match p.2.parked with | some t => s.dropToken (t.toNat / 2 ^ 16) | none => s) s
  | none => s

/-- The thread stops issuing: it is to be stopped, or swapped (R344). -/
def State.htHalt (s : State) (n why : Nat) : State :=
  match s.ctxs.find? n with
  | some c =>
    ((s.unpark n).setCtx n { c with halt := why }).htStat n 1 0
  | none => s.htStat n 3 4

/-- HTCMD STOP (R344). -/
def execHtcmdStop (w : RegW) (s : State) : Out :=
  let n := htOf w.off
  if s.htBusy n then .next s
  else if s.fld (htslot n + 0x18) 0 1 = 0 then .next (s.htStat n 3 4)
  else .next (s.htHalt n 2)

/-- HTCMD SWAP (R344). -/
def execHtcmdSwap (w : RegW) (s : State) : Out :=
  let n := htOf w.off
  if s.htBusy n then .next s
  else if s.fld (htslot n + 0x18) 0 1 = 0 then .next (s.htStat n 3 4)
  else .next (s.htHalt n 3)

/-- HTCMD with another OP (R344). -/
def execHtcmdBadcmd (w : RegW) (s : State) : Out :=
  let n := htOf w.off
  if s.htBusy n then .next s else .next (s.htStat n 3 2)

/-- Nothing that the thread issued is outstanding, and its release wait at package scope is over (R344). -/
def State.htDrained (s : State) (c : Ctx) : Bool :=
  c.accs.isEmpty && c.res.isEmpty && s.released c .pkg
    && c.splits.all (fun q => match q.2.wait with | .confirm _ => false | _ => true)

/-- A thread gone from its slot; one that has parked while it drained leaves no live token and no held record (R344, R403). -/
def State.htGone (s : State) (n : Nat) : State :=
  let s := s.unpark n
  ({ s with ctxs := s.ctxs.erase n }).htRun n 0

/-- HTCMD_STOP_DONE (R344, R403): a thread that was stopped or has exited has drained. After STOP or SWAP its record is written,
and DONE, or the load of SWAP, follows once PT reaches G of the writes. -/
def execHtcmdStopDone (n : Nat) (s : State) : Out :=
  match s.part.htDone.find? n with
  | some (g, swap) =>
    if s.pt < g then .refused (.notEnabled "HTCMD_STOP_DONE")
    else
      let s := { s with part := { s.part with htDone := s.part.htDone.erase n } }
      if !swap then .next (s.htStat n 2 0)
      else
        let pa := s.fld (htslot n + 0x10) 12 40
        (match s.loadThread n (pa * 4096) with
         | .error r => .next (s.htStat n 3 r)
         | .ok t => .next ((t.setFld (htslot n) 12 40 pa).htStat n 2 0))
  | none =>
    if 96 ≤ n then .refused (.notEnabled "HTCMD_STOP_DONE")
    else match s.ctxs.find? n with
    | none => .refused (.notEnabled "HTCMD_STOP_DONE")
    | some c =>
      if (c.halt = 0 ∧ c.alive ≠ 0) ∨ !s.htDrained c then .refused (.notEnabled "HTCMD_STOP_DONE")
      else if c.halt = 4 ∨ c.alive = 0 then .next (let s := s.htGone n; if s.htBusy n then s.htStat n 3 4 else s)
      else
        let (s, g) := s.physWr (s.fld (htslot n) 12 40 * 4096) (s.recOfCtx c)
        let s := s.htGone n
        .next { s with part := { s.part with htDone := s.part.htDone.put n (g, decide (c.halt = 3)) } }

/-- HALARM_EXPIRY (R342, R404): PT has reached a thread's alarm. -/
def execHalarmExpiry (n : Nat) (s : State) : Out :=
  match s.ctxs.find? n with
  | none => .refused (.notEnabled "HALARM_EXPIRY")
  | some c =>
    if 96 ≤ n ∨ c.stream ≠ .host ∨ c.halarm = 0 ∨ s.pt < c.halarm ∨ !c.hien ∨ c.alarmed then .refused (.notEnabled "HALARM_EXPIRY")
    else .next ((s.setCtx n { c with alarmed := true }).interrupt c.dev 4 n 0 0)

end Sys2Proof.Machine
end

