-- ==== Sys2Proof/Machine/Mgmt.lean ====
section
/-! DEFINITION. The management controller: boot and recovery (R422, R423), identity (R424), commands from the port and the mailbox
(R425, R426), the configuration record (R427), scan (R384, R428), heat and power (R429). -/

namespace Sys2Proof.Machine

/-! ### Images and the configuration record -/

/-- The 80 bytes of a header that its signature covers (R422). -/
def imageSigned (i : Image) : List Byte := leBytes 8 i.fwseq ++ leBytes 4 i.length ++ leBytes 4 0 ++ leBytes 64 (leNat i.bodyHash)

/-- The 256-byte header (R422). -/
def imageHeader (i : Image) : List Byte := imageSigned i ++ leBytes 66 (leNat i.sigR) ++ leBytes 66 (leNat i.sigS) ++ leBytes 44 0

/-- Step 1 of R423. The entry point is the one that the verified body gives. -/
def verifies (bootmin : Nat) (i : Image) : Bool :=
  i.entry = Config.imageEntry i.body && Config.verify 0 (imageSigned i) i.sigR i.sigS && i.length = i.body.length && i.bodyHash = Config.hash i.body && decide (bootmin ≤ i.fwseq)

/-- The image that lies in memory as a header and a body (R422, R426); none when it has no whole header. -/
def imageAt (bs : List Byte) : Option Image :=
  if bs.length < 256 then none
  else
    let x := leNat (bs.take 256)
    let f (lo n : Nat) : List Byte := leBytes n (bits x lo (8 * n))
    let body := bs.drop 256
    if bits x 96 32 ≠ 0 ∨ bits x 1696 352 ≠ 0 then none
    else some { fwseq := bits x 0 64, length := bits x 64 32, bodyHash := f 128 64, sigR := f 640 66, sigS := f 1168 66,
                entry := Config.imageEntry body, body := body }

/-- FORMAT is 0x01 and every reserved field is zero (R427). -/
def cfgOk (r : List Byte) : Bool :=
  let x := leNat r
  r.length = 512 && bits x 0 8 = 1 && bits x 10 6 = 0 && bits x 104 24 = 0 && bits x 264 120 = 0 && bits x 2112 1984 = 0

/-- CFGSEQ. -/
def cfgSeq (r : List Byte) : Nat := bits (leNat r) 2048 64
/-- OPKEY. -/
def cfgOpkey (r : List Byte) : Nat := bits (leNat r) 1536 512

/-! ### Boot (R423) -/

/-- Host thread 0 started at an image's entry point. -/
def State.bootRun (s : State) (i : Image) : State :=
  let c : Ctx := { bootCtx with splits := [(0, { pc := BitVec.ofNat 64 (i.entry % 2 ^ 56), mask := 1, last := s.pt })], start := s.pt }
  { (s.setCtx 0 c).htRun 0 1 with mgmt := { s.mgmt with run := i, booted := true } }

/-- What cold reset leaves before any core starts: the controller keeps its flash, its fused counter and what it has stored of
requests. -/
def State.blank (s : State) (p : Power) : State :=
  let m := s.mgmt
  let r := State.reset
  { r with
    pwr := p, ctxs := [], sys := SMap.set (sysReset (htB + 0x18)) [] (htB + 0x18) 0, agenda := s.agenda, fresh := s.fresh,
    mgmt := { r.mgmt with bootmin := m.bootmin, flash := m.flash, cfgFlash := m.cfgFlash, mseq := m.mseq, reply := m.reply, sent := m.sent,
                          cfg := if cfgOk m.cfgFlash then m.cfgFlash else factoryCfg, booted := false } }

/-- Cold reset (R92, R407, R423): PT is 0, and host thread 0 starts if the image verifies. -/
def State.coldReset (s : State) : State :=
  let t := s.blank .run
  match t.mgmt.flash with
  | some i => if verifies t.mgmt.bootmin i then t.bootRun i else t
  | none => t

/-- COLD_RESET (R423). -/
def execColdReset (s : State) : Out := .next s.coldReset

/-- TFTP_RETRY (R423): a fetch of a replacement image ends, with an image or without one. -/
def execTftpRetry (img : Option Image) (s : State) : Out :=
  if s.pwr = .off ∨ s.mgmt.booted ∨ s.pt < s.mgmt.retryAt then .refused (.notEnabled "TFTP_RETRY")
  else
    let later : State := { s with mgmt := { s.mgmt with retryAt := s.pt + 2 ^ 35 } }
    match img with
    | none => .next later
    | some i =>
      if verifies s.mgmt.bootmin i then .next (({ s with mgmt := { s.mgmt with flash := some i } }).bootRun i) else .next later

/-- THERMTRIP (R429): the package holds no state. -/
def execThermtrip (s : State) : Out :=
  if s.pwr = .off then .refused (.notEnabled "THERMTRIP") else .next (s.blank .off)

/-- POWER_LOSS (R423): everything is lost; a loss while the flash is being written may leave no valid image in it. -/
def execPowerLoss (s : State) : Out :=
  if s.pwr = .off then .refused (.notEnabled "POWER_LOSS")
  else
    let writing : Bool := match s.mgmt.busy with | some (c, _) => c = 7 | none => false
    let t := { s.blank .off with fresh := s.fresh + 1 }
    if writing && Config.choice s.fresh % 2 = 1 then .next { t with mgmt := { t.mgmt with flash := none } } else .next t

/-- THERMAL_STEP (R429): above 100 °C a die's ceiling falls by one operating point every 15 µs. -/
def execThermalStep (die : Nat) (s : State) : Out :=
  let soon : Bool := match s.sch.heat.find? die with | some t => decide (s.pt < t + 45000) | none => false
  if 2 ≤ die ∨ s.pwr ≠ .run ∨ soon then .refused (.notEnabled "THERMAL_STEP")
  else .next ({ s with sch := { s.sch with ceil := s.sch.ceil.put die (SMap.get 7 s.sch.ceil die - 1), heat := s.sch.heat.put die s.pt } }).retune

/-! ### The end of a command (R425, R426) -/

/-- Address of the mailbox buffer. -/
def State.mbBuf (s : State) : Nat := s.fld (mbB + 0x10) 10 42 * 1024

/-- A command ends with a status (0 DONE, 1 FAILED), a result word and a payload: the reply goes to the port, or into the mailbox
buffer; a FREEZE that waited for it comes next. -/
def State.mgmtEnd (s : State) (st : Nat) (res : BitVec 64) (pay : List Byte) : State :=
  match s.mgmt.busy with
  | none => s
  | some (code, path) =>
    let m := s.mgmt
    let s := match path with
      | some q =>
        let rep : MReply := { code := code, status := st, mseq := q, res := res, pay := pay }
        { s with mgmt := { m with busy := none, sent := some rep, reply := if m.signed ∧ q = m.mseq then some rep else m.reply } }
      | none =>
        let s := { s with mgmt := { m with busy := none } }
        let s := s.setReg (mbB + 8) (BitVec.ofNat 64 (2 + st))
        let s := (s.physWr s.mbBuf (leBytes 8 res.toNat)).1
        if pay = [] then s else (s.physWr (s.mbBuf + 16) pay).1
    match s.mgmt.freezeNext with
    | q :: rest => { s with mgmt := { s.mgmt with freezeNext := rest, busy := some (3, some q), signed := true }, todo := s.todo ++ [.freeze] }
    | [] => s

/-- A command's event runs only while that command is the one in progress. -/
def State.mgmtRun (s : State) (code : Nat) (name : String) (f : State → State) : Out :=
  match s.mgmt.busy with
  | some (c, _) => if c = code ∧ s.pwr ≠ .off then .next (f s) else .refused (.notEnabled name)
  | none => .refused (.notEnabled name)

/-- The identity record but for its signature (R424). -/
def State.identityBody (s : State) (nonce : List Byte) : List Byte :=
  leBytes 16 (leNat ((List.map (fun (c : Char) => BitVec.ofNat 8 c.toNat) "DKH-CX9-2304A".toList))) ++ leBytes 8 Config.serial.toNat
    ++ leBytes 4 Config.steps.toNat ++ leBytes 4 0 ++ leBytes 8 s.mgmt.run.fwseq ++ leBytes 66 Config.pubKey.1.toNat
    ++ leBytes 66 Config.pubKey.2.toNat ++ leBytes 20 0 ++ leBytes 64 (leNat (Config.hash (imageHeader s.mgmt.run ++ s.mgmt.run.body)))
    ++ leBytes 64 (leNat nonce)

/-- The signed identity record of 512 bytes (R424). -/
def State.identityRec (s : State) (nonce : List Byte) : List Byte :=
  let b := s.identityBody nonce
  let g := Config.sign b
  b ++ leBytes 66 g.1.toNat ++ leBytes 66 g.2.toNat ++ leBytes 60 0

/-- IDENTITY (R424, R426). -/
def execIdentity (nonce : List (BitVec 8)) (s : State) : Out :=
  s.mgmtRun 1 "IDENTITY" (fun s => if nonce.length = 64 then s.mgmtEnd 0 0 (s.identityRec nonce) else s.mgmtEnd 1 0 [])

/-- CERT (R424, R425): a piece of 512 bytes of the chain, and its length. -/
def execCert (i : Nat) (s : State) : Out :=
  s.mgmtRun 2 "CERT" (fun s =>
    let n := Config.certChain.length
    if n ≤ 512 * i then s.mgmtEnd 1 (BitVec.ofNat 64 n) [] else s.mgmtEnd 0 (BitVec.ofNat 64 n) ((Config.certChain.drop (512 * i)).take 512))

/-- FREEZE (R384): every clock stops, PT among them. -/
def execFreeze (s : State) : Out := s.mgmtRun 3 "FREEZE" (fun s => { s.mgmtEnd 0 0 [] with pwr := .frozen })

/-- THAW (R384): every clock runs again, with no change of state. -/
def execThaw (s : State) : Out := s.mgmtRun 4 "THAW" (fun s => { s.mgmtEnd 0 0 [] with pwr := .run })

/-- COLDRESET (R425). -/
def execColdresetCmd (s : State) : Out := s.mgmtRun 6 "COLDRESET" (fun s => (s.mgmtEnd 0 0 []).coldReset)

/-- The image that a mailbox UPDATE names in key-0 memory (R426). -/
def State.mailImage (s : State) : Option Image :=
  let a := s.physRd s.mbBuf 8
  let n := s.physRd (s.mbBuf + 8) 8
  if s.populated a n then imageAt (s.rdBytes 0 a n) else none

/-- UPDATE (R423, R425): an image, fetched for the port or taken from memory for the mailbox, is verified and written to flash. Power may be
lost before the event, while the flash is being written. -/
def execUpdate (img : Option Image) (s : State) : Out :=
  s.mgmtRun 7 "UPDATE" (fun s =>
    let mail : Bool := match s.mgmt.busy with | some (_, none) => true | _ => false
    match (if mail then s.mailImage else img) with
    | some i =>
      if verifies s.mgmt.bootmin i then ({ s with mgmt := { s.mgmt with flash := some i } }).mgmtEnd 0 0 [] else s.mgmtEnd 1 0 []
    | none => s.mgmtEnd 1 0 [])

/-- COMMIT (R425): BOOTMIN becomes the running FWSEQ. -/
def execCommit (s : State) : Out :=
  s.mgmtRun 8 "COMMIT" (fun s => ({ s with mgmt := { s.mgmt with bootmin := s.mgmt.run.fwseq } }).mgmtEnd 0 0 [])

/-- KEY0 (R407, R408): material from the controller's own source, or PLAIN. -/
def execKey0 (mode : Nat) (s : State) : Out :=
  s.mgmtRun 9 "KEY0" (fun s =>
    if mode ≠ 1 ∧ mode ≠ 2 then s.mgmtEnd 1 0 []
    else
      let s := (s.ownedUnder 0).foldl State.writeBack s
      let x : KeySt := if mode = 1 then { mode := 1, mat := (Config.drawnKey s.fresh).toNat + 1 } else { mode := 2 }
      (({ s with fresh := s.fresh + 1 }).setKey 0 x).mgmtEnd 0 0 [])

/-- SETCFG (R427). -/
def execSetcfg (r : List (BitVec 8)) (s : State) : Out :=
  s.mgmtRun 10 "SETCFG" (fun s =>
    if cfgOk r && decide (cfgSeq s.mgmt.cfg < cfgSeq r) then
      (({ s with mgmt := { s.mgmt with cfg := r, cfgFlash := r } }).retune).mgmtEnd 0 0 []
    else s.mgmtEnd 1 0 [])

/-! ### Scan (R428) -/

/-- KIND, DIE, UNIT and INDEX of a chain number. -/
def scanFields (c : Nat) : Nat × Nat × Nat × Nat := (bits c 28 4, bits c 24 4, bits c 16 8, bits c 0 16)

/-- Cluster and core that DIE and UNIT name; none when they name no compute core. -/
def scanCore (die unit : Nat) : Option (Nat × Nat) :=
  if (die = 1 ∨ die = 2) ∧ unit < 160 then some (20 * (die - 1) + unit / 8, unit % 8) else none

/-- The cache that INDEX, DIE and UNIT name: level, unit, and the number of its first set (R68, R428). -/
def scanCache (die unit i : Nat) : Option (Level × Nat × Nat) :=
  let lvl : Level := if i = 0 then .l1 else .ic
  if i = 0 ∨ i = 1 then
    (if die = 0 ∧ unit < 48 then some (lvl, 1000 + unit, 0)
     else (scanCore die unit).map (fun p => (lvl, 8 * p.1 + p.2, 0)))
  else if i = 2 ∧ unit = 0 then (if die = 1 ∨ die = 2 then some (.l2, die - 1, 0) else if die = 0 then some (.l2, 2, 0) else none)
  else if i = 3 ∧ die = 3 ∧ unit < 4 then some (.l3, 0, 262144 * unit) else none

/-- Lines of a cache, or of a quadrant of L3 (R68). -/
def Level.lines (lvl : Level) (u : Nat) : Nat :=
  let (w, n) := lvl.geom u
  w * (if lvl = .l3 then 262144 else n)

/-- The length of an array whose size the spec gives (R68, R428). DESIGN CHOICE (log entry 101): the host threads' records stand under DIE
and UNIT 0. -/
def scanSize (c : Nat) : Option Nat :=
  let (k, die, unit, i) := scanFields c
  if k = 11 then (if die = 0 ∧ unit = 0 ∧ i < 96 then some 512 else none)
  else if k = 8 then (scanCache die unit i).map (fun p => 4 * p.1.lines p.2.1)
  else if k = 9 then (scanCache die unit i).map (fun p => p.1.size / 8 * p.1.lines p.2.1)
  else match scanCore die unit with
    | none => none
    | some _ =>
      if k < 6 ∧ i ≠ 0 then none
      else if k = 2 then some 131072 else if k = 3 then some 196608 else if k = 4 then some 65536 else if k = 5 then some 786432
      else if k = 6 then (if i < 48 then some 258 else none) else if k = 7 then (if i < 8 then some 1025 else none) else none

/-- A pair of 32-bit words. -/
def pair32 (a b : Word32) : BitVec 64 := b ++ a

/-- The number of a chain or array. -/
def scanNumber (k die unit i : Nat) : Nat := k * 2 ^ 28 + die * 2 ^ 24 + unit * 2 ^ 16 + i

/-- The length of a chain or array (R428): the directory's own is word 0 and a word for each entry; only the flip-flop chains and the
HAs' directories have a length that the spec leaves open. -/
def scanLength (c : Nat) : Option Nat :=
  let (k, die, unit, i) := scanFields c
  if 2 ^ 32 ≤ c then none
  else match scanSize c with
  | some n => some n
  | none =>
    if k = 1 then (if (List.range Config.scanChains).any (fun j => (Config.scanChain j).toNat = c % 2 ^ 28) then some (Config.scanLen c) else none)
    else if k = 10 ∧ die = 3 ∧ unit = 0 ∧ i < 3 then some (Config.scanLen c)
    else none

/-- The arrays that the directory lists (R428), in the order of their kinds: every number whose length is given, among those that a kind
may take. -/
def scanArrays : List Nat :=
  let cores := (List.range 320).map (fun u => (1 + u / 160, u % 160))
  let units (k n : Nat) : List Nat := (List.range n).flatMap (fun i => cores.map (fun p => scanNumber k p.1 p.2 i))
  let caches (k : Nat) : List Nat := units k 2
    ++ (List.range 2).flatMap (fun i => (List.range 48).map (fun u => scanNumber k 0 u i))
    ++ (List.range 3).map (fun d => scanNumber k d 0 2) ++ (List.range 4).map (fun u => scanNumber k 3 u 3)
  units 2 1 ++ units 3 1 ++ units 4 1 ++ units 5 1 ++ units 6 48 ++ units 7 8 ++ caches 8 ++ caches 9
    ++ (List.range 3).map (scanNumber 10 3 0) ++ (List.range 96).map (scanNumber 11 0 0)

/-- What the directory lists (R428). DESIGN CHOICE (log entry 101): itself, the flip-flop chains, then the arrays. -/
def scanListed : List Nat :=
  0 :: (List.range Config.scanChains).map (fun j => 2 ^ 28 + (Config.scanChain j).toNat) ++ scanArrays

/-- The length of what the directory lists under a number: none when it lists nothing there. -/
def scanWords (c : Nat) : Option Nat := if c = 0 then some (1 + scanListed.length) else scanLength c

/-- A word of the directory (R428): the number of entries, then each entry's number and length. -/
def scanDirectory (w : Nat) : BitVec 64 :=
  if w = 0 then BitVec.ofNat 64 scanListed.length
  else
    let c := scanListed.getD (w - 1) 0
    pair32 (BitVec.ofNat 32 c) (BitVec.ofNat 32 ((scanWords c).getD 0))

/-- What stands in entry e of a cache's arrays: set e div ways, way e mod ways. DESIGN CHOICE (log entry 101): only L3, whose masks name
ways, has its ways numbered; elsewhere a set's lines lie in the order of their numbers. -/
def State.scanEntry (s : State) (lvl : Level) (u set0 e : Nat) : Option Occ :=
  let w := (lvl.geom u).1
  let os := (s.heldIn lvl u).filter (fun o => lvl.setOf u o.asid o.va = set0 + e / w)
  if lvl = .l3 then os.find? (fun o => o.way = e % w) else os[e % w]?

/-- The words of a tag entry (R428). -/
def State.tagWord (s : State) (o : Occ) (j : Nat) : Nat :=
  let d := s.dirOf 0 o.key
  let c := s.ms.copies.find? o.key
  let bad : Bool := if o.own then s.poisoned o.key else (c.map (·.bad)).getD false
  let k := if o.own then d.k else (c.map (·.k)).getD 0
  let written : Bool := if o.own then d.written else (c.map (·.written)).getD false
  if j = 0 then 1 + 2 * bit o.own + 4 * bit (o.own && d.dirty) + 8 * bit bad + 16 * k + 256 * bit written + 2 ^ 16 * o.asid
  else if j = 1 then o.va / 128
  else if j = 2 then (if o.own then d.exp else (c.map (·.exp)).getD 0)
  else if o.own then o.key + 2 ^ 45 * d.okey else 0

/-- Eight bytes of a cached line. -/
def State.dataWord (s : State) (o : Occ) (j : Nat) : Nat :=
  if o.own then leNat (s.rdBytes (s.dirOf 0 o.key).okey (o.key * 128 + 8 * j) 8)
  else match s.ms.copies.find? o.key with | some c => leNat ((c.data.drop (8 * j)).take 8) | none => 0

/-- A word of an array that shows what the state holds (R428). -/
def State.scanArray (s : State) (c w : Nat) : BitVec 64 :=
  let (k, die, unit, i) := scanFields c
  let open_ : BitVec 64 := Config.scanWord c w s.pt
  let slot (e : Nat) : Nat := Config.scanSlot c e s.pt
  match scanCore die unit, k with
  | _, 0 => scanDirectory w
  | some (cl, co), 2 =>
    (match (s.groupsOn cl co).find? (fun g => decide (g.2.segAt ≤ w / 512 ∧ w / 512 < g.2.segAt + g.2.seg)) with
     | some g => let r := (w / 512 - g.2.segAt) * 32 + w % 512 / 16
       pair32 (g.2.rv (2 * (w % 16)) r) (g.2.rv (2 * (w % 16) + 1) r)
     | none => open_)
  | some (cl, co), 3 =>
    (match (s.blocksOn cl co).find? (fun b => decide (b.2.aspAt * 512 ≤ w ∧ w < (b.2.aspAt + b.2.aspk) * 512)) with
     | some b => BitVec.ofNat 64 (leNat ((List.range 8).map (fun j => SMap.get 0 b.2.asp (8 * w - b.2.aspAt * 4096 + j))))
     | none => open_)
  | some (cl, co), 4 =>
    (match (s.blocksOn cl co).find? (fun b => decide (b.2.acsAt * 8192 ≤ w ∧ w < (b.2.acsAt + b.2.acst) * 8192)) with
     | some b => BitVec.ofNat 64 (bits (SMap.get 0 b.2.acs (w / 2 - b.2.acsAt * 4096)).toNat (64 * (w % 2)) 64)
     | none => open_)
  | some (cl, co), 5 =>
    let n := slot (w / 2048)
    (match s.rsds.find? (n / 512) with
     | some r =>
       if s.physCluster (n / 512 / 65536) r.vcl = some cl ∧ bits r.cores co 1 = 1 ∧ n % 512 < r.nt ∧ (r.st = .ready ∨ r.st = .stale ∨ r.st = .poisoned) then
         BitVec.ofNat 64 (leNat ((List.range 8).map (fun j => SMap.get 0 r.cells (r.tileOff co (n % 512) + 8 * (w % 2048) + j))))
       else open_
     | none => open_)
  | some (cl, co), 6 =>
    (match (s.groupsOn cl co).find? (fun g => decide (g.2.gslot = i)) with
     | some g =>
       if w = 256 then BitVec.ofNat 64 (g.2.segAt % 256 + 256 * g.2.seg)
       else if w = 257 then BitVec.ofNat 64 (((s.blocksOn cl co).takeWhile (fun b => b.1 ≠ g.2.blk)).length)
       else open_
     | none => open_)
  | some (cl, co), 7 =>
    (match (s.blocksOn cl co)[i]? with
     | some b => if w = 1024 then BitVec.ofNat 64 (b.2.aspAt + 512 * b.2.acsAt) else open_
     | none => open_)
  | _, 8 =>
    (match (scanCache die unit i).bind (fun p => s.scanEntry p.1 p.2.1 p.2.2 (w / 4)) with
     | some o => BitVec.ofNat 64 (s.tagWord o (w % 4))
     | none => if w % 4 = 0 then open_ &&& 0xFFFFFFFFFFFFFFFE else open_)
  | _, 9 =>
    let n := if i = 1 then 8 else 16
    (match (scanCache die unit i).bind (fun p => s.scanEntry p.1 p.2.1 p.2.2 (w / n)) with
     | some o => BitVec.ofNat 64 (s.dataWord o (w % n))
     | none => open_)
  | _, 10 =>
    let l := slot (w / 4)
    (match s.ms.dir.find? l with
     | some d =>
       if region (l * 128) = i then
         (match w % 4, d.owner with
          | 0, o => BitVec.ofNat 64 (1 + 2 * (match o with | some (2, _) => 1 | some (n, _) => n + 2 | none => 0) + 8 * d.k
              + 128 * bit (s.ms.watch.find? l).isSome + 2 ^ 16 * (match o with | some (_, a, _, _) => a | none => 0))
          | 1, _ => BitVec.ofNat 64 l
          | 2, _ => BitVec.ofNat 64 d.exp
          | _, some (_, _, va, _) => BitVec.ofNat 64 (va / 128)
          | _, none => 0)
       else open_ &&& 0xFFFFFFFFFFFFFFFE
     | none => if w % 4 = 0 then open_ &&& 0xFFFFFFFFFFFFFFFE else open_)
  | _, 11 =>
    (match s.ctxs.find? i with
     | some x => BitVec.ofNat 64 (leNat (((s.recOfCtx x).drop (8 * w)).take 8))
     | none => open_)
  | _, _ => open_

/-- SCAN (R384, R428): FAILED unless the package is frozen and the directory lists the word. It changes no state. -/
def execScan (c w : Nat) (s : State) : Out :=
  s.mgmtRun 5 "SCAN" (fun s =>
    let listed : Bool := match scanWords c with | some n => decide (w < n) | none => false
    if s.pwr ≠ .frozen ∨ !listed then s.mgmtEnd 1 0 []
    else s.mgmtEnd 0 (s.scanArray c w) [])

/-! ### Requests (R425, R426) -/

/-- The event that performs a command. -/
def mgmtEvent (code : Nat) (arg0 arg1 : BitVec 64) (pay : List Byte) : Option Instr :=
  match code with
  | 1 => some (.identity (pay.take 64))
  | 2 => some (.cert arg0.toNat)
  | 3 => some .freeze
  | 4 => some .thaw
  | 5 => some (.scan arg0.toNat arg1.toNat)
  | 6 => some .coldresetCmd
  | 8 => some .commit
  | 9 => some (.key0 arg0.toNat)
  | 10 => some (.setcfg pay)
  | _ => none

/-- A reply sent to a request that ends no command. -/
def State.answer (s : State) (r : MgmtReq) (st : Nat) : State :=
  { s with mgmt := { s.mgmt with sent := some { code := r.code, status := st, mseq := r.mseq } } }

/-- A request accepted at the port: it runs, or fails because another runs; UPDATE waits for its fetch (R425, R426). -/
def State.accept (s : State) (r : MgmtReq) : State :=
  let fail (s : State) : State :=
    let s := s.answer r 1
    if r.signed then { s with mgmt := { s.mgmt with reply := s.mgmt.sent } } else s
  let run (l : List Instr) : State :=
    { s with mgmt := { s.mgmt with busy := some (r.code, some r.mseq), signed := r.signed }, todo := s.todo ++ l }
  if s.mgmt.busy.isSome then
    if r.code = 3 then { s with mgmt := { s.mgmt with freezeNext := s.mgmt.freezeNext ++ [r.mseq] } } else fail s
  else if r.code = 7 then run []
  else match mgmtEvent r.code r.arg0 r.arg1 r.payload with
    | some i => run [i]
    | none => fail s

/-- The bytes that a request's signature covers (R426). -/
def signedBytes (r : MgmtReq) : List Byte :=
  leBytes 32 (r.ver + r.code * 2 ^ 8 + 2 ^ 16 + r.mseq * 2 ^ 32 + r.payload.length * 2 ^ 96 + r.arg0.toNat * 2 ^ 128
    + r.arg1.toNat * 2 ^ 192) ++ r.payload

/-- A request signed by the operator (R426). -/
def State.operator (s : State) (r : MgmtReq) : Bool :=
  cfgOpkey s.mgmt.cfg ≠ 0 && leNat (Config.hash r.oppub) = cfgOpkey s.mgmt.cfg && Config.verify 1 (r.oppub ++ signedBytes r) r.sigR r.sigS

/-- MGMT_REQUEST (R426). -/
def execMgmtRequest (r : MgmtReq) (s : State) : Out :=
  if s.pwr = .off then .refused (.notEnabled "MGMT_REQUEST")
  else if r.ver ≠ 1 then .next s
  else if r.reserved ≠ 0 ∨ 512 < r.payload.length then .next (s.answer r 1)
  else if !r.signed then .next (if r.code = 1 ∨ r.code = 2 then s.accept r else s.answer r 3)
  else if !s.operator r then .next (s.answer r 3)
  else if s.mgmt.mseq < r.mseq then
    .next (({ s with mgmt := { s.mgmt with mseq := r.mseq, reply := none } }).accept r)
  else if r.mseq = s.mgmt.mseq ∧ r.mseq ≠ 0 then
    .next (match s.mgmt.reply with
      | some p => { s with mgmt := { s.mgmt with sent := some p } }
      | none => s.answer r 2)
  else .next (s.answer r 3)

/-- The commands that use the mailbox buffer: those with arguments, or with a reply's payload (R425). -/
def mailBuffer (code : Nat) : Bool := code = 1 || code = 2 || code = 7 || code = 10

/-- A write of MBCMD (R425): the command runs with the arguments of the buffer, or MBSTAT reads FAILED; UPDATE runs until its event ends it.
DESIGN CHOICE (log entry 58): a command that has to read its arguments from a buffer that does not exist is FAILED. -/
def State.mailCommand (s : State) (code : Nat) : State :=
  let fail : State := s.setReg (mbB + 8) 3
  if s.mgmt.busy.isSome ∨ (mailBuffer code ∧ !s.populated s.mbBuf 1024) then fail
  else
    let run (l : List Instr) : State :=
      { s.setReg (mbB + 8) 1 with mgmt := { s.mgmt with busy := some (code, none), signed := false }, todo := s.todo ++ l }
    let pay := s.rdBytes 0 (s.mbBuf + 16) (if code = 1 then 64 else 512)
    let arg (i : Nat) : BitVec 64 := BitVec.ofNat 64 (s.physRd (s.mbBuf + 8 * i) 8)
    if code = 7 then run []
    else if code = 1 ∨ code = 2 ∨ code = 6 ∨ code = 8 ∨ code = 10 then
      (match mgmtEvent code (arg 0) (arg 1) pay with | some i => run [i] | none => fail)
    else fail

end Sys2Proof.Machine
end

