-- ==== Sys2Proof/Machine/Partition.lean ====
section
/-! DEFINITION. The device tree and its budgets (R393, R394), the reconfiguration command (R399 to R401), the kill of a queue and
the reset of a device (R402, R403), and pending interrupts (R395, R404). -/

namespace Sys2Proof.Machine

/-! ### Registers of a device that hold its budgets -/

/-- Number of words or elements of a slice (R395, R399). -/
def sliceCount (sl : Nat) : Nat := ([1, 5, 10, 2, 3, 1, 8, 1, 1, 256, 64, 16][sl]?).getD 0

/-- Offset of the register that an entry names; a QUEUE entry names none. -/
def sliceReg (sl v i : Nat) : Nat :=
  match sl with
  | 0 => pslot v
  | 1 => pslot v + 0x08 + 8 * i
  | 2 => pslot v + 0x30 + 8 * i
  | 3 => pslot v + 0x80 + 8 * i
  | 4 => tslot v + 8 * i
  | 5 => rsdB + 0x40 * v + 8
  | 6 => cacheB + 0x80 * v + 8 * i
  | 7 => pslot v + 0x90
  | 8 => pslot v + 0x98
  | 10 => pslot v + 0x100 + 8 * i
  | _ => pslot v + 0x300 + 8 * i

/-- The defined bits of the register that an entry names (R395). -/
def sliceMask (sl i : Nat) : Nat :=
  match sl with
  | 0 => 0x33F07
  | 1 => 0xBFBFBFBFBFBFBFBF
  | 3 => if i = 1 then 2 ^ 32 - 1 else 2 ^ 64 - 1
  | 4 => 2 ^ 32 - 1
  | 5 => 0x1FF
  | 6 => if i % 2 = 0 then 2 ^ 48 - 1 else 2 ^ 24 - 1
  | 7 => 0x7FF
  | 8 => 7
  | 9 => 1
  | _ => 2 ^ 64 - 1

/-- An entry of a command (R399). -/
structure RcEntry where
  slice : Nat
  target : Nat
  index : Nat
  value : Nat
  mask : Nat
  reservedSet : Bool
  deriving DecidableEq, Repr

/-- The entry that 32 bytes hold. -/
def rcEntryOf (x : Nat) : RcEntry :=
  { slice := bits x 0 4, target := bits x 8 6, index := bits x 16 9, value := bits x 64 64, mask := bits x 128 64,
    reservedSet := decide (bits x 4 4 ≠ 0 ∨ bits x 14 2 ≠ 0 ∨ bits x 25 39 ≠ 0 ∨ bits x 192 64 ≠ 0) }

/-! ### The invariants of R394 -/

/-- Children of a device. -/
def State.children (s : State) (p : Nat) : List Nat :=
  (List.range 64).filter (fun v => v ≠ 0 && s.active v && s.level v ≠ 0 && s.parent v = p)

/-- Physical clusters that a device maps, with repetitions. -/
def State.mapped (s : State) (v : Nat) : List Nat :=
  (List.range 40).filterMap (fun i => s.physCluster v i)

/-- A word whose set bits all lie in another. -/
def subBits (a b : Nat) : Bool := a &&& b = a

/-- Pages of a range lie in the union of other ranges, by fuel: from position a to e. -/
def covered (rs : List (Nat × Nat)) (a e : Nat) : Nat → Bool
  | 0 => decide (e ≤ a)
  | n + 1 => decide (e ≤ a) || (match rs.find? (fun r => decide (r.1 ≤ a ∧ a < r.1 + r.2)) with
    | some r => covered rs (r.1 + r.2) e n
    | none => false)

/-- GRANT ranges in use. -/
def State.grants (s : State) (v : Nat) : List (Nat × Nat) :=
  ((List.range 16).map (fun g => (s.fld (pslot v + 0x300 + 8 * g) 0 36, s.fld (pslot v + 0x300 + 8 * g) 36 28))).filter
    (fun r => r.2 ≠ 0)

/-- The budgets of an active device within its parent's (R394). -/
def State.withinParent (s : State) (v : Nat) : Bool :=
  let p := s.parent v
  let sibs := (s.children p).filter (· ≠ v)
  let word (u o : Nat) : Nat := (s.reg (pslot u + o)).toNat
  (s.mapped v).all (fun c => (s.mapped p).contains c)
    && [0x80, 0x88].all (fun o => subBits (word v o) (word p o) && sibs.all (fun u => word v o &&& word u o = 0))
    && decide (s.fld (rsdB + 0x40 * v + 8) 0 9 ≤ s.fld (rsdB + 0x40 * p + 8) 0 9)
    && (List.range 8).all (fun i => subBits (s.reg (cacheB + 0x80 * v + 8 * i)).toNat (s.reg (cacheB + 0x80 * p + 8 * i)).toNat)
    && decide (s.fld (pslot v + 0x98) 0 3 ≤ s.fld (pslot p + 0x98) 0 3)
    && (List.range 64).all (fun i => subBits (word v (0x100 + 8 * i)) (word p (0x100 + 8 * i))
        && sibs.all (fun u => word v (0x100 + 8 * i) &&& word u (0x100 + 8 * i) = 0))
    && bits (word v 0x100) 0 1 = 0
    && (p = 0 || (s.grants v).all (fun r => covered (s.grants p) r.1 (r.1 + r.2) 17))

/-- What a device's own map and its children's shares keep (R394). -/
def State.sharesFit (s : State) (p : Nat) : Bool :=
  let kids := s.children p
  let sum (f : Nat → Nat) : Nat := kids.foldl (fun n v => n + f v) 0
  (s.mapped p).Nodup
    && (List.range 40).all (fun c => decide (s.cslice p c = 0 ∨ (s.mapped p).contains c) && decide (sum (fun v => s.cslice v c) ≤ s.cslice p c))
    && (List.range 3).all (fun t => decide (sum (fun v => s.fld (tslot v + 8 * t) 0 32) ≤ s.fld (tslot p + 8 * t) 0 32))
    && decide (sum (fun v => s.fld (pslot v + 0x90) 0 11) ≤ s.fld (pslot p + 0x90) 0 11)

/-- Every invariant of R394. -/
def State.budgetsOk (s : State) : Bool :=
  (List.range 64).all (fun v => !s.active v || (s.sharesFit v && (v = 0 || s.withinParent v)))

/-! ### Checking and applying one entry (R399, R400) -/

/-- The value of a register after an entry. -/
def RcEntry.onto (e : RcEntry) (r : Nat) : Nat := (r &&& (2 ^ 64 - 1 - e.mask)) ||| (e.value &&& e.mask)

/-- The entry sets ACTIVE. -/
def RcEntry.creates (e : RcEntry) : Bool := e.slice = 0 && bitOf e.mask 0 && bitOf e.value 0
/-- The entry clears ACTIVE. -/
def RcEntry.destroys (e : RcEntry) : Bool := e.slice = 0 && bitOf e.mask 0 && !bitOf e.value 0

/-- The register word that an entry would change, before it. -/
def State.rcOld (s : State) (e : RcEntry) : Nat := (s.reg (sliceReg e.slice e.target e.index)).toNat

/-- The register word after the entry. LEVEL is derived from PARENT. -/
def State.rcNew (s : State) (e : RcEntry) : Nat :=
  let r := e.onto (s.rcOld e)
  if e.slice = 0 then (if bitOf r 0 then putBits r 1 2 (s.level (bits r 8 6) + 1) else r) else r

/-- Where a device stands in the tree by its PARENT field, in use or not (R393, R400). -/
def State.under (s : State) (v u : Nat) : Bool :=
  v ≠ u && v ≠ 0 && (s.parent v = u || (s.level v = 2 && s.parent (s.parent v) = u))

/-- Condition 1 of R400. -/
def RcEntry.malformed (e : RcEntry) : Bool :=
  e.reservedSet || 12 ≤ e.slice || sliceCount e.slice ≤ e.index || !subBits e.mask (sliceMask e.slice e.index)

/-- Condition 2. -/
def State.rcNotChild (s : State) (e : RcEntry) (issuer : Nat) : Bool :=
  let p := bits (s.rcNew e) 8 6
  let newParent : Bool := e.slice = 0 && (e.creates || bits e.mask 8 6 ≠ 0)
  let badParent : Bool := newParent && (p = e.target || !(p = issuer || (s.active p && p ≠ 0 && s.parent p = issuer)) || s.level p = 2
    || (!e.creates && s.level p = 1 && !(s.children e.target).isEmpty))
  if e.creates then e.target = 0 || badParent else !s.under e.target issuer || badParent

/-- Condition 3. -/
def State.rcState (s : State) (e : RcEntry) : Bool :=
  (if e.creates then s.active e.target else !s.active e.target) || (e.slice = 0 && bits (s.rcNew e) 16 2 = 3)

/-- A block of the device or a descendant stands on a physical cluster. -/
def State.blockOn (s : State) (v c : Nat) : Bool :=
  s.blocks.any (fun b => (b.2.dev = v || s.descends b.2.dev v) && b.2.cluster = c && b.2.standing)

/-- The device of a queue after an entry. -/
def State.rcQueueTo (s : State) (e : RcEntry) : Nat := if bitOf e.value 0 then e.target else s.parent e.target

/-- Condition 4. -/
def State.rcBusy (s : State) (e : RcEntry) : Bool :=
  let old := s.rcOld e
  let new := s.rcNew e
  match e.slice with
  | 9 => bitOf e.mask 0 && s.qdev e.index ≠ s.rcQueueTo e && (s.fld (qreg e.index 0) 0 1 = 1 || s.takenOf e.index ≠ 0)
  | 3 => (List.range 64).any (fun n => bitOf old n != bitOf new n && s.fld (htslot (64 * e.index + n) + 0x18) 0 1 = 1)
  | 1 => (List.range 8).any (fun i => bitOf old (8 * i + 7) && bits old (8 * i) 8 ≠ bits new (8 * i) 8
      && s.blockOn e.target (bits old (8 * i) 6))
  | 0 => e.destroys && (!(s.children e.target).isEmpty || (List.range 256).any (fun q => s.qdev q = e.target)
      || (List.range 64).any (fun i => s.reg (pslot e.target + 0x100 + 8 * i) ≠ 0)
      || s.reg (pslot e.target + 0x80) ≠ 0 || s.reg (pslot e.target + 0x88) ≠ 0
      || (List.range 40).any (fun c => s.cslice e.target c ≠ 0) || !(s.liveHandles e.target).isEmpty
      || s.blocks.any (fun b => b.2.dev = e.target))
  | _ => false

/-- Levels of the children of a device follow its own. -/
def State.relevel (s : State) (v : Nat) : State :=
  (s.children v).foldl (fun s c => s.setFld (pslot c) 1 2 (s.level v + 1)) s

/-- The entry applied. -/
def State.rcApply (s : State) (e : RcEntry) : State :=
  if e.slice = 9 then (if bitOf e.mask 0 then s.setFld (qreg e.index 0) 8 6 (s.rcQueueTo e) else s)
  else
    let t := s.setReg (sliceReg e.slice e.target e.index) (BitVec.ofNat 64 (s.rcNew e))
    if e.slice = 0 then t.relevel e.target else t

/-- A queue that does not move between a device and its parent (R394). -/
def State.rcQueueFar (s : State) (e : RcEntry) : Bool :=
  e.slice = 9 && bitOf e.mask 0 && s.qdev e.index ≠ e.target && s.qdev e.index ≠ s.parent e.target

/-- One entry checked against the copy in the order of R400: the copy after it, or the reason. The platform device may change its
own slot through the field's own register (R133, R400). -/
def State.rcEntry (s : State) (issuer : Nat) (own : Bool) (e : RcEntry) : Except Nat State :=
  if e.malformed then .error 1
  else if !own && s.rcNotChild e issuer then .error 2
  else if s.rcState e then .error 5
  else if s.rcBusy e then .error 4
  else
    let t := s.rcApply e
    if s.rcQueueFar e ∨ !t.budgetsOk then .error 3 else .ok t

/-- The entries in order, from number i on: the copy after them, or the first that fails and why. -/
def State.rcRun (s : State) (issuer at_ : Nat) : Nat → Nat → Except (Nat × Nat) State
  | 0, _ => .ok s
  | n + 1, i =>
    if !s.populated (at_ + 32 * i) 32 then .error (i, 6)
    else match s.rcEntry issuer false (rcEntryOf (s.physRd (at_ + 32 * i) 32)) with
      | .error r => .error (i, r)
      | .ok t => t.rcRun issuer at_ n (i + 1)

/-! ### What follows when a command takes effect (R401) -/

/-- Windows that change wait for the cluster's next cycle: t is the state with the new registers. -/
def State.keepWindows (t s : State) : State :=
  (List.range 40).foldl (fun t c =>
    let ws := s.windows c
    let len := cycleLen ws
    let kept : Bool := match s.sch.oldWin.find? c with | some (u, _) => decide (s.pt < u) | none => false
    if t.windowsNow c = ws ∨ len = 0 ∨ kept then t
    else { t with sch := { t.sch with oldWin := t.sch.oldWin.put c ((s.pt / len + 1) * len, ws) } }) t

/-- Residencies of clusters whose VCMAP entry changed are dropped, and with those that were dropped already rebuilt on the new one at once
where their device holds it; a fill under way ends, and a watched write that it has seen stays seen (R122, R131, R401). -/
def State.moveRsds (t s : State) : State :=
  t.rsds.foldl (fun t p =>
    let v := p.1 / 65536
    if p.2.st = .free ∨ s.physCluster v p.2.vcl = t.physCluster v p.2.vcl then t
    else
      let r := if p.2.st = .dropped then p.2 else p.2.drop t.pt
      let r := if p.2.st = .filling ∨ p.2.st = .rebuilding then
          { r with was := .ready, wasCause := .none, cause := if r.wrote then .write else r.cause } else r
      let t := { t with ms := { t.ms with reqs := t.ms.reqs.filter (fun q => decide (q.2.kind ≠ ReqKind.fill p.1)) } }
      let t := t.setRsd p.1 { r with op := none }
      let t := match p.2.op with | some op => t.countOut op none 0 | none => t
      match t.physCluster v p.2.vcl with
      | some cl => if t.holderOf cl = v then (match t.rsds.find? p.1 with | some r => t.resumeRsd p.1 r | none => t) else t
      | none => t) t

/-- RCSTAT of a device. -/
def State.setRc (s : State) (v st reason index : Nat) : State :=
  s.setReg (pslot v + 0x3D0) (BitVec.ofNat 64 (st + reason * 16 + index * 256))

/-- RCSTAT of a device reads BUSY. -/
def State.rcBusyNow (s : State) (v : Nat) : Bool := s.fld (pslot v + 0x3D0) 0 2 = 1

/-- A command of a slot fails: RCSTAT leaves BUSY (R400, R404). -/
def State.rcFail (s : State) (v reason index : Nat) : State := (s.setRc v 3 reason index).interrupt v 6 0x7F 0 0

/-- A command of a slot runs on. -/
def State.rcStart (s : State) (v : Nat) (j : RcJob) : State :=
  let s := s.setRc v 1 0 0
  { s with part := { s.part with rc := s.part.rc.put v j } }

/-- The device of a partition slot that an offset lies in (R395). -/
def partSlotOf (off : Nat) : Nat := (off - partB - 0x10000) / 0x400

/-- RECONFIG_COMMAND (R399 to R401): the entries are checked in order against a copy, and applied whole or not at all. -/
def execReconfigCommand (w : RegW) (s : State) : Out :=
  let v := partSlotOf w.off
  let n := bits w.val.toNat 0 7
  if s.rcBusyNow v then .next s
  else if n = 0 ∨ 64 < n then .next (s.rcFail v 1 0)
  else match s.rcRun v (s.fld (pslot v + 0x3C0) 5 47 * 32) n 0 with
    | .error (i, r) => .next (s.rcFail v r i)
    | .ok t =>
      let t := ((t.keepWindows s).moveRsds s).switchAll
      .next ((t.setReg (pslot v + 0x3E0) (BitVec.ofNat 64 s.pt)).rcStart v { at_ := s.pt + 65536 }).retune

/-- A job of a slot has nothing left to wait for. -/
def State.jobOver (s : State) (j : RcJob) : Bool :=
  decide (j.at_ ≤ s.pt) && j.launches.all (fun l => (s.sch.launches.find? l).isNone) && j.threads.all (fun n => (s.ctxs.find? n).isNone)

/-- Rings, interrupts, logging and promotion of a reset device (R403). -/
def State.resetRings (s : State) (v : Nat) : State :=
  let f := fslot v + 8
  let i := pslot v + 0x398
  let s := { s with part := { s.part with tailAt := (s.part.tailAt.erase f).erase i } }
  let s := [f, i].foldl (fun s o => (s.setFld o 0 22 0).setFld o 32 22 0) s
  (((s.setReg (pslot v + 0x380) 0).setReg (pslot v + 0x388) 0).setFld (tslot v + 0xA0) 0 2 0).setFld (tslot v + 0x18) 0 1 0

/-- Steps 3 and 4 of a reset, once the queues' launches and the threads of its devices have ended (R403). -/
def State.resetRest (s : State) (ds : List Nat) : State :=
  let s := (ds.flatMap (fun d => s.liveHandles d)).foldl State.revokeRsd s
  (ds.foldl State.resetRings s).switchAll

/-- RECONFIG_DONE (R401 to R404): the command of a slot is over; a reset takes its last two steps. -/
def execReconfigDone (dev : Nat) (s : State) : Out :=
  match s.part.rc.find? dev with
  | none => .refused (.notEnabled "RECONFIG_DONE")
  | some j =>
    if !s.jobOver j then .refused (.notEnabled "RECONFIG_DONE")
    else
      let s := { s with part := { s.part with rc := s.part.rc.erase dev } }
      let s := if j.resets = [] then s else s.resetRest j.resets
      .next ((s.setRc dev 2 0 0).interrupt dev 6 0x7F 0 0)

/-- A budget field written through its own register, checked as a command of one entry (R400). -/
def State.budgetWrite (s : State) (issuer : Nat) (e : RcEntry) : State :=
  match s.rcEntry issuer (decide (issuer = 0 ∧ e.target = 0)) e with
  | .ok t => t
  | .error _ => s

/-- RQUOTA_WRITE (R133, R400). -/
def execRquotaWrite (w : RegW) (s : State) : Out :=
  let x := w.val.toNat % 512
  if 384 < x then .next s
  else .next (s.budgetWrite w.dev { slice := 5, target := rsdSlotOf w.off, index := 0, value := x, mask := 0x1FF, reservedSet := false })

/-! ### Kill and reset (R402, R403) -/

/-- Launches taken from a queue. -/
def State.launchesOf (s : State) (q : Nat) : List Nat :=
  (s.sch.launches.filter (fun p => p.2.queue = q && p.2.home.isNone)).map (·.1)

/-- QKILL (R402). -/
def execQkill (w : RegW) (s : State) : Out :=
  let v := partSlotOf w.off
  let q := bits w.val.toNat 0 8
  let u := s.qdev q
  if s.rcBusyNow v then .next s
  else if u ≠ v ∧ !s.descends u v then .next (s.rcFail v 2 0)
  else
    let ls := s.launchesOf q
    .next ((s.killQueue q).rcStart v { at_ := s.pt, launches := ls }).blocksGone

/-- A host thread of a reset device ends at its next instruction boundary; its held records go with its tokens (R403). -/
def State.resetThread (s : State) (n : Nat) : State :=
  match s.ctxs.find? n with
  | some c =>
    (s.unpark n).setCtx n { c with halt := 4 }
  | none => s

/-- RRESET (R403): the queues of the target and its descendants are killed and their host threads stop; the rest follows when those have
ended. -/
def execRreset (w : RegW) (s : State) : Out :=
  let v := partSlotOf w.off
  let u := bits w.val.toNat 0 6
  if s.rcBusyNow v then .next s
  else if !s.descends u v then .next (s.rcFail v 2 0)
  else
    let ds := (List.range 64).filter (fun d => d = u || s.descends d u)
    let qs := (List.range 256).filter (fun q => ds.contains (s.qdev q))
    let ls := qs.flatMap s.launchesOf
    let s := qs.foldl State.killQueue s
    let ts := (s.ctxs.filter (fun p => p.1 < 96 && ds.contains p.2.dev)).map (·.1)
    let s := ts.foldl State.resetThread s
    .next (s.rcStart v { at_ := s.pt, launches := ls, threads := ts, resets := ds }).blocksGone

/-! ### Pending interrupts (R395, R404) -/

/-- FAULT and MIGDONE pend while their conditions hold (R404). Device 0's FAULT has two queues: the one that did not raise it last is
looked at first (DESIGN CHOICE, log entry 97). -/
def State.repend (s : State) (v : Nat) : State :=
  let qs := if v ≠ 0 then [v] else match s.part.ipAt.find? 0 with | some a => (if a.slot = 64 then [0, 64] else [64, 0]) | none => [0, 64]
  (qs.foldl State.faultIrq s).migIrq v

/-- IPEND_WRITE: each 1 clears its bit; FAULT and MIGDONE are set again at once while their condition holds (R5, R404). -/
def execIpendWrite (w : RegW) (s : State) : Out :=
  let v := partSlotOf w.off
  let o := pslot v + 0x388
  .next ((s.setReg o (s.reg o &&& ~~~ w.val)).repend v)

end Sys2Proof.Machine
end

