-- ==== Sys2Proof/Machine/Traps.lean ====
section
/-! DEFINITION. Held trap records (R368, R373) and trap windows (R374, R375). -/

namespace Sys2Proof.Machine

/-! ### Held records -/

/-- The thread's release wait before its record is over (R368). -/
def State.heldReady (s : State) (h : Held) : Bool :=
  match s.ctxs.find? h.cid with | some c => s.released c .pkg | none => true

/-- HELD_RECORD_ENTER (R368, R373): the oldest held record of a queue whose release wait is over enters the ring. -/
def execHeldRecordEnter (slot : Nat) (s : State) : Out :=
  let f := fslot slot
  match s.trp.held.find? (fun h => h.slot = slot && s.heldReady h) with
  | none => .refused (.notEnabled "HELD_RECORD_ENTER")
  | some h =>
    if s.ringFull f (f + 8) then .refused (.notEnabled "HELD_RECORD_ENTER")
    else
      let s := { s with trp := { s.trp with held := s.trp.held.erase h } }
      let (s, g) := s.ringPut f (f + 8) h.bytes
      .next (s.tailLater (f + 8) g)

/-! ### Trap windows -/

/-- The window whose area an offset lies in, and the offset within it (R374). -/
def winOf (off : Nat) : Nat × Nat := ((off - trapB) / 0x10000 - 1, (off - trapB) % 0x10000)

/-- A window, IDLE when it has never been bound. -/
def State.win (s : State) (w : Nat) : TWin := SMap.get {} s.trp.wins w

/-- A window replaced. -/
def State.setWin (s : State) (n : Nat) (x : TWin) : State := { s with trp := { s.trp with wins := SMap.set {} s.trp.wins n x } }

/-- A window of another package by its row, column and number, as `Trp.wins` keeps those that are bound here. -/
def farWin (row col n : Nat) : Nat := 16 + (row * 32 + col) * 16 + n

/-- A window bound to another package's split lets go of it: that package is told, unless the next token is its own as well. -/
def State.winLetGo (s : State) (n : Nat) (tok : BitVec 64) : State :=
  match s.tokAway (s.win n).token with
  | some dst => if s.tokAway tok = some dst then s else s.tell dst (.twBind n 0)
  | none => s

/-- A token written to TWSEL: it binds the window, 0 releases it; one of another package is bound there (R371), and one that names nothing
leaves the window STALE (R375). -/
def State.twsel (s : State) (n : Nat) (tok : BitVec 64) : State :=
  let s := s.winLetGo n tok
  if tok = 0 then s.setWin n {}
  else match s.tokAway tok with
    | some dst => (s.setWin n { token := tok, stat := 1 }).tell dst (.twBind n tok)
    | none => s.setWin n { token := tok, stat := if (s.liveTok tok).isSome then 1 else 3 }

/-- Another package binds its window to a split here, or to none: its own software sees BINDING until this package says READY or STALE
(R371, R374, R375). -/
def State.peerBind (s : State) (row col n : Nat) (tok : BitVec 64) : State :=
  let key := farWin row col n
  if tok = 0 then s.setWin key {}
  else if (s.liveTok tok).isSome then s.setWin key { token := tok, stat := 1 }
  else (s.setWin key { token := tok, stat := 3 }).tellWin key 3

/-- TWSEL_WRITE (R371, R374, R375). -/
def execTwselWrite (w : RegW) (s : State) : Out := .next (s.twsel (winOf w.off).1 w.val)

/-- The package of a window's split says that the window is READY or STALE (R371, R375). -/
def State.peerWindow (s : State) (n stat : Nat) : State :=
  let x := s.win n
  if (s.tokAway x.token).isSome && ((x.stat = 1 && (stat = 2 || stat = 3)) || (x.stat = 2 && stat = 3)) then s.setWin n { x with stat := stat }
  else s

/-- TW_BIND_COMPLETE (R374): every variable-latency result still due to the thread has been written, that of a pending rgrow too. -/
def execTwBindComplete (win : Nat) (s : State) : Out :=
  let x := s.win win
  match s.liveTok x.token with
  | none => .refused (.notEnabled "TW_BIND_COMPLETE")
  | some (_, k, _) =>
    let due : Bool := match s.ctxs.find? k.cid with | some c => !c.res.isEmpty || !c.accs.isEmpty || c.rgrow.isSome | none => false
    if x.stat ≠ 1 ∨ due then .refused (.notEnabled "TW_BIND_COMPLETE")
    else .next (({ s with trp := { s.trp with wins := s.trp.wins.put win { x with stat := 2 } } }).tellWin win 2)

/-- The words of lanes 2k and 2k + 1 as one register of a window. -/
def lanePair (f : Nat → Word32) (k : Nat) : Nat := (f (2 * k)).toNat + (f (2 * k + 1)).toNat * 2 ^ 32

/-- Lanes 2k and 2k + 1 written, those of the split only (R374). -/
def lanePut (m : Mask) (k v : Nat) (f : Ctx → Nat → Word32 → Ctx) (c : Ctx) : Ctx :=
  [0, 1].foldl (fun c i => if m.getLsbD (2 * k + i) then f c (2 * k + i) (BitVec.ofNat 32 (bits v (32 * i) 32)) else c) c

/-- A register of a READY window read (R374). -/
def State.twField (s : State) (c : Ctx) (sp : Split) (r : Nat) : Nat :=
  let cox : Bool := c.stream = .cox
  let b := if cox then s.blk? c.blk else none
  if 0x1000 ≤ r ∧ r < 0x1200 then (if cox then 0 else lanePair (fun l => c.rix l ((r - 0x1000) / 128)) (r % 128 / 8))
  else if 0x1200 ≤ r ∧ r < 0x1240 then
    let m := (r - 0x1200) / 8
    if m = 7 then 2 ^ 32 - 1 else (SMap.get 0 c.p m).toNat
  else if 0x1400 ≤ r ∧ r < 0x1600 then (if cox then (c.rs ((r - 0x1400) / 8)).toNat else 0)
  else if 0x1600 ≤ r ∧ r < 0x1650 then bits c.ka.toNat (8 * (r - 0x1600)) 64
  else if r = 0x1650 then c.gwct
  else if r = 0x1700 then sp.pc.toNat
  else if r = 0x1708 then sp.mask.toNat
  else if r = 0x1710 then (match sp.j with | some j => j.toNat | none => 0)
  else if 0x1800 ≤ r ∧ r < 0x1880 then lanePair (fun l => if c.stream = .lane ∨ l = 0 then s.srOf c l else 0) ((r - 0x1800) / 8)
  else if r = 0x1900 ∨ r = 0x1908 then (match b with | some y => bits y.mrp.toNat (8 * (r - 0x1900)) 64 | none => 0)
  else if 0x1A00 ≤ r ∧ r < 0x1A30 then SMap.get 0 c.ac ((r - 0x1A00) / 8)
  else if 0x8000 ≤ r ∧ r < 0x10000 then
    let n := (r - 0x8000) / 128
    if cox || decide (32 * c.seg ≤ n) then 0 else lanePair (fun l => c.rv l n) (r % 128 / 8)
  else 0

/-- How many bits the table gives a register of a thread's area; 0 for an offset that is not in it (R374). -/
def twWidth (r : Nat) : Nat :=
  if r % 8 ≠ 0 then 0
  else if 0x1000 ≤ r ∧ r < 0x1200 then 64
  else if 0x1200 ≤ r ∧ r < 0x1240 then 32
  else if 0x1400 ≤ r ∧ r < 0x1650 then 64
  else if r = 0x1650 ∨ r = 0x1700 ∨ r = 0x1710 then 64
  else if r = 0x1708 then 32
  else if 0x1800 ≤ r ∧ r < 0x1880 then 64
  else if r = 0x1900 ∨ r = 0x1908 then 64
  else if 0x1A00 ≤ r ∧ r < 0x1A30 then 64
  else if 0x8000 ≤ r ∧ r < 0x10000 then 64
  else 0

/-- A register of a window read: TWSTAT, and the areas of the thread while the window is READY; TWSEL and an offset outside the table read
zero (R374, R375). What another package answers for its split is free within the register's width, p7 apart (R371; log entry 92). -/
def State.twReadAt (s : State) (w r : Nat) : Nat :=
  let x := s.win w
  if r = 8 then x.stat
  else if x.stat ≠ 2 then 0
  else if (s.tokAway x.token).isSome then
    (if r = 0x1238 then 2 ^ 32 - 1 else (Config.free s.fresh).toNat % 2 ^ twWidth r)
  else match s.liveTok x.token with
    | some (_, k, sp) => (match s.ctxs.find? k.cid with | some c => s.twField c sp r | none => 0)
    | none => 0

/-- The same by its offset in the system region. -/
def State.twRead (s : State) (off : Nat) : Nat := s.twReadAt (winOf off).1 (winOf off).2

/-- A window write's effect on the thread (R374). -/
def Ctx.twPut (c : Ctx) (sp : Split) (r v : Nat) : Ctx :=
  let c := { c with olds := [] }
  let cox : Bool := c.stream = .cox
  if 0x1000 ≤ r ∧ r < 0x1200 then
    (if cox then c else lanePut sp.mask (r % 128 / 8) v (fun c l x => c.wix l ((r - 0x1000) / 128) x) c)
  else if 0x1200 ≤ r ∧ r < 0x1238 then
    let m := (r - 0x1200) / 8
    let x : Mask := BitVec.ofNat 32 v
    { c with p := SMap.set 0 c.p m ((SMap.get 0 c.p m &&& ~~~ sp.mask) ||| (x &&& sp.mask)) }
  else if 0x1400 ≤ r ∧ r < 0x1600 then (if cox then c.ws ((r - 0x1400) / 8) (BitVec.ofNat 64 v) else c)
  else if 0x1600 ≤ r ∧ r < 0x1650 then
    { c with ka := BitVec.ofNat 640 (putBits c.ka.toNat (8 * (r - 0x1600)) 64 v % 2 ^ 635) }
  else if 0x1800 ≤ r ∧ r < 0x1880 then
    lanePut sp.mask ((r - 0x1800) / 8) v (fun c l x => { c with sr := c.sr.put l (if x = 0 then 1 else x) }) c
  else if 0x8000 ≤ r ∧ r < 0x10000 then
    let n := (r - 0x8000) / 128
    if cox || decide (32 * c.seg ≤ n) then c else lanePut sp.mask (r % 128 / 8) v (fun c l x => c.wv l n x) c
  else c

/-- Half of MRP written through a window; a value with a reserved bit set changes nothing (R306, R374). -/
def Block.twMrp (b : Block) (r v : Nat) : Block :=
  let x := putBits b.mrp.toNat (8 * (r - 0x1900)) 64 v
  if bits x 56 8 ≠ 0 ∨ bits x 79 1 ≠ 0 ∨ bits x 88 40 ≠ 0 then b else { b with mrp := BitVec.ofNat 128 x }

/-- A write of a READY window changes the trapped split's state, in the saved image too while its block is saved; one bound to another
package's split goes there (R371, R374, R375). -/
def State.twWrite (s : State) (n r : Nat) (val : BitVec 64) : State :=
  let x := s.win n
  if x.stat ≠ 2 then s
  else match s.tokAway x.token, s.liveTok x.token with
    | some dst, _ => s.tell dst (.twWrite n r val)
    | none, none => s
    | none, some (_, k, sp) =>
      match s.ctxs.find? k.cid with
      | none => s
      | some c =>
        let s := s.setCtx k.cid (c.twPut sp r val.toNat)
        let s := if (r = 0x1900 ∨ r = 0x1908) ∧ c.stream = .cox then
            (match s.blk? c.blk with | some b => s.setBlk c.blk (b.twMrp r val.toNat) | none => s) else s
        if c.stream = .host then s
        else match s.blk? c.blk with
          | some b => (match b.st with | .saved _ => s.writeImage c.blk | _ => s)
          | none => s

/-- TW_WRITE (R371, R374, R375). -/
def execTwWrite (w : RegW) (s : State) : Out := .next (s.twWrite (winOf w.off).1 (winOf w.off).2 w.val)

/-- Another package's write through its window that is bound here (R371, R375). -/
def State.peerWrite (s : State) (row col n r : Nat) (val : BitVec 64) : State :=
  if (s.tokAway (s.win (farWin row col n)).token).isSome then s else s.twWrite (farWin row col n) r val

/-- Another package's read through it: the value goes back (R371, R375). -/
def State.peerRead (s : State) (row col n r : Nat) : State := s.tell (row, col) (.twValue n r (s.twReadAt (farWin row col n) r))

/-! ### Other packages (R371, R372, R375, R405, R419) -/

/-- Whether a trap-block offset is HEAD of a fault queue that a fabric window's LVDEV reaches: its own, and for device 0 the platform queue
(R372). DESIGN CHOICE (log entry 93). -/
def headOf (lv off : Nat) : Option Nat :=
  if off = 0x80 * lv + 8 then some lv else if lv = 0 ∧ off = 0x80 * 64 + 8 then some 64 else none

/-- An access to the trap block that arrives from another package: HEAD of the fault queue of the device that its window names, and the
trap windows, eight bytes at a time (R372, R375). DESIGN CHOICE (log entry 93): its offset is that in the trap block. -/
def State.peerTrapAt (s : State) (lv : Nat) (f : FabAcc) : State × FabReply :=
  let absent : FabReply := .fault .page (remote qAbsent) 0
  let n := f.off / 0x10000 - 1
  let r := f.off % 0x10000
  if f.size ≠ 8 ∨ f.off % 8 ≠ 0 then (s, absent)
  else match headOf lv f.off with
    | some q =>
      (match f.kind with
       | .load => (s, .done (leBytes 8 (s.reg (trapB + f.off)).toNat))
       | .store d => ((s.setFld (trapB + f.off) 0 22 (leNat d)).faultIrq q, .done [])
       | _ => (s, absent))
    | none =>
      if f.off < 0x10000 ∨ 0x110000 ≤ f.off then (s, absent)
      else match f.kind with
        | .load => ({ s with fresh := s.fresh + 1 }, .done (leBytes 8 (s.twReadAt n r)))
        | .store d => (if r = 0 then s.twsel n (BitVec.ofNat 64 (leNat d)) else s.twWrite n r (BitVec.ofNat 64 (leNat d)), .done [])
        | _ => (s, absent)

/-- The same, admitted through the fabric windows as any access is: source, kind and size (R419, R420). -/
def State.peerTrap (s : State) (f : FabAcc) : State :=
  let (s, r) : State × FabReply :=
    match s.fabMatch f.srow f.scol f.svdev f.off (fabOp f).writes, s.fwinMatch f.srow f.scol f.svdev with
    | .error (c, q), _ => (s, .fault c q 0)
    | .ok _, some e => s.peerTrapAt (bits (s.fwinW e 0) 32 6) f
    | .ok _, none => (s, .fault .perm (remote qGrant) 0)
  { s with lnk := { s.lnk with sent := some (r, s.pt) } }

/-- Another package's fault interrupt for a server here: a record in the ring of the device that the trapped device's window names, with
the PT at which IPEND was set there (R405). DESIGN CHOICE (log entry 97): its VDEV is the number of the trapped device. -/
def State.peerFault (s : State) (row col vdev hthr time : Nat) : State :=
  match s.fwinMatch row col vdev with
  | some e => s.intAppend (bits (s.fwinW e 0) 32 6) (intRec vdev 0 hthr 0 0 time)
  | none => s

end Sys2Proof.Machine
end

