-- ==== Sys2Proof/Machine/Regs.lean ====
section
/-! DEFINITION. The registers of the system region (R5, R6, R416): who may reach them (R396), what a read returns, which event a
write is, and the plain writes. -/

namespace Sys2Proof.Machine

/-- The block base of an offset, and the offset within the block. -/
def blockAt (off : Nat) : Nat × Nat :=
  match sysBlocks.find? (fun b => decide (b.1 ≤ off ∧ off < b.1 + b.2)) with
  | some (b, _) => (b, off - b)
  | none => (0, off)

/-! ### Who may reach a register (R133, R344, R395, R396, R406, R425) -/

/-- v is u or a descendant of u. -/
def State.rules (s : State) (u v : Nat) : Bool := v = u || s.descends v u

/-- The device of a per-device slot of R396, with the host threads' and mailbox rules; none for a register of no single
device. -/
def State.slotDev (s : State) (off : Nat) : Option Nat :=
  let (b, r) := blockAt off
  if b = tierB then (if 0x10000 ≤ r ∧ r < 0x14000 then some ((r - 0x10000) / 0x100) else none)
  else if b = cacheB then some (r / 0x80)
  else if b = engB then
    (if 0x1000 ≤ r ∧ r < 0x1200 then some ((r - 0x1000) / 8)
     else if 0x2000 ≤ r ∧ r < 0x3000 then some (s.fld (chanReg ((r - 0x2000) / 0x40) 0) 8 6) else none)
  else if b = schB then (if r < 0x4000 then some (s.qdev (r / 0x40)) else none)
  else if b = trapB then (if r < 0x2000 then some (r / 0x80) else none)
  else none

/-- A privileged host thread of a device may read the register. -/
def State.mayRead (s : State) (u off : Nat) : Bool :=
  let (b, r) := blockAt off
  if b = partB ∧ 0x10000 ≤ r then s.rules u ((r - 0x10000) / 0x400)
  else if b = htB then r < 0x40 * 96 && s.hthr u (r / 0x40)
  else if b = mbB then u = 0
  else match s.slotDev off with | some v => s.rules u v | none => true

/-- A range of bytes that a register names lies in the GRANT ranges of the writing device (R396). -/
def State.inGrants (s : State) (u pa n : Nat) : Bool :=
  n = 0 || covered (s.grants u) (pa / 0x10000) ((pa + n + 0xFFFF) / 0x10000) 17

/-- Bytes of the ring that a base register value names; none for a disabled one (R66). -/
def ringBytes (v entry : Nat) : Nat :=
  if 6 ≤ bits v 0 6 ∧ bits v 0 6 ≤ 21 ∧ bits v 6 6 = 0 ∧ bits v 52 12 = 0 then 2 ^ bits v 0 6 * entry else 0

/-- The region that a written physical base names: address and bytes. -/
def State.baseRegion (s : State) (off v : Nat) : Nat × Nat :=
  let (b, r) := blockAt off
  let ring (entry : Nat) : Nat × Nat := (bits v 12 40 * 4096, ringBytes v entry)
  if b = tierB ∧ 0x10000 ≤ r then
    let q := r % 0x100
    if q = 0x20 ∨ q = 0x30 ∨ q = 0x40 then ring 8
    else if q = 0x50 then ring 16
    else if q = 0x90 then ring 8
    else if q = 0x60 ∨ q = 0x70 ∨ q = 0x80 then (bits v 12 40 * 4096, 8 * s.fld (off + 8) 36 28)
    else if q = 0xA8 then (bits v 21 31 * 2 ^ 21, 2 ^ 26)
    else (0, 0)
  else if b = rsdB ∧ r % 0x40 = 0 then (bits v 21 31 * 2 ^ 21, 2 ^ 21)
  else if b = engB ∧ 0x2000 ≤ r then
    (if r % 0x40 = 0x18 then (bits v 12 40 * 4096, (bits v 0 10 + 1) * 64)
     else if r % 0x40 = 0x20 then (bits v 12 40 * 4096, (bits v 0 10 + 1) * 16) else (0, 0))
  else if b = trapB ∧ r < 0x2080 then
    (if r % 0x80 = 0 then ring 128 else if r % 0x80 = 0x28 then (bits v 22 30 * 2 ^ 22, bits v 0 16 * 2 ^ 22) else (0, 0))
  else if b = partB ∧ 0x10000 ≤ r then
    (if r % 0x400 = 0x390 then ring 16 else if r % 0x400 = 0x3C0 then (bits v 5 47 * 32, 32) else (0, 0))
  else if b = htB ∧ (r % 0x40 = 0 ∨ r % 0x40 = 0x10) then (bits v 12 40 * 4096, 4096)
  else (0, 0)

/-- A write of a device may take effect (R133, R344, R395, R396, R406, R417, R425). Trap windows are open to every privileged host
thread. DESIGN CHOICE (log entry 100): the bases of the residency and partition blocks, which R396 does not cover, lie within the writer's
GRANT ranges too. -/
def State.mayWrite (s : State) (w : RegW) : Bool :=
  let (b, r) := blockAt w.off
  let u := w.dev
  let v := w.val.toNat
  let owner : Bool :=
    if b = rsdB then u = 0 || (s.children u).contains (r / 0x40)
    else if b = trapB ∧ 0x10000 ≤ r then true
    else if b = partB then (if r < 0x2000 then r / 0x80 = u else 0x10000 ≤ r && (r - 0x10000) / 0x400 = u)
    else if b = htB then r < 0x40 * 96 && s.hthr u (r / 0x40)
    else match s.slotDev w.off with | some d => s.rules u d | none => u = 0
  let (pa, n) := s.baseRegion w.off v
  owner && (u = 0 || s.inGrants u pa n)
    && !(b = engB && decide (0x2000 ≤ r) && decide (r < 0x3000) && r % 0x40 = 0 && !s.rules u (bits v 8 6))

/-! ### Reads -/

/-- What a register reads as (R5, R352, R372, R374). FQSTAT.HELD counts the records whose release wait is over, which wait for ring space
alone. -/
def State.regRead (s : State) (u off : Nat) : Nat :=
  let (b, r) := blockAt off
  if !s.mayRead u off then 0
  else if b = trapB ∧ 0x10000 ≤ r then s.twRead off
  else if b = schB ∧ r < 0x4000 ∧ r % 0x40 = 0x20 then (s.reg off).toNat + 4 * s.takenOf (r / 0x40)
  else if b = trapB ∧ r % 0x80 = 0x18 then Nat.min ((s.trp.held.filter (fun h => h.slot = r / 0x80 && s.heldReady h)).length) 0xFFFF
  else if b = trapB ∧ r < 0x2000 ∧ r % 0x80 = 0x30 then (s.freeSlots (r / 0x80)).length + s.fld off 16 16 * 2 ^ 16
  else (s.reg off).toNat

/-- Which fields of a register clear when they are read: the bits kept (R5). -/
def rcKeep (off : Nat) : Option Nat :=
  let (b, r) := blockAt off
  if off = tierB + 0x48 then some 0
  else if b = schB ∧ r < 0x4000 ∧ r % 0x40 = 0x28 then some 0
  else if b = partB ∧ 0x10000 ≤ r ∧ r % 0x400 = 0x3A0 then some 0
  else if b = trapB ∧ r < 0x2000 ∧ r % 0x80 = 0x30 then some 0xFFFF
  else none

/-- The register after a read that clears: only a reader that may read it does. -/
def State.rcClear (s : State) (u off : Nat) : State :=
  match rcKeep off with
  | some m => if s.mayRead u off then s.setReg off (s.reg off &&& BitVec.ofNat 64 m) else s
  | none => s

/-! ### Which event a write is -/

/-- The event that a permitted write of a register is. -/
def regEvent (w : RegW) : Instr :=
  let (b, r) := blockAt w.off
  let v := w.val.toNat
  if b = tierB ∧ r = 0x10 then
    (if bits v 0 2 = 1 then .potcmdRequest w else if bits v 0 2 = 2 then .potcmdForce w else .potcmdBadcmd w)
  else if b = rsdB ∧ r % 0x40 = 8 then .rquotaWrite w
  else if b = rsdB ∧ r % 0x40 = 0x10 then
    (if bits v 16 2 = 1 then .rcmdRevoke w else if bits v 16 2 = 2 then .rcmdRevokeAll w else .rcmdBadcmd w)
  else if b = engB ∧ 0x2000 ≤ r ∧ r < 0x3000 ∧ r % 0x40 = 0 then .chcfgWrite w
  else if b = schB ∧ r < 0x4000 then .qcfgWrite w
  else if b = trapB ∧ 0x10000 ≤ r then (if r % 0x10000 = 0 then .twselWrite w else .twWrite w)
  else if b = partB ∧ r < 0x2000 ∧ r % 0x80 = 0x40 then
    (if bits v 12 2 = 3 ∨ bits v 14 50 ≠ 0 then .keyBadcmd w
     else if bits v 12 2 = 0 then .keyOff w else if bits v 12 2 = 1 then .keyXts w else .keyPlain w)
  else if b = partB ∧ 0x10000 ≤ r ∧ r % 0x400 = 0x388 then .ipendWrite w
  else if b = partB ∧ 0x10000 ≤ r ∧ r % 0x400 = 0x3C8 then .reconfigCommand w
  else if b = partB ∧ 0x10000 ≤ r ∧ r % 0x400 = 0x3D8 then .rreset w
  else if b = partB ∧ 0x10000 ≤ r ∧ r % 0x400 = 0x3E8 then .qkill w
  else if b = fabB ∧ 0x1000 ≤ r ∧ r < 0x3000 then .fwinWrite w
  else if b = htB ∧ r % 0x40 = 8 then
    (if bits v 0 3 = 1 then .htcmdStart w else if bits v 0 3 = 2 then .htcmdStop w else if bits v 0 3 = 3 then .htcmdSwap w
     else .htcmdBadcmd w)
  else .registerWrite w

/-- A store that reaches a register: the event that it is comes next; a write that the device may not make is ignored. -/
def State.regStore (s : State) (w : RegW) : State := if s.mayWrite w then { s with todo := s.todo ++ [regEvent w] } else s

/-! ### Plain writes (R5, R6) -/

/-- The writable bits of a plain register, without those that behave in a way of their own. -/
def rwMask (off : Nat) : Nat :=
  let (b, r) := blockAt off
  let all := 2 ^ 64 - 1
  let head := 2 ^ 22 - 1
  let ring := 0xFFFFFFFFFF03F
  if b = 0 then (if off = 0 then 0x800FFFFFFFF80000 else 0)
  else if b = tierB ∧ r < 0x10000 then
    (if r = 0 then 0x800001FFFFFFFF0F else if r = 8 then 0xFFFFFFFFF0000 else if r = 0x20 then 0x3F else if r = 0x28 then 0xFFFFFFFF
     else if r = 0x30 then ring else if r = 0x38 then head else if 0x80 ≤ r ∧ r < 0x100 then 0x3FF else 0)
  else if b = tierB ∧ r < 0x14000 then
    let q := r % 0x100
    if q < 0x18 then 0xFFFFFFFF00000000
    else if q = 0x18 then 0x1FFF0001
    else if q = 0x20 ∨ q = 0x30 ∨ q = 0x40 then ring
    else if q = 0x28 ∨ q = 0x38 ∨ q = 0x48 then head * 2 ^ 32
    else if q = 0x50 ∨ q = 0x90 then ring
    else if q = 0x58 ∨ q = 0x98 then head
    else if q = 0x60 ∨ q = 0x70 ∨ q = 0x80 then 0xFFFFFFFFFF001
    else if q = 0x68 ∨ q = 0x78 ∨ q = 0x88 then all
    else if q = 0xA0 then 0xFFF3 else if q = 0xA8 then 0xFFFFFFFE00000 else 0
  else if b = cacheB then (if r % 0x80 = 0x40 then 0x1FFF else 0)
  else if b = rsdB then (if r % 0x40 = 0 then 0xFFFFFFFE00001 else 0)
  else if b = engB then
    (if r = 0 then 0xFFFFFFFE00001 else if r = 8 then 0xFFFF
     else if 0x1000 ≤ r ∧ r < 0x1200 then all
     else if 0x2000 ≤ r ∧ r < 0x3000 then
       (let q := r % 0x40
        if q = 8 ∨ q = 0x10 then 2 ^ 48 - 1 else if q = 0x18 ∨ q = 0x20 then 0xFFFFFFFFFF3FF
        else if q = 0x28 ∨ q = 0x30 then 0xFFFFFFFFFFFFC else if q = 0x38 then 0xFFFFFFFF else 0)
     else 0)
  else if b = trapB ∧ r < 0x2080 then
    let q := r % 0x80
    if q = 0 then ring else if q = 8 then head else if q = 0x10 then 0x1FFFF03 else if q = 0x20 then 0x7FFFFFFFF
    else if q = 0x28 then 0xFFFFFFFC0FFFF else 0
  else if b = partB ∧ 0x10000 ≤ r then
    let q := r % 0x400
    if q = 0x380 then 0xFFFF else if q = 0x390 then ring else if q = 0x398 then head else if q = 0x3C0 then 0xFFFFFFFFFFFE0 else 0
  else if b = fabB then (if r = 0 then 0x3FF else if r = 8 then 0xFFFFFFFF else 0)
  else if b = mbB then (if r = 0x10 then 0xFFFFFFFFFFC00 else 0)
  else if b = htB then (if r < 0x40 * 96 ∧ (r % 0x40 = 0 ∨ r % 0x40 = 0x10) then 0xFFFFFFFFFF000 else 0)
  else 0

/-- A field keeps its old value where the rule says that a written value is ignored. -/
def keepFld (bad : Bool) (old new lo n : Nat) : Nat := if bad then putBits new lo n (bits old lo n) else new

/-- Counting is enabled in some tier for some device (R66). -/
def State.countsAny (s : State) : Bool :=
  (List.range 64).any (fun v => (List.range 3).any (fun t => s.fld (tslot v + 0x60 + 16 * t) 0 1 = 1))

/-- The value that a plain write leaves, with what the register maps say of single values (R66, R73, R325, R332, R372,
R417). -/
def State.rwValue (s : State) (off v : Nat) : Nat :=
  let (b, r) := blockAt off
  let old := (s.reg off).toNat
  let m := rwMask off
  let new := (old &&& (2 ^ 64 - 1 - m)) ||| (v &&& m)
  if off = tierB + 0x20 then
    (if s.countsAny then old else if 16 ≤ bits new 0 6 ∧ bits new 0 6 ≤ 40 then new else putBits new 0 6 26)
  else if b = cacheB ∧ r % 0x80 = 0x40 then
    (if bits new 0 4 ≤ bits new 8 4 ∧ bits new 8 4 ≤ bits new 4 4 ∧ bits new 4 4 ≤ 10 then new else old)
  else if b = engB ∧ 0x1000 ≤ r ∧ r < 0x1200 then
    (List.range 8).foldl (fun x i => if bits x (8 * i) 8 = 0 then putBits x (8 * i) 8 1 else x) new
  else if b = engB ∧ 0x2000 ≤ r ∧ r < 0x3000 then (if s.fld (chanReg ((r - 0x2000) / 0x40) 0) 0 1 = 1 then old else new)
  else if b = trapB ∧ r < 0x2080 ∧ r % 0x80 = 0x10 then keepFld (decide (95 < bits new 8 7)) old new 8 7
  else if b = trapB ∧ r < 0x2080 ∧ r % 0x80 = 0x20 then
    keepFld (bits new 0 32 = 0) old (keepFld (bits new 32 3 = 0) old new 32 3) 0 32
  else if off = fabB then keepFld (decide (24 ≤ bits new 0 5)) old (keepFld (decide (24 ≤ bits new 5 5)) old new 5 5) 0 5
  else if off = fabB + 8 then keepFld (bits new 0 32 = 0) old new 0 32
  else new

/-- Records of abandoned migrations enter a completion ring as room comes (R51). -/
def State.drainPosts (s : State) : State :=
  let ps := s.mig.posts
  ps.foldl (fun s p => s.postComp p.1 p.2) { s with mig := { s.mig with posts := [] } }

/-- Interrupt sources that become enabled while they pend are recorded (R405). -/
def State.enableIrqs (s : State) (v old new : Nat) : State :=
  (List.range 16).foldl (fun s i =>
    if bitOf new i ∧ !bitOf old i ∧ s.fld (pslot v + 0x388) i 1 = 1 then
      (match s.part.ipAt.find? (v * 16 + i) with
       | some a => s.intSend v i a
       | none => s.intSend v i { at_ := s.pt, hthr := 0x7F, slot := v })
    else s) s

/-- What follows a plain write at once. -/
def State.afterWrite (s : State) (off old new : Nat) : State :=
  let (b, r) := blockAt off
  if b = tierB ∧ 0x10000 ≤ r ∧ (r % 0x100 = 0x50 ∨ r % 0x100 = 0x58) then
    (s.drainPosts).migIrq ((r - 0x10000) / 0x100)
  else if b = trapB ∧ r < 0x2080 ∧ (r % 0x80 = 8 ∨ r % 0x80 = 0x10) then s.faultIrq (r / 0x80)
  else if b = trapB ∧ r < 0x2080 ∧ r % 0x80 = 0x28 then s.saveMore
  else if b = partB ∧ 0x10000 ≤ r ∧ r % 0x400 = 0x380 then s.enableIrqs ((r - 0x10000) / 0x400) old new
  else s

/-- The budget part of a plain write: QUOTA and the way masks change only through the check of R400 (R394, R396). -/
def State.budgetPart (s : State) (w : RegW) : State :=
  let (b, r) := blockAt w.off
  if b = tierB ∧ 0x10000 ≤ r ∧ r < 0x14000 ∧ r % 0x100 < 0x18 then
    s.budgetWrite w.dev { slice := 4, target := (r - 0x10000) / 0x100, index := r % 0x100 / 8, value := w.val.toNat, mask := 2 ^ 32 - 1,
                          reservedSet := false }
  else if b = cacheB ∧ r % 0x80 < 0x40 then
    s.budgetWrite w.dev { slice := 6, target := r / 0x80, index := r % 0x80 / 8, value := w.val.toNat,
                          mask := sliceMask 6 (r % 0x80 / 8), reservedSet := false }
  else s

/-- REGISTER_WRITE (R5, R6, R396): a register whose fields only hold what is written. Key material and a mailbox command are taken
here too (R406, R425). -/
def execRegisterWrite (w : RegW) (s : State) : Out :=
  let (b, r) := blockAt w.off
  if !s.mayWrite w then .next s
  else if b = partB ∧ r < 0x2000 then
    .next (if r % 0x80 < 0x40 then
        { s with part := { s.part with kdata := SMap.set 0 s.part.kdata (8 * (r / 0x80) + r % 0x80 / 8) w.val } } else s)
  else if w.off = mbB then .next (s.mailCommand (bits w.val.toNat 0 8))
  else
    let s := s.budgetPart w
    let old := (s.reg w.off).toNat
    let new := s.rwValue w.off w.val.toNat
    .next ((s.setReg w.off (BitVec.ofNat 64 new)).afterWrite w.off old new)

end Sys2Proof.Machine
end

