-- ==== Sys2Proof/Machine/Serve.lean ====
section
/-! DEFINITION. The events that serve requests at their performing points: reads and writes at an HA, an L2 or a register (R74, R95,
R96, R108), a throttled bank's side queue (R60), gang peers (R90), other packages (R16, R109, R282) and links (R418, R421). -/

namespace Sys2Proof.Machine

/-! ### The end of a request -/

/-- The access that a request belongs to. -/
def State.accKey (s : State) (id : Nat) (r : Req) : Option Nat :=
  match s.ctxs.find? r.cid with
  | some c => (List.find? (fun (p : Nat × Acc) => p.2.reqs.any (fun q => q.2 = id)) c.accs).map (·.1)
  | none => none

/-- GWCT takes the completion time of a write that the thread made (R99). -/
def State.noteG (s : State) (r : Req) (g : Nat) : State :=
  if r.kind.writes && r.global then
    (match s.ctxs.find? r.cid with
     | some c => s.setCtx r.cid { c with gwct := Nat.max c.gwct g }
     | none => s)
  else s

/-- A write through space 0x8 is acknowledged, or has failed: the thread's count falls (R109). -/
def State.fall8 (s : State) (r : Req) : State :=
  if r.space = 8 ∧ r.kind.writes then
    (match s.ctxs.find? r.cid with
     | some c => s.setCtx r.cid { c with rem8 := c.rem8 - 1 }
     | none => s)
  else s

/-- A request is over: the counters it moves follow, and its access with them (R90, R99, R109, R282). -/
def State.endReq (s : State) (id : Nat) (r : Req) (st : ReqSt) : State :=
  let s := s.setReq id { r with st := st }
  let s := match st with | .done _ g => s.noteG r g | _ => s
  let s := s.fall8 r
  let s := if r.space = 5 ∧ r.kind.writes then s.fallRmt r.cid else s
  match s.accKey id r with
  | some k => s.settleAcc r.cid k
  | none => s

/-- The lines of a page that a request reaches (R47, R49): each part of a lane-local access may reach another. -/
def State.windowLines (s : State) (r : Req) (page line : Nat) : List Nat :=
  ((s.reqPas r).filterMap (fun pa => if pa / 0x10000 = page then some (pa / 128 % 512) else none) ++ [line]).dedup

/-- The translations with which a thread's write is confirmed as the window takes it (R410): none where it may still fault. -/
def State.fixHeld (s : State) (r : Req) (t : Trans) : State × List (Nat × Trans) :=
  if !r.kind.writes ∨ r.cid = noThreadId ∨ !r.fixed.isEmpty then (s, r.fixed)
  else if r.space = 15 then (s, if decide (r.kind.akind = .atomic) && s.poisoned (s.routed t.pa / 128) then [] else [(r.va, t)])
  else
    let (asid, priv, vas) := r.runs (s.ctx r.cid)
    match s.fixRuns r.kind asid priv vas with | (s, .ok ts) => (s, ts) | (s, .error _) => (s, [])

/-- What became of a request at its performing point: it is over, is held until G, stands in a migration's window of 64 entries or in
a throttled bank's side queue of 16; none when it has to wait for a place or for a pool page (R49, R54, R60, R96). -/
def State.landReq (s : State) (id : Nat) (r : Req) (x : HaRes) : Option State :=
  match x with
  | .ok v g => some (s.endReq id r (.done v g))
  | .fault c q l aux => some (s.endReq id r (.failed c q l aux))
  | .hold g => if g = 0 then none else some (s.setReq id { r with st := .held g 0 })
  | .window f t line wr =>
    (match s.mig.fwd.find? f with
     | some e =>
       if 64 ≤ ((e.window.map (·.1)).dedup).length then none
       else
         let lines := if line = 512 then [512] else s.windowLines r e.src line
         let e := { e with window := e.window ++ lines.map (fun l => (id, l, wr)) }
         let s := { s with mig := { s.mig with fwd := s.mig.fwd.put f e } }
         let (s, fixed) := s.fixHeld r t
         some (s.setReq id { r with st := .window f, fixed := fixed })
     | none => none)
  | .side key =>
    let l := SMap.get [] s.ms.side key
    if 16 ≤ l.length then none
    else
      let s := s.setReq id { r with st := .side key }
      some { s with ms := { s.ms with side := s.ms.side.put key (l ++ [id]) } }

/-- A request may be served now: it waits, or the G until which it was held has come (R96). -/
def State.dueReq (s : State) (r : Req) : Bool :=
  match r.st with | .waiting => true | .held g _ => decide (g ≤ s.pt) | _ => false

/-! ### Registers, fabric and banks -/

/-- The offset of a physical address in the system region. -/
def sysOff (pa : Nat) : Nat := pa - 15 * 2 ^ 48

/-- A request for a register (R17, R108, R416). -/
def Req.isReg (r : Req) : Bool := r.space = 15 && region r.va = 4

/-- A free value is drawn by the read of a window that is bound to another package's split (R371, R375). -/
def State.drawWin (s : State) (off : Nat) : State :=
  if trapB + 0x10000 ≤ off ∧ off < partB ∧ (s.tokAway (s.win (winOf off).1).token).isSome then { s with fresh := s.fresh + 1 } else s

/-- A load of a register that does not clear, or a store to one: performed as it arrives (R108). An address outside every block does
not exist. -/
def State.serveReg (s : State) (id : Nat) (r : Req) : State :=
  let off := sysOff r.va
  if !inBlock off then s.endReq id r (.failed .page qAbsent 0 0)
  else match r.kind with
    | .store d => (s.regStore { dev := r.dev, off := off, val := BitVec.ofNat 64 (leNat d) }).endReq id r (.done 0 0)
    | _ => (s.drawWin off).endReq id r (.done (s.regRead r.dev off) 0)

/-- A load of a register that clears when it is read (R5). -/
def State.serveRc (s : State) (name : String) (id : Nat) (ok : Nat → Bool) : Out :=
  match s.ms.reqs.find? id with
  | none => .refused (.notEnabled name)
  | some r =>
    let off := sysOff r.va
    if r.isReg && decide (r.kind = ReqKind.load) && s.dueReq r && inBlock off && ok off && !s.behind (s.ctx r.cid) id r then
      .next ((s.rcClear r.dev off).endReq id r (.done (s.regRead r.dev off) 0))
    else .refused (.notEnabled name)

/-- An access through this package's own fabric window (R16, R420): it is matched with the windows when it first arrives. A write is
accepted, and acknowledged once PT reaches its G (R109). -/
def State.serveFab (s : State) (id : Nat) (r : Req) (pace : Pace) : Option State :=
  match s.fabTo r r.dev (bits r.va 0 50) r.kind.writes with
  | .error (c, q) => some (s.endReq id r (.failed c q 0 0))
  | .ok (asid, va) =>
    let r' := { r with arrived := some (asid, va) }
    let q : HaReq := { asid := asid, va := va, n := r.size, priv := false, who := fabricW r.cid, atL := .ha, pace := pace,
                       fixed := r.fixedAt va, sure := !r.fixed.isEmpty, tc := r.tc, since := some r.since }
    match s.fabPerform q r.kind.haOp with
    | (s, .ok v g) => some (if r.kind.writes then s.setReq id { r' with st := .confirmed v g } else s.endReq id r' (.done v g))
    | (s, x) => (match s.landReq id r' x with
      | some t => some t
      | none => if r.arrived.isSome then none else some (s.setReq id r'))

/-- An access of a bank that has been decided to go through: bytes whose word is marked read as they stand (R282, R316). -/
def Block.aspForce (b : Block) (o n : Nat) (k : ReqKind) : Block × Nat :=
  match b.aspDo o n k with
  | some r => r
  | none => (match { b with aspBad := [] }.aspDo o n k with
    | some (b', v) => ({ b' with aspBad := b.aspBad }, v)
    | none => (b, 0))

/-- An access to a bank of the own block that could not be performed as it issued (R87, R98). -/
def State.serveBank (s : State) (id : Nat) (r : Req) (c : Ctx) : Option State :=
  if s.ownRankBehind c id r then none
  else match s.blk? c.blk with
    | none => some (s.endReq id r (.done 0 s.pt))
    | some b =>
      let (b', v) := if r.space = 4 then b.aspForce r.va r.size r.kind else b.acsDo r.va r.size r.kind
      some ((s.setBlk c.blk b').endReq id r (.done v s.pt))

/-! ### Lanes of one instruction that reach the same bytes (R98, R285) -/

/-- The earlier requests of the same instruction that are still to be performed, through spaces whose addresses are translated here. -/
def State.issueMates (s : State) (c : Ctx) (id : Nat) (r : Req) : List (Nat × Req) :=
  s.ms.reqs.filter (fun p => p.1 < id && p.2.cid = r.cid && p.2.open_ && c.sameIssue p.1 id
    && (decide (p.2.space ≤ 3 ∨ p.2.space = 7) || (p.2.space = 8 && s.ownMesh p.2.va)))

/-- What a request reaches in this package: address space, VA, bytes and privilege of each run; through the own window by what that admits
(R16, R420). -/
def State.reach (s : State) (c : Ctx) (r : Req) : List (Nat × Nat × Nat × Bool) :=
  if r.space = 8 then
    match s.fabTo r r.dev (bits r.va 0 50) r.kind.writes with
    | .ok (asid, va) => [(asid, va, r.size, false)]
    | .error _ => []
  else (reqParts c r).map (fun p => (r.asid, p.1, p.2, r.priv))

/-- Every run of a request is translated, as far as the tables allow. -/
def State.translateReq (s : State) (c : Ctx) (r : Req) : State :=
  (s.reach c r).foldl (fun s (asid, va, _, priv) =>
    if (s.paOf asid va).isSome ∨ (r.fixedAt va).isSome then s else (s.translate asid va r.kind.akind priv).1) s

/-- The physical ranges of a request, as far as they are translated. -/
def State.reqPhys (s : State) (c : Ctx) (r : Req) : List (Nat × Nat × Nat) :=
  (s.reach c r).filterMap (fun (asid, va, n, _) => match r.fixedAt va with
    | some t => some (0, s.routed t.pa, n)
    | none => (s.paOf asid va).map (fun x => (0, x.1, n)))

/-- Lanes of one store or atomic that reach the same physical bytes through different pointers go in ascending lane order (R98, R285). The
pointers of the earlier lanes are translated first. -/
def State.aliasHold (s : State) (c : Ctx) (id : Nat) (r : Req) : State × Bool :=
  if !r.kind.writes ∨ !(r.space ≤ 3 ∨ r.space = 7 ∨ r.space = 8) then (s, false)
  else
    let mates := s.issueMates c id r
    if mates = [] then (s, false)
    else
      let s := (mates.map (·.2) ++ [r]).foldl (fun s q => s.translateReq c q) s
      (s, mates.any (fun p => (s.reqPhys c p.2).any (fun a => (s.reqPhys c r).any (meet a))))

/-- The other requests of one instruction that name the same bytes through the same pointer. -/
def State.twins (s : State) (id : Nat) (r : Req) : List Nat :=
  if 3 < r.space ∧ r.space ≠ 8 then []
  else (s.ms.reqs.filter (fun p => decide (p.1 ≠ id) && p.2.cid = r.cid && p.2.space = r.space && p.2.va = r.va && p.2.size = r.size
    && (s.ctx r.cid).sameIssue id p.1)).map (·.1)

/-- What a cached walk result gives for an address. -/
def TEnt.trans (t : TEnt) (va : Nat) : Trans :=
  { pa := bits t.pte.toNat 16 36 * 2 ^ 16 + pageOff va t.lvl, key := bits t.pte.toNat 52 12, lvl := t.lvl, leafPA := t.leafPA,
    pte := t.pte.toNat, vdev := t.vdev, exp := t.exp }

/-- The translation that a request of an instruction shares with the others that use its pointer (R285). -/
def State.shareVia (s : State) (r : Req) (j : Nat) : State :=
  match s.ms.reqs.find? j with
  | none => s
  | some q =>
    let arrived := match q.arrived with | some x => some x | none => r.arrived
    let (asid, va) := match arrived with | some x => x | none => (q.asid, q.va)
    let via := match q.via, s.tlbHit asid va with
      | some t, _ => some t
      | none, some (_, t) => some (t.trans va)
      | none, none => none
    if q.open_ then s.setReq j { q with arrived := arrived, via := via } else s

/-- The fate of a request's translation shared with the others of its instruction that use the same pointer: its fault, or its
translation (R285). Each is performed by itself. -/
def State.shareFate (s : State) (id : Nat) (js : List Nat) : State :=
  match s.ms.reqs.find? id with
  | none => s
  | some r => match r.st with
    | .failed c q l x =>
      if c = .page ∨ c = .perm ∨ c = .migr then
        js.foldl (fun s j => match s.ms.reqs.find? j with
          | some p => if p.open_ then s.endReq j p (.failed c q l x) else s
          | none => s) s
      else js.foldl (fun s j => s.shareVia r j) s
    | _ => js.foldl (fun s j => s.shareVia r j) s

/-! ### HA_READ and HA_WRITE -/

/-- A thread's access served at its performing point, after those that come before it (R74, R95, R96, R98, R107): none when it has to
wait. -/
def State.serveThread (s : State) (id : Nat) (r : Req) (pace : Pace) : Option State :=
  match s.ctxs.find? r.cid with
  | none => none
  | some c =>
    if r.space = 5 ∨ s.behind c id r then none
    else if r.isReg then
      (if !r.kind.writes ∧ (rcKeep (sysOff r.va)).isSome ∧ inBlock (sysOff r.va) then none else some (s.serveReg id r))
    else if r.space = 4 ∨ r.space = 6 then s.serveBank id r c
    else if r.space = 8 ∧ !s.ownMesh r.va then none
    else
      let (s, wait) := s.aliasHold c id r
      if wait then none
      else if r.space = 8 then s.serveFab id r pace
      else let (t, x) := s.performReq c r pace; t.landReq id r x

/-- A thread's access served; those of its instruction that use the same pointer share its translation and its fate (R285). -/
def State.servePtr (s : State) (id : Nat) (r : Req) (pace : Pace) : Option State :=
  match s.serveThread id r pace with
  | none => none
  | some t => some (match s.twins id r with | [] => t | js => t.shareFate id js)

/-- An engine's, a fill's or a signal's request that has been tried: a hold, a window and a side queue are recorded. -/
def landHub (id : Nat) (r : Req) : Option (State × HaRes) → Option State
  | none => none
  | some (t, .hold g) => t.landReq id r (.hold g)
  | some (t, .window f tr line wr) => t.landReq id r (.window f tr line wr)
  | some (t, .side key) => t.landReq id r (.side key)
  | some (t, .fault _ _ _ _) => some t
  | some (t, .ok _ _) => some t

/-- An engine's request through this package's own window keeps what the windows were when it arrived (R420). -/
def State.arrive (s : State) (o : EOp) (r : Req) : Req :=
  let ptr := o.ptrOf r
  if bits ptr 60 4 = 8 ∧ s.ownMesh ptr then
    (match s.fabTo r o.dev (bits ptr 0 50) (decide (r.lane ≠ 0)) with
     | .ok x => { r with arrived := some x }
     | .error _ => r)
  else r

/-! ### Accesses that arrive from other packages (R16, R109, R420) -/

/-- The space under which an access of another package stands while it waits here. -/
def farSpace : Nat := 95

/-- The answer to another package's access: that of a write leaves once PT reaches its G (R109). -/
def State.answerFar (s : State) (a : FabReply) (g : Nat) : State := { s with lnk := { s.lnk with sent := some (a, g) } }

/-- What another package's access has come to here: its answer; none while it waits. -/
def State.farDone (s : State) (k : ReqKind) (n : Nat) : HaRes → Option State
  | .ok v g => some (s.answerFar (.done (match k with | .store _ => [] | _ => leBytes n v)) (Nat.max g s.pt))
  | .fault c q l _ => some (s.answerFar (.fault c q l) s.pt)
  | _ => none

/-- An access of another package that waited here, tried again (R49, R54, R60, R96). -/
def State.serveFar (s : State) (id : Nat) (r : Req) (pace : Pace) : Option State :=
  match s.fabPerform { asid := r.asid, va := r.va, n := r.size, priv := false, who := 2 ^ 44 + r.rank, atL := .ha, pace := pace, tc := r.tc }
      r.kind.haOp with
  | (t, x) => match t.farDone r.kind r.size x with
    | some t => some { t with ms := { t.ms with reqs := t.ms.reqs.erase id } }
    | none => match x with
      | .hold _ => s.landReq id r x
      | _ => t.landReq id r x

/-- The kind of request that another package's access is. -/
def fabReqKind (f : FabAcc) : ReqKind :=
  match f.kind with
  | .load => .load
  | .store d => .store d
  | .atomic op t d => .atomic op t (leNat d)
  | .cas c n => .cas .b128 (leNat c) (leNat n)

/-- FABRIC_ACCESS_ARRIVE (R16, R420): the access is matched with the windows, performed and answered. One that has to wait stands here as a
request: held until a G, at a pool page's HA, in a migration's window or in a throttled bank's side queue. -/
def execFabricAccessArrive (f : FabAcc) (s : State) : Out :=
  match s.fabServe f.srow f.scol f.svdev f.off (fabReq f) (fabOp f) with
  | (t, x) => match t.farDone (fabReqKind f) f.size x, s.fabMatch f.srow f.scol f.svdev f.off (fabOp f).writes with
    | some t, _ => .next t
    | none, .error _ => .next s
    | none, .ok (asid, va) =>
      let r : Req := { cid := noThreadId, lane := 0, kind := (fabReqKind f), space := farSpace, va := va, size := f.size, asid := asid,
                       dev := f.svdev, priv := false, die := 2, core := 0, rank := f.srow * 2 ^ 16 + f.scol * 2 ^ 8 + f.svdev,
                       arrived := some (asid, va), since := s.pt }
      let (s, id) := (match x with | .hold _ => s | _ => t).addReq r
      .next ((s.landReq id r x).getD s)

/-! ### Requests served -/

/-- A read request served (R74, R95, R96): none when it is not due. -/
def State.serveRead (s : State) (id : Nat) (pace : Pace) : Option State :=
  match s.ms.reqs.find? id with
  | none => none
  | some r =>
    if !s.dueReq r then none
    else match r.kind with
      | .fill key => landHub id r (s.fillLine id { r with st := .waiting } key pace)
      | .engine op =>
        (match s.eng.ops.find? op with
         | some o =>
           let r := s.arrive o r
           landHub id r (match o.kind with | .coll => s.collReadStep id op r o pace | _ => s.engReadStep id op r o pace)
         | none => none)
      | .load => if r.space = farSpace then s.serveFar id r pace else s.servePtr id r pace
      | _ => none

/-- A write request served (R74, R95, R107): none when it is not due. -/
def State.serveWrite (s : State) (id : Nat) (pace : Pace) : Option State :=
  match s.ms.reqs.find? id with
  | none => none
  | some r =>
    if !s.dueReq r then none
    else match r.kind with
      | .engine op =>
        (match s.eng.ops.find? op with
         | some o =>
           let r := s.arrive o r
           landHub id r (if r.lane = 3 then s.collSignal op r o pace else s.engWriteStep id op r o pace)
         | none => none)
      | .unpin =>
        (match s.unpinStep r with
         | (t, x) => t.landReq id r x)
      | .store _ | .atomic _ _ _ | .cas _ _ _ =>
        if r.space = sigSpace then
          (match s.sigStep r with
           | (t, .ok _ _) => some { t with ms := { t.ms with reqs := t.ms.reqs.erase id } }
           | (t, x) => t.landReq id r x)
        else if r.space = farSpace then s.serveFar id r pace
        else if r.space = kvuSpace then s.serveKvu id
        else s.servePtr id r pace
      | _ => none

/-- HA_READ (R96): a read is served at its performing point. -/
def execHaRead (id : Nat) (s : State) : Out :=
  match s.serveRead id .queue with | some t => .next t | none => .refused (.notEnabled "HA_READ")

/-- HA_WRITE (R95): a write or atomic is performed at its performing point. -/
def execHaWrite (id : Nat) (s : State) : Out :=
  match s.serveWrite id .queue with | some t => .next t | none => .refused (.notEnabled "HA_WRITE")

/-! ### Registers that clear -/

/-- ELOGLOST_READ (R65). -/
def execEloglostRead (id : Nat) (s : State) : Out := s.serveRc "ELOGLOST_READ" id (fun o => o = tierB + 0x48)

/-- QEVT_READ (R352). -/
def execQevtRead (id : Nat) (s : State) : Out :=
  s.serveRc "QEVT_READ" id (fun o => decide (schB ≤ o) && decide (o < schB + 0x4000) && (o - schB) % 0x40 = 0x28)

/-- IOVF_READ (R395). -/
def execIovfRead (id : Nat) (s : State) : Out :=
  s.serveRc "IOVF_READ" id (fun o => decide (partB + 0x10000 ≤ o) && decide (o < partB + 0x20000) && (o - partB) % 0x400 = 0x3A0)

/-- PRESTAT_READ (R372). -/
def execPrestatRead (id : Nat) (s : State) : Out :=
  s.serveRc "PRESTAT_READ" id (fun o => decide (trapB ≤ o) && decide (o < trapB + 0x2000) && (o - trapB) % 0x80 = 0x30)

/-! ### The side queue of a throttled bank (R60) -/

/-- The request at the head of a side queue, served past the throttle: none while it cannot be performed. -/
def State.serveSide (s : State) (id : Nat) (r : Req) : Option State :=
  let s := s.setReq id { r with st := .waiting }
  match (match r.kind with | .load | .fill _ => s.serveRead id .through
                           | .engine _ => (if r.lane = 0 then s.serveRead id .through else s.serveWrite id .through)
                           | _ => s.serveWrite id .through) with
  | some t => (match t.ms.reqs.find? id with
    | some q => (match q.st with | .held _ _ => none | _ => some t)
    | none => some t)
  | none => none

/-- SIDE_QUEUE_RELEASE (R60): a bank issues the oldest request of its side queue; while the throttle holds, RELEASE ticks after its last
activation, and when no request of another device waits in the bank queue. -/
def execSideQueueRelease (key : Nat) (s : State) : Out :=
  let no : Out := .refused (.notEnabled "SIDE_QUEUE_RELEASE")
  match SMap.get [] s.ms.side key with
  | [] => no
  | id :: rest =>
    if (s.ms.throttle.find? key).isSome && !s.sideOpen key then no
    else
      let t := { s with ms := { s.ms with side := SMap.set [] s.ms.side key rest } }
      match s.ms.reqs.find? id with
      | none => .next t
      | some r => (match t.serveSide id r with | some u => .next u | none => no)

/-! ### Gang peers (R15, R90) -/

/-- An earlier lane of the same store or atomic has still to reach some of the bytes in the own banks (R98, R285). -/
def State.ownBankBehind (s : State) (b : Block) (id : Nat) (r : Req) : Bool :=
  r.rank = b.rank && r.kind.writes && s.ms.reqs.any (fun p => p.1 < id && p.2.cid = r.cid && p.2.open_ && p.2.space = 4
    && (s.ctx r.cid).sameIssue p.1 id && meet (0, p.2.va, p.2.size) (0, r.va, r.size))

/-- GANG_PEER_ACCESS (R90): the access is performed at the peer's bank, after the earlier ones of its block to the same rank. -/
def execGangPeerAccess (id : Nat) (s : State) : Out :=
  match s.ms.reqs.find? id with
  | none => .refused (.notEnabled "GANG_PEER_ACCESS")
  | some r =>
    let first : Bool := s.ms.reqs.all (fun p => decide (id ≤ p.1) || p.2.fin || decide (p.2.space ≠ 5)
      || decide (blkOf p.2.cid ≠ blkOf r.cid) || decide (p.2.rank ≠ r.rank))
    if r.space ≠ 5 ∨ r.fin ∨ !first then .refused (.notEnabled "GANG_PEER_ACCESS")
    else if (match s.blk? (blkOf r.cid) with | some b => s.ownBankBehind b id r | none => false) then
      .refused (.notEnabled "GANG_PEER_ACCESS")
    else match (s.blk? (blkOf r.cid)).bind (fun b => s.peerOf b r.rank) with
      | none => .next (s.endReq id r (.done 0 s.pt))
      | some (k, b) =>
        let (b', v) := b.aspForce r.va r.size r.kind
        .next ((s.setBlk k b').endReq id r (.done v s.pt))

/-! ### Other packages (R16, R109, R282) -/

/-- A request of an engine operation answered by another package. -/
def State.engAnswer (s : State) (id op : Nat) (r : Req) (a : FabReply) : Option State :=
  match s.eng.ops.find? op with | some o => s.engReply id op r o a | none => none

/-- The answer to an access that another package serves: a load or atomic returns, a write is confirmed or refused. Only a waiting
access is answered. -/
def State.fabReply (s : State) (id : Nat) (a : FabReply) : Option State :=
  match s.ms.reqs.find? id with
  | none => none
  | some r => match r.kind, a with
    | .engine op, a => s.engAnswer id op r a
    | k, .done d =>
      if r.space ≠ 8 ∨ s.ownMesh r.va ∨ r.st ≠ .waiting ∨ s.behind (s.ctx r.cid) id r then none
      else if k.writes then some (s.setReq id { r with st := .confirmed (leNat d) 0 })
      else if d.length = r.size then some (s.endReq id r (.done (leNat d) 0)) else none
    | _, .fault c q l =>
      if r.space ≠ 8 ∨ s.ownMesh r.va ∨ r.st ≠ .waiting ∨ s.behind (s.ctx r.cid) id r then none
      else some (s.endReq id r (.failed c (remote q) l 0))

/-- The plane of a transfer of a block to another package (R363, R421): the one that the routing table of its rectangle names, else one that
a fixed hash chooses among those whose ports are up. -/
def State.planeTo (s : State) (blk : Nat) (dst : Nat × Nat) : Option Nat :=
  let g : Option Rect := ((s.blk? blk).bind (fun b => s.sch.launches.find? b.launch)).bind (fun x => x.rect)
  let row : Option (Nat × Nat × Nat) := g.bind (fun g =>
    g.table.find? (fun t => g.members[t.1]? = some s.meshPos && g.members[t.2.1]? = some dst))
  match row with
  | some t => some t.2.2
  | none => s.planesUp[Config.plane s.meshPos dst % s.planesUp.length]?

/-- The way to another package stands (R421): a port is up, and so is that of the plane that the traffic takes. -/
def State.pathUp (s : State) (blk : Nat) (dst : Nat × Nat) : Bool :=
  s.kwekorUp && (match s.planeTo blk dst with | some p => s.portUp p | none => false)

/-- The block for which a request goes to another package, and the package. -/
def State.farOf (s : State) (r : Req) : Nat × (Nat × Nat) :=
  let at_ (ptr : Nat) : Nat × Nat := (bits ptr 55 5, bits ptr 50 5)
  match r.kind with
  | .engine op => (match s.eng.ops.find? op with | some o => (o.blk, at_ (o.ptrOf r)) | none => (0, at_ 0))
  | _ => ((s.ctx r.cid).blk, at_ r.va)

/-- A port's transmission is stopped in a traffic class, since a PT not after the one given (R421). -/
def State.stoppedAt (s : State) (plane : Option Nat) (tc since : Nat) : Bool :=
  match plane with
  | some n => let k := 8 * (24 + n) + tc; SMap.get false s.lnk.stopped k && decide (SMap.get 0 s.lnk.stopAt k ≤ since)
  | none => false

/-- STOP holds a request back (R421): it was issued while its plane's port was stopped in its traffic class, and no GO has come. -/
def State.stopHolds (s : State) (r : Req) : Bool := s.stoppedAt (s.planeTo (s.farOf r).1 (s.farOf r).2) r.tc r.since

/-- The block for which a message goes to another package, and its traffic class: COLL's is 2 (R320). DESIGN CHOICE (log entry 62): the hub's
other messages are in class 0. -/
def State.msgOf (s : State) (m : PodMsg) : Option Nat × Nat :=
  let blk (c : CollId) : Option Nat := ((s.coll? c).bind (·.op)).bind (fun i => (s.eng.ops.find? i).map (·.blk))
  match m with
  | .collData c _ _ _ | .collDecision c _ | .collReady c _ | .collRequest c _ | .collRefused c _ _ => (blk c, 2)
  | _ => (none, 0)

/-- The fabric takes the oldest message that its plane's port lets go: the port is up, and transmission is not stopped in its class (R421). -/
def State.carry (s : State) : State :=
  let goes (x : (Nat × Nat) × PodMsg) : Bool :=
    let (blk, tc) := s.msgOf x.2
    let b := blk.getD (2 ^ 40)
    s.pathUp b x.1 && !s.stoppedAt (s.planeTo b x.1) tc s.pt
  { s with lnk := { s.lnk with out := match s.lnk.out.find? goes with | some x => s.lnk.out.erase x | none => s.lnk.out } }

/-- An answer from another package reaches the access: its plane's port is up, and the request could be sent. -/
def State.fabAnswer (s : State) (id : Nat) (a : FabReply) : Option State :=
  match s.ms.reqs.find? id with
  | some r => if s.pathUp (s.farOf r).1 (s.farOf r).2 && !s.stopHolds r then s.fabReply id a else none
  | none => none

/-- REMOTE_WRITE_ACK (R109): the target's PT has reached G of the write. A target that answers only now has confirmed it too; an
engine's access is answered whole. -/
def execRemoteWriteAck (id : Nat) (a : FabReply) (s : State) : Out :=
  match s.ms.reqs.find? id with
  | none => .refused (.notEnabled "REMOTE_WRITE_ACK")
  | some r =>
    match r.kind, r.st with
    | .engine _, _ => (match s.fabAnswer id a with | some t => .next t | none => .refused (.notEnabled "REMOTE_WRITE_ACK"))
    | k, .confirmed v g =>
      if k.writes ∧ (s.ownMesh r.va → g ≤ s.pt) then .next (s.endReq id r (.done v g)) else .refused (.notEnabled "REMOTE_WRITE_ACK")
    | k, _ =>
      if !k.writes then .refused (.notEnabled "REMOTE_WRITE_ACK")
      else match s.fabAnswer id a with
        | none => .refused (.notEnabled "REMOTE_WRITE_ACK")
        | some t => (match t.ms.reqs.find? id with
          | some r' => (match r'.st with | .confirmed v g => .next (t.endReq id r' (.done v g)) | _ => .next t)
          | none => .next t)

/-! ### Links that are down (R418, R421) -/

/-- The pool address that a thread's request waits for. -/
def State.poolPa (s : State) (r : Req) : Option Nat :=
  let pas : List Nat := match r.arrived with
    | some (asid, va) => ((s.paOf asid va).map (fun x => x.1)).toList
    | none => s.reqPas r
  pas.find? (fun p => region p = 2)

/-- The pool address that an operation's request waits for, with its line. -/
def State.enginePoolPa (s : State) (o : EOp) (r : Req) : Option Nat :=
  let ptr := o.ptrOf r
  let pa : Option (Nat × TEnt) := match r.arrived with
    | some (asid, va) => s.paOf asid va
    | none => if bits ptr 60 4 ≤ 3 then s.paOf o.asid (bits ptr 0 56) else none
  (pa.map (fun x => x.1)).filter (fun p => region p = 2)

/-- An operation's access to a pool line that no port reaches: a read takes the poison, a write is over (R316, R418). -/
def State.engLost (s : State) (rid id : Nat) (r : Req) (o : EOp) (pa : Nat) : State :=
  let s := s.lostLine pa o.dev
  let ptr := o.ptrOf r
  if r.lane = 3 then (s.setOp id { o with sigv := none }).engDone id none
  else if r.lane ≠ 0 then (match o.outq with
    | (off, bs, _) :: _ => s.engWrote rid id r o (o.run off bs) s.pt
    | [] => s)
  else match o.kind, s.eng.colls.find? (fun x => x.op = some id) with
    | .coll, some x => s.collFault id x (.poison, 2, 0, BitVec.ofNat 64 ptr) 0 (some (pa / 128))
    | .coll, none => s
    | _, _ => s.engTook rid id r o (List.replicate (o.chunk r.va) 0)
        (some (if bits ptr 60 4 = 8 then remote 2 else 2, some (pa / 128)))

/-- LINK_TIMEOUT (R418, R421): LTMO after it was sent, an access to another package that finds no plane raises PAGE ABSENT with
REMOTE, and a pool request that finds no port meets an uncorrectable error of its line. -/
def execLinkTimeout (id : Nat) (s : State) : Out :=
  let no : Out := .refused (.notEnabled "LINK_TIMEOUT")
  match s.ms.reqs.find? id with
  | none => no
  | some r =>
    let late : Bool := decide (r.since + s.fld (fabB + 8) 0 32 * 1024 ≤ s.pt)
    let open_ : Bool := match r.st with | .waiting | .held _ _ => true | _ => false
    if !late || !open_ then no
    else match r.kind with
      | .engine op =>
        (match s.eng.ops.find? op with
         | none => no
         | some o => match s.enginePoolPa o r with
           | some pa => if s.cxlUp then no else .next (s.engLost id op r o pa)
           | none =>
             if s.pathUp o.blk (s.farOf r).2 then no else (match s.fabReply id (.fault .page qAbsent 0) with | some t => .next t | none => no))
      | .fill key =>
        (match (s.rsds.find? key).bind (fun x => s.paOf x.asid (x.src + r.va)) with
         | some (pa, _) => if region pa ≠ 2 ∨ s.cxlUp then no else .next ((s.lostLine pa r.dev).fillTook id r key (List.replicate 128 0))
         | none => no)
      | k =>
        if r.space = 8 ∧ !s.ownMesh r.va then
          (if s.pathUp (s.farOf r).1 (s.farOf r).2 then no else .next (s.endReq id r (.failed .page (remote qAbsent) 0 0)))
        else match s.poolPa r with
          | none => no
          | some pa =>
            if s.cxlUp then no
            else
              let s := s.lostLine pa r.dev
              if r.space = farSpace then .next s else
              let q := if r.space = 8 then remote 2 else 2
              match k with
              | .store _ => .next (s.endReq id r (.done 0 s.pt))
              | _ => .next (s.endReq id r (.failed .poison q 0 (BitVec.ofNat 64 (s.poisonSeq pa))))

/-! ### Holds that end (R96, R102, R103, R106) -/

/-- A request of a thread that was held until a G that has come. -/
def State.heldDue (s : State) (cid : Nat) : Option (Nat × Req) :=
  List.find? (fun p => p.2.cid = cid && (match p.2.st with | .held g _ => decide (g ≤ s.pt) | _ => false)) s.ms.reqs

/-- RELEASE_WAIT_END (R96, R102, R106): the G has come for which a release wait, an ordered access or a held read was waiting, and it
proceeds. -/
def execReleaseWaitEnd (w : Who) (s : State) : Out :=
  let no : Out := .refused (.notEnabled "RELEASE_WAIT_END")
  match s.ctxs.find? w.cid with
  | none => no
  | some c => match c.splits.find? w.k with
    | none => no
    | some sp =>
      let go : Out := .next (s.setCtx w.cid (c.setSplit w.k { sp with wait := .none }))
      match sp.wait with
      | .release sc => if s.released c sc then go else no
      | .gate => if s.gateOf c false = none then go else no
      | _ => match s.heldDue w.cid with
        | none => no
        | some (id, r) =>
          (match (if r.kind.writes then s.serveWrite id .queue else s.serveRead id .queue) with | some t => .next t | none => no)

end Sys2Proof.Machine
end

