-- ==== Sys2Proof/Machine/Auto.lean ====
section
/-! DEFINITION. The package's own events in the order in which the model tries them, when no agenda says otherwise: what
comes first among the events that are due is left open by the spec (R92). -/

namespace Sys2Proof.Machine

/-- Results that are due. -/
def State.autoResults (s : State) : List Instr :=
  s.ctxs.flatMap (fun p => p.2.res.map (fun r => .variableLatencyResult p.1 (r.1 * 2 ^ 20)))

/-- The event that a request waits for. -/
def reqEvents (id : Nat) (r : Req) : List Instr :=
  match r.st with
  | .waiting | .held _ _ =>
    (if r.space = 5 then [.gangPeerAccess id]
     else match r.kind with
      | .load => if r.isReg then [.haRead id, .eloglostRead id, .qevtRead id, .iovfRead id, .prestatRead id] else [.haRead id]
      | .fill _ => [.haRead id]
      | .engine _ => [.haRead id, .haWrite id]
      | _ => [.haWrite id]) ++ [.linkTimeout id]
  | .confirmed _ _ => [.remoteWriteAck id (.done [])]
  | _ => []

/-- Requests and their confirmation (R74, R282). -/
def State.autoReqs (s : State) : List Instr :=
  s.ms.reqs.flatMap (fun p => reqEvents p.1 p.2)
    ++ s.ctxs.flatMap (fun p => p.2.splits.flatMap (fun q => match q.2.wait with
      | .confirm _ => [.accessConfirm ⟨p.1, q.1⟩]
      | .join _ _ => [.joinTimeout ⟨p.1, q.1⟩]
      | _ => []))
    ++ s.ms.side.map (fun p => .sideQueueRelease p.1)
    ++ (s.ms.counters.filter (fun p => decide (p.2.2 + 2 ^ 19 ≤ s.pt))).map (fun p => .counterWriteback p.1)

/-- Engines, collectives, residencies and KV tables. -/
def State.autoHub (s : State) : List Instr :=
  s.eng.ops.flatMap (fun p => .engineCountOut p.1 :: (List.range p.2.cmds.length).map (fun i => .nvmeTimeout p.1 i))
    ++ s.eng.colls.flatMap (fun x => (if x.op.isSome ∧ x.rank = 0 then
          (match x.abort with | some q => [.collAbortDecision x.id q] | none => [.collCommit x.id]) else [])
        ++ [.collDeadline x.id, .collNodecision x.id])
    ++ s.rsds.flatMap (fun p =>
      [.fillComplete (p.1 / 65536) (p.1 % 65536), .rebuildComplete (p.1 / 65536) (p.1 % 65536), .rdtMirrorWrite (p.1 / 65536) (p.1 % 65536)])
    ++ s.kv.upds.map (fun u => .kvUpdate ⟨u.cid, u.k⟩)
    ++ (List.range s.kv.quar.length).map .quarantineRelease

/-- Migration and the pool. -/
def State.autoMig (s : State) : List Instr :=
  (if s.mig.hints.isEmpty then [] else [.migAccept]) ++ (if s.mig.waiting.isEmpty then [] else [.pinRetry])
    ++ s.mig.fwd.flatMap (fun p => [.chunkCopy p.1, .catchSwap p.1, .catchTimeout p.1, .catchRetry p.1, .migRetire p.1])
    ++ s.mig.facts.map (fun p => .handoverCommit (2 ^ 33 + p.1)) ++ [.handoverTimeout]

/-- What a rectangle launch has the home do with itself as a member: its claim and its route report (R363). -/
def State.autoRect (s : State) (l : Nat) (x : Launch) : List Instr :=
  match x.rect with
  | none => []
  | some g =>
    let (row, col) := s.meshPos
    (if s.claimsSelf l then [.rectClaim { row := row, col := col, id := l, queue := x.queue, lindex := x.lindex, vdev := x.dev,
                                          prio := x.prio, record := g.bytes }] else [])
    ++ ((List.range g.members.length).filter (fun m => g.members[m]? = some (row, col))).map
        (fun m => .rectRouteReport l m (s.routesGood m g.table))

/-- Queues, launches, blocks and segments. -/
def State.autoSched (s : State) : List Instr :=
  let qs := (List.range 256).filter (fun q => s.fld (qreg q 0) 0 1 = 1)
  qs.flatMap (fun q => [.launchTake q, .tailWatch q])
    ++ s.sch.launches.flatMap (fun p => s.autoRect p.1 p.2 ++ [.rectStart p.1, .blockStart p.1])
    ++ s.sch.launches.flatMap (fun p => match p.2.rect with
      | some g => (List.range g.members.length).map (fun m => .rectClaimTimeout p.1 m) | none => [])
    ++ s.blocks.flatMap (fun p => [.blockRetire p.1, .saveComplete p.1, .blockResume p.1])
    ++ (s.ctxs.filter (fun p => p.2.rgrow.isSome)).flatMap (fun p => [.rgrowGrant p.1, .rgrowDeny (s.coreOf p.1)])
    ++ s.sch.frag.flatMap (fun p => match s.sch.launches.find? p.1 with
      | some x => (s.fragCores x).map .segmentRelocation | none => [])
    ++ (List.range 40).map .sliceEnd ++ s.sch.pre.map (fun p => .preemptDeadline p.1) ++ [.oppStable 0, .oppStable 1]

/-- Traps, partition commands and host threads. -/
def State.autoSys (s : State) : List Instr :=
  (match s.mgmt.busy with | some (7, none) => [.update none] | _ => []) ++ (s.trp.held.map (fun h => h.slot)).dedup.map .heldRecordEnter ++ s.trp.wins.map (fun p => .twBindComplete p.1)
    ++ s.part.rc.map (fun p => .reconfigDone p.1) ++ s.part.htDone.map (fun p => .htcmdStopDone p.1)
    ++ (s.ctxs.filter (fun p => p.1 < 96)).flatMap (fun p => [.htcmdStopDone p.1, .halarmExpiry p.1])

/-- The events to try, in order. None of them can always happen again: what only the environment brings is not among them. -/
def State.autoEvents (s : State) : List Instr := s.autoResults ++ s.autoReqs ++ s.autoHub ++ s.autoMig ++ s.autoSched ++ s.autoSys

/-- The first event of a list that is possible, performed. -/
def tryEvents (ex : Instr → State → Out) (s : State) : List Instr → Option Out
  | [] => none
  | i :: is => match ex i s with
    | .next t => some (.next t)
    | _ => tryEvents ex s is

/-- The events in the order in which this tick tries them: the list begins elsewhere at each tick, so that no event that comes
again keeps another from coming. -/
def State.dueOrder (s : State) : List Instr :=
  let es := s.autoEvents
  let n := s.pt % es.length
  es.drop n ++ es.take n

/-- The step of a package that follows its own order: a due event or a turn of the next thread, else nothing; which of the two comes
first alternates from tick to tick. -/
def State.autoStep (ex : Instr → State → Out) (s : State) : Out :=
  let s := s.endHolds ex
  if s.pt % 2 = 0 then
    (match tryEvents ex s s.dueOrder with
     | some r => r
     | none => match s.pick with
       | some (cid, k) => s.runThread ex cid k
       | none => .next s)
  else
    (match s.pick with
     | some (cid, k) => s.runThread ex cid k
     | none => (tryEvents ex s s.dueOrder).getD (.next s))

/-- A register event or command that an access has caused; one that has become impossible is dropped. -/
def State.doTodo (ex : Instr → State → Out) (s : State) (i : Instr) : Out :=
  match ex i s with
  | .next t => .next t
  | _ => .next s

/-- A join.t that has expired: an arrival in a later cycle finds it gone (R167). -/
def Split.lapsed (sp : Split) (pt : Nat) : Bool := match sp.wait with | .join _ (some (g, _, _)) => decide (g < pt) | _ => false

/-- What a rule gives no more time: a catch that has to end (R49), a catch that is swapped while a held write's translation lasts (R114), a
held write whose translation ends (R114), a counter to be written back (R40), a join.t that has expired (R167). -/
def State.overdue (s : State) : List Instr :=
  let catching := s.mig.fwd.filter (fun p => decide (p.2.st = .catching))
  (catching.filter (fun p => decide (p.2.catchAt + 6000 ≤ s.pt))).map (fun p => .catchTimeout p.1)
  ++ (catching.filter (fun p => decide (s.pt < p.2.catchAt + 6000) && s.leaseEnds p.2)).map (fun p => .catchSwap p.1)
  ++ (s.ms.reqs.filter (fun p => s.dueReq p.2 && p.2.fixed.any (fun t => decide (t.2.exp ≤ s.pt + 100)))).map (fun p => .haWrite p.1)
  ++ (s.ms.counters.filter (fun p => decide (p.2.2 + 2 ^ 20 ≤ s.pt))).map (fun p => .counterWriteback p.1)
  ++ s.ctxs.flatMap (fun p => if s.onCore p.2 then (p.2.splits.filter (·.2.lapsed s.pt)).map (fun q => .joinTimeout ⟨p.1, q.1⟩) else [])

/-- Events performed one after the other, those that are not possible left out. -/
def doAll (ex : Instr → State → Out) (s : State) (is : List Instr) : State :=
  is.foldl (fun s i => match ex i s with | .next t => t | _ => s) s

/-- A turn of the agenda (R92, R364). -/
def State.turn (ex : Instr → State → Out) (s : State) : Turn → Out
  | .event i => ex i s
  | .issue cid k => s.runThread ex cid k
  | .idle => .next s
  | .reply id r => .next ((s.fabAnswer id r).getD s)
  | .carry => .next s.carry
  | .rectAnswer l c => .next (s.rectAnswer l c)
  | .rectRoutes row col id table => .next (s.rectRoutes row col id table)
  | .rectRelease row col id => .next (s.rectRelease row col id)
  | .rectKill l => .next (s.rectKill l)
  | .collSpoil c => .next (s.collSpoil c)
  | .collRefused c cause qual => .next (s.collRefusal c cause qual)
  | .peerTrap f => .next (s.peerTrap f)
  | .peerTresume token mode mask g => .next (s.peerTresume token mode mask g)
  | .peerFault row col vdev hthr time => .next (s.peerFault row col vdev hthr time)
  | .peerBind row col n token => .next (s.peerBind row col n token)
  | .peerWrite row col n off val => .next (s.peerWrite row col n off val)
  | .peerRead row col n off => .next (s.peerRead row col n off)
  | .peerWindow win stat => .next (s.peerWindow win stat)
  | .margin monitor value => .next (s.noteMargin monitor value)

/-- A step of a package that runs, with what it would do next: all events that a rule gives no more time come before it. -/
def State.runStep (ex : Instr → State → Out) (s : State) (next : State → Out) : Out :=
  match tryEvents ex s s.overdue with
  | some _ => .next (doAll ex s s.overdue)
  | none => next s

/-- What can happen while every clock stands still, or while the package is off (R384, R385, R423, R429): the management controller's
commands and what the outside does to it, and a port that goes down. -/
def untimed : Power → Instr → Bool
  | .run, _ => true
  | .off, i => (match i with | .coldReset => true | _ => false)
  | .frozen, i => match i with
    | .mgmtRequest _ | .identity _ | .cert _ | .freeze | .thaw | .scan _ _ | .coldresetCmd | .update _ | .commit | .key0 _ | .setcfg _
    | .coldReset | .thermtrip | .powerLoss => true
    | .linkStateChange _ _ speed => speed = 0
    | _ => false

/-- A step of a package whose clocks stand still, or that is off: the first command, else the first event of the agenda, that can happen
then. All else waits: what peers send among it (R385). -/
def State.stillStep (ex : Instr → State → Out) (s : State) : Out :=
  match s.todo.find? (untimed s.pwr) with
  | some i => { s with todo := s.todo.erase i }.doTodo ex i
  | none =>
    match s.agenda.findSome? (fun t => match t with | .event i => if untimed s.pwr i then some i else none | _ => none) with
    | some i => ex i { s with agenda := s.agenda.erase (.event i) }
    | none => .next s

/-- A step over a meaning of the instructions (R92, R384): what a performed access or a management request has caused comes first, in no
time; then, a tick on, what is overdue, then the agenda, then the package's own order. -/
def State.stepWith (ex : Instr → State → Out) (s : State) : Out :=
  match s.pwr, s.todo, s.agenda with
  | .frozen, _, _ | .off, _, _ => s.stillStep ex
  | .run, i :: rest, _ => { s with todo := rest }.doTodo ex i
  | .run, [], t :: rest => s.tick.runStep ex (fun s => ({ s with agenda := rest }).turn ex t)
  | .run, [], [] => s.tick.runStep ex (State.autoStep ex)

/-! ### An instruction placed where the next step fetches -/

/-- A fetch line that holds a word in one slot, nop in the others, with every slot a target, line flag A f0 and B f1, and its
parity. -/
def placedLine (w slot : Nat) : List Byte :=
  let nop := 0x821C00000000000000000000
  let body := (List.range 5).flatMap (fun i => leBytes 12 (if i = slot then w else nop))
  let lw := 0x01 + 0x1F * 2 ^ 20
  let par := parityOf (body ++ leBytes 4 lw)
  body ++ leBytes 4 (lw + par * 2 ^ 28)

/-- The line placed, live, in the instruction cache of the thread's core (R69). -/
def State.placeLine (s : State) (cid : Nat) (c : Ctx) (pc : BitVec 64) (w : Nat) : State :=
  (s.addCopy { lvl := .ic, unit := s.coreOf cid, asid := c.asid, va := pc.toNat / 64 * 64 % 2 ^ 56,
               data := placedLine w ((slotOf pc).getD 0), bad := false, exp := s.pt + 65536 }).1

/-- A block of one group for an instruction that no host thread may hold: block 0 on core 0 of cluster 0, of device 0, with
eight granules for its group and all that a core can grant a block. -/
def placedBlock : Block :=
  { launch := 0, num := 0, gang := 0, gsize := 1, rank := 0, lead := 0, cluster := 0, core := 0, ngrp := 1, gext := 32,
    vgran := 8, aspk := 384, acst := 8, asid := 0, dev := 0, queue := 0, lindex := 0, tree := some {} }

/-- A group of 32 lanes or a cox at address 0. -/
def placedCtx (st : Stream) : Ctx :=
  { stream := st, alive := if st = .lane then 0xFFFFFFFF else 1,
    splits := [(0, { pc := 0, mask := if st = .lane then 0xFFFFFFFF else 1 })] }

/-- The stream in which a word is placed: a host thread's where that profile holds it, else a group's, else a cox's
(R197). -/
def placedStream (i : Instr) : Stream := if i.streamOk .host then .host else if i.streamOk .lane then .lane else .cox

/-- The thread that the next step runs, made if it is not there. -/
def State.withThread (s : State) (st : Stream) : State × Nat :=
  match st with
  | .host =>
    let c := s.ctx 0
    (s.setCtx 0 { c with stream := .host, alive := 1, splits := [(0, { pc := 0, mask := 1 })], priv := true }, 0)
  | st =>
    let key := if st = .lane then ctxKey 0 0 else coxKey 0
    ((s.setBlk 0 placedBlock).setCtx key (placedCtx st), key)

/-- The state in which the next step fetches an instruction word and runs it. -/
def State.withWord (s : State) (w : Nat) : State :=
  match decodeBytes (leBytes 12 w) with
  | .ok (i, _) =>
    let (s, cid) := s.withThread (placedStream i)
    let s := s.placeLine cid (s.ctx cid) 0 w
    { s with agenda := [.issue cid 0], todo := [], pwr := .run }
  | .error _ =>
    let (s, cid) := s.withThread .host
    let s := s.placeLine cid (s.ctx cid) 0 w
    { s with agenda := [.issue cid 0], todo := [], pwr := .run }

end Sys2Proof.Machine
end

