-- ==== Sys2Proof/Machine/Errors.lean ====
section
/-! DEFINITION. Memory controllers (R60, R62 to R64): refresh windows, corrections, the scrubber and uncorrectable errors. -/

namespace Sys2Proof.Machine

/-- Controllers are numbered 64 × tier + controller; whether one exists (R34). -/
def isCtl (ctl : Nat) : Bool := decide (ctl < 24) || (decide (64 ≤ ctl) && decide (ctl < 80))

/-- A line of HBM4E or LPDDR6 (R62). -/
def State.dramLine (s : State) (pa : Nat) : Bool := decide (region pa < 2) && s.populated (pa / 128 * 128) 128

/-- REFRESH_WINDOW_END (R60): the controller's counts start anew and its throttles lift; what waited in side queues goes on. -/
def execRefreshWindowEnd (ctl : Nat) (s : State) : Out :=
  if !isCtl ctl then .refused (.notEnabled "REFRESH_WINDOW_END")
  else
    let m := s.ms
    let mine (key : Nat) : Bool := key / 64 / 2 ^ 32 = ctl
    let ids := (m.side.filter (fun p => mine p.1)).flatMap (·.2)
    let reqs := m.reqs.map (fun p => if ids.contains p.1 then (p.1, { p.2 with st := .waiting }) else p)
    .next { s with ms := { m with rows := m.rows.filter (fun k => k / 64 / 2 ^ 64 ≠ ctl),
                                  throttle := m.throttle.filter (fun p => !mine p.1), side := m.side.filter (fun p => !mine p.1),
                                  sideAt := m.sideAt.filter (fun p => !mine p.1), reqs := reqs } }

/-- A core's corrections are counted under 4096 + core (R132). -/
def isCoreCtl (ctl : Nat) : Bool := decide (4096 ≤ ctl ∧ ctl < 4096 + 320)

/-- CORRECTABLE_ERROR (R62, R132): the controller counts a correction and logs each 256th; a corrected cell or buffer word is counted with
the core's other corrections. DESIGN CHOICE (log entry 87): a core's count is kept without a limit and logs nothing. -/
def execCorrectableError (ctl pa : Nat) (s : State) : Out :=
  if isCoreCtl ctl then .next { s with ms := { s.ms with corr := SMap.set 0 s.ms.corr ctl (SMap.get 0 s.ms.corr ctl + 1) } }
  else if !isCtl ctl || !s.dramLine pa then .refused (.notEnabled "CORRECTABLE_ERROR")
  else
    let n := SMap.get 0 s.ms.corr ctl + 1
    let put (s : State) (n : Nat) : State := { s with ms := { s.ms with corr := SMap.set 0 s.ms.corr ctl n } }
    .next (if n = 256 then (put s 0).errorLog pa 3 0x7F |>.1 else put s n)

/-- PATROL_SCRUB (R62 to R64): the scrubber reads a line; what it cannot correct is poisoned. -/
def execPatrolScrub (pa : Nat) (bad : Bool) (s : State) : Out :=
  if !s.dramLine pa then .refused (.notEnabled "PATROL_SCRUB")
  else .next (if bad && !s.poisoned (pa / 128) then s.poisonLine pa 1 0x7F else s)

/-- UNCORRECTABLE_ERROR (R63, R64): the first detection of an error that cannot be corrected, by a read of a device or reported as
poison by a pool device. -/
def execUncorrectableError (pa vdev cls : Nat) (s : State) : Out :=
  let fits : Bool := if region pa = 2 then cls = 0 || cls = 2 else cls = 0
  if !s.populated (pa / 128 * 128) 128 || s.poisoned (pa / 128) || !fits || !(decide (vdev < 64) || vdev = 0x7F) then
    .refused (.notEnabled "UNCORRECTABLE_ERROR")
  else .next (s.poisonLine pa cls vdev)

end Sys2Proof.Machine
end

