-- ==== Sys2Proof/Machine/Dispatch.lean ====
section
/-! DEFINITION. One arm for each operation and event: its meaning, or its rejection by name. -/

namespace Sys2Proof.Machine

/-- The meaning of an instruction, for the thread that issues, or of an event. -/
def exec (i : Instr) (s : State) : Host.Outcome State Fault Refusal :=
  match i with
  | .add o t sat => Sys2Proof.Machine.execAdd o t sat s
  | .sub o t sat => Sys2Proof.Machine.execSub o t sat s
  | .mul o t sat => Sys2Proof.Machine.execMul o t sat s
  | .mulhi o t => Sys2Proof.Machine.execMulhi o t s
  | .mad o t sat => Sys2Proof.Machine.execMad o t sat s
  | .div o t => Sys2Proof.Machine.execDiv o t s
  | .rem o t => Sys2Proof.Machine.execRem o t s
  | .min o t => Sys2Proof.Machine.execMin o t s
  | .max o t => Sys2Proof.Machine.execMax o t s
  | .abs o t sat => Sys2Proof.Machine.execAbs o t sat s
  | .neg o t sat => Sys2Proof.Machine.execNeg o t sat s
  | .and o t => Sys2Proof.Machine.execAnd o t s
  | .or o t => Sys2Proof.Machine.execOr o t s
  | .xor o t => Sys2Proof.Machine.execXor o t s
  | .not o t => Sys2Proof.Machine.execNot o t s
  | .shl o t => Sys2Proof.Machine.execShl o t s
  | .shr o t => Sys2Proof.Machine.execShr o t s
  | .sar o t => Sys2Proof.Machine.execSar o t s
  | .rol o t => Sys2Proof.Machine.execRol o t s
  | .ror o t => Sys2Proof.Machine.execRor o t s
  | .bfx o t => Sys2Proof.Machine.execBfx o t s
  | .bfi o t => Sys2Proof.Machine.execBfi o t s
  | .popc o t => Sys2Proof.Machine.execPopc o t s
  | .clz o t => Sys2Proof.Machine.execClz o t s
  | .ctz o t => Sys2Proof.Machine.execCtz o t s
  | .brev o t => Sys2Proof.Machine.execBrev o t s
  | .sel o t => Sys2Proof.Machine.execSel o t s
  | .mov o t => Sys2Proof.Machine.execMov o t s
  | .lea o t sh => Sys2Proof.Machine.execLea o t sh s
  | .cmp o t cc => Sys2Proof.Machine.execCmp o t cc s
  | .pand o nb => Sys2Proof.Machine.execPand o nb s
  | .por o nb => Sys2Proof.Machine.execPor o nb s
  | .pxor o nb => Sys2Proof.Machine.execPxor o nb s
  | .pnot o => Sys2Proof.Machine.execPnot o s
  | .ixset o => Sys2Proof.Machine.execIxset o s
  | .ixinc o => Sys2Proof.Machine.execIxinc o s
  | .ixget o => Sys2Proof.Machine.execIxget o s
  | .rgrow o => Sys2Proof.Machine.execRgrow o s
  | .rshrink o => Sys2Proof.Machine.execRshrink o s
  | .fadd o t rm => Sys2Proof.Machine.execFadd o t rm s
  | .fsub o t rm => Sys2Proof.Machine.execFsub o t rm s
  | .fmul o t rm => Sys2Proof.Machine.execFmul o t rm s
  | .ffma o t rm => Sys2Proof.Machine.execFfma o t rm s
  | .fmin o t => Sys2Proof.Machine.execFmin o t s
  | .fmax o t => Sys2Proof.Machine.execFmax o t s
  | .fabs o t => Sys2Proof.Machine.execFabs o t s
  | .fneg o t => Sys2Proof.Machine.execFneg o t s
  | .fcmp o t cc => Sys2Proof.Machine.execFcmp o t cc s
  | .fcvt o t src rm q => Sys2Proof.Machine.execFcvt o t src rm q s
  | .fcvti o t src rm q => Sys2Proof.Machine.execFcvti o t src rm q s
  | .icvtf o t src rm q => Sys2Proof.Machine.execIcvtf o t src rm q s
  | .frnd o t rm => Sys2Proof.Machine.execFrnd o t rm s
  | .fclass o t => Sys2Proof.Machine.execFclass o t s
  | .frcp o t => Sys2Proof.Machine.execFrcp o t s
  | .frsqrt o t => Sys2Proof.Machine.execFrsqrt o t s
  | .fsqrt o t rm => Sys2Proof.Machine.execFsqrt o t rm s
  | .fexp2 o t => Sys2Proof.Machine.execFexp2 o t s
  | .flog2 o t => Sys2Proof.Machine.execFlog2 o t s
  | .fsin o t => Sys2Proof.Machine.execFsin o t s
  | .fcos o t => Sys2Proof.Machine.execFcos o t s
  | .ftanh o t => Sys2Proof.Machine.execFtanh o t s
  | .fdiv o t rm => Sys2Proof.Machine.execFdiv o t rm s
  | .hadd o sat => Sys2Proof.Machine.execHadd o sat s
  | .hsub o sat => Sys2Proof.Machine.execHsub o sat s
  | .hmul o sat => Sys2Proof.Machine.execHmul o sat s
  | .hmad o sat => Sys2Proof.Machine.execHmad o sat s
  | .hmin o => Sys2Proof.Machine.execHmin o s
  | .hmax o => Sys2Proof.Machine.execHmax o s
  | .hsar o rnd => Sys2Proof.Machine.execHsar o rnd s
  | .hclamp o => Sys2Proof.Machine.execHclamp o s
  | .pxunpk o w => Sys2Proof.Machine.execPxunpk o w s
  | .pxpack o w => Sys2Proof.Machine.execPxpack o w s
  | .perm o t m => Sys2Proof.Machine.execPerm o t m s
  | .lmask o m => Sys2Proof.Machine.execLmask o m s
  | .lgrp o t m => Sys2Proof.Machine.execLgrp o t m s
  | .lred o t op => Sys2Proof.Machine.execLred o t op s
  | .lpre o t op => Sys2Proof.Machine.execLpre o t op s
  | .kaclr o => Sys2Proof.Machine.execKaclr o s
  | .kaadd o => Sys2Proof.Machine.execKaadd o s
  | .kamad o => Sys2Proof.Machine.execKamad o s
  | .karead o t rm => Sys2Proof.Machine.execKaread o t rm s
  | .kast o ord sc => Sys2Proof.Machine.execKast o ord sc s
  | .kald o ord sc => Sys2Proof.Machine.execKald o ord sc s
  | .kaaddm o ord sc => Sys2Proof.Machine.execKaaddm o ord sc s
  | .ld o t ord sc => Sys2Proof.Machine.execLd o t ord sc s
  | .st o t ord sc => Sys2Proof.Machine.execSt o t ord sc s
  | .atom o t op ord sc => Sys2Proof.Machine.execAtom o t op ord sc s
  | .red o t op ord sc => Sys2Proof.Machine.execRed o t op ord sc s
  | .cas o w ord sc => Sys2Proof.Machine.execCas o w ord sc s
  | .fence o ord sc => Sys2Proof.Machine.execFence o ord sc s
  | .prefetch o lv => Sys2Proof.Machine.execPrefetch o lv s
  | .waitAc o ac => Sys2Proof.Machine.execWaitAc o ac s
  | .accLd o t rm => Sys2Proof.Machine.execAccLd o t rm s
  | .bra o tgt j => Sys2Proof.Machine.execBra o tgt j s
  | .brx o j => Sys2Proof.Machine.execBrx o j s
  | .call o tgt => Sys2Proof.Machine.execCall o tgt s
  | .callx o => Sys2Proof.Machine.execCallx o s
  | .ret o => Sys2Proof.Machine.execRet o s
  | .join o => Sys2Proof.Machine.execJoin o s
  | .joinT o => Sys2Proof.Machine.execJoinT o s
  | .exit o => Sys2Proof.Machine.execExit o s
  | .nop o => Sys2Proof.Machine.execNop o s
  | .mma o fa fb tile z => Sys2Proof.Machine.execMma o fa fb tile z s
  | .mmas o fa fb tile z mx => Sys2Proof.Machine.execMmas o fa fb tile z mx s
  | .mmx o fa fb tile z => Sys2Proof.Machine.execMmx o fa fb tile z s
  | .mmt o fa fb tile z => Sys2Proof.Machine.execMmt o fa fb tile z s
  | .accClr o tiles => Sys2Proof.Machine.execAccClr o tiles s
  | .accIn o t tile => Sys2Proof.Machine.execAccIn o t tile s
  | .accOut o t rm tile => Sys2Proof.Machine.execAccOut o t rm tile s
  | .accCvt o kd rm tile sh => Sys2Proof.Machine.execAccCvt o kd rm tile sh s
  | .mrpRd o => Sys2Proof.Machine.execMrpRd o s
  | .mrpWr o => Sys2Proof.Machine.execMrpWr o s
  | .rsdAlloc o => Sys2Proof.Machine.execRsdAlloc o s
  | .rsdLoad o shard => Sys2Proof.Machine.execRsdLoad o shard s
  | .rsdPin o => Sys2Proof.Machine.execRsdPin o s
  | .rsdUnpin o => Sys2Proof.Machine.execRsdUnpin o s
  | .rsdFree o => Sys2Proof.Machine.execRsdFree o s
  | .rsdQuery o => Sys2Proof.Machine.execRsdQuery o s
  | .treeClr o => Sys2Proof.Machine.execTreeClr o s
  | .treeAdd o => Sys2Proof.Machine.execTreeAdd o s
  | .treeMask o => Sys2Proof.Machine.execTreeMask o s
  | .treePos o => Sys2Proof.Machine.execTreePos o s
  | .treeAccept o => Sys2Proof.Machine.execTreeAccept o s
  | .treePrune o => Sys2Proof.Machine.execTreePrune o s
  | .treeRd o => Sys2Proof.Machine.execTreeRd o s
  | .kvFind o => Sys2Proof.Machine.execKvFind o s
  | .kvInsert o => Sys2Proof.Machine.execKvInsert o s
  | .kvDelete o => Sys2Proof.Machine.execKvDelete o s
  | .cpy o chg => Sys2Proof.Machine.execCpy o chg s
  | .cpy2d o chg e => Sys2Proof.Machine.execCpy2d o chg e s
  | .dcx o chg f e => Sys2Proof.Machine.execDcx o chg f e s
  | .srd o chg => Sys2Proof.Machine.execSrd o chg s
  | .coll o chg kd op ct wcls sig e => Sys2Proof.Machine.execColl o chg kd op ct wcls sig e s
  | .launch o => Sys2Proof.Machine.execLaunch o s
  | .barArrive o n => Sys2Proof.Machine.execBarArrive o n s
  | .barWait o n => Sys2Proof.Machine.execBarWait o n s
  | .dqPush o => Sys2Proof.Machine.execDqPush o s
  | .dqPop o p => Sys2Proof.Machine.execDqPop o p s
  | .gangArrive o n => Sys2Proof.Machine.execGangArrive o n s
  | .gangWait o n => Sys2Proof.Machine.execGangWait o n s
  | .tierHint o => Sys2Proof.Machine.execTierHint o s
  | .tierPin o => Sys2Proof.Machine.execTierPin o s
  | .tierUnpin o => Sys2Proof.Machine.execTierUnpin o s
  | .tierQuery o => Sys2Proof.Machine.execTierQuery o s
  | .trap o c q => Sys2Proof.Machine.execTrap o c q s
  | .svc o n => Sys2Proof.Machine.execSvc o n s
  | .brk o n => Sys2Proof.Machine.execBrk o n s
  | .tresume o e => Sys2Proof.Machine.execTresume o e s
  | .wrpriv o num => Sys2Proof.Machine.execWrpriv o num s
  | .rdpriv o num => Sys2Proof.Machine.execRdpriv o num s
  | .rdctr o n => Sys2Proof.Machine.execRdctr o n s
  | .variableLatencyResult cid n => Sys2Proof.Machine.execVariableLatencyResult cid n s
  | .accessConfirm w => Sys2Proof.Machine.execAccessConfirm w s
  | .haRead id => Sys2Proof.Machine.execHaRead id s
  | .haWrite id => Sys2Proof.Machine.execHaWrite id s
  | .counterWriteback key => Sys2Proof.Machine.execCounterWriteback key s
  | .migAccept => Sys2Proof.Machine.execMigAccept s
  | .chunkCopy f => Sys2Proof.Machine.execChunkCopy f s
  | .catchSwap f => Sys2Proof.Machine.execCatchSwap f s
  | .catchTimeout f => Sys2Proof.Machine.execCatchTimeout f s
  | .catchRetry f => Sys2Proof.Machine.execCatchRetry f s
  | .migRetire f => Sys2Proof.Machine.execMigRetire f s
  | .pinRetry => Sys2Proof.Machine.execPinRetry s
  | .potcmdRequest w => Sys2Proof.Machine.execPotcmdRequest w s
  | .potcmdForce w => Sys2Proof.Machine.execPotcmdForce w s
  | .potcmdBadcmd w => Sys2Proof.Machine.execPotcmdBadcmd w s
  | .handoverCommit ppn => Sys2Proof.Machine.execHandoverCommit ppn s
  | .handoverTimeout => Sys2Proof.Machine.execHandoverTimeout s
  | .sideQueueRelease key => Sys2Proof.Machine.execSideQueueRelease key s
  | .eloglostRead id => Sys2Proof.Machine.execEloglostRead id s
  | .fillComplete vdev h => Sys2Proof.Machine.execFillComplete vdev h s
  | .rebuildComplete vdev h => Sys2Proof.Machine.execRebuildComplete vdev h s
  | .rdtMirrorWrite vdev h => Sys2Proof.Machine.execRdtMirrorWrite vdev h s
  | .rcmdRevoke w => Sys2Proof.Machine.execRcmdRevoke w s
  | .rcmdRevokeAll w => Sys2Proof.Machine.execRcmdRevokeAll w s
  | .rcmdBadcmd w => Sys2Proof.Machine.execRcmdBadcmd w s
  | .rquotaWrite w => Sys2Proof.Machine.execRquotaWrite w s
  | .kvUpdate w => Sys2Proof.Machine.execKvUpdate w s
  | .quarantineRelease n => Sys2Proof.Machine.execQuarantineRelease n s
  | .launchTake q => Sys2Proof.Machine.execLaunchTake q s
  | .tailWatch q => Sys2Proof.Machine.execTailWatch q s
  | .blockStart l => Sys2Proof.Machine.execBlockStart l s
  | .blockRetire b => Sys2Proof.Machine.execBlockRetire b s
  | .joinTimeout w => Sys2Proof.Machine.execJoinTimeout w s
  | .segmentRelocation core => Sys2Proof.Machine.execSegmentRelocation core s
  | .rgrowGrant cid => Sys2Proof.Machine.execRgrowGrant cid s
  | .rgrowDeny core => Sys2Proof.Machine.execRgrowDeny core s
  | .gangPeerAccess id => Sys2Proof.Machine.execGangPeerAccess id s
  | .remoteWriteAck id r => Sys2Proof.Machine.execRemoteWriteAck id r s
  | .engineCountOut id => Sys2Proof.Machine.execEngineCountOut id s
  | .nvmeTimeout id cmd => Sys2Proof.Machine.execNvmeTimeout id cmd s
  | .chcfgWrite w => Sys2Proof.Machine.execChcfgWrite w s
  | .collDeadline c => Sys2Proof.Machine.execCollDeadline c s
  | .collNodecision c => Sys2Proof.Machine.execCollNodecision c s
  | .qcfgWrite w => Sys2Proof.Machine.execQcfgWrite w s
  | .qevtRead id => Sys2Proof.Machine.execQevtRead id s
  | .oppStable die => Sys2Proof.Machine.execOppStable die s
  | .rectClaimTimeout l member => Sys2Proof.Machine.execRectClaimTimeout l member s
  | .rectStart l => Sys2Proof.Machine.execRectStart l s
  | .heldRecordEnter slot => Sys2Proof.Machine.execHeldRecordEnter slot s
  | .twselWrite w => Sys2Proof.Machine.execTwselWrite w s
  | .twBindComplete win => Sys2Proof.Machine.execTwBindComplete win s
  | .twWrite w => Sys2Proof.Machine.execTwWrite w s
  | .sliceEnd cl => Sys2Proof.Machine.execSliceEnd cl s
  | .saveComplete b => Sys2Proof.Machine.execSaveComplete b s
  | .blockResume b => Sys2Proof.Machine.execBlockResume b s
  | .preemptDeadline cl => Sys2Proof.Machine.execPreemptDeadline cl s
  | .reconfigCommand w => Sys2Proof.Machine.execReconfigCommand w s
  | .reconfigDone dev => Sys2Proof.Machine.execReconfigDone dev s
  | .qkill w => Sys2Proof.Machine.execQkill w s
  | .rreset w => Sys2Proof.Machine.execRreset w s
  | .ipendWrite w => Sys2Proof.Machine.execIpendWrite w s
  | .iovfRead id => Sys2Proof.Machine.execIovfRead id s
  | .prestatRead id => Sys2Proof.Machine.execPrestatRead id s
  | .halarmExpiry n => Sys2Proof.Machine.execHalarmExpiry n s
  | .keyOff w => Sys2Proof.Machine.execKeyOff w s
  | .keyXts w => Sys2Proof.Machine.execKeyXts w s
  | .keyPlain w => Sys2Proof.Machine.execKeyPlain w s
  | .keyBadcmd w => Sys2Proof.Machine.execKeyBadcmd w s
  | .htcmdStart w => Sys2Proof.Machine.execHtcmdStart w s
  | .htcmdStop w => Sys2Proof.Machine.execHtcmdStop w s
  | .htcmdSwap w => Sys2Proof.Machine.execHtcmdSwap w s
  | .htcmdBadcmd w => Sys2Proof.Machine.execHtcmdBadcmd w s
  | .htcmdStopDone n => Sys2Proof.Machine.execHtcmdStopDone n s
  | .fwinWrite w => Sys2Proof.Machine.execFwinWrite w s
  | .linkTimeout id => Sys2Proof.Machine.execLinkTimeout id s
  | .identity nonce => Sys2Proof.Machine.execIdentity nonce s
  | .cert n => Sys2Proof.Machine.execCert n s
  | .freeze => Sys2Proof.Machine.execFreeze s
  | .thaw => Sys2Proof.Machine.execThaw s
  | .scan c w => Sys2Proof.Machine.execScan c w s
  | .coldresetCmd => Sys2Proof.Machine.execColdresetCmd s
  | .update img => Sys2Proof.Machine.execUpdate img s
  | .commit => Sys2Proof.Machine.execCommit s
  | .key0 mode => Sys2Proof.Machine.execKey0 mode s
  | .setcfg rec => Sys2Proof.Machine.execSetcfg rec s
  | .registerWrite w => Sys2Proof.Machine.execRegisterWrite w s
  | .collCommit c => Sys2Proof.Machine.execCollCommit c s
  | .collAbortDecision c qual => Sys2Proof.Machine.execCollAbortDecision c qual s
  | .rectClaim r => Sys2Proof.Machine.execRectClaim r s
  | .rectRouteReport l member good => Sys2Proof.Machine.execRectRouteReport l member good s
  | .lineFetch w => Sys2Proof.Machine.execLineFetch w s
  | .translationLeaseExpiry key => Sys2Proof.Machine.execTranslationLeaseExpiry key s
  | .leaseRenewal key => Sys2Proof.Machine.execLeaseRenewal key s
  | .leaseExpiry key => Sys2Proof.Machine.execLeaseExpiry key s
  | .ownershipRequest die asid va vdev => Sys2Proof.Machine.execOwnershipRequest die asid va vdev s
  | .ownershipRecall line => Sys2Proof.Machine.execOwnershipRecall line s
  | .ownershipExpiry line => Sys2Proof.Machine.execOwnershipExpiry line s
  | .l2Eviction line => Sys2Proof.Machine.execL2Eviction line s
  | .directoryDrop line => Sys2Proof.Machine.execDirectoryDrop line s
  | .handoverRequest ppn frm => Sys2Proof.Machine.execHandoverRequest ppn frm s
  | .handoverReply ppn refused owner seq => Sys2Proof.Machine.execHandoverReply ppn refused owner seq s
  | .refreshWindowEnd ctl => Sys2Proof.Machine.execRefreshWindowEnd ctl s
  | .correctableError ctl pa => Sys2Proof.Machine.execCorrectableError ctl pa s
  | .patrolScrub pa bad => Sys2Proof.Machine.execPatrolScrub pa bad s
  | .uncorrectableError pa vdev cls => Sys2Proof.Machine.execUncorrectableError pa vdev cls s
  | .cellError vdev h => Sys2Proof.Machine.execCellError vdev h s
  | .kvLookupRestart w => Sys2Proof.Machine.execKvLookupRestart w s
  | .nvmeCompletion id cmd status data => Sys2Proof.Machine.execNvmeCompletion id cmd status data s
  | .collData c rank m => Sys2Proof.Machine.execCollData c rank m s
  | .collReady c rank => Sys2Proof.Machine.execCollReady c rank s
  | .collAbortRequest c qual => Sys2Proof.Machine.execCollAbortRequest c qual s
  | .rectMemberRetire l member => Sys2Proof.Machine.execRectMemberRetire l member s
  | .fabricAccessArrive f => Sys2Proof.Machine.execFabricAccessArrive f s
  | .flowStop port tc => Sys2Proof.Machine.execFlowStop port tc s
  | .flowGo port tc => Sys2Proof.Machine.execFlowGo port tc s
  | .linkStateChange port width speed => Sys2Proof.Machine.execLinkStateChange port width speed s
  | .laneMarginRemove port => Sys2Proof.Machine.execLaneMarginRemove port s
  | .thermalStep die => Sys2Proof.Machine.execThermalStep die s
  | .thermtrip => Sys2Proof.Machine.execThermtrip s
  | .coldReset => Sys2Proof.Machine.execColdReset s
  | .tftpRetry img => Sys2Proof.Machine.execTftpRetry img s
  | .mgmtRequest r => Sys2Proof.Machine.execMgmtRequest r s
  | .releaseWaitEnd w => Sys2Proof.Machine.execReleaseWaitEnd w s
  | .powerLoss => Sys2Proof.Machine.execPowerLoss s

end Sys2Proof.Machine
end

