-- ==== Sys2Proof/Machine/Step.lean ====
section
/-! DEFINITION. The step of the package. -/

namespace Sys2Proof.Machine

/-- One step of the package. -/
def step (s : State) : Host.Outcome State Fault Refusal := s.stepWith exec

/-- The state whose next step fetches and runs the instruction with the given bits. -/
def State.withFetchWord (s : State) (nbits w : Nat) : State := s.withWord (w % 2 ^ nbits)

end Sys2Proof.Machine
end

