-- ==== Sys2Proof/Safety.lean ====
section
/-! DEFINITION. The terms in which claims speak of the machine: canonical stores, a step that goes on, an instruction that may issue
and the states in which its results have landed or are due. -/

namespace Sys2Proof.Machine

/-- Memory is in canonical form: addresses strictly rising, and no byte listed that an unlisted byte reads as. -/
abbrev Memory.wf (m : List Host.Cell) : Prop := SMap.wf (0 : Byte) m = true

/-- The step goes on. -/
def State.stepsTo (s t : State) : Prop := step s = .next t

/-- The flag that the instruction sets counts fewer than 63 results, or it sets none, as when no lane takes part (R184); a host core
has no flags (R173). -/
def Iss.flagRoom (x : Iss) : Bool :=
  decide (x.part = 0 ∨ x.c.stream = .host) || match x.flag with | some f => decide (SMap.get 0 x.c.flags f ≠ 63) | none => true

/-- The instruction may issue in the thread that `cur` names: the checks of R186 and R197 raise nothing, no read of %pt has to wait
(R93) and its flag has room (R184). -/
def State.mayIssue (s : State) (i : Instr) : Option Iss :=
  match s.thread i with
  | some x => if x.check = none ∧ s.ptWait x = none ∧ x.flagRoom = true then some x else none
  | none => none

/-- The instruction may issue, and some lane takes part (R194). -/
def State.issues (s : State) (i : Instr) : Option Iss :=
  match s.mayIssue i with
  | some x => if x.part ≠ 0 then some x else none
  | none => none

/-- The writes of a value in each lane that takes part to the destination D, w bits wide (R190, R191, R230). -/
def Iss.results (x : Iss) (w : Nat) (sgn : Bool) (v : Nat → Nat) : List RW :=
  (lanesOf x.part).flatMap (fun l => x.c.dst l w sgn x.o.d (v l))

/-- The state in which the results stand in D and the split has moved on (R185). -/
def State.lands (s : State) (x : Iss) (w : Nat) (sgn : Bool) (v : Nat → Nat) : State :=
  s.retire x (x.c.applyAll (x.results w sgn v))

/-- The state in which the results are due and the split has moved on (R184, R185). -/
def State.owes (s : State) (x : Iss) (w : Nat) (sgn : Bool) (v : Nat → Nat) : State :=
  s.pend x x.c { writes := x.results w sgn v, flag := none }

/-- The instruction's own destination covers v register n of lane l (R191, R192). -/
def Iss.covers (x : Iss) (l n : Nat) : Bool :=
  x.part.getLsbD l && x.i.slots.any (fun y => y.wr && match x.c.vreg l y.w y.op with
    | some m => decide (m ≤ n ∧ n < m + y.w / 32) | none => false)

/-- The instruction's own destination is s register n (R191). -/
def Iss.coversS (x : Iss) (n : Nat) : Bool :=
  x.i.slots.any (fun y => y.wr && match y.op with | .s m => decide (m.toNat ≤ n ∧ n < m.toNat + y.grp) | _ => false)

/-- The instruction's own destination is predicate n in lane l. -/
def Iss.coversP (x : Iss) (l n : Nat) : Bool :=
  x.part.getLsbD l && x.i.slots.any (fun y => y.wr && match y.op with | .pred m => decide (m.toNat = n) | _ => false)

/-- Instructions that compute a result for D from registers alone, available to the next instruction (R185, R229). -/
def Instr.plainResult : Instr → Bool
  | .add _ _ _ | .sub _ _ _ | .mul _ _ _ | .mulhi _ _ | .mad _ _ _ | .min _ _ | .max _ _ | .abs _ _ _ | .neg _ _ _
  | .and _ _ | .or _ _ | .xor _ _ | .not _ _ | .shl _ _ | .shr _ _ | .sar _ _ | .rol _ _ | .ror _ _ | .bfx _ _
  | .bfi _ _ | .popc _ _ | .clz _ _ | .ctz _ _ | .brev _ _ | .sel _ _ | .mov _ _ | .lea _ _ _ | .cmp _ _ _
  | .pand _ _ | .por _ _ | .pxor _ _ | .pnot _ | .ixget _ | .fmin _ _ | .fmax _ _ | .fabs _ _ | .fneg _ _
  | .fcmp _ _ _ | .fclass _ _ | .hadd _ _ | .hsub _ _ | .hmul _ _ | .hmad _ _ | .hmin _ | .hmax _ | .hsar _ _
  | .hclamp _ | .pxunpk _ _ | .pxpack _ _ => true
  | _ => false

/-- Instructions that compute a result for D from registers alone, due later (R185, R196). -/
def Instr.lateResult : Instr → Bool
  | .div _ _ | .rem _ _ | .perm _ _ _ | .lmask _ _ | .lgrp _ _ _ | .lred _ _ _ | .lpre _ _ _ | .frcp _ _
  | .frsqrt _ _ | .fexp2 _ _ | .flog2 _ _ | .fsin _ _ | .fcos _ _ | .ftanh _ _ | .rdpriv _ _ | .rdctr _ _ => true
  | _ => false

/-- The state after the lanes of split sp, which the issuing split has become, have gone to their targets: they all go one way, or the
reconvergence stack takes what their divergence pushes, its oldest entries spilled; hardware's stores are made together (R29, R30, R165,
R249). -/
def State.goesTo (s : State) (x : Iss) (c : Ctx) (sp : Split) (ws : List HwStore) (ts : List (Nat × BitVec 64))
    (j : Option (BitVec 64)) (due : List (BitVec 64)) : Option State :=
  let moved : Option (Ctx × List HwStore) :=
    match pathsOf (nextPc sp.pc) (sp.mask &&& ~~~ maskOf (ts.map (·.1))) ts with
    | [p] => some (c.setSplit x.k { (sp.moved p.1 false) with tgtDue := due.contains p.1 }, [])
    | ps => if c.stack.length + c.spilled.length + c.pushes ps j ≤ 136 then some (Ctx.spillStack 64 (c.diverge x.k sp ps j due) [])
      else none
  match moved with
  | some (d, more) => (match s.innerStores x.cid d (ws ++ more) with
    | (t, .ok d) => some (t.setCtx x.cid (Ctx.settle t.pt 64 d))
    | _ => none)
  | none => none

/-- The block of a cox whose matrix-array instruction may go on: its tiles are below ACST and there is room among the four (R286,
R288). -/
def State.matBlock (s : State) (x : Iss) (tiles : List Nat) : Option Block :=
  match s.blk? x.c.blk with
  | some b => if tiles.all (fun t => decide (t < b.acst)) ∧ x.c.matBusy < 4 then some b else none
  | none => none

/-- The end of a matrix pass whose every step was done (R297, R299): the record is clear where it named the pass, and the updates are
due. -/
def State.matDone (s : State) (x : Iss) (b : Block) (j : MJob) (us : List (Nat × MatUpd)) : State :=
  let (b0, m0) := b.startStep x.sp.pc.toNat j.tile
  let mine : Bool := b.mrpFld 64 1 = 1 && b.mrpFld 0 56 = x.sp.pc.toNat % 2 ^ 56 && b.mrpFld 65 3 = j.tile
  (if mine then s.setBlk x.c.blk b.mrpClear else s).pend x (x.c.countUp 4 (j.macs (stepsFrom j.r.m j.r.kb b0 m0).length))
    { writes := [], flag := none, mats := us, isMat := true, rsd := j.rsd }

/-- The steps of a matrix pass from where it starts (R298). -/
def MJob.runs (j : MJob) (s : State) (x : Iss) (b : Block) : State × List (Nat × MatUpd) × MaEnd :=
  j.run x b (stepsFrom j.r.m j.r.kb (b.startStep x.sp.pc.toNat j.tile).1 (b.startStep x.sp.pc.toNat j.tile).2) s [] []

/-- A block of the issuing thread, in the state in which it is no longer discardable (R382). -/
def State.spoiled (s : State) (x : Iss) : Option (State × Block) :=
  match s.blk? x.c.blk with
  | some _ => (match (s.clearDisc x.c).blk? x.c.blk with | some b => some (s.clearDisc x.c, b) | none => none)
  | none => none

/-- The rounding mode of an instruction that rounds in each lane (R215, R218). -/
def Instr.rounds : Instr → Option Rm
  | .fadd _ _ rm | .fsub _ _ rm | .fmul _ _ rm | .ffma _ _ rm | .frnd _ _ rm | .fcvt _ _ _ rm _ | .fcvti _ _ _ rm _
  | .icvtf _ _ _ rm _ | .fsqrt _ _ rm | .fdiv _ _ rm | .karead _ _ rm => some rm
  | _ => none

/-- The loads, stores and atomics of class 011, those of a KA image among them. -/
def Instr.isAccess : Instr → Bool
  | .ld _ _ _ _ | .st _ _ _ _ | .atom _ _ _ _ _ | .red _ _ _ _ _ | .cas _ _ _ _ | .kast _ _ _ | .kald _ _ _
  | .kaaddm _ _ _ => true
  | _ => false

/-- Where the next turn of split k of thread cid looks for its line: the split that holds one as it stands; one that holds none once the
line, which the core's instruction cache holds, has come to it (R69, R179). -/
def State.lineStands (u : State) (cid k : Nat) (c : Ctx) (sp : Split) (w : State) (d : Ctx) (q : Split) : Prop :=
  (sp.line ≠ none ∧ w = u ∧ d = c ∧ q = sp) ∨
    (sp.line = none ∧ (u.copyHit .ic (u.coreOf cid) c.asid (sp.pc.toNat / 64 * 64 % 2 ^ 56)).isSome = true ∧
      u.lineFetch cid k = some w ∧ w.ctxs.find? cid = some d ∧ d.splits.find? k = some q ∧ q.parked = none)

/-- The split in its line at slot n: it entered the line before, or it enters it now, all flags that the line waits for being clear
(R184); none while one is not. -/
def State.enters (w : State) (cid k n : Nat) (d : Ctx) (q : Split) (bs : List Byte) : Option (State × Ctx × Split) :=
  match q.inLine with
  | some _ => some (w, d, q)
  | none =>
    let e := d.enterAt k q (lineWord bs) n
    if d.lineReady (lineWord bs) = true then some (w.setCtx cid e, e, { q with inLine := some n }) else none

/-- The base of the table of a level that a walk comes to from table t of level l: every entry above it is served, is not hidden and is
a well-formed table pointer (R20 to R22). -/
def State.tableAt (s : State) (va : Nat) : Nat → Nat → Nat → Option Nat
  | 0, t, _ => some t
  | n + 1, t, l =>
    let e := s.physRd (t + walkIndex va l * 8) 8
    if s.poolSays (t + walkIndex va l * 8) = .serve ∧ s.walkHold (t + walkIndex va l * 8) 8 = none ∧ e % 2 = 1 ∧
      s.entryOk e l = true ∧ isLeaf e = false then s.tableAt va n (bits e 8 44 * 256) (l + 1) else none

/-- A token tree of at most 256 nodes in which every node but the root has its parent below it, accepted if the node is (R147,
R150). -/
def Tree.shape (t : Tree) : Prop :=
  t.nodes.length ≤ 256 ∧ ∀ i < t.nodes.length, 0 < i →
    (t.node i).parent < i ∧ ((t.node i).accept = true → (t.node (t.node i).parent).accept = true)

end Sys2Proof.Machine
end

