-- ==== Sys2Proof/Certificates/Slice0/Obligations.lean ====
section
/-! DEFINITION. The statements about the machine. -/

open Sys2Proof Sys2Proof.Machine

/-! ### Classes 000 to 010: results from registers -/

/-- R232: integer arithmetic reads its operands as values of the type and gives in every lane that takes part Fit of the exact
result, the high half of the product for mulhi, the lesser or the greater operand, and completes with its result in D. Fit reduces
modulo 2^W without SAT and clamps to the type's range with it. -/
def Obligations.IntegerArithmetic : Prop :=
  ∀ (s : State) (x : Iss) (o : Opr) (t : Ty) (sat : Bool),
    let a (l : Nat) : Int := intVal t t.width (x.rd s l t.width (extOf t) .a)
    let b (l : Nat) : Int := intVal t t.width (x.rd s l t.width (extOf t) .b)
    let c (l : Nat) : Int := intVal t t.width (x.rd s l t.width (extOf t) .c)
    (s.issues (.add o t sat) = some x → exec (.add o t sat) s = .next (s.lands x t.width t.signed fun l => fit t sat (a l + b l))) ∧
    (s.issues (.sub o t sat) = some x → exec (.sub o t sat) s = .next (s.lands x t.width t.signed fun l => fit t sat (a l - b l))) ∧
    (s.issues (.mul o t sat) = some x → exec (.mul o t sat) s = .next (s.lands x t.width t.signed fun l => fit t sat (a l * b l))) ∧
    (s.issues (.mad o t sat) = some x →
      exec (.mad o t sat) s = .next (s.lands x t.width t.signed fun l => fit t sat (a l * b l + c l))) ∧
    (s.issues (.mulhi o t) = some x →
      exec (.mulhi o t) s = .next (s.lands x t.width t.signed fun l => wrap t.width (a l * b l / ((2 ^ t.width : Nat) : Int)))) ∧
    (s.issues (.abs o t sat) = some x →
      exec (.abs o t sat) s = .next (s.lands x t.width t.signed fun l => fit t sat (if a l < 0 then -(a l) else a l))) ∧
    (s.issues (.neg o t sat) = some x → exec (.neg o t sat) s = .next (s.lands x t.width t.signed fun l => fit t sat (-(a l)))) ∧
    (s.issues (.min o t) = some x →
      exec (.min o t) s = .next (s.lands x t.width t.signed fun l => wrap t.width (if a l ≤ b l then a l else b l))) ∧
    (s.issues (.max o t) = some x →
      exec (.max o t) s = .next (s.lands x t.width t.signed fun l => wrap t.width (if b l ≤ a l then a l else b l))) ∧
    (t.int4 = true → ∀ i : Int,
      let lo : Int := if t.signed = true then -2 ^ (t.width - 1) else 0
      let hi : Int := if t.signed = true then 2 ^ (t.width - 1) - 1 else 2 ^ t.width - 1
      (fit t false i : Int) = i % 2 ^ t.width ∧ intVal t t.width (fit t true i) = max lo (min hi i) ∧
      (t.signed = true → intVal t t.width (fit t false (-lo)) = lo ∧ intVal t t.width (fit t true (-lo)) = hi) ∧
      (t.signed = false → i < 0 → fit t true i = 0))

/-- R233: div gives the quotient rounded towards zero and rem the remainder with the dividend's sign; a zero divisor gives an end
of the range, and the dividend. Both complete with their result due, as variable-latency instructions do. The least value divided
by −1 gives itself, with remainder 0, and the greatest value of .n32 is 0xFFFF_FFFF. -/
def Obligations.IntegerDivision : Prop :=
  ∀ (s : State) (x : Iss) (o : Opr) (t : Ty),
    let a (l : Nat) : Int := intVal t t.width (x.rd s l t.width (extOf t) .a)
    let b (l : Nat) : Int := intVal t t.width (x.rd s l t.width (extOf t) .b)
    (s.issues (.div o t) = some x → exec (.div o t) s = .next (s.owes x t.width t.signed fun l => wrap t.width
      (if b l = 0 then (if t.signed = true ∧ a l < 0 then minOf t.signed t.width else maxOf t.signed t.width)
       else (a l).tdiv (b l)))) ∧
    (s.issues (.rem o t) = some x → exec (.rem o t) s = .next (s.owes x t.width t.signed fun l => wrap t.width
      (if b l = 0 then a l else a l - b l * (a l).tdiv (b l)))) ∧
    (∀ a b : Int, b ≠ 0 → let q := a.tdiv b
      (q.natAbs = a.natAbs / b.natAbs ∧ (0 < q → (0 < a ↔ 0 < b)) ∧ (q < 0 → (0 < a ↔ b < 0))) ∧
      ((0 ≤ a → 0 ≤ a - b * q) ∧ (a ≤ 0 → a - b * q ≤ 0))) ∧
    (t.int4 = true → t.signed = true → let lo := minOf true t.width
      intVal t t.width (wrap t.width (lo.tdiv (-1))) = lo ∧ wrap t.width (lo - (-1) * lo.tdiv (-1)) = 0) ∧
    minOf true t.width = -2 ^ (t.width - 1) ∧ maxOf true t.width = 2 ^ (t.width - 1) - 1 ∧ maxOf false t.width = 2 ^ t.width - 1 ∧
    maxOf false Ty.n32.width = 0xFFFFFFFF

/-- R234: and, or, xor and not act bit by bit; shifts and rotates take the whole 32-bit count: shl and shr move zeros in, sar
copies of the top bit, and give no bit of a at a count of the width or more; rol and ror turn by the count modulo the width. -/
def Obligations.BitOperations : Prop :=
  ∀ (s : State) (x : Iss) (o : Opr) (t : Ty),
    let a (l : Nat) : Nat := x.rd s l t.width .zero .a
    let b (l : Nat) : Nat := x.rd s l t.width .zero .b
    let n (l : Nat) : Nat := x.rd s l 32 .zero .b
    (s.issues (.and o t) = some x → exec (.and o t) s = .next (s.lands x t.width t.signed fun l => a l &&& b l)) ∧
    (s.issues (.or o t) = some x → exec (.or o t) s = .next (s.lands x t.width t.signed fun l => a l ||| b l)) ∧
    (s.issues (.xor o t) = some x → exec (.xor o t) s = .next (s.lands x t.width t.signed fun l => a l ^^^ b l)) ∧
    (s.issues (.not o t) = some x →
      exec (.not o t) s = .next (s.lands x t.width t.signed fun l => 2 ^ t.width - 1 - a l)) ∧
    (s.issues (.shl o t) = some x →
      exec (.shl o t) s = .next (s.lands x t.width t.signed fun l => if n l < t.width then a l * 2 ^ n l % 2 ^ t.width else 0)) ∧
    (s.issues (.shr o t) = some x →
      exec (.shr o t) s = .next (s.lands x t.width t.signed fun l => if n l < t.width then a l / 2 ^ n l else 0)) ∧
    (s.issues (.sar o t) = some x → exec (.sar o t) s = .next (s.lands x t.width t.signed fun l => sarVal t.width (a l) (n l))) ∧
    (s.issues (.rol o t) = some x → exec (.rol o t) s = .next (s.lands x t.width t.signed fun l => rolVal t.width (a l) (n l))) ∧
    (s.issues (.ror o t) = some x → exec (.ror o t) s = .next (s.lands x t.width t.signed fun l => rorVal t.width (a l) (n l))) ∧
    (∀ w a n, 0 < w → a < 2 ^ w →
      (∀ i, (2 ^ w - 1 - a).testBit i = (decide (i < w) && !a.testBit i)) ∧
      (∀ i, (if n < w then a * 2 ^ n % 2 ^ w else 0).testBit i = (decide (n ≤ i ∧ i < w) && a.testBit (i - n))) ∧
      (∀ i, (if n < w then a / 2 ^ n else 0).testBit i = (decide (n < w) && a.testBit (i + n))) ∧
      (∀ i < w, (sarVal w a n).testBit i = if i + n < w then a.testBit (i + n) else a.testBit (w - 1)) ∧
      (∀ i < w, (rolVal w a n).testBit ((i + n) % w) = a.testBit i) ∧
      (∀ i < w, (rorVal w a n).testBit i = a.testBit ((i + n) % w)) ∧
      sarVal w a n < 2 ^ w ∧ rolVal w a n < 2 ^ w ∧ rorVal w a n < 2 ^ w)

/-- R236 to R242: field extraction and insertion, selection, moves, addresses, comparisons and predicate logic complete with their
result in D. -/
def Obligations.SelectMoveCompare : Prop :=
  ∀ (s : State) (x : Iss) (o : Opr) (t : Ty) (sh : BitVec 3) (cc : Cond) (nb : Bool),
    let p (l : Nat) : Bool := decide (x.rd s l 32 .zero .a ≠ 0)
    let q (l : Nat) : Bool := decide (x.rd s l 32 .zero .b ≠ 0) != nb
    (s.issues (.bfx o t) = some x → exec (.bfx o t) s = .next (s.lands x t.width t.signed fun l =>
      bfxVal t (x.rd s l t.width (extOf t) .a) (x.rd s l 32 .zero .b))) ∧
    (s.issues (.bfi o t) = some x → exec (.bfi o t) s = .next (s.lands x t.width t.signed fun l =>
      bfiVal t.width (x.rd s l t.width .zero .a) (x.rd s l t.width .zero .b) (x.rd s l 32 .zero .c))) ∧
    (s.issues (.sel o t) = some x → exec (.sel o t) s = .next (s.lands x t.width t.signed fun l =>
      if x.rd s l 32 .zero .c ≠ 0 then x.rd s l t.width .zero .a else x.rd s l t.width .zero .b)) ∧
    (s.issues (.mov o t) = some x → exec (.mov o t) s = .next (s.lands x t.width t.signed fun l =>
      movVal t (x.rd s l t.width (extOf t) .a))) ∧
    (s.issues (.lea o t sh) = some x → exec (.lea o t sh) s = .next (s.lands x 64 false fun l =>
      wrap 64 ((x.rd s l 64 (extOf t) .a : Int) + intVal t 32 (x.rd s l 32 (extOf t) .b) * ((2 ^ sh.toNat : Nat) : Int)))) ∧
    (s.issues (.cmp o t cc) = some x → exec (.cmp o t cc) s = .next (s.lands x 32 t.signed fun l =>
      if cc.holds (intVal t t.width (x.rd s l t.width (extOf t) .a)) (intVal t t.width (x.rd s l t.width (extOf t) .b)) = true
      then 1 else 0)) ∧
    (s.issues (.pand o nb) = some x → exec (.pand o nb) s = .next (s.lands x 32 false fun l => if (p l && q l) = true then 1 else 0)) ∧
    (s.issues (.por o nb) = some x → exec (.por o nb) s = .next (s.lands x 32 false fun l => if (p l || q l) = true then 1 else 0)) ∧
    (s.issues (.pxor o nb) = some x → exec (.pxor o nb) s = .next (s.lands x 32 false fun l => if (p l != q l) = true then 1 else 0)) ∧
    (s.issues (.pnot o) = some x → exec (.pnot o) s = .next (s.lands x 32 false fun l => if p l = true then 0 else 1))

/-- R243 to R247: index descriptors are set, moved and read, and a segment grows and shrinks, in every lane that takes part. It
rests on the model's own choices of log entry 26. -/
def Obligations.IndexAndSegments : Prop :=
  ∀ (s : State) (x : Iss) (o : Opr) (m : BitVec 2),
    (s.issues (.ixset o) = some x → o.d = .ix m → exec (.ixset o) s = .next (s.retire x ((lanesOf x.part).foldl
      (fun c l => c.wix l m.toNat (BitVec.ofNat 32 (x.rd s l 32 .zero .a))) x.c))) ∧
    (s.issues (.ixinc o) = some x → o.d = .ix m → exec (.ixinc o) s = .next (s.retire x ((lanesOf x.part).foldl
      (fun c l => c.wix l m.toNat (BitVec.ofNat 32 (ixIncVal (x.c.rix l m.toNat).toNat (x.rd s l 32 .zero .a)))) x.c))) ∧
    (s.issues (.ixget o) = some x → o.a = .ix m →
      exec (.ixget o) s = .next (s.lands x 32 false fun l => (x.c.rix l m.toNat).toNat)) ∧
    (s.issues (.rgrow o) = some x → x.c.rgrow = none →
      let want := x.rd s (lowest x.part) 32 .zero .a
      exec (.rgrow o) s = .next (
        if want ≤ x.c.seg then s.lands x 32 false (fun _ => 1)
        else if 8 < want then s.lands x 32 false (fun _ => 0)
        else s.retire x { x.c.flagUp x.flag with
          rgrow := some { want := want, part := x.part, pred := match o.d with | .pred n => n.toNat | _ => 7,
                          flag := x.flag, since := s.pt } })) ∧
    (s.issues (.rshrink o) = some x → x.c.rgrow = none →
      let want := x.rd s (lowest x.part) 32 .zero .a
      exec (.rshrink o) s = .next (
        if 1 ≤ want ∧ want < x.c.seg then s.retire x ((x.c.applyAll (x.results 32 false (fun _ => 1))).cutSegment want)
        else s.lands x 32 false (fun _ => 0)))

/-- R256 to R261: floating-point arithmetic acts on each element with one rounding from the exact result and completes with its
result in D; under stochastic rounding each lane's generator takes one step for each element (R217, R218). -/
def Obligations.FloatArithmetic : Prop :=
  ∀ (s : State) (x : Iss) (o : Opr) (t : Ty) (rm : Rm) (cc : FCond),
    let a (l : Nat) : Nat := x.rd s l t.width (extOf t) .a
    let b (l : Nat) : Nat := x.rd s l t.width (extOf t) .b
    let c (l : Nat) : Nat := x.rd s l t.width (extOf t) .c
    let n := elemsOf t
    let rounded (f : Nat → Nat → Nat → Nat → Nat) : State :=
      s.retire x ({ x.c with sr := s.srAfter x rm n }.applyAll
        (x.results t.width false fun l => onElems t f (s.us x rm n l) (a l) (b l) (c l)))
    let plain (f : Nat → Nat → Nat) : State :=
      s.lands x t.width false fun l => onElems t (fun a b _ _ => f a b) [] (a l) (b l) 0
    (s.issues (.fadd o t rm) = some x →
      exec (.fadd o t rm) s = .next (rounded fun a b _ u => t.fmt.enc rm u (sumFV rm [t.fmt.val a, t.fmt.val b]))) ∧
    (s.issues (.fsub o t rm) = some x →
      exec (.fsub o t rm) s = .next (rounded fun a b _ u => t.fmt.enc rm u (sumFV rm [t.fmt.val a, (t.fmt.val b).neg]))) ∧
    (s.issues (.fmul o t rm) = some x →
      exec (.fmul o t rm) s = .next (rounded fun a b _ u => t.fmt.enc rm u ((t.fmt.val a).mul (t.fmt.val b)))) ∧
    (s.issues (.ffma o t rm) = some x → exec (.ffma o t rm) s = .next (rounded fun a b c u =>
      t.fmt.enc rm u (sumFV rm [(t.fmt.val a).mul (t.fmt.val b), t.fmt.val c]))) ∧
    (s.issues (.frnd o t rm) = some x → exec (.frnd o t rm) s = .next (rounded fun a _ _ u => t.fmt.rnd rm u a)) ∧
    (s.issues (.fmin o t) = some x → exec (.fmin o t) s = .next (plain (t.fmt.minMax false))) ∧
    (s.issues (.fmax o t) = some x → exec (.fmax o t) s = .next (plain (t.fmt.minMax true))) ∧
    (s.issues (.fabs o t) = some x → exec (.fabs o t) s = .next (plain fun a _ => a % 2 ^ (t.fbits - 1))) ∧
    (s.issues (.fneg o t) = some x → exec (.fneg o t) s = .next (plain fun a _ => a ^^^ 2 ^ (t.fbits - 1))) ∧
    (s.issues (.fcmp o t cc) = some x → exec (.fcmp o t cc) s = .next (s.lands x 32 false fun l =>
      if cc.holds (t.fmt.val (a l)) (t.fmt.val (b l)) = true then 1 else 0)) ∧
    (s.issues (.fclass o t) = some x → exec (.fclass o t) s = .next (s.lands x 32 false fun l => t.fmt.classOf (a l)))

/-- R219, R220, R260, R261: conversions between formats, to integers and from integers complete with their result in D. -/
def Obligations.FloatConversions : Prop :=
  ∀ (s : State) (x : Iss) (o : Opr) (t src : Ty) (rm : Rm) (q : BitVec 3),
    let a (l : Nat) : Nat := x.rd s l src.width (extOf src) .a
    let put (n : Nat) (sgn : Bool) (v : Nat → Nat) : State :=
      s.retire x ({ x.c with sr := s.srAfter x rm n }.applyAll (x.results t.width sgn v))
    (s.issues (.fcvt o t src rm q) = some x → exec (.fcvt o t src rm q) s = .next (put (cvtElems t src) false fun l =>
      fcvtVal t src rm q.toNat (s.us x rm (cvtElems t src) l) (a l) (x.rd s l t.width .zero .d))) ∧
    (s.issues (.fcvti o t src rm q) = some x → exec (.fcvti o t src rm q) s = .next (put 1 t.signed fun l =>
      (src.fmt.val (if src.fbits = 16 then elemOf 16 q.toNat (a l) else a l)).toIntSat t.signed t.width rm
        ((s.us x rm 1 l).getD 0 0))) ∧
    (s.issues (.icvtf o t src rm q) = some x → src ≠ .h2 → t.fbits ≠ 16 →
      exec (.icvtf o t src rm q) s = .next (put 1 false fun l =>
        t.fmt.enc rm ((s.us x rm 1 l).getD 0 0) (FV.ofInt (intVal src src.width (a l))))) ∧
    (s.issues (.icvtf o t src rm q) = some x → src ≠ .h2 → t.fbits = 16 →
      exec (.icvtf o t src rm q) s = .next (put 1 false fun l =>
        putBits (x.rd s l 32 .zero .d) (16 * q.toNat) 16
          (t.fmt.enc rm ((s.us x rm 1 l).getD 0 0) (FV.ofInt (intVal src src.width (a l)))))) ∧
    (s.issues (.icvtf o t .h2 rm q) = some x → exec (.icvtf o t .h2 rm q) s = .next (
      s.retire x ({ x.c with sr := s.srAfter x rm 2 }.applyAll (x.results t.width false fun l =>
        let v := x.rd s l Ty.h2.width (extOf .h2) .a
        t.fmt.enc rm ((s.us x rm 2 l).getD 0 0) (FV.ofInt (sx 16 (elemOf 16 0 v)))
          + 2 ^ 16 * t.fmt.enc rm ((s.us x rm 2 l).getD 1 0) (FV.ofInt (sx 16 (elemOf 16 1 v)))))))

/-- R262: the special functions complete with their result due; fsqrt and fdiv are correctly rounded. It rests on the model's own
choices of log entry 9. -/
def Obligations.FloatSpecialFunctions : Prop :=
  ∀ (s : State) (x : Iss) (o : Opr) (t : Ty) (rm : Rm),
    let a (l : Nat) : Nat := x.rd s l t.width (extOf t) .a
    let due (f : Nat → Nat) : State := s.owes x t.width false fun l => f (a l)
    let rounded (f : Nat → Nat → FV) : State :=
      let r (l : Nat) : Nat := t.fmt.enc rm ((s.us x rm 1 l).getD 0 0) (f (a l) (x.rd s l t.width (extOf t) .b))
      s.pend x { x.c with sr := s.srAfter x rm 1 } { writes := x.results t.width false r, flag := none }
    (s.issues (.frcp o t) = some x → exec (.frcp o t) s = .next (due t.fmt.rcp)) ∧
    (s.issues (.frsqrt o t) = some x → exec (.frsqrt o t) s = .next (due t.fmt.rsqrt)) ∧
    (s.issues (.fexp2 o t) = some x → exec (.fexp2 o t) s = .next (due (specialVal .exp2))) ∧
    (s.issues (.flog2 o t) = some x → exec (.flog2 o t) s = .next (due (specialVal .log2))) ∧
    (s.issues (.fsin o t) = some x → exec (.fsin o t) s = .next (due (specialVal .sin))) ∧
    (s.issues (.fcos o t) = some x → exec (.fcos o t) s = .next (due (specialVal .cos))) ∧
    (s.issues (.ftanh o t) = some x → exec (.ftanh o t) s = .next (due (specialVal .tanh))) ∧
    (s.issues (.fsqrt o t rm) = some x → exec (.fsqrt o t rm) s = .next (rounded fun a _ => (t.fmt.val a).sqrt)) ∧
    (s.issues (.fdiv o t rm) = some x → exec (.fdiv o t rm) s = .next (rounded fun a b => (t.fmt.val a).div (t.fmt.val b)))

/-- R263, R264: the int16-pair and packed-pixel instructions act on each element and complete with their result in D. It rests on
the model's own choices of log entry 24. -/
def Obligations.PackedElements : Prop :=
  ∀ (s : State) (x : Iss) (o : Opr) (sat rnd : Bool) (w : PxW),
    let v (l : Nat) (op : Operand) : Nat := x.rd s l 32 .zero op
    let pair (f : Int → Int → Int → Nat) : State := s.lands x 32 true fun l =>
      f (sx 16 (elemOf 16 0 (v l .a))) (sx 16 (elemOf 16 0 (v l .b))) (sx 16 (elemOf 16 0 (v l .c)))
        + 2 ^ 16 * f (sx 16 (elemOf 16 1 (v l .a))) (sx 16 (elemOf 16 1 (v l .b))) (sx 16 (elemOf 16 1 (v l .c)))
    (s.issues (.hadd o sat) = some x → exec (.hadd o sat) s = .next (pair fun a b _ => fit16 sat (a + b))) ∧
    (s.issues (.hsub o sat) = some x → exec (.hsub o sat) s = .next (pair fun a b _ => fit16 sat (a - b))) ∧
    (s.issues (.hmul o sat) = some x → exec (.hmul o sat) s = .next (pair fun a b _ => fit16 sat (a * b))) ∧
    (s.issues (.hmad o sat) = some x → exec (.hmad o sat) s = .next (pair fun a b c => fit16 sat (a * b + c))) ∧
    (s.issues (.hmin o) = some x → exec (.hmin o) s = .next (pair fun a b _ => wrap 16 (if a ≤ b then a else b))) ∧
    (s.issues (.hmax o) = some x → exec (.hmax o) s = .next (pair fun a b _ => wrap 16 (if b ≤ a then a else b))) ∧
    (s.issues (.hclamp o) = some x → exec (.hclamp o) s = .next (pair fun a b c =>
      wrap 16 (let m := if a ≤ b then b else a; if m ≤ c then m else c))) ∧
    (s.issues (.hsar o rnd) = some x → exec (.hsar o rnd) s = .next (s.lands x 32 true fun l =>
      hsarVal rnd (elemOf 16 0 (v l .a)) (elemOf 16 0 (v l .b))
        + 2 ^ 16 * hsarVal rnd (elemOf 16 1 (v l .a)) (elemOf 16 1 (v l .b)))) ∧
    (s.issues (.pxunpk o w) = some x → exec (.pxunpk o w) s = .next (s.lands x 32 false fun l =>
      pxunpkVal w (x.rd s l 64 .zero .a) (v l .b))) ∧
    (s.issues (.pxpack o w) = some x → exec (.pxpack o w) s = .next (s.lands x 64 false fun l =>
      pxpackVal w (x.rd s l 64 .zero .d) (v l .a) (v l .b)))

/-- R265 to R268: the cross-lane instructions complete with results that are due; each reads only lanes that take part. It rests
on the model's own choices of log entries 24, 32. -/
def Obligations.CrossLane : Prop :=
  ∀ (s : State) (x : Iss) (o : Opr) (t : Ty) (pm : PermMode) (lm : LmaskMode) (gm : LgrpMode) (op : LredOp),
    let ctl := x.rd s (lowest x.part) 32 .zero .b
    let v (l : Nat) : Nat := x.rd s l t.width .zero .a
    let same (l : Nat) : List Nat := (lanesOf x.part).filter (fun k => v k = v l)
    let seg (l : Nat) (f : Nat → Bool) : List Nat :=
      ((lanesOf x.part).filter (fun k => decide (segBase (segSize ctl) k = segBase (segSize ctl) l) && f k)).map
        (fun k => x.rd s k t.width (extOf t) .a)
    (s.issues (.perm o t pm) = some x → exec (.perm o t pm) s = .next (s.owes x t.width false fun l =>
      let k := permSrc pm ctl (x.rd s l 32 .zero .b) l
      if x.part.getLsbD k = true then v k else v l)) ∧
    (s.issues (.lmask o lm) = some x → exec (.lmask o lm) s = .next (s.owes x 32 false fun l =>
      lmaskVal lm ((lanesOf x.part).filter (fun k => x.rd s k 32 .zero .a ≠ 0)) l)) ∧
    (s.issues (.lgrp o t gm) = some x → exec (.lgrp o t gm) s = .next (s.owes x 32 false fun l =>
      match gm with
      | .eqm => (maskOf (same l)).toNat
      | .rep => (same l).headD 0
      | .num => ((lanesOf x.part).map v).dedup.length)) ∧
    (s.issues (.lred o t op) = some x →
      exec (.lred o t op) s = .next (s.owes x t.width t.signed fun l => lredVal op t (seg l fun _ => true))) ∧
    (s.issues (.lpre o t op) = some x → exec (.lpre o t op) s = .next (s.owes x t.width t.signed fun l =>
      lredVal op t (seg l fun k => if bitOf ctl 3 = true then decide (k < l) else decide (k ≤ l))))

/-- R227, R228, R269, R270: with no image read incomplete, the Kulisch accumulator is cleared, takes the value or the exact
product of each lane that takes part in ascending order, and is read with one rounding, the result due. -/
def Obligations.KulischRegister : Prop :=
  ∀ (s : State) (x : Iss) (o : Opr) (t : Ty) (rm : Rm), x.c.kaBusy = false →
    let f (l : Nat) (op : Operand) : FV := f32F.val (x.rd s l 32 .zero op)
    (s.issues (.kaclr o) = some x → exec (.kaclr o) s = .next (s.retire x { x.c with ka := 0 })) ∧
    (s.issues (.kaadd o) = some x → exec (.kaadd o) s = .next (s.retire x { x.c with
      ka := (lanesOf x.part).foldl (fun k l => kaAddFV k (f l .a)) x.c.ka })) ∧
    (s.issues (.kamad o) = some x → exec (.kamad o) s = .next (s.retire x { x.c with
      ka := (lanesOf x.part).foldl (fun k l => kaAddFV k ((f l .a).mul (f l .b))) x.c.ka })) ∧
    (s.issues (.karead o t rm) = some x → exec (.karead o t rm) s = .next (s.pend x { x.c with sr := s.srAfter x rm 1 }
      { writes := x.results t.width false (fun l => kaRead t.fmt rm ((s.us x rm 1 l).getD 0 0) x.c.ka), flag := none }))


/-! ### Memory, control, matrices and blocks -/

/-- R32, R98, R104, R271 to R276, R282: a memory instruction whose order holds nothing, none of whose participants' pointers
faults and whose counter has room issues the access of every lane that takes part, at the place its pointer leads to; a KA image
is five accesses of 16 bytes at the lowest lane's pointer. It rests on the model's own choices of log entries 15, 16. -/
def Obligations.MemoryAccesses : Prop :=
  ∀ (s : State) (x : Iss) (o : Opr) (t : Ty) (op : AtomOp) (w : CasW) (ord : Sys2Proof.Ord) (sc : Scope) (pl : Nat → Place),
    let starts (m : MemOp) (ls : List Nat) : Prop :=
      let ps := ls.map (fun l => (l, 0, pl l))
      s.orderWait x.c (m.kind 0 0).writes m.ord m.sc = none ∧ (∀ l ∈ ls, s.place x.c m.reg m.n m.align (x.ptr s l) = .ok (pl l)) ∧
        SMap.get 0 x.c.ac 4 + (if (m.kind 0 0).writes = true
          then (ps.filter (fun p => match p.2.2 with | .peer _ _ => true | _ => false)).length else 0) ≤ 65535
    let state (wr : Bool) (ls : List Nat) : State := if (wr && ls.any (fun l => placeSpoils (pl l))) = true then s.clearDisc x.c else s
    let after (m : MemOp) (ls : List Nat) : State := (state (m.kind 0 0).writes ls).launchAcc x m (ls.map (fun l => (l, 0, pl l)))
      (ls.map (fun l => (l, BitVec.ofNat 64 (x.ptr s l))))
    let mem (n : Nat) (reg : Bool) (kind : Nat → ReqKind) (acc : AccKind) : MemOp :=
      { n := n, align := n, reg := reg, kind := fun l _ => kind l, acc := acc, ord := ord, sc := sc }
    let low := lowest x.part
    let image (kind : Nat → ReqKind) (acc : AccKind) : MemOp :=
      { n := 80, align := 16, reg := false, kind := fun _ j => kind j, acc := acc, ord := ord, sc := sc }
    let imaged (wr : Bool) (m : MemOp) : State := (state wr [low]).launchAcc x { m with n := 16, image := true }
      ((List.range 5).map (fun i => (low, i, (pl low).shift (16 * i)))) [(low, BitVec.ofNat 64 (x.ptr s low))]
    let few (wr : Bool) : Prop := SMap.get 0 x.c.ac 4 + (if wr = true then 5 else 0) ≤ 65535
    let ready (m : MemOp) (wr : Bool) : Prop := x.c.kaBusy = false ∧ s.orderWait x.c wr ord sc = none ∧
      s.place x.c false 80 16 (x.ptr s low) = .ok (pl low) ∧ few wr ∧ m.n = 80
    let all := lanesOf x.part
    (s.issues (.ld o t ord sc) = some x → starts (mem t.size (t.size = 8) (fun _ => .load) (.load t)) all →
      exec (.ld o t ord sc) s = .next (after (mem t.size (t.size = 8) (fun _ => .load) (.load t)) all)) ∧
    (s.issues (.st o t ord sc) = some x →
      let m := mem t.size (t.size = 8) (fun l => .store (leBytes t.size (x.rd s l (Nat.max 32 (8 * t.size)) .zero .b))) .store
      starts m all → exec (.st o t ord sc) s = .next (after m all)) ∧
    (s.issues (.atom o t op ord sc) = some x →
      let m := mem t.size false (fun l => .atomic op t (x.rd s l t.width .zero .b)) (.atomic t)
      starts m all → exec (.atom o t op ord sc) s = .next (after m all)) ∧
    (s.issues (.red o t op ord sc) = some x →
      let m := mem t.size false (fun l => .atomic op t (x.rd s l t.width .zero .b)) .store
      starts m all → exec (.red o t op ord sc) s = .next (after m all)) ∧
    (s.issues (.cas o w ord sc) = some x →
      let m := mem (w.bits / 8) false (fun l => .cas w (x.rd s l w.bits .zero .b) (x.rd s l w.bits .zero .c)) (.atomic w.ty)
      starts m all → exec (.cas o w ord sc) s = .next (after m all)) ∧
    (s.issues (.kast o ord sc) = some x →
      let m := image (fun j => .store (leBytes 16 (x.c.ka.toNat / 2 ^ (128 * j)))) .store
      ready m true → exec (.kast o ord sc) s = .next (imaged true m)) ∧
    (s.issues (.kald o ord sc) = some x →
      let m := image (fun _ => .load) .kald
      ready m false → exec (.kald o ord sc) s = .next (imaged false m)) ∧
    (s.issues (.kaaddm o ord sc) = some x →
      let m := image (fun _ => .load) .kaaddm
      ready m false → exec (.kaaddm o ord sc) s = .next (imaged false m))

/-- R102, R103, R278 to R281, R317: fences, prefetches, acc.ld and wait.ac complete when nothing holds them. It rests on the
model's own choices of log entries 15, 17, 47. -/
def Obligations.FencesAndCounters : Prop :=
  ∀ (s : State) (x : Iss) (o : Opr) (t : Ty) (rm : Rm) (sc : Scope) (lv : PfLevel) (ac : AcCtr) (b : Block),
    let off (l : Nat) : Nat := (x.rd s l 32 .zero .a + o.imm.toNat) % 2 ^ 32
    (s.issues (.fence o .acq sc) = some x →
      exec (.fence o .acq sc) s = .next (s.retire x { x.c with gLoads := x.c.gLoads ++ x.c.loadKeys })) ∧
    (s.issues (.fence o .rel sc) = some x →
      exec (.fence o .rel sc) s = .next (s.retire x { x.c with gRel := scopeMax x.c.gRel sc })) ∧
    (s.issues (.fence o .ar sc) = some x → exec (.fence o .ar sc) s = .next (s.retire x
      { x.c with gLoads := x.c.gLoads ++ x.c.loadKeys, gRel := scopeMax x.c.gRel sc })) ∧
    (s.issues (.fence o .sc sc) = some x → s.released x.c sc = true → x.c.loadsBack = true →
      exec (.fence o .sc sc) s = .next (s.retire x x.c)) ∧
    (s.issues (.prefetch o lv) = some x → s.gateOf x.c false = none →
      exec (.prefetch o lv) s = .next (((lanesOf x.part).foldl (fun s l => s.prefetchLane x lv l) s).retire x x.c)) ∧
    (s.issues (.accLd o t rm) = some x → s.blk? x.c.blk = some b → s.gateOf x.c false = none →
      (∀ l ∈ lanesOf x.part, off l < 0x80000 ∧ off l / 0x10000 < b.acst ∧ off l % 16 = 0) →
      exec (.accLd o t rm) s = .next (s.pend x { x.c with sr := if t.isFloat then s.srAfter x rm 1 else x.c.sr }
        { writes := x.results t.width t.signed (fun l =>
            accLdVal t rm ((s.us x rm (if t.isFloat then 1 else 0) l).headD 0) (b.acsRd (off l) 16)), flag := none })) ∧
    (s.issues (.waitAc o ac) = some x → x.sp.relatch = none → SMap.get 0 x.c.ac (acNum ac) ≤ x.threshold s →
      x.c.latch.find? (acNum ac) = none → exec (.waitAc o ac) s = .next (s.retire x x.c))

/-- R188, R249 to R252, R255: a branch whose targets pass their checks sends each lane that takes part to its own target, and the
others on; calls push their return address first and reconverge there where their lanes go apart, and ret takes the newest and
ends the lanes that have none. Lanes that all go one way move together. It rests on the model's own choices of log entries 27, 83.
-/
def Obligations.BranchesAndCalls : Prop :=
  ∀ (s s1 s2 s3 t : State) (x : Iss) (o : Opr) (tgt : CodePtr) (j : Option JoinPtr) (c c2 c3 : Ctx) (due : List (BitVec 64))
    (ts : List (Nat × BitVec 64)) (p : BitVec 64 × Mask),
    let jj (a : Option (BitVec 64)) : Option (BitVec 64) := if c.stream = .lane then a else none
    let same : List (Nat × BitVec 64) := (lanesOf x.part).map (fun l => (l, codePtrAddr tgt x.sp.pc))
    let each : List (Nat × BitVec 64) := (lanesOf x.part).map (fun l => (l, BitVec.ofNat 64 (x.rd s l 64 .zero .a)))
    let join := j.map (fun p => joinPtrAddr p x.sp.pc)
    let next := nextPc x.sp.pc
    let ways (sp : Split) (ts : List (Nat × BitVec 64)) := pathsOf (nextPc sp.pc) (sp.mask &&& ~~~ maskOf (ts.map (·.1))) ts
    let meetAt (ts : List (Nat × BitVec 64)) : Option (BitVec 64) :=
      if x.c.stream = .lane ∧ 1 < (ways x.sp ts).length then some next else none
    let called (ts : List (Nat × BitVec 64)) : Prop := s.checkTargets x.cid x.c ts (meetAt ts) = (s1, .ok c, due) ∧
      (∀ l ∈ lanesOf x.part, c.callFull l = false) ∧
      s1.goesTo x (Ctx.pushRet next (lanesOf x.part) c []).1 x.sp (Ctx.pushRet next (lanesOf x.part) c []).2 ts (meetAt ts) due = some t
    (s.issues (.bra o tgt j) = some x → s.checkTargets x.cid x.c same join = (s1, .ok c, due) →
      s1.goesTo x c x.sp [] same (jj join) due = some t → exec (.bra o tgt j) s = .next t) ∧
    (s.issues (.brx o j) = some x → s.checkTargets x.cid x.c each join = (s1, .ok c, due) →
      s1.goesTo x c x.sp [] each (jj join) due = some t → exec (.brx o j) s = .next t) ∧
    (s.issues (.call o tgt) = some x → called same → exec (.call o tgt) s = .next t) ∧
    (s.issues (.callx o) = some x → called each → exec (.callx o) s = .next t) ∧
    (s.issues (.ret o) = some x → s.popRet x (lanesOf x.part) x.c [] = (s1, .ok c, ts) → x.badRefill ts ≠ 0 →
      exec (.ret o) s = .next (s1.trapAt x { cause := .space, qual := 3, lmask := x.badRefill ts })) ∧
    (s.issues (.ret o) = some x → s.popRet x (lanesOf x.part) x.c [] = (s1, .ok c, ts) → x.badRefill ts = 0 →
      s1.checkTargets x.cid c ts none = (s2, .ok c2, due) →
      let ended := x.part &&& ~~~ maskOf (ts.map (·.1))
      let e := x.endLanes c2 ended
      (if e.2.mask = 0 then s2.refillEnded x.cid x.k 130 (e.1.setSplit x.k e.2) = (s3, .ok c3) ∧
          t = s3.setCtx x.cid (Ctx.settle s3.pt 64 c3)
       else s2.goesTo x e.1 e.2 [] ts none due = some t) →
      exec (.ret o) s = .next t) ∧
    (ways x.sp ts = [p] → s.goesTo x c x.sp [] ts (jj join) due = some (s.setCtx x.cid (Ctx.settle s.pt 64
      (c.setSplit x.k { (x.sp.moved p.1 false) with tgtDue := due.contains p.1 }))))

/-- R166, R167, R253 to R255: join and join.t wait while the split is at its reconvergence address and goes on otherwise, join.t
writing 1 in the lanes of a merged split; exit ends the lanes that take part; nop does nothing, whatever its guard. It rests on
the model's own choices of log entry 6. -/
def Obligations.JoinsAndEnds : Prop :=
  ∀ (s s1 : State) (x : Iss) (o : Opr) (c1 : Ctx),
    let here : Bool := x.c.stream = .lane && !x.sp.merged && x.sp.j = some x.sp.pc && (x.c.setOf x.sp.pc x.sp.mask).isSome
    let since := match x.sp.wait with | .atJoin t => t | .join t _ => t | _ => s.pt
    let waits (g : Option (Nat × Nat × Mask)) : State :=
      s.setCtx x.cid (Ctx.settle s.pt 64 (x.c.setSplit x.k { x.sp with wait := .join since g }))
    let gone := x.endLanes x.c x.part
    (s.mayIssue (.join o) = some x → here = false → exec (.join o) s = .next (s.retire x x.c)) ∧
    (s.mayIssue (.join o) = some x → here = true → exec (.join o) s = .next (waits none)) ∧
    (s.mayIssue (.joinT o) = some x → here = false → exec (.joinT o) s = .next (s.retire x
      (if x.sp.merged = true then x.c.applyAll (x.results 32 false fun _ => 1) else x.c))) ∧
    (s.mayIssue (.joinT o) = some x → here = true → exec (.joinT o) s = .next (waits
      (some (since + o.imm.toNat, (match o.d with | .pred n => n.toNat | _ => 7), x.part)))) ∧
    (s.issues (.exit o) = some x → gone.2.mask ≠ 0 →
      exec (.exit o) s = .next (s.setCtx x.cid ((gone.1.setSplit x.k gone.2).advance s.pt x.k))) ∧
    (s.issues (.exit o) = some x → gone.2.mask = 0 → x.c.spilled = [] →
      exec (.exit o) s = .next (s.setCtx x.cid (Ctx.settle s.pt 64 (gone.1.setSplit x.k gone.2)))) ∧
    (s.issues (.exit o) = some x → gone.2.mask = 0 → s.refillEnded x.cid x.k 130 (gone.1.setSplit x.k gone.2) = (s1, .ok c1) →
      exec (.exit o) s = .next (s1.setCtx x.cid (Ctx.settle s1.pt 64 c1))) ∧
    (s.mayIssue (.nop o) = some x → exec (.nop o) s = .next (s.retire x x.c))

/-- R286 to R299: a matrix instruction whose checks raise nothing, whose operands can be read and whose every step is done
completes with the updates of its tile due. It rests on the model's own choices of log entry 46. -/
def Obligations.MatrixMultiply : Prop :=
  ∀ (s s1 s2 : State) (x : Iss) (o : Opr) (fa fb : MFmt) (tile : BitVec 3) (z mx : Bool) (b b1 : Block) (cell : Nat → Byte) (tr : Tree)
    (key : Nat → Option Nat) (us : List (Nat × MatUpd)),
    let r := arecOf x.arec
    let job (k : MKind) : MJob :=
      { k := k, fa := fa, fb := fb, tile := tile.toNat, z := z, r := r, cell := cell, key := fun _ => none, masked := fun _ _ => false,
        rsd := some (rsdKey b.dev (bits (x.s64 s .b) 0 16)) }
    let goes (k : MKind) : Prop := s.matBlock x [tile.toNat] = some b ∧ arecOk k fb x.arec = true ∧ b.maPtrTrap (mPtrs k fa fb r) = none ∧
      s.cellsOf x b (x.s64 s .b) = .ok cell ∧ s.gateOf x.c false = none ∧ (job k).runs s x b = (s1, us, .done)
    let tj : MJob := { k := .mmt, fa := fa, fb := fb, tile := tile.toNat, z := z, r := r, cell := fun _ => 0, key := key,
                       masked := fun m n => !tr.visible r m n }
    (s.issues (.mma o fa fb tile z) = some x → goes .mma → exec (.mma o fa fb tile z) s = .next (s1.matDone x b (job .mma) us)) ∧
    (s.issues (.mmas o fa fb tile z mx) = some x → goes (.mmas mx) →
      exec (.mmas o fa fb tile z mx) s = .next (s1.matDone x b (job (.mmas mx)) us)) ∧
    (s.issues (.mmx o fa fb tile z) = some x → goes .mmx → exec (.mmx o fa fb tile z) s = .next (s1.matDone x b (job .mmx) us)) ∧
    (s.issues (.mmt o fa fb tile z) = some x → s.matBlock x [tile.toNat] = some b → arecOk .mmt fb x.arec = true →
      b.maPtrTrap (mPtrs .mmt fa fb r ++ b.keyPtrs fb r) = none → b.tree = some tr → r.qn0 + r.m ≤ tr.nodes.length → s.gateOf x.c false = none →
      s.mmtKeys x tr r = (s1, .ok key) → b.keyTrap fb r ((List.range 64).filterMap key) = none → (s1.lookDone x).blk? x.c.blk = some b1 →
      tj.runs (s1.lookDone x) x b1 = (s2, us, .done) →
      exec (.mmt o fa fb tile z) s = .next (s2.matDone x b1 tj us))

/-- R288, R302 to R306: the accumulator instructions clear, load, store and convert their tile and read and write the record of a
stopped pass. -/
def Obligations.AccumulatorTiles : Prop :=
  ∀ (s : State) (x : Iss) (o : Opr) (t : Ty) (rm : Rm) (kd : CvtKind) (tile : BitVec 3) (tiles sh : BitVec 8) (b : Block),
    let named := (List.range 8).filter (fun t => tiles.getLsbD t)
    let n := tile.toNat
    let ptr := x.s64 s .a
    let stride := x.s64 s .b
    let at' (i : Nat) : Nat := ptr + i / 64 * stride + i % 64 * t.size
    let due (s : State) (c : Ctx) (ups : List (Nat × MatUpd)) (clr : BitVec 8) : State :=
      s.pend x c { writes := [], flag := none, mats := ups, isMat := true, ovfClr := clr }
    let rd := (List.range 64).foldl (fun r i => r.span x b (ptr + i * stride) (64 * t.size)) ({ s := s, memo := [] } : MaRead)
    (s.issues (.accClr o tiles) = some x → s.matBlock x named = some b → exec (.accClr o tiles) s = .next
      (due (s.setBlk x.c.blk (b.mrpNamed named)) x.c ((named.flatMap tileKeys).map (fun k => (k, .set 0))) tiles)) ∧
    (s.issues (.accIn o t tile) = some x → s.matBlock x [n] = some b → b.accTrap ptr stride t.size = none → s.gateOf x.c false = none →
      rd.hold = false → lowestFault rd.faults = none → exec (.accIn o t tile) s = .next
      (due (rd.s.setBlk x.c.blk (b.mrpNamed [n])) x.c
        ((List.range 4096).map (fun i => (4096 * n + i, .set (accInVal t (memoNat rd.memo (at' i) t.size))))) (BitVec.ofNat 8 (2 ^ n)))) ∧
    (s.issues (.accOut o t rm tile) = some x → s.matBlock x [n] = some b → b.accTrap ptr stride t.size = none →
      x.c.tileBusy n = false → s.gateOf x.c true = none →
      let s0 := if bits ptr 60 4 = 4 then s else s.clearDisc x.c
      exec (.accOut o t rm tile) s = .next (s0.accIssue x ((List.range 4096).map (fun i => (at' i,
        leBytes t.size (accOutVal t rm ((s.us x rm 4096 0).getD i 0) (SMap.get 0 b.acs (4096 * n + i)).toNat))))
        (if accRounds t ∧ rm = .sr then (s0.srAfter x rm 4096).find? 0 else none))) ∧
    (s.issues (.accCvt o kd rm tile sh) = some x → s.matBlock x [n] = some b → exec (.accCvt o kd rm tile sh) s = .next
      (due s { x.c with sr := s.srAfter x rm 4096 }
        ((List.range 4096).map (fun i => (4096 * n + i, .cvt kd rm sh ((s.us x rm 4096 0).getD i 0)))) 0)) ∧
    (s.issues (.mrpRd o) = some x → s.blk? x.c.blk = some b → x.c.matBusy = 0 →
      exec (.mrpRd o) s = .next (s.pend x x.c { writes := x.sWrites 2 b.mrp.toNat, flag := none })) ∧
    (s.issues (.mrpWr o) = some x → s.blk? x.c.blk = some b → x.c.matBusy = 0 → bits x.pairA 56 8 = 0 → bits x.pairA 79 1 = 0 →
      bits x.pairA 88 40 = 0 →
      exec (.mrpWr o) s = .next ((s.setBlk x.c.blk { b with mrp := BitVec.ofNat 128 x.pairA }).retire x x.c))

/-- R122, R127, R307, R308: the residency instructions complete when the handle and its state permit: a handle is allocated, a
fill is started and charged, a pin is set or cleared, a handle is freed, and a descriptor is read. It rests on the model's own
choices of log entries 39, 85, 86. -/
def Obligations.ResidencyInstructions : Prop :=
  ∀ (s s0 : State) (x : Iss) (o : Opr) (shard : Bool) (b : Block) (r : Rsd),
    let h := x.s64 s0 .a
    let w := x.s64 s0 .b
    let cores := bits w 0 8
    let nt := bits w 8 9
    let vcl := s0.vcluster b.dev b.cluster
    let key := rsdKey b.dev h
    let r' := { r with shard := shard, asid := b.asid, src := bits w 0 56 }
    let word := if 0xFFFF < h then 0 else match s0.rsd? b.dev h with | some r => r.desc % 2 ^ 64 | none => 0
    s.spoiled x = some (s0, b) →
    (s.issues (.rsdAlloc o) = some x → 0 < h → h ≤ 0xFFFF → s0.rsd? b.dev h = none → bits w 17 47 = 0 → cores ≠ 0 → 0 < nt → nt ≤ 384 →
      coresFail cores (fun c => s0.fld (rsdB + 0x40 * b.dev + 8) 0 9 < s0.charged b.dev vcl c + nt) = false →
      coresFail cores (fun c => 384 < s0.held b.cluster c + nt) = false →
      exec (.rsdAlloc o) s = .next ((s0.setRsd key
        { st := .allocated, cores := cores, nt := nt, vcl := vcl, eventpt := s0.pt, dirtyMirror := true }).retire x x.c)) ∧
    (s.issues (.rsdLoad o shard) = some x → h ≤ 0xFFFF → s0.rsd? b.dev h = some r → s0.physCluster b.dev r.vcl = some b.cluster →
      (r.st = .allocated ∨ r.st = .ready ∨ r.st = .stale ∨ r.st = .poisoned) → spaceFail w 3 = none → bits w 56 4 = 0 → w % 128 = 0 →
      globFar w r'.len = false → s0.queued b.cluster false < 64 → SMap.get 0 x.c.ac 5 ≠ 65535 → s0.gateOf x.c true = none →
      ∃ t, exec (.rsdLoad o shard) s = .next t ∧ ∃ q : Rsd, t.rsds.find? key = some q ∧ q.st = .filling ∧ q.src = bits w 0 56 ∧
        q.asid = b.asid ∧ q.shard = shard ∧ q.eventpt = s0.pt) ∧
    (s.issues (.rsdPin o) = some x → h ≤ 0xFFFF → s0.rsd? b.dev h = some r → exec (.rsdPin o) s = .next
      ((s0.setRsd key { r with pin := true, pinAt := s0.pt, dirtyMirror := true }).retire x x.c)) ∧
    (s.issues (.rsdUnpin o) = some x → h ≤ 0xFFFF → s0.rsd? b.dev h = some r → exec (.rsdUnpin o) s = .next
      ((s0.setRsd key { r with pin := false, dirtyMirror := true }).retire x x.c)) ∧
    (s.issues (.rsdFree o) = some x → h ≤ 0xFFFF → s0.rsd? b.dev h = some r → s0.rsdInUse key = false →
      ∀ c, (s0.freeRsd key).switchAll.ctxs.find? x.cid = some c →
      exec (.rsdFree o) s = .next ((s0.freeRsd key).switchAll.retire x c)) ∧
    (s.issues (.rsdQuery o) = some x → exec (.rsdQuery o) s = .next (s0.pend x x.c { writes := x.sWrites 1 word, flag := none }))

/-- R148 to R151, R309, R310: the tree instructions clear the tree to its root, add a node, accept a path, prune to the committed
path with its list stored first, and read masks, positions and nodes. It rests on the model's own choices of log entry 41. -/
def Obligations.TreeInstructions : Prop :=
  ∀ (s : State) (x : Iss) (o : Opr) (b : Block) (t : Tree), s.blk? x.c.blk = some b → b.tree = some t →
    let i := x.s64 s .a
    let w := x.s64 s .b
    let ix := x.rd s 0 64 .zero .a
    let tree (t : Tree) : State := s.setBlk x.c.blk { b with tree := some t }
    (s.issues (.treeClr o) = some x → i < 2 ^ 32 → exec (.treeClr o) s = .next ((tree { base := i, nodes :=
      [{ parent := 0, accept := false, user := 0, token := BitVec.ofNat 32 w, score := BitVec.ofNat 32 (w / 2 ^ 32) }] }).retire x x.c)) ∧
    (s.issues (.treeAdd o) = some x → bits w 14 50 = 0 → t.nodes.length ≠ 256 → bits w 0 8 < t.nodes.length →
      t.base + (t.depth (bits w 0 8) + 1) ≤ 0xFFFFFFFF → exec (.treeAdd o) s = .next ((tree { t with nodes := t.nodes ++
        [{ parent := bits w 0 8, accept := false, user := bits w 8 6, token := BitVec.ofNat 32 i,
           score := BitVec.ofNat 32 (i / 2 ^ 32) }] }).retire x (x.c.applyAll (x.sWrites 1 t.nodes.length)))) ∧
    (s.issues (.treeMask o) = some x → ix < t.nodes.length →
      exec (.treeMask o) s = .next (s.pend x x.c { writes := x.sWrites 4 (t.mask ix), flag := none })) ∧
    (s.issues (.treePos o) = some x → ix < t.nodes.length → exec (.treePos o) s = .next (s.pend x x.c
      { writes := x.sWrites 1 (t.depth ix % 2 ^ 8 * 2 ^ 32 + t.pos ix % 2 ^ 32), flag := none })) ∧
    (s.issues (.treeAccept o) = some x → ix < t.nodes.length →
      exec (.treeAccept o) s = .next ((tree (t.acceptNode ix)).retire x x.c)) ∧
    (s.issues (.treePrune o) = some x → t.nodes ≠ [] → i + 2048 ≤ b.aspBytes → i % 8 = 0 →
      s.aspOpen x b i (8 * t.prune.2.2.length) = false → s.gateOf x.c true = none →
      let d := t.prune.2.1 % 2 ^ 8 + t.prune.2.2.length % 2 ^ 8 * 2 ^ 8 + t.prune.1.nodes.length % 2 ^ 9 * 2 ^ 16
      exec (.treePrune o) s = .next ((s.setBlk x.c.blk { b.aspWr i (t.prune.2.2.flatMap (leBytes 8)) with tree := some t.prune.1 }).pend
        x (x.c.passGate true) { writes := x.sWrites 1 d, flag := none })) ∧
    (s.issues (.treeRd o) = some x → ix < t.nodes.length →
      exec (.treeRd o) s = .next (s.pend x x.c { writes := x.sWrites 2 (t.image ix), flag := none }))

/-- R104, R139, R140, R311, R312: kv.find completes with what the lookup finds; kv.insert and kv.delete hand their update to the
update unit and wait for it. -/
def Obligations.KvInstructions : Prop :=
  ∀ (s s0 s1 : State) (x : Iss) (o : Opr) (b : Block) (found : Option Nat) (v : Nat),
    let ptr (s : State) : Nat := x.s64 s .a
    let key (s : State) : Nat := x.s64 s .b
    let sent : Prop := s.spoiled x = some (s0, b) ∧ kvOperandTrap (ptr s0) (key s0) = none ∧
      s0.orderWait x.c true .ar .pkg = none ∧ s0.kvRd { s0.kvCox x with core := none } (ptr s0) 64 = (s1, .ok v)
    let s2 := s1.kvDropTable (s0.kvCox x) (kvDescOf (ptr s0) v)
    let upd (ins : Bool) : KvUpd :=
      { cid := x.cid, k := x.k, insert := ins, desc := BitVec.ofNat 64 (ptr s0),
        table := match s2.paOf x.c.asid (bits (ptr s0) 0 56) with | some (pa, _) => pa / 128 | none => 0,
        seq := bits (key s0) 0 32, lblk := bits (key s0) 32 24, p := if ins then x.s64 s2 .c else 0, asid := x.c.asid }
    let after (ins : Bool) : State :=
      ({ s2 with kv := { s2.kv with upds := s2.kv.upds ++ [upd ins] } }).setCtx x.cid
        ((x.c.passGate true).setSplit x.k { x.sp with wait := kvWait })
    (s.issues (.kvFind o) = some x → s.blk? x.c.blk = some b → kvOperandTrap (ptr s) (key s) = none → s.gateOf x.c false = none →
      s.kvFind x (ptr s) (bits (key s) 0 32) (bits (key s) 32 24) = (s1, .ok found) →
      exec (.kvFind o) s = .next ((s1.lookDone x).pend x x.c
        { writes := x.sWrites 1 (match found with | some p => 2 ^ 63 + p | none => 0), flag := none })) ∧
    (s.issues (.kvInsert o) = some x → sent → exec (.kvInsert o) s = .next (after true)) ∧
    (s.issues (.kvDelete o) = some x → sent → exec (.kvDelete o) s = .next (after false))

/-- R314, R319 to R322, R324, R327 to R331, R352: an engine instruction whose checks raise nothing and whose queue and counters
have room starts its operation; launch publishes a launch record and gives its status. It rests on the model's own choices of log
entries 21, 37, 43. -/
def Obligations.EngineInstructions : Prop :=
  ∀ (s s1 : State) (x : Iss) (o : Opr) (chg : BitVec 6) (e : BitVec 8) (f : DcxFmt) (kd : CollKind) (op : CollOp) (ct : CollTy)
    (wcls : BitVec 3) (sig : Bool) (b : Block) (c : Ctx) (m : Comm) (v : Nat), s.blk? x.c.blk = some b →
    let started (i : Instr) (q : EIss) : Prop := s.engCheck b q = none → s.engFull b q = false → s.ctrFull q = false →
      s.gateOf x.c true = none →
      let s2 := ((if engSpoils q then s.clearDisc x.c else s).engStart x.c.blk b q).1
      s2.ctxs.find? x.cid = some c → exec i s = .next (s2.retire x (c.passGate true))
    let en := match eOpnd o.a e with | .s n => n.toNat | _ => 0
    let qc : EIss := { cid := x.cid, opc := 0x304, md := chg.toNat,
                       imm := BitVec.ofNat 32 (CollKind.code kd + 8 * CollOp.code op + 64 * CollTy.code ct + 512 * wcls.toNat
                         + 4096 * (if sig then 1 else 0) + 2 ^ 24 * e.toNat),
                       a := x.w64 s .a, b := x.w64 s .b, c := x.w64 s .c, e := if sig then x.c.rs en else 0,
                       e2 := if sig then x.c.rs (en + 1) else 0 }
    let q := x.s64 s .b
    let s3 := s1.clearDisc x.c
    let st := if s3.fld (qreg q 0) 0 1 = 0 ∨ s3.fld (qreg q 0x20) 0 2 = 2 ∨ s3.fld (qreg q 0) 1 1 = 0 then 2
      else if 16 ≤ s3.takenOf q then 1 else 0
    (s.issues (.cpy o chg) = some x → started (.cpy o chg)
      { cid := x.cid, opc := 0x300, md := chg.toNat, imm := o.imm, a := x.w64 s .a, b := x.w64 s .b, c := x.w64 s .c }) ∧
    (s.issues (.cpy2d o chg e) = some x → started (.cpy2d o chg e)
      { cid := x.cid, opc := 0x301, md := chg.toNat, imm := e ++ 0#24, a := x.w64 s .a, b := x.w64 s .b, c := x.w64 s .c,
        e := x.eWord s 0 e }) ∧
    (s.issues (.dcx o chg f e) = some x → started (.dcx o chg f e)
      { cid := x.cid, opc := 0x302, md := chg.toNat + 64 * DcxFmt.code f, imm := e ++ 0#24, a := x.w64 s .a, b := x.w64 s .b,
        c := x.w64 s .c, e := x.eWord s 0 e }) ∧
    (s.issues (.srd o chg) = some x → started (.srd o chg)
      { cid := x.cid, opc := 0x303, md := chg.toNat, imm := o.imm, a := x.w64 s .a, b := x.w64 s .b, c := x.w64 s .c }) ∧
    (s.issues (.coll o chg kd op ct wcls sig e) = some x → s.engCheck b qc = none → s.engFull b qc = false → s.ctrFull qc = false →
      s.gateOf x.c true = none → s.readComm x b qc.b.toNat = (s1, .ok m) →
      (m.ok = true → kd ≠ .ar → qc.c.toNat % m.n = 0) → (s3.collStart x.c.blk b qc m).ctxs.find? x.cid = some c →
      exec (.coll o chg kd op ct wcls sig e) s = .next ((s3.collStart x.c.blk b qc m).retire x (c.passGate true))) ∧
    (s.issues (.launch o) = some x → q ≤ 255 → b.engSpace (x.s64 s .a) 256 true false false = none → x.s64 s .a % 256 = 0 →
      s.qdev q = b.dev → s.orderWait x.c true .rel .pkg = none →
      andThen (s.kvRd { asid := b.asid, dev := b.dev, who := threadW x.cid, core := none, die := 2, cid := some x.cid } (x.s64 s .a) 128) (fun s lo =>
        andThen (s.kvRd { asid := b.asid, dev := b.dev, who := threadW x.cid, core := none, die := 2, cid := some x.cid } (x.s64 s .a + 128) 128)
          (fun s hi => (s, Got.ok (lo + hi * 2 ^ 1024)))) = (s1, .ok v) →
      let s4 := if st = 0 then
          (s3.take q (leBytes 256 v)).setFld (qreg q 0x18) 32 32 (((s3.take q (leBytes 256 v)).fld (qreg q 0x18) 32 32 + 1) % 2 ^ 32)
        else s3
      s4.ctxs.find? x.cid = some c → exec (.launch o) s = .next (s4.retire x ((c.passGate true).applyAll (x.sWrites 1 st))))

/-- R104, R105, R170, R171, R335 to R337: an arrival counts once and gives the phase before it, a wait ends when the phase
differs, and the decision queue takes an entry while it holds fewer than sixteen and gives each group its next one. It rests on
the model's own choices of log entry 45. -/
def Obligations.BarriersAndQueue : Prop :=
  ∀ (s : State) (x : Iss) (o : Opr) (n : BitVec 4) (g : BitVec 2) (p : BitVec 3) (b l : Block), s.blk? x.c.blk = some b →
    let count := x.rd s (lowest x.part) 32 .zero .b
    let ph : Bool := (x.rd s (lowest x.part) 32 .zero .a).testBit 0
    (s.issues (.barArrive o n) = some x → 1 ≤ count → count ≤ 49 → s.orderWait x.c true .rel .blk = none →
      exec (.barArrive o n) s = .next ((s.setBlk x.c.blk { b with bars := b.bars.put n.toNat ((b.bar n.toNat).arrive count) }).owes
        { x with c := x.c.passGate true } 32 false fun _ => if (b.bar n.toNat).phase = true then 1 else 0)) ∧
    (s.issues (.barWait o n) = some x → (b.bar n.toNat).phase ≠ ph → exec (.barWait o n) s = .next (s.retire x x.c)) ∧
    (s.issues (.gangArrive o g) = some x → 1 ≤ count → count ≤ 392 → s.orderWait x.c true .rel .gang = none → s.blk? b.lead = some l →
      exec (.gangArrive o g) s = .next ((s.setBlk b.lead { l with gbars := l.gbars.put g.toNat ((l.gbar g.toNat).arrive count) }).lands
        { x with c := x.c.passGate true } 32 false fun _ => if (l.gbar g.toNat).phase = true then 1 else 0)) ∧
    (s.issues (.gangWait o g) = some x → s.blk? b.lead = some l → (l.gbar g.toNat).phase ≠ ph →
      exec (.gangWait o g) s = .next (s.retire x x.c)) ∧
    (s.issues (.dqPush o) = some x → s.orderWait x.c true .rel .blk = none → (s.dqTrim x.c.blk b).dq.length < 16 →
      let d := s.dqTrim x.c.blk b
      exec (.dqPush o) s = .next ((s.setBlk x.c.blk (s.dqTrim x.c.blk { d with dq := d.dq ++ [BitVec.ofNat 64 (x.s64 s .a)] })).retire x
        (x.c.passGate true))) ∧
    (s.issues (.dqPop o p) = some x → ∀ e, b.dq[x.c.dqIdx - b.dqBase]? = some e →
      let u := s.pend x { x.c with dqIdx := x.c.dqIdx + 1 }
        { flag := none, writes := (lanesOf x.part).flatMap (fun l => x.wr l 64 false e.toNat ++ [RW.p l p.toNat true]) }
      exec (.dqPop o p) s = .next (u.setBlk x.c.blk (u.dqTrim x.c.blk b))) ∧
    (s.issues (.dqPop o p) = some x → b.dq[x.c.dqIdx - b.dqBase]? = none → (∀ c, s.ctxs.find? (coxKey x.c.blk) = some c → c.alive = 0) →
      exec (.dqPop o p) s = .next (s.pend x x.c { flag := none, writes := (lanesOf x.part).map (fun l => RW.p l p.toNat false) })) ∧
    (∀ (r : Res), (s.pend x x.c r).ctxs.find? x.cid = some ((Ctx.advance { (x.c.flagUp (if x.c.stream = .host then none else x.flag)) with
      res := x.c.res.put (freshKey x.c.res) { r with flag := if x.c.stream = .host then none else x.flag } } s.pt x.k))) ∧
    (∀ (v : Bar) (n : Nat) (later : List Nat), v.arr = 0 → later.length + 1 ≤ n →
      let a := later.foldl Bar.arrive (v.arrive n)
      a.count = n ∧ (later.length + 1 < n → a.phase = v.phase ∧ a.arr = later.length + 1) ∧
      (later.length + 1 = n → a.phase = !v.phase ∧ a.arr = 0))

/-- R41, R42, R338, R339: the tier instructions complete when every lane names a tier and an address: hints are queued, the first
of each page, a pin or an unpin of each page is recorded, a pin with the work that it asks of the migration engine, and waited
for, and a query gives the leaf's word. It rests on the model's own choices of log entries 48, 102. -/
def Obligations.TierInstructions : Prop :=
  ∀ (s : State) (x : Iss) (o : Opr) (va : Nat → Nat), s.gateOf x.c false = none →
    let page (l : Nat) : Nat := va l / 65536 * 65536
    let priv : Bool := x.c.stream = .host && x.c.priv
    let hints := (lanesOf x.part).map (fun l => ({ dev := x.c.dev, asid := x.c.asid, va := page l, tier := x.rd s l 32 .zero .b,
                                                   pinReq := none, priv := priv } : Hint))
    let asked (k : Nat → ReqKind) : State :=
      let r := (s.clearDisc x.c).pinReqs x ((lanesOf x.part).map (fun l => (l, page l, k l))) [] []
      r.1.pinWait x r.2 ((lanesOf x.part).map (fun l => (l, x.rd s l 64 .zero .a)))
    (s.issues (.tierHint o) = some x → (∀ l ∈ lanesOf x.part, x.rd s l 32 .zero .b ≤ 2 ∧ s.tierVa x l = .ok (va l)) →
      exec (.tierHint o) s = .next (({ s with mig := { s.mig with hints := s.mig.hints ++ pageOnce hints } }).retire x x.c)) ∧
    (∀ hs, (pageOnce hs).Pairwise (fun g h => g.va ≠ h.va) ∧ (∀ h ∈ hs, ∃ g ∈ pageOnce hs, g.va = h.va) ∧
      ∀ g ∈ pageOnce hs, hs.find? (fun h => h.va = g.va) = some g) ∧
    (s.issues (.tierPin o) = some x → (∀ l ∈ lanesOf x.part, x.rd s l 32 .zero .b ≤ 2 ∧ s.tierVa x l = .ok (va l)) →
      exec (.tierPin o) s = .next (asked fun l => .pin (x.rd s l 32 .zero .b))) ∧
    (s.issues (.tierUnpin o) = some x → (∀ l ∈ lanesOf x.part, s.tierVa x l = .ok (va l)) →
      exec (.tierUnpin o) s = .next (asked fun _ => .unpin)) ∧
    (∀ (u : State) (v tier : Nat) (k : ReqKind), let r := u.pinReq x v k
      (∃ q, r.1.ms.reqs.find? r.2 = some q ∧ q.kind = k ∧ q.va = v ∧ q.asid = x.c.asid ∧ q.dev = x.c.dev ∧ q.priv = priv ∧ q.cid = x.cid) ∧
      (k = .pin tier → r.1.mig.hints = u.mig.hints ++
        [{ dev := x.c.dev, asid := x.c.asid, va := v, tier := tier, pinReq := some r.2, priv := priv }]) ∧
      (k = .unpin → r.1.mig = u.mig)) ∧
    (∀ (u : State) (ps : List (Nat × Nat × ReqKind)), let r := u.pinReqs x ps [] []
      r.2.map (·.1) = ps.map (·.1) ∧ ∀ (i j : Nat) p q (a b : Nat × Nat), ps[i]? = some p → ps[j]? = some q → r.2[i]? = some a → r.2[j]? = some b →
        (a.2 = b.2 ↔ p.2.1 = q.2.1)) ∧
    (∀ (u : State) (d : Ctx) (ids ps : List (Nat × Nat)), u.ctxs.find? x.cid = some d → ∃ c sp key a,
      (u.pinWait x ids ps).ctxs.find? x.cid = some c ∧ c.splits.find? x.k = some sp ∧ sp.pc = x.sp.pc ∧ sp.wait = .confirm key ∧
      c.accs.find? key = some a ∧ a.reqs = ids ∧ a.part = x.part) ∧
    (∀ word : Nat → Nat, s.issues (.tierQuery o) = some x →
      (∀ l ∈ lanesOf x.part, s.tierVa x l = .ok (va l) ∧ ∃ r, s.leafNow x.c.asid (va l) = .ok r ∧
        word l = match r with | some (lvl, _, e) => s.tierWord (va l) lvl e | none => 0) →
      exec (.tierQuery o) s = .next (s.owes x 64 false word))

/-- R197, R340 to R342, R345, R370: trap, svc and brk take their exception; a privileged thread registers' reads and writes
complete, tresume gives its status, and rdctr gives a counter. It rests on the model's own choices of log entries 31, 46, 92. -/
def Obligations.SystemInstructions : Prop :=
  ∀ (s : State) (x : Iss) (o : Opr) (cs : Cause) (q : BitVec 8) (n : BitVec 24) (num : BitVec 12) (k e : BitVec 8),
    let low := lowest x.part
    let m := x.rd s low 32 .zero .b
    let tok := BitVec.ofNat 64 (x.rd s low 64 .zero .a)
    let mask := BitVec.ofNat 32 (x.rd s low 32 .zero .c)
    let g : BitVec 64 := if o.usesImm then 0 else x.eWord s low e
    let r := s.tresume tok m mask g
    (s.issues (.trap o cs q) = some x → exec (.trap o cs q) s = .next (s.trapAt x { cause := cs, qual := q.toNat })) ∧
    (s.issues (.svc o n) = some x → exec (.svc o n) s = .next (s.trapAt x { cause := .svc, aux := n.setWidth 64 })) ∧
    (s.issues (.brk o n) = some x → exec (.brk o n) s = .next (s.trapAt x { cause := .brk, aux := n.setWidth 64 })) ∧
    (s.issues (.wrpriv o num) = some x →
      exec (.wrpriv o num) s = .next (s.retire x (x.c.privSet num.toNat (x.rd s low 64 .zero .a)))) ∧
    (s.issues (.rdpriv o num) = some x → exec (.rdpriv o num) s = .next (s.owes x 64 false fun _ => s.privReg x.c num.toNat)) ∧
    (s.issues (.rdctr o k) = some x → exec (.rdctr o k) s = .next (s.owes x 64 false fun _ => s.ctrRead x.c k.toNat)) ∧
    (s.issues (.tresume o e) = some x → m < 4 → ¬(m = 2 ∧ o.usesImm = true) → s.orderWait x.c true .rel .pkg = none →
      ∀ c, r.1.ctxs.find? x.cid = some c → exec (.tresume o e) s = .next (r.1.retire x ((c.passGate true).applyAll
        (x.c.dst low 32 false o.d r.2))))

/-! ### Events -/

/-- R15, R16, R60, R65, R90, R95, R96, R102, R109, R185, R282, R352, R372, R395, R418: a result lands, an access is confirmed, a
request is served at its performing point or its peer's bank, another package's answer is taken, and a hold ends, when each is
due. It rests on the model's own choices of log entries 4, 14, 16, 23, 64, 65. -/
def Obligations.ResultsAndRequests : Prop :=
  ∀ (s s' u : State) (w : Who) (cid id key j : Nat) (c : Ctx) (r : Res) (q : Req) (wr : RW) (v g : Nat) (l : List Nat),
    let cleared (q : Req) : State := (s.rcClear q.dev (sysOff q.va)).endReq id q (.done (s.regRead q.dev (sysOff q.va)) 0)
    let reg (q : Req) : Prop := s.ms.reqs.find? id = some q ∧ q.isReg = true ∧ q.kind = .load ∧ s.dueReq q = true ∧ s.behind (s.ctx q.cid) id q = false
    let alone (t : State) (q : Req) : Prop := q.space ≤ 3 ∧ t.ctxs.find? q.cid = some c ∧ t.behind c id q = false ∧ t.twins id q = []
    let open_ : Prop := s.ms.throttle.find? key = none ∨ s.sideOpen key = true
    let t : State := { s with ms := { s.ms with side := SMap.set [] s.ms.side key l } }
    let q' : Req := { q with st := .waiting }
    (s.ctxs.find? cid = some c → c.res.find? key = some r → (∀ n ∈ r.tiles, c.tileWaits key n = false) →
      exec (.variableLatencyResult cid (key * 2 ^ 20)) s = .next (s.landRes cid key c r)) ∧
    (s.ctxs.find? cid = some c → c.res.find? key = some r → r.writes[j]? = some wr → j + 1 < 2 ^ 20 →
      exec (.variableLatencyResult cid (key * 2 ^ 20 + (j + 1))) s = .next (s.setCtx cid
        { c.land [wr] with res := c.res.put key { r with writes := r.writes.eraseIdx j } })) ∧
    (∀ sp a, let y := (s.waitedReqs w.cid w.k).foldl State.sureReq s
      y.ctxs.find? w.cid = some c → c.splits.find? w.k = some sp → sp.wait = .confirm key → c.accs.find? key = some a →
      (∀ p ∈ a.reqs, ∀ q, y.ms.reqs.find? p.2 = some q → q.sure = true) →
      let bad := y.badOf a
      let mask := maskOf (bad.map (·.1))
      (bad = [] → exec (.accessConfirm w) s = .next ((y.setCtx w.cid (Ctx.advance { c with
        accs := c.accs.put key { a with freed := true }, sr := match a.sr with | some g => c.sr.put 0 g | none => c.sr } y.pt w.k)).settleAcc
          w.cid key)) ∧
      (∀ f, firstFault bad = some f → f ∈ bad ∧ (∀ p ∈ bad, f.1 ≤ p.1) ∧ exec (.accessConfirm w) s = .next
        ((((y.forgetReqs (a.goneReqs mask)).setCtx w.cid { c with accs := c.accs.put key { a with
          freed := true, part := a.part &&& ~~~ mask, reqs := a.reqs.filter (fun p => !mask.getLsbD p.1) } }).settleAcc w.cid key).takeTrap
            w.cid w.k { cause := f.2.1, qual := f.2.2.1, level := f.2.2.2.1, aux := f.2.2.2.2, lmask := mask, pmask := a.part, lanes := true,
                        addr := if a.kind = .accOut then y.badStore a
                                else ((a.ptrs.find? (fun p => p.1 = f.1)).map (·.2)).getD 0 }))) ∧
    (s.ms.reqs.find? id = some q → s.dueReq q = true → q.kind = .load → alone s q → s.performReq c q .queue = (u, .ok v g) →
      exec (.haRead id) s = .next (u.endReq id q (.done v g))) ∧
    (s.ms.reqs.find? id = some q → s.dueReq q = true → q.kind = .load → (q.space ≠ farSpace → s.servePtr id q .queue = some u) →
      (q.space = farSpace → s.serveFar id q .queue = some u) → exec (.haRead id) s = .next u) ∧
    (s.ms.reqs.find? id = some q → s.dueReq q = true → q.kind.writes = true → alone s q → s.aliasHold c id q = (s', false) →
      s'.performReq c q .queue = (u, .ok v g) → exec (.haWrite id) s = .next (u.endReq id q (.done v g))) ∧
    (s.ms.reqs.find? id = some q → s.dueReq q = true → q.kind.writes = true → q.space ≠ sigSpace →
      (q.space = farSpace → s.serveFar id q .queue = some u) → (q.space = kvuSpace → s.serveKvu id = some u) →
      (q.space ≠ farSpace → q.space ≠ kvuSpace → s.servePtr id q .queue = some u) → exec (.haWrite id) s = .next u) ∧
    (s.ms.reqs.find? id = some q → s.dueReq q = true → q.kind.writes = true → q.space = sigSpace → s.sigStep q = (u, .ok v g) →
      exec (.haWrite id) s = .next { u with ms := { u.ms with reqs := u.ms.reqs.erase id } }) ∧
    (s.ms.reqs.find? id = some q → s.dueReq q = true → q.kind = .unpin → s.unpinStep q = (u, .ok v g) →
      exec (.haWrite id) s = .next (u.endReq id q (.done v g))) ∧
    (∀ k b b', s.ms.reqs.find? id = some q → q.space = 5 → q.fin = false →
      (∀ p ∈ s.ms.reqs, p.1 < id → p.2.fin = true ∨ p.2.space ≠ 5 ∨ blkOf p.2.cid ≠ blkOf q.cid ∨ p.2.rank ≠ q.rank) →
      (∀ z, s.blk? (blkOf q.cid) = some z → s.ownBankBehind z id q = false) →
      (s.blk? (blkOf q.cid)).bind (fun b => s.peerOf b q.rank) = some (k, b) → b.aspDo q.va q.size q.kind = some (b', v) →
      exec (.gangPeerAccess id) s = .next ((s.setBlk k b').endReq id q (.done v s.pt))) ∧
    (∀ a, s.ms.reqs.find? id = some q → q.kind.writes = true → q.st = .confirmed v g → (s.ownMesh q.va = true → g ≤ s.pt) →
      exec (.remoteWriteAck id a) s = .next (s.endReq id q (.done v g))) ∧
    (s.ms.reqs.find? id = some q → q.since + s.fld (fabB + 8) 0 32 * 1024 ≤ s.pt → q.st = .waiting → q.kind = .load ∨ q.kind.writes = true →
      q.space = 8 → s.ownMesh q.va = false → s.pathUp (s.farOf q).1 (s.farOf q).2 = false →
      exec (.linkTimeout id) s = .next (s.endReq id q (.failed .page (remote qAbsent) 0 0))) ∧
    (∀ sp sc, s.ctxs.find? w.cid = some c → c.splits.find? w.k = some sp →
      (sp.wait = .release sc ∧ s.released c sc = true ∨ sp.wait = .gate ∧ s.gateOf c false = none) →
      exec (.releaseWaitEnd w) s = .next (s.setCtx w.cid (c.setSplit w.k { sp with wait := .none }))) ∧
    (SMap.get [] s.ms.side key = id :: l → open_ → s.ms.reqs.find? id = some q → q.kind = .load → alone (t.setReq id q') q' →
      (t.setReq id q').performReq c q' .through = (u, .ok v g) →
      exec (.sideQueueRelease key) s = .next (u.endReq id q' (.done v g))) ∧
    (SMap.get [] s.ms.side key = id :: l → open_ → s.ms.reqs.find? id = some q → t.serveSide id q = some u →
      exec (.sideQueueRelease key) s = .next u) ∧
    (SMap.get [] s.ms.side key = id :: l → open_ → s.ms.reqs.find? id = none → exec (.sideQueueRelease key) s = .next t) ∧
    (SMap.get [] s.ms.side key = id :: l → ¬open_ →
      exec (.sideQueueRelease key) s = .refused (.notEnabled "SIDE_QUEUE_RELEASE")) ∧
    (reg q → sysOff q.va = tierB + 0x48 → exec (.eloglostRead id) s = .next (cleared q)) ∧
    (∀ n < 256, reg q → sysOff q.va = schB + 0x40 * n + 0x28 → exec (.qevtRead id) s = .next (cleared q)) ∧
    (∀ n < 64, reg q → sysOff q.va = partB + 0x10000 + 0x400 * n + 0x3A0 → exec (.iovfRead id) s = .next (cleared q)) ∧
    (∀ n < 64, reg q → sysOff q.va = trapB + 0x80 * n + 0x30 → exec (.prestatRead id) s = .next (cleared q))

/-- R24, R37, R40, R69, R72, R75 to R79, R96: leases, ownership and directory entries end only when they may: a translation, a
copy or an ownership at its expiry, a directory entry once no write is hidden, whose completion time the floor of its tier then
keeps; and a dirty counter is written to its cell. It rests on the model's own choices of log entries 18, 67, 76, 78, 79. -/
def Obligations.CacheEvents : Prop :=
  ∀ (s : State) (key line : Nat) (e : TEnt) (c : Copy) (d : Dir) (die asid va x : Nat),
    let live : Prop := s.asDesc c.asid % 2 = 1 ∧ descOk (s.asDesc c.asid) = true
    (s.ms.tlb.find? key = some e → e.exp ≤ s.pt → exec (.translationLeaseExpiry key) s = .next (s.tlbDrop key)) ∧
    (s.ms.tlb.find? key = some e → s.pt < e.exp →
      exec (.translationLeaseExpiry key) s = .refused (.notEnabled "TRANSLATION_LEASE_EXPIRY")) ∧
    (s.ms.copies.find? key = some c → c.exp ≤ s.pt →
      exec (.leaseExpiry key) s = .next { s with ms := { s.ms with copies := s.ms.copies.erase key } }) ∧
    (s.ms.copies.find? key = some c → s.pt < c.exp → exec (.leaseExpiry key) s = .refused (.notEnabled "LEASE_EXPIRY") ∧
      (c.lvl ≠ .l2 → c.lvl ≠ .l3 → exec (.leaseRenewal key) s = .refused (.notEnabled "LEASE_RENEWAL"))) ∧
    (∀ i o s' o' t exp, s.ms.copies.find? key = some c → (c.exp ≤ s.pt ∨ c.lvl = .l2 ∨ c.lvl = .l3) → live → s.outerCopy c = some (i, o) →
      (∀ p ∈ o.upd, p.1 ≤ s.pt) → s.stretch (bits (s.asDesc c.asid) 8 6) i o = (s', o') →
      s'.passDown i o' (bits (s.asDesc c.asid) 8 6) = (t, exp) →
      exec (.leaseRenewal key) s = .next (t.renewed key c exp (lineSlice o'.data c.va c.lvl) o'.bad)) ∧
    (∀ t, s.ms.copies.find? key = some c → (c.exp ≤ s.pt ∨ c.lvl = .l2 ∨ c.lvl = .l3) → live → s.outerCopy c = none →
      s.renewAtHA key c = some t → exec (.leaseRenewal key) s = .next t) ∧
    (s.ms.copies.find? key = some c → ¬live → exec (.leaseRenewal key) s = .refused (.notEnabled "LEASE_RENEWAL")) ∧
    (∀ (t : State) (tr : Trans), die < 3 → s.translate asid va .store true = (t, .ok tr) → t.poolSays tr.pa = .serve →
      t.moving (t.routed tr.pa / 65536) = false → ∃ u, exec (.ownershipRequest die asid va tr.vdev) s = .next u ∧
        ∃ d, u.ms.dir.find? (t.routed tr.pa / 128) = some d ∧ d.owner = some (die, asid, va / 128 * 128, tr.exp)) ∧
    (s.hasOwner line = true → exec (.ownershipRecall line) s = .next (s.writeBack line) ∧
      exec (.l2Eviction line) s = .next (s.letGo line)) ∧
    (s.ms.dir.find? line = some d → d.owner = some (die, asid, va, x) → x ≤ s.pt →
      exec (.ownershipExpiry line) s = .next s) ∧
    (s.ms.dir.find? line = some d → (∀ p ∈ d.pend, p.1 ≤ s.pt) → ∃ t, exec (.directoryDrop line) s = .next t ∧
      t.ms.dir.find? line = none ∧ d.exp ≤ SMap.get 0 t.ms.floors (region (line * 128)) ∧
      d.gprev ≤ SMap.get 0 t.ms.floors (region (line * 128))) ∧
    (∀ p : Word64 × Nat, s.ms.counters.find? key = some p → exec (.counterWriteback key) s =
      .next ({ s with ms := { s.ms with counters := s.ms.counters.erase key } }.physWr key (leBytes 8 p.1.toNat)).1)

/-- R41, R42, R46 to R52: the migration engine takes its oldest hint or pin, copies a chunk, swaps the leaf within 6000 ticks of
the catch's beginning or times out then, begins it again, and retires a committed entry once its last lease has expired. It rests
on the model's own choices of log entries 18, 48. -/
def Obligations.MigrationEvents : Prop :=
  ∀ (s t : State) (f : Nat) (e : Fwd) (h : Hint) (rest : List Hint),
    (s.mig.hints = h :: rest → { s with mig := { s.mig with hints := rest } }.migLook h = .over t → exec .migAccept s = .next t) ∧
    (s.mig.hints = h :: rest → { s with mig := { s.mig with hints := rest } }.migLook h = .wait → exec .migAccept s = .next
      { s with mig := { s.mig with hints := rest, waiting := s.mig.waiting ++ [h] } }) ∧
    (s.mig.waiting = h :: rest → { s with mig := { s.mig with waiting := rest } }.migLook h = .over t → exec .pinRetry s = .next t) ∧
    (s.mig.fwd.find? f = some e → e.st = .copying → e.copied < 16 →
      let src := e.src * 65536 + e.copied * 4096
      let dst := e.dst * 65536 + e.copied * 4096
      let key := s.fwdKey e
      let copied (u : State) : State := u.setFwd f { e with
        copied := e.copied + 1, st := if e.copied = 15 then .catching else .copying, catchAt := if e.copied = 15 then u.pt else e.catchAt }
      s.poolSays src = .serve → s.poolSays dst = .serve →
      (s.keyMode key ≠ 0 → exec (.chunkCopy f) s = .next
        (copied ((s.wrBytes key dst (s.rdBytes key src 4096)).carryPoison (src / 128) (dst / 128) 32))) ∧
      (s.keyMode key = 0 → exec (.chunkCopy f) s = .next
        (copied ((s.poisonOff e.dev (src / 128) 32).poisonOff e.dev (dst / 128) 32)))) ∧
    (s.mig.fwd.find? f = some e → e.st = .catching → s.pt < e.catchAt + 6000 →
      let s1 := (s.carryPoison (e.src * 512) (e.dst * 512) 512).dirtyLog e.dev (e.dst * 65536) 0 true
      let s2 := (s1.physWr e.leafPA (leBytes 8 (e.newLeaf (s.physRd e.leafPA 8)))).1
      let s3 := (((List.range 512).foldl (fun u i => u.handLine e.dev (e.src * 512 + i) (e.dst * 512 + i)) s2).handWatch
        e.src e.dst).usedAdd e.dev e.srcTier false
      let e' : Fwd := { e with st := .committed, window := [], pins := [], loose := [], retireAt := SMap.get 0 s3.ms.leafExp e.leafPA }
      exec (.catchSwap f) s = .next (((s3.setFwd f e').pinsDone (e.pins ++ e.loose)).releaseWindow e)) ∧
    (∀ old, e.dst < 2 ^ 36 → e.dstTier < 4 → let n := e.newLeaf old
      bits n 16 36 = e.dst ∧ bits n 9 2 = e.dstTier ∧ n.testBit 8 = false ∧ n.testBit 7 = e.pin ∧
      ∀ i, (i < 7 ∨ 11 ≤ i ∧ i < 16 ∨ 52 ≤ i) → n.testBit i = old.testBit i) ∧
    (s.mig.fwd.find? f = some e → e.st = .catching → e.catchAt + 6000 ≤ s.pt →
      let u := (s.setFwd f { e with st := .copying, window := [], fails := e.fails + 1, retryAt := s.pt + 30000, status := 0 }).releaseWindow e
      exec (.catchSwap f) s = .refused (.notEnabled "CATCH_SWAP") ∧
      exec (.catchTimeout f) s = .next (if e.fails + 1 = 3 then u.abandon f 1 else u)) ∧
    (s.mig.fwd.find? f = some e → s.pt < e.catchAt + 6000 → exec (.catchTimeout f) s = .refused (.notEnabled "CATCH_TIMEOUT")) ∧
    (s.mig.fwd.find? f = some e → e.st = .copying → e.copied = 16 → e.retryAt ≤ s.pt →
      exec (.catchRetry f) s = .next (s.setFwd f { e with st := .catching, catchAt := s.pt })) ∧
    (s.mig.fwd.find? f = some e → e.st = .committed → e.retireAt ≤ s.pt → s.ringFull (tslot e.dev + 0x50) (tslot e.dev + 0x58) = false →
      (∀ p ∈ s.mig.posts, p.1 ≠ e.dev) →
      exec (.migRetire f) s = .next ((s.dropFwd f).postComp e.dev (compRec e.src e.status e.dst e.asid)))

/-- R53 to R59, R61 to R65: pool ownership is requested, forced, refused, handed over and timed out as the page's table entry
says; refresh windows lift throttles, and memory errors count, poison and are logged. It rests on the model's own choices of log
entries 49, 66, 87, 98, 99. -/
def Obligations.PoolAndErrorEvents : Prop :=
  ∀ (s : State) (w : RegW) (ppn frm n t seq ctl pa vdev cls : Nat) (e p qr qc k : Nat) (f : PoolFact) (bad : Bool),
    let q := (bits e 16 48 + 1) % 2 ^ 48
    let pp := potPpn w
    let page : Prop := s.potTarget pp = some (n, e) ∧ s.cxlUp = true
    let ep := s.potEntry p
    let qp := (bits (if potOk ep = true then ep else f.seq * 2 ^ 16) 16 48 + 1) % 2 ^ 48
    let named : Prop := s.poolPage ppn = some p
    let mine : Prop := named ∧ s.cxlUp = true ∧ s.mig.facts.find? p = some f ∧ f.owned = true ∧ potOk ep = true
    let asked : Prop := named ∧ s.mig.potReq = some (p, t, qr, qc)
    let owner := s.potCmd.poolMember (bits e 0 4)
    (s.potBusy = true → exec (.potcmdRequest w) s = .next s ∧ exec (.potcmdForce w) s = .next s ∧ exec (.potcmdBadcmd w) s = .next s) ∧
    (s.potBusy = false → s.potTarget pp = none → ((s.poolPage pp).isSome = true → s.cxlUp = true) → exec (.potcmdRequest w) s = .next (s.potCmd.setPot 3 1 none) ∧
      exec (.potcmdForce w) s = .next (s.potCmd.setPot 3 1 none)) ∧
    (s.potBusy = false → (s.poolPage pp).isSome = true → s.cxlUp = false →
      let held (force : Bool) : State := { s.potCmd with mig := { s.potCmd.mig with potWait := some (force, pp, s.pt) } }.setPot 1 0 none
      exec (.potcmdRequest w) s = .next (held false) ∧ exec (.potcmdForce w) s = .next (held true)) ∧
    (s.potBusy = false → page → bits e 0 4 = s.member → bits e 4 2 = 1 → exec (.potcmdRequest w) s = .next
      ((s.potCmd.setFact n { owned := true, handover := none, seq := bits e 16 48 }).setPot 2 0 (some (bits e 16 48)))) ∧
    (s.potBusy = false → page → bits e 0 4 ≠ s.member ∨ bits e 4 2 ≠ 1 → let s1 := s.potCmd.tell owner (.handover (n + 2 ^ 33))
      exec (.potcmdRequest w) s = .next ({ s1 with mig := { s1.mig with potReq := some (n, s1.pt, owner.1, owner.2) } }.setPot 1 0 none)) ∧
    (s.potBusy = false → page → exec (.potcmdForce w) s = .next (((s.potCmd.putPot n
      (putBits (putBits (putBits e 0 4 s.member) 4 2 1) 16 48 q)).setFact n { owned := true, handover := none, seq := q }).setPot 2 0
        (some q))) ∧
    (s.potBusy = false → exec (.potcmdBadcmd w) s = .next (s.potCmd.setPot 3 4 none)) ∧
    (named → s.cxlUp = false → exec (.handoverRequest ppn frm) s = .refused (.notEnabled "HANDOVER_REQUEST")) ∧
    (named → s.cxlUp = true → s.mig.facts.find? p = none → exec (.handoverRequest ppn frm) s = .next (s.potReply 1 0)) ∧
    (mine → f.handover = none → (∀ x ∈ s.mig.fwd, x.2.src ≠ ppn ∧ x.2.dst ≠ ppn) →
      exec (.handoverRequest ppn frm) s = .next ((List.range 512).foldl (fun s i => s.writeBack (ppn * 512 + i))
        ((s.putPot p (putBits (putBits ep 4 2 2) 6 4 frm)).setFact p { f with handover := some (frm % 16) }))) ∧
    (∀ r, named → s.mig.facts.find? p = some f → f.handover = some r → s.pageExp ppn < s.pt → s.cxlUp = true → exec (.handoverCommit ppn) s = .next
      (((s.putPot p (putBits (putBits (putBits (if potOk ep = true then ep else f.seq * 2 ^ 16) 0 4 r) 4 2 1) 16 48 qp)).setFact p
        { owned := false, handover := none, seq := qp }).potReply 0 qp)) ∧
    (asked → ∀ code, exec (.handoverReply ppn (some code) frm seq) s = .next
      ({ s with mig := { s.mig with potReq := none } }.setPot 3 code none)) ∧
    (asked → s.newerSeq p seq = true → exec (.handoverReply ppn none s.member seq) s = .next
      (({ s with mig := { s.mig with potReq := none } }.setFact p { owned := true, handover := none, seq := seq }).setPot 2 0 (some seq))) ∧
    (named → s.mig.potReq = none → s.mig.late.find? (fun x => x.1 = p) = some (p, k) → s.newerSeq p seq = true →
      exec (.handoverReply ppn none s.member seq) s = .next (
        let u := s.setFact p { owned := true, handover := none, seq := seq }
        let u := { u with mig := { u.mig with late := u.mig.late.filter (fun y => y.1 ≠ p) } }
        if k = s.mig.potCmds then u.setPot 2 0 (some seq) else u)) ∧
    (s.mig.potWait = none → s.mig.potReq = some (n, t, qr, qc) → t + 3000000 ≤ s.pt → exec .handoverTimeout s = .next
      ({ s with mig := { s.mig with potReq := none,
                                    late := s.mig.late.filter (fun y : Nat × Nat => y.1 ≠ n) ++ [(n, s.mig.potCmds)] } }.setPot 3 3 none)) ∧
    (s.mig.potWait = none → s.mig.potReq = some (n, t, qr, qc) → s.pt < t + 3000000 →
      exec .handoverTimeout s = .refused (.notEnabled "HANDOVER_TIMEOUT")) ∧
    (∀ force, s.mig.potWait = some (force, ppn, t) → s.cxlUp = false → t + s.fld (fabB + 8) 0 32 * 1024 ≤ s.pt →
      let line := s.fld (tierB + 8) 16 36 * 2 ^ 16 + 8 * (ppn - 2 ^ 33)
      let u := if s.poisoned (line / 128) = true then s else s.poisonLine line 0 0x7F
      exec .handoverTimeout s = .next ({ u with mig := { u.mig with potWait := none } }.setPot 3 3 none)) ∧
    (isCtl ctl = true → ∃ t, exec (.refreshWindowEnd ctl) s = .next t ∧
      ∀ x ∈ t.ms.throttle, x.1 / 64 / 2 ^ 32 ≠ ctl) ∧
    (isCtl ctl = true → s.dramLine pa = true → SMap.get 0 s.ms.corr ctl + 1 ≠ 256 → exec (.correctableError ctl pa) s = .next
      { s with ms := { s.ms with corr := SMap.set 0 s.ms.corr ctl (SMap.get 0 s.ms.corr ctl + 1) } }) ∧
    (isCtl ctl = true → s.dramLine pa = true → SMap.get 0 s.ms.corr ctl + 1 = 256 → exec (.correctableError ctl pa) s = .next
      ({ s with ms := { s.ms with corr := SMap.set 0 s.ms.corr ctl 0 } }.errorLog pa 3 0x7F).1) ∧
    (isCoreCtl ctl = true → exec (.correctableError ctl pa) s = .next
      { s with ms := { s.ms with corr := SMap.set 0 s.ms.corr ctl (SMap.get 0 s.ms.corr ctl + 1) } }) ∧
    (s.dramLine pa = true → exec (.patrolScrub pa bad) s = .next
      (if (bad && !s.poisoned (pa / 128)) = true then s.poisonLine pa 1 0x7F else s)) ∧
    (s.populated (pa / 128 * 128) 128 = true → s.poisoned (pa / 128) = false → (cls = 0 ∨ cls = 2 ∧ region pa = 2) →
      (vdev < 64 ∨ vdev = 0x7F) → exec (.uncorrectableError pa vdev cls) s = .next (s.poisonLine pa cls vdev))

/-- R119 to R133, R139 to R143: fills and rebuilds end once their last line has been read, the mirror is written, cells fail,
handles are revoked by command, and the table updates and the quarantine proceed in their turn. It rests on the model's own
choices of log entries 39, 42, 86. -/
def Obligations.ResidencyAndTableEvents : Prop :=
  ∀ (s t : State) (v h i t0 : Nat) (r : Rsd) (w : RegW) (who : Who) (u : KvUpd) (q : QNode),
    let key := rsdKey v h
    let ended : Rsd := { r with eventpt := s.pt, dirtyMirror := true, filled := false, op := none }
    let whole : Rsd := if r.badLine.isSome = true then { ended with st := .poisoned, cause := .sourcePoison, fillpt := s.pt }
      else if r.wrote = true then { ended with st := .stale, cause := .write, eventpt := r.wroteG, fillpt := s.pt }
      else { ended with st := .ready, cause := .none, fillpt := s.pt }
    let leaves (r' : Rsd) (f : Option (Cause × Nat × Nat × BitVec 64)) : State :=
      State.switchAll (match r.op with | some op => (s.setRsd key r').countOut op f 0 | none => s.setRsd key r')
    let slot := rsdSlotOf w.off
    let idle : Prop := s.fld (rsdB + 0x40 * slot + 0x18) 0 2 ≠ 1
    (s.rsds.find? key = some r → r.st = .filling → r.filled = true →
      (r.fault = none → exec (.fillComplete v h) s = .next (leaves whole none)) ∧
      (∀ c ql lv va, r.fault = some (c, ql, lv, va) → exec (.fillComplete v h) s = .next
        (leaves { ended with st := .allocated, cause := .none, fault := none } (some (c, ql, lv, BitVec.ofNat 64 va))))) ∧
    (s.rsds.find? key = some r → r.st = .rebuilding → r.filled = true →
      (r.fault = none → exec (.rebuildComplete v h) s = .next (leaves whole none)) ∧
      (∀ z, r.fault = some z → exec (.rebuildComplete v h) s = .next
        (leaves { ended with st := .stale, cause := if z.1 = .stale then .remap else .rebuildFault, fault := none } none))) ∧
    (s.rsds.find? key = some r → r.filled = false → exec (.fillComplete v h) s = .refused (.notEnabled "FILL_COMPLETE") ∧
      exec (.rebuildComplete v h) s = .refused (.notEnabled "REBUILD_COMPLETE")) ∧
    (s.rsds.find? (rsdKey v h) = some r → r.dirtyMirror = true → r.st ≠ .free → s.fld (rsdB + 0x40 * v) 0 1 = 0 →
      exec (.rdtMirrorWrite v h) s = .next (s.setRsd (rsdKey v h) { r with dirtyMirror := false })) ∧
    (s.rsds.find? (rsdKey v h) = some r → r.dirtyMirror = true → r.st = .free → s.fld (rsdB + 0x40 * v) 0 1 = 0 →
      exec (.rdtMirrorWrite v h) s = .next { s with rsds := s.rsds.erase (rsdKey v h) }) ∧
    (s.rsds.find? (rsdKey v h) = some r → r.dirtyMirror = true → s.fld (rsdB + 0x40 * v) 0 1 = 1 →
      exec (.rdtMirrorWrite v h) s = .next (
        (if r.st = .free then { s with rsds := s.rsds.erase (rsdKey v h) }
         else s.setRsd (rsdKey v h) { r with dirtyMirror := false }).physWr
          (s.fld (rsdB + 0x40 * v) 21 31 * 2 ^ 21 + 32 * h) (leBytes 32 r.desc)).1) ∧
    (s.rsd? v h = some r → r.st = .ready → exec (.cellError v h) s = .next
      (s.setRsd (rsdKey v h) { (r.go .poisoned s.pt) with cause := .cell })) ∧
    (idle → s.rsd? slot (bits w.val.toNat 0 16) = none → exec (.rcmdRevoke w) s = .next (s.setRstat slot 3 1)) ∧
    (idle → s.rsd? slot (bits w.val.toNat 0 16) = some r → exec (.rcmdRevoke w) s = .next
      ((s.revokeRsd (rsdKey slot (bits w.val.toNat 0 16))).rstatDone slot).switchAll) ∧
    (idle → exec (.rcmdRevokeAll w) s = .next (((s.liveHandles slot).foldl State.revokeRsd s).rstatDone slot).switchAll) ∧
    (∀ k, s.rsds.find? k = some r → s.rsdInUse k = false → s.revokeRsd k = s.freeRsd k) ∧
    (∀ k, s.rsds.find? k = some r → s.rsdInUse k = true → s.revokeRsd k = s.setRsd k { r with revoke := true }) ∧
    (idle → exec (.rcmdBadcmd w) s = .next (s.setRstat slot 3 2)) ∧
    (¬idle → exec (.rcmdRevoke w) s = .next s ∧ exec (.rcmdRevokeAll w) s = .next s ∧ exec (.rcmdBadcmd w) s = .next s) ∧
    (384 < w.val.toNat % 512 → exec (.rquotaWrite w) s = .next s) ∧
    (w.val.toNat % 512 ≤ 384 → exec (.rquotaWrite w) s = .next (s.budgetWrite w.dev
      { slice := 5, target := slot, index := 0, value := w.val.toNat % 512, mask := 0x1FF, reservedSet := false })) ∧
    (s.kv.upds.find? (fun u => u.cid = who.cid && u.k = who.k) = some u → s.kvStep u = some t → exec (.kvUpdate who) s = .next t) ∧
    (s.kv.look.find? (who.cid * 8 + who.k) = some t0 → t0 + 32768 ≤ s.pt → exec (.kvLookupRestart who) s = .next
      { s with kv := { s.kv with look := s.kv.look.put (who.cid * 8 + who.k) s.pt } }) ∧
    (s.kv.quar[i]? = some q → s.quarStep i q = some t → exec (.quarantineRelease i) s = .next t) ∧
    (s.kv.quar[i]? = some q → s.pt < q.due → exec (.quarantineRelease i) s = .refused (.notEnabled "QUARANTINE_RELEASE"))

/-- R315 to R317, R325, R326: an engine operation counts out once its writes' completion time has come; storage commands complete
or time out, and a channel is configured. It rests on the model's own choices of log entries 36, 88. -/
def Obligations.EngineEvents : Prop :=
  ∀ (s : State) (w : RegW) (id cmd st g : Nat) (data : List (BitVec 8)) (o : EOp) (c : NvCmd) (f : Option (Cause × Nat × Nat × BitVec 64)),
    let n := c.blocks * (bits o.c.toNat 0 32 / Nat.max 1 ((o.cmds.map (·.blocks)).foldl (· + ·) 0))
    let out : Prop := s.eng.ops.find? id = some o ∧ o.kind = .srd ∧ o.cmds[cmd]? = some c ∧ c.done = false ∧ c.flying = true
    let ch := (w.off - chanReg 0 0) / 0x40
    let v := w.val.toNat
    let keep := BitVec.ofNat 64 (bits v 0 1 + bits v 8 12 % 2 ^ 12 * 2 ^ 8 + bits v 32 32 % 2 ^ 32 * 2 ^ 32)
    (s.eng.ops.find? id = some o → o.st = .written g f → o.spoiled = false → g ≤ s.pt → exec (.engineCountOut id) s = .next (s.countOut id f o.wrote)) ∧
    (s.eng.ops.find? id = some o → o.st = .written g f → o.spoiled = true →
      exec (.engineCountOut id) s = .next ((s.collSpoiled id o).engReq id o 1)) ∧
    (∀ cid d l fl n, s.eng.ops.find? id = some o → o.charged = [cid] → s.ctxs.find? cid = some d → SMap.get [] d.eng o.ctr = id :: l →
      (∀ k, l.head? = some k → k ≠ id ∧ s.opOut k = false) → ∃ d', (s.countOut id fl n).ctxs.find? cid = some d' ∧
        SMap.get [] d'.eng o.ctr = l ∧ SMap.get 0 d'.ac o.ctr = l.length ∧
        (∀ z, fl = some z → d.latch.find? o.ctr = none → ∃ y, d'.latch.find? o.ctr = some y ∧ y.cause = z.1 ∧ y.qual = z.2.1)) ∧
    (s.eng.ops.find? id = some o → o.st = .written g f → o.spoiled = false → s.pt < g →
      exec (.engineCountOut id) s = .refused (.notEnabled "ENGINE_COUNT_OUT")) ∧
    (out → c.sub = some g → st % 2 ^ 15 = 0 → data.length = n →
      exec (.nvmeCompletion id cmd st data) s = .next ((s.nvTake o.chan c 0).nvOver id cmd o c data none)) ∧
    (out → c.sub = some g → st % 2 ^ 15 ≠ 0 →
      exec (.nvmeCompletion id cmd st data) s = .next ((s.nvTake o.chan c st).nvOver id cmd o c (List.replicate n 0) (some st))) ∧
    (out → c.sub = some g → g + s.fld (chanReg o.chan 0x38) 0 32 * 1024 ≤ s.pt →
      exec (.nvmeTimeout id cmd) s = .next (s.nvOver id cmd o c (List.replicate n 0) (some 0x7FFF))) ∧
    (s.fld (chanReg ch 0) 0 1 ≠ 1 → bitOf v 0 = false → exec (.chcfgWrite w) s = .next (s.setReg (chanReg ch 0) keep)) ∧
    (s.fld (chanReg ch 0) 0 1 ≠ 1 → bitOf v 0 = true → s.chanOk ch v = true → exec (.chcfgWrite w) s = .next
      ({ s with eng := { s.eng with chq := s.eng.chq.erase ch } }.setReg (chanReg ch 0) keep)) ∧
    (s.fld (chanReg ch 0) 0 1 ≠ 1 → bitOf v 0 = true → s.chanOk ch v = false → exec (.chcfgWrite w) s = .next s) ∧
    (s.fld (chanReg ch 0) 0 1 = 1 → bitOf v 0 = true → exec (.chcfgWrite w) s = .next s) ∧
    (s.fld (chanReg ch 0) 0 1 = 1 → bitOf v 0 = false → exec (.chcfgWrite w) s = .next
      ({ s with eng := { s.eng with chOff := s.eng.chOff.put ch keep } }.chanSettle ch))

/-- R327 to R333: a collective's contributions and reports arrive, rank 0 commits when every report is in and nothing aborts it,
and a participant whose deadline passes asks for an abort, or aborts alone after twice the deadline. It rests on the model's own
choices of log entries 21, 37, 90. -/
def Obligations.CollectiveEvents : Prop :=
  ∀ (s : State) (c d : CollId) (x : Coll) (id rank qual q : Nat) (p : CollPar) (data : List (BitVec 8)), s.coll? d = some x →
    let led : Prop := s.collLeads c = true ∧ c = d ∨ s.collLeads c = false ∧ s.collHere c (s.memberAt 0) = .ok d
    (x.op = some id → rank < x.members.length → rank ≠ x.rank → s.collHere c (fun _ => p.members[rank]?) = .ok d → x.decided = none →
      exec (.collData c rank ⟨p, data⟩) s = .next (s.collReport { x with data := x.data.put rank data, pars := x.pars.put rank p })) ∧
    (s.collHere c (fun _ => p.members[rank]?) = .error q →
      exec (.collData c rank ⟨p, data⟩) s = .next (s.collRefuse c p.members[rank]? q)) ∧
    (x.op = some id → x.rank = 0 → rank ≠ 0 → rank < x.members.length → x.decided = none → rank ∉ x.ready →
      s.collHere c (s.memberAt rank) = .ok d → exec (.collReady c rank) s = .next (s.setColl { x with ready := x.ready ++ [rank] })) ∧
    (s.collHere c (s.memberAt rank) = .error q → exec (.collReady c rank) s = .next (s.collRefuse c (s.memberAt rank c) q)) ∧
    (led → s.collOpen x = true → x.said = true → x.op = some id →
      (x.rank = 0 → x.abort = none ∧ s.pt < x.issue + x.deadline ∧ ∀ i < x.members.length, i ∈ x.ready) →
      exec (.collCommit c) s = .next (((if x.rank = 0 then s.tellAll x (.collDecision d none) else s).setColl
        { x with decided := some none }).collResults id x)) ∧
    (led → x.rank = 0 → (x.abort ≠ none ∨ x.issue + x.deadline ≤ s.pt ∨ ∃ i < x.members.length, i ∉ x.ready) →
      exec (.collCommit c) s = .refused (.notEnabled "COLL_COMMIT")) ∧
    (led → x.decided = none → qual ≤ 4 → (x.op ≠ none → x.rank = 0 → x.abort = some qual) →
      exec (.collAbortDecision c qual) s = .next (s.collDecide x qual)) ∧
    (s.collLeads c = false → s.collHere c (s.memberAt 0) = .error q →
      exec (.collCommit c) s = .next (s.collRefuse c (s.memberAt 0 c) q) ∧
      exec (.collAbortDecision c qual) s = .next (s.collRefuse c (s.memberAt 0 c) q)) ∧
    (s.collHere c (fun _ => none) = .ok d → x.op = some id → x.rank = 0 → x.decided = none → x.abort = none → qual ≤ 4 →
      exec (.collAbortRequest c qual) s = .next (s.setColl { x with abort := some qual })) ∧
    (s.collHere c (fun _ => none) = .error q → qual ≤ 4 → exec (.collAbortRequest c qual) s = .next s) ∧
    (s.collOpen x = true → x.issue + x.deadline ≤ s.pt → x.asked = false → x.abort = none → exec (.collDeadline d) s = .next
      (if x.rank = 0 then s.setColl { x with abort := some 0 }
       else (s.setColl { x with asked := true }).tellRank x 0 (.collRequest d 0))) ∧
    (s.collOpen x = true → x.rank ≠ 0 → x.issue + 2 * x.deadline ≤ s.pt → exec (.collNodecision d) s = .next (s.collDecide x 5)) ∧
    (x.rank = 0 → exec (.collNodecision d) s = .refused (.notEnabled "COLL_NODECISION"))

/-- R153 to R159, R164, R167, R175 to R177, R181, R186, R246, R353 to R366: the hub takes launch records and tails, starts and
retires blocks, packs segments, answers rgrow, configures queues and runs the stages of a multi-package launch when their
conditions hold. It rests on the model's own choices of log entries 22, 94, 102. -/
def Obligations.LaunchEvents : Prop :=
  ∀ (s t u : State) (q l b cid core die member lo hi g : Nat) (x : Launch) (y : Block) (c : Ctx) (r : RGrow) (gr : Rect) (w : RegW)
    (wh : Who) (rq : RectReq) (good : Bool),
    let head := s.fld (qreg q 0x18) 0 32
    let va := (s.fld (qreg q 8) 8 48 * 256 + 256 * (head % 2 ^ s.fld (qreg q 0) 24 5)) % 2 ^ 56
    let wq := (w.off - schB) / 0x40
    let wr := (w.off - schB) % 0x40
    let tail := s.fld (qreg q 0x10) 4 52 * 16
    let claimed : State := { s with sch := { s.sch with claims := s.sch.claims ++ [rq] } }
    let home : Prop := s.sch.launches.find? l = some x ∧ x.rect = some gr ∧ x.ended = false ∧ x.home = none
    (q < 256 → s.hostRuns q = true → (s.sch.tails.find? q).isSome = true → head ≠ s.fld (qreg q 0x18) 32 32 → s.takenOf q < 16 →
      (∀ n z v m, s.qread q va 128 = (t, .ok lo g) → t.qread q (va + 128) 128 = (u, .ok hi n) →
        let k := u.take q (leBytes 128 lo ++ leBytes 128 hi)
        k.perform { asid := k.fld (qreg q 0) 32 16, va := (k.fld (qreg q 0x10) 4 52 * 16 + 8) % 2 ^ 56, n := 4, priv := false,
                    who := hubW, atL := .ha } (.wr (leBytes 4 ((head + 1) % 2 ^ 32))) = (z, .ok v m) →
        exec (.launchTake q) s = .next z) ∧
      (∀ cs ql lv aux, s.qread q va 128 = (t, .fault cs ql lv aux) → exec (.launchTake q) s = .next (t.ringFault q cs ql head))) ∧
    (q < 256 → s.hostRuns q = true → s.tailDue q = true → s.qread q tail 4 = (t, .ok lo g) →
      let noted : State := match t.paOf (t.fld (qreg q 0) 32 16) tail with
        | some p => { t with sch := { t.sch with tails := t.sch.tails.put q (p.1 / 128, none) } }
        | none => t
      let held := noted.setFld (qreg q 0x18) 32 32 lo
      exec (.tailWatch q) s = .next (if tailBad head (if (s.sch.tails.find? q).isSome = true then some (s.fld (qreg q 0x18) 32 32) else none)
          lo (noted.fld (qreg q 0) 24 5) = true
        then (held.queueStop q).queueEvent q 3 0 0 head else held)) ∧
    (∀ o n sz, (tailBad head (some o) n sz = true ↔ 2 ^ sz < (n + 2 ^ 32 - head) % 2 ^ 32 ∨ 2 ^ 31 ≤ (n + 2 ^ 32 - o) % 2 ^ 32) ∧
      (tailBad head none n sz = true ↔ 2 ^ sz < (n + 2 ^ 32 - head) % 2 ^ 32)) ∧
    (s.sch.launches.find? l = some x → s.ready l x = true → x.waiting = true →
      (∀ p ∈ s.blocks, p.2.dev = x.dev → ∀ n, p.2.st ≠ .saved n) → s.nextPlace x (fun _ _ => true) = none →
      (s.splitsNow x = true → s.behindOwn l x = false →
        exec (.blockStart l) s = .next (s.setLaunch l { x with fall := x.record.gangExt })) ∧
      ((s.splitsNow x = false ∨ s.behindOwn l x = true) → s.sch.frag.find? l = none → s.fragCores x ≠ [] →
        exec (.blockStart l) s = .next { s with sch := { s.sch with frag := s.sch.frag.put l s.pt } })) ∧
    (∀ b n cl ks, s.sch.launches.find? l = some x → s.ready l x = true → x.waiting = true →
      (∀ p ∈ s.blocks, p.2.dev = x.dev → ∀ n, p.2.st ≠ .saved n) → s.nextPlace x (fun _ _ => true) = some (b, n, cl, ks) →
      s.outranked l x cl ks = false → (∀ t, s.sch.lastStart.find? cl = some t → t + 8 * n ≤ s.pt) →
      (∀ k ∈ ks, s.rgrowDue cl k = false) →
      (s.oppWant x (dieOfCl cl) ≤ s.oppCur (dieOfCl cl) → exec (.blockStart l) s = .next
        (State.retune (((s.startGang l x b n cl ks).setLaunch l (x.startedGang b n cl)).noteStart l (x.startedGang b n cl) cl))) ∧
      (s.oppCur (dieOfCl cl) < s.oppWant x (dieOfCl cl) → x.chosen.find? (dieOfCl cl) = none → exec (.blockStart l) s = .next
        (s.setLaunch l { x with chosen := x.chosen.put (dieOfCl cl) true }).retune)) ∧
    (s.blk? b = some y → y.st = .resident → s.canRetire b = true →
      exec (.blockRetire b) s = .next ((((s.freeBlock b y).countRetired y).trySwitch y.cluster).retune)) ∧
    (∀ k, 128 ≤ k → blkOf k = b → (s.freeBlock b y).ctxs.find? k = none) ∧
    (∀ z, s.sch.launches.find? y.launch = some z →
      let u := s.setLaunch y.launch { z with retired := z.retired + 1, mean := some (match z.mean with
        | none => s.pt - y.start
        | some m => ((m : Int) + (((s.pt - y.start : Nat) : Int) - (m : Int)) / 8).toNat) }
      s.countRetired y = if z.retired + 1 = z.total then u.launchDone y.launch else u) ∧
    (s.blk? b = some y → s.canRetire b = false → exec (.blockRetire b) s = .refused (.notEnabled "BLOCK_RETIRE")) ∧
    (List.find? (fun p => (match s.sch.frag.find? p.1 with | some t => decide (t + 12000 ≤ s.pt) | none => false) && s.ready p.1 p.2
        && p.2.waiting && (s.nextPlace p.2 (fun _ _ => true)).isNone && (s.fragCores p.2).contains core) s.sch.launches = some (l, x) →
      exec (.segmentRelocation core) s = .next
        (({ s with sch := { s.sch with frag := s.sch.frag.erase l } }).pack (core / 8) (core % 8) (0, 0))) ∧
    ((∀ p ∈ s.sch.launches, ∀ t, s.sch.frag.find? p.1 = some t → s.pt < t + 12000) →
      exec (.segmentRelocation core) s = .refused (.notEnabled "SEGMENT_RELOCATION")) ∧
    (∀ cl k grown p, p ∈ s.segsOn cl k → ((s.segsOn cl k).map (·.1)).Nodup → s.ctxs.find? p.1 = some p.2 →
      let size (h : Nat × Ctx) : Nat := if h.1 = grown.1 then grown.2 else h.2.seg
      (s.pack cl k grown).ctxs.find? p.1 = some { p.2 with
        seg := size p, segAt := ((s.segsOn cl k).filter (fun h => decide (h.2.segAt < p.2.segAt))).foldl (fun n h => n + size h) 0 }) ∧
    (∀ cl k grown j, (∀ p ∈ s.segsOn cl k, p.1 ≠ j) → (s.pack cl k grown).ctxs.find? j = s.ctxs.find? j) ∧
    (s.ctxs.find? cid = some c → c.rgrow = some r → s.blk? (blkOf cid) = some y → y.st = .resident →
      r.want - c.seg ≤ s.freeGranules (s.coreAt cid).1 (s.coreAt cid).2 →
      (∀ p ∈ s.groupsOn (s.coreAt cid).1 (s.coreAt cid).2, ∀ q, p.2.rgrow = some q → r.since ≤ q.since) →
      let grown := c.segAt + c.seg
      let more := r.want - c.seg
      let adjoins : Prop := grown + more ≤ 256 ∧ ∀ p ∈ s.segsOn (s.coreAt cid).1 (s.coreAt cid).2, p.1 = cid ∨
        p.2.segAt + p.2.seg ≤ grown ∨ grown + more ≤ p.2.segAt
      let moved := s.pack (s.coreAt cid).1 (s.coreAt cid).2 (cid, r.want)
      (adjoins → exec (.rgrowGrant cid) s = .next ((s.setCtx cid { c with seg := r.want }).setCtx cid
        (Ctx.rgrowEnd { c with seg := r.want } r true))) ∧
      (¬adjoins → ∀ d, moved.ctxs.find? cid = some d → exec (.rgrowGrant cid) s = .next (moved.setCtx cid (d.rgrowEnd r true)))) ∧
    (∀ ok, (c.rgrowEnd r ok).rgrow = none ∧ ∀ l, r.part.getLsbD l = true → r.pred < 7 → (c.rgrowEnd r ok).rp l r.pred = ok) ∧
    (∀ cl k, core = 8 * cl + k → k < 8 → s.rgrowDue cl k = false →
      leastBy (fun g => 48 - g.2.gslot) ((s.groupsOn cl k).filter (fun g => s.inRgrow g.1 g.2)) = some (cid, c) → c.rgrow = some r →
      (∀ p ∈ s.groupsOn cl k, s.stuck p.1 p.2 = true) →
      (∀ p ∈ s.blocksOn cl k, p.2.onCore = true → ∀ d, s.ctxs.find? (coxKey p.1) = some d → s.stuck (coxKey p.1) d = true) →
      exec (.rgrowDeny core) s = .next (s.setCtx cid (c.rgrowEnd r false))) ∧
    (die < 2 → s.fld (oppReg die) 6 1 ≠ 0 → exec (.oppStable die) s = .next
      ((s.setFld (oppReg die) 0 3 (s.fld (oppReg die) 3 3)).setFld (oppReg die) 6 1 0)) ∧
    (s.fld (qreg wq 0) 0 1 = 1 → wr = 0 → w.val.toNat.testBit 0 = false → exec (.qcfgWrite w) s = .next
      ((s.setFld (qreg wq 0) 0 1 0).setFld (qreg wq 0x20) 0 2 0)) ∧
    (s.fld (qreg wq 0) 0 1 ≠ 1 → wr = 8 → exec (.qcfgWrite w) s = .next
      (s.setReg w.off (BitVec.ofNat 64 (bits w.val.toNat 8 48 * 2 ^ 8)))) ∧
    (s.sch.claims.length < 4 → (rq.row, rq.col) ≠ s.meshPos → (∀ z ∈ s.sch.claims, ¬(z.row = rq.row ∧ z.col = rq.col ∧ z.id = rq.id)) →
      exec (.rectClaim rq) s = .next (match s.rectCode rq with
        | none => (claimed.tell (rq.row, rq.col) (.rectAnswer rq.id none)).takeRect rq
        | some n => s.tell (rq.row, rq.col) (.rectAnswer rq.id (some n)))) ∧
    (s.sch.claims.length < 4 → (rq.row, rq.col) = s.meshPos → s.claimsSelf rq.id = true →
      (∀ z ∈ s.sch.claims, ¬(z.row = rq.row ∧ z.col = rq.col ∧ z.id = rq.id)) → exec (.rectClaim rq) s = .next (match s.rectCode rq with
        | none => claimed.rectAnswer rq.id none
        | some n => s.rectAnswer rq.id (some n))) ∧
    (4 ≤ s.sch.claims.length → exec (.rectClaim rq) s = .refused (.notEnabled "RECT_CLAIM")) ∧
    (∃ z, (s.takeRect rq).sch.launches.find? s.sch.nextLaunch = some z ∧ z.home = some (rq.row * 32 + rq.col, rq.id) ∧ z.dev = rq.vdev ∧
      z.record = lrecOf (leNat rq.record) ∧ z.prio = rq.prio) ∧
    (home → member = gr.granted → member < gr.members.length → gr.since + 3000000 ≤ s.pt →
      exec (.rectClaimTimeout l member) s = .next (s.refuse l 14)) ∧
    (home → gr.loaded = true → member < gr.members.length → member ∉ gr.routed → gr.started = false →
      gr.members[member]? ≠ some s.meshPos → exec (.rectRouteReport l member good) s = .next
        (if good = true then s.setLaunch l { x with rect := some { gr with routed := gr.routed ++ [member] } } else s.refuse l 15)) ∧
    (home → gr.started = false → gr.loaded = true → s.heldLaunch l x = false → gr.routed.length = gr.members.length →
      let u := s.setLaunch l { x with rect := some { gr with started := true } }
      let told := (gr.members.filter (· ≠ u.meshPos)).foldl (fun s m => s.tell m (.rectStart l)) u
      exec (.rectStart l) s = .next (if x.total = 0 then told.launchDone l else told)) ∧
    (home → s.heldLaunch l x = true → exec (.rectStart l) s = .refused (.notEnabled "RECT_START")) ∧
    (home → gr.started = true → member ∉ gr.done → member < gr.members.length → gr.members[member]? ≠ some s.meshPos →
      let u := s.setLaunch l { x with rect := some { gr with done := gr.done ++ [member] } }
      ((∀ i < gr.members.length, i ∈ gr.done ∨ i = member) →
        exec (.rectMemberRetire l member) s = .next (u.signal l x.record.compval.toNat)) ∧
      ((∃ i < gr.members.length, i ∉ gr.done ∧ i ≠ member) → exec (.rectMemberRetire l member) s = .next u)) ∧
    (∀ sp since gv pd pt e, s.ctxs.find? wh.cid = some c → c.splits.find? wh.k = some sp → sp.wait = .join since (some (gv, pd, pt)) →
      c.setOf sp.pc sp.mask = some e → gv ≤ s.pt → s.onCore c = true → ¬(c.complete e = true ∧ c.lastIn e ≤ gv) →
      exec (.joinTimeout wh) s = .next (s.setCtx wh.cid (Ctx.settle s.pt 64 (c.giveUp wh.k sp e pd pt)))) ∧
    (∀ k sp e pd pt, (∀ l, pt.getLsbD l = true → pd < 7 → (c.giveUp k sp e pd pt).rp l pd = false) ∧
      (c.giveUp k sp e pd pt).splits.find? k = some { (sp.moved (nextPc sp.pc) true) with j := e.join }) ∧
    (∀ sp v n, s.ctxs.find? wh.cid = some c → s.onCore c = true → c.splits.find? wh.k = some sp → sp.parked = none → sp.line = none →
      let bad (v : Nat) := badQuarters (leBytes 64 v)
      (s.fetchLine wh.cid c sp.pc false = (t, .ok v n) → bad v = 0 →
        exec (.lineFetch wh) s = .next (t.loadLine wh.cid wh.k (leBytes 64 v))) ∧
      (∀ cs ql lv aux, s.fetchLine wh.cid c sp.pc false = (t, .fault cs ql lv aux) → exec (.lineFetch wh) s = .next
        (t.fetchTrap wh.cid wh.k sp { cause := cs, qual := ql, level := lv, aux := aux })) ∧
      (∀ v' m, s.fetchLine wh.cid c sp.pc false = (t, .ok v n) → bad v ≠ 0 →
        (t.dropLine wh.cid c sp.pc).fetchLine wh.cid c sp.pc true = (u, .ok v' m) → exec (.lineFetch wh) s = .next
          (if bad v' = 0 then u.loadLine wh.cid wh.k (leBytes 64 v')
           else u.fetchTrap wh.cid wh.k sp { cause := .line, qual := bad v' })))

/-- R342, R378 to R383, R397, R398, R404, R429: a slice ends where another device's window has begun, a saved block's image is
written once nothing of it is under way, the oldest saved gang resumes where there is room, a preemption that is late kills what
stands, and a thermal step lowers the ceiling by one. It rests on the model's own choices of log entries 50, 53, 96. -/
def Obligations.PreemptionEvents : Prop :=
  ∀ (s : State) (cl b i die n : Nat) (x : Block) (ks : List (Nat × Nat)) (p : Preempt) (c : Ctx),
    (cl < 40 → (match s.windowOwner cl with | some (d, _) => d | none => 64) ≠ s.holderOf cl → s.sch.pre.find? cl = none →
      let out := s.holderOf cl
      let m := s.choose out cl (match s.windowOwner cl with | some (d, _) => d | none => 64)
      let pre := s.sch.pre.put cl { dev := out, mode := m, since := s.sliceOver cl out }
      let s' : State := { s with sch := { s.sch with given := s.givenOn cl, pre := pre } }
      exec (.sliceEnd cl) s = .next (((s'.applyMode out cl m).trySwitch cl).retune)) ∧
    (s.blk? b = some x → x.st = .saving i → s.quiet b = true →
      exec (.saveComplete b) s = .next (((s.saveBlock b i x).trySwitch x.cluster).retune)) ∧
    (∃ (u : State) (y : Block), s.saveBlock b i x = (u.writeImage b).setBlk b { y with st := .saved i } ∧ u.blk? b = some y ∧
      y.savePt = u.pt) ∧
    (s.blk? b = some x → x.st = .saving i → s.quiet b = false → exec (.saveComplete b) s = .refused (.notEnabled "SAVE_COMPLETE")) ∧
    (∀ k y, s.blk? b = some x → (∀ p ∈ s.gangOf x, ∃ n, p.2.st = .saved n) → s.oldestSaved x.dev = some (k, y) → y.launch = x.launch →
      y.lead = x.lead → s.resumePlace x = some (cl, ks) →
      exec (.blockResume b) s = .next ((ks.foldl (fun s p => s.resumeBlock p.1 cl p.2) s).saveMore).retune) ∧
    (s.sch.pre.find? cl = some p → (∃ y ∈ s.blocks, y.2.dev = p.dev ∧ y.2.cluster = cl ∧ y.2.standing = true) →
      p.since + s.preDeadline p.dev ≤ s.pt → exec (.preemptDeadline cl) s = .next (s.killLaunches
        ((s.blocks.filter (fun b => b.2.dev = p.dev && b.2.cluster = cl && b.2.standing)).map (·.2.launch)).dedup).blocksGone) ∧
    (∀ l z, s.sch.launches.find? l = some z → s.killLaunches [l] = if z.home = none then s.killQueue z.queue else s.killLaunch l) ∧
    (s.sch.pre.find? cl = some p → s.pt < p.since + s.preDeadline p.dev →
      exec (.preemptDeadline cl) s = .refused (.notEnabled "PREEMPT_DEADLINE")) ∧
    (die < 2 → s.pwr = .run → (∀ u, s.sch.heat.find? die = some u → u + 45000 ≤ s.pt) → exec (.thermalStep die) s = .next (State.retune
      { s with sch := { s.sch with ceil := s.sch.ceil.put die (SMap.get 7 s.sch.ceil die - 1), heat := s.sch.heat.put die s.pt } })) ∧
    (∀ u, s.sch.heat.find? die = some u → s.pt < u + 45000 → exec (.thermalStep die) s = .refused (.notEnabled "THERMAL_STEP")) ∧
    (n < 96 → s.ctxs.find? n = some c → c.stream = .host → c.halarm ≠ 0 → c.halarm ≤ s.pt → c.hien = true → c.alarmed = false →
      exec (.halarmExpiry n) s = .next ((s.setCtx n { c with alarmed := true }).interrupt c.dev 4 n 0 0)) ∧
    (n < 96 → s.ctxs.find? n = some c → s.pt < c.halarm → exec (.halarmExpiry n) s = .refused (.notEnabled "HALARM_EXPIRY"))

/-- R6, R343, R344, R371 to R377, R396 to R408: the commands of devices, keys, host threads and trap windows act, or are answered
with their reason, and a command in progress turns another away. It rests on the model's own choices of log entries 52 to 57, 68,
92, 100. -/
def Obligations.CommandEvents : Prop :=
  ∀ (s t : State) (w : RegW) (v n i reason g : Nat) (j : RcJob) (h : Held) (c : Ctx) (k : Tok) (sp : Split),
    let dev := partSlotOf w.off
    let val := w.val.toNat
    let idle := s.rcBusyNow dev = false
    let ht := htOf w.off
    let running := s.fld (htslot ht + 0x18) 0 1 = 1
    let ks := keySlotOf w.off
    let kid := bits val 0 12
    let s0 := s.clearKdata ks
    let ok : Prop := s0.keyOwned ks kid = true ∧ bits val 14 50 = 0 ∧ bits val 12 2 ≠ 3
    let win := (winOf w.off).1
    let free := s.winLetGo win w.val
    (s.rcBusyNow dev = true → exec (.reconfigCommand w) s = .next s ∧ exec (.qkill w) s = .next s ∧ exec (.rreset w) s = .next s) ∧
    (idle → (bits val 0 7 = 0 ∨ 64 < bits val 0 7) → exec (.reconfigCommand w) s = .next (s.rcFail dev 1 0)) ∧
    (idle → 0 < bits val 0 7 → bits val 0 7 ≤ 64 → s.rcRun dev (s.fld (pslot dev + 0x3C0) 5 47 * 32) (bits val 0 7) 0 = .error (i, reason) →
      exec (.reconfigCommand w) s = .next (s.rcFail dev reason i)) ∧
    (idle → 0 < bits val 0 7 → bits val 0 7 ≤ 64 → s.rcRun dev (s.fld (pslot dev + 0x3C0) 5 47 * 32) (bits val 0 7) 0 = .ok t →
      exec (.reconfigCommand w) s = .next ((((((t.keepWindows s).moveRsds s).switchAll).setReg (pslot dev + 0x3E0) (BitVec.ofNat 64 s.pt)).rcStart dev
        { at_ := s.pt + 65536 }).retune)) ∧
    (s.part.rc.find? v = some j → s.jobOver j = true → let u : State := { s with part := { s.part with rc := s.part.rc.erase v } }
      exec (.reconfigDone v) s = .next (((if j.resets = [] then u else u.resetRest j.resets).setRc v 2 0 0).interrupt v 6 0x7F 0 0)) ∧
    (s.part.rc.find? v = some j → s.jobOver j = false → exec (.reconfigDone v) s = .refused (.notEnabled "RECONFIG_DONE")) ∧
    (idle → s.qdev (bits val 0 8) ≠ dev → s.descends (s.qdev (bits val 0 8)) dev = false →
      exec (.qkill w) s = .next (s.rcFail dev 2 0)) ∧
    (idle → (s.qdev (bits val 0 8) = dev ∨ s.descends (s.qdev (bits val 0 8)) dev = true) → exec (.qkill w) s = .next
      ((s.killQueue (bits val 0 8)).rcStart dev { at_ := s.pt, launches := s.launchesOf (bits val 0 8) }).blocksGone) ∧
    (idle → s.descends (bits val 0 6) dev = false → exec (.rreset w) s = .next (s.rcFail dev 2 0)) ∧
    (idle → s.descends (bits val 0 6) dev = true →
      let ds := (List.range 64).filter (fun d => d = bits val 0 6 || s.descends d (bits val 0 6))
      let qs := (List.range 256).filter (fun q => ds.contains (s.qdev q))
      let u := qs.foldl State.killQueue s
      let ts := (u.ctxs.filter (fun p => p.1 < 96 && ds.contains p.2.dev)).map (·.1)
      let y := ts.foldl State.resetThread u
      exec (.rreset w) s = .next (y.rcStart dev { at_ := y.pt, launches := qs.flatMap s.launchesOf, threads := ts, resets := ds }).blocksGone) ∧
    (exec (.ipendWrite w) s = .next ((s.setReg (pslot dev + 0x388) (s.reg (pslot dev + 0x388) &&& ~~~ w.val)).repend dev)) ∧
    (ok → bits val 12 2 = 0 → exec (.keyOff w) s = .next
      (((s0.ownedUnder kid).foldl State.writeBack (s0.setKey kid {})).setKstat ks 2 0)) ∧
    (ok → bits val 12 2 = 1 → s.kdataOf ks % 2 ^ 256 ≠ s.kdataOf ks / 2 ^ 256 → exec (.keyXts w) s = .next
      ((((s0.ownedUnder kid).foldl State.writeBack s0).setKey kid { mode := 1, mat := s.kdataOf ks + 1 }).setKstat ks 2 0)) ∧
    (ok → bits val 12 2 = 2 → exec (.keyPlain w) s = .next
      ((((s0.ownedUnder kid).foldl State.writeBack s0).setKey kid { mode := 2 }).setKstat ks 2 0)) ∧
    (s0.keyOwned ks kid = true → (bits val 12 2 = 3 ∨ bits val 14 50 ≠ 0) → exec (.keyBadcmd w) s = .next (s0.setKstat ks 3 2)) ∧
    (ok → bits val 12 2 = 1 → s.kdataOf ks % 2 ^ 256 = s.kdataOf ks / 2 ^ 256 → exec (.keyXts w) s = .next (s0.setKstat ks 3 3)) ∧
    (s0.keyOwned ks kid = false → let denied : State := s0.setKstat ks 3 1
      exec (.keyOff w) s = .next denied ∧ exec (.keyXts w) s = .next denied ∧ exec (.keyPlain w) s = .next denied ∧
      exec (.keyBadcmd w) s = .next denied) ∧
    (s.htBusy ht = true → exec (.htcmdStart w) s = .next s ∧ exec (.htcmdStop w) s = .next s ∧ exec (.htcmdSwap w) s = .next s ∧
      exec (.htcmdBadcmd w) s = .next s) ∧
    (s.htBusy ht = false → running → exec (.htcmdStart w) s = .next (s.htStat ht 3 3)) ∧
    (s.htBusy ht = false → ¬running → s.loadThread ht (s.fld (htslot ht) 12 40 * 4096) = .ok t →
      exec (.htcmdStart w) s = .next (t.htStat ht 2 0)) ∧
    (s.htBusy ht = false → s.fld (htslot ht + 0x18) 0 1 = 1 → exec (.htcmdStop w) s = .next (s.htHalt ht 2) ∧
      exec (.htcmdSwap w) s = .next (s.htHalt ht 3)) ∧
    (s.htBusy ht = false → s.fld (htslot ht + 0x18) 0 1 = 0 → exec (.htcmdStop w) s = .next (s.htStat ht 3 4) ∧
      exec (.htcmdSwap w) s = .next (s.htStat ht 3 4)) ∧
    (s.htBusy ht = false → exec (.htcmdBadcmd w) s = .next (s.htStat ht 3 2)) ∧
    (s.part.htDone.find? n = some (g, false) → g ≤ s.pt → exec (.htcmdStopDone n) s = .next
      ({ s with part := { s.part with htDone := s.part.htDone.erase n } }.htStat n 2 0)) ∧
    (s.part.htDone.find? n = some (g, true) → g ≤ s.pt → let u : State := { s with part := { s.part with htDone := s.part.htDone.erase n } }
      let pa := u.fld (htslot n + 0x10) 12 40
      (∀ e, u.loadThread n (pa * 4096) = .error e → exec (.htcmdStopDone n) s = .next (u.htStat n 3 e)) ∧
      (u.loadThread n (pa * 4096) = .ok t → exec (.htcmdStopDone n) s = .next ((t.setFld (htslot n) 12 40 pa).htStat n 2 0))) ∧
    (s.part.htDone.find? n = none → n < 96 → s.ctxs.find? n = some c → c.halt ≠ 0 → c.halt ≠ 4 → c.alive ≠ 0 → s.htDrained c = true →
      let u := s.physWr (s.fld (htslot n) 12 40 * 4096) (s.recOfCtx c)
      exec (.htcmdStopDone n) s = .next { u.1.htGone n with
        part := { (u.1.htGone n).part with htDone := (u.1.htGone n).part.htDone.put n (u.2, decide (c.halt = 3)) } }) ∧
    (s.part.htDone.find? n = none → n < 96 → s.ctxs.find? n = some c → (c.halt = 4 ∨ c.alive = 0) → s.htDrained c = true →
      exec (.htcmdStopDone n) s = .next (if (s.htGone n).htBusy n = true then (s.htGone n).htStat n 3 4 else s.htGone n)) ∧
    (s.trp.held.find? (fun h => h.slot = n && s.heldReady h) = some h → s.ringFull (fslot n) (fslot n + 8) = false →
      let u := { s with trp := { s.trp with held := s.trp.held.erase h } }.ringPut (fslot n) (fslot n + 8) h.bytes
      exec (.heldRecordEnter n) s = .next (u.1.tailLater (fslot n + 8) u.2)) ∧
    (w.val = 0 → exec (.twselWrite w) s = .next (free.setWin win {})) ∧
    (w.val ≠ 0 → s.tokAway w.val = none →
      exec (.twselWrite w) s = .next (free.setWin win { token := w.val, stat := if (free.liveTok w.val).isSome = true then 1 else 3 })) ∧
    (∀ dst, w.val ≠ 0 → s.tokAway w.val = some dst →
      exec (.twselWrite w) s = .next ((free.setWin win { token := w.val, stat := 1 }).tell dst (.twBind win w.val))) ∧
    (s.tokAway (s.win win).token = none → free = s) ∧
    ((s.win n).stat = 1 → s.liveTok (s.win n).token = some (i, k, sp) → s.ctxs.find? k.cid = some c → c.res = [] → c.accs = [] → c.rgrow = none →
      exec (.twBindComplete n) s = .next
        ({ s with trp := { s.trp with wins := s.trp.wins.put n { s.win n with stat := 2 } } }.tellWin n 2)) ∧
    ((s.win win).stat ≠ 2 → exec (.twWrite w) s = .next s) ∧
    (∀ dst, (s.win win).stat = 2 → s.tokAway (s.win win).token = some dst →
      exec (.twWrite w) s = .next (s.tell dst (.twWrite win (winOf w.off).2 w.val))) ∧
    ((s.win win).stat = 2 → s.tokAway (s.win win).token = none → s.liveTok (s.win win).token = some (i, k, sp) → s.ctxs.find? k.cid = some c →
      let put := s.setCtx k.cid (c.twPut sp (winOf w.off).2 val)
      let mrp : Prop := (winOf w.off).2 = 0x1900 ∨ (winOf w.off).2 = 0x1908
      (c.stream = .host → exec (.twWrite w) s = .next put) ∧
      (∀ b, c.stream = .lane → s.blk? c.blk = some b → exec (.twWrite w) s = .next
        (match b.st with | .saved _ => put.writeImage c.blk | _ => put)) ∧
      (∀ b, c.stream = .cox → s.blk? c.blk = some b →
        let u := if mrp then put.setBlk c.blk (b.twMrp (winOf w.off).2 val) else put
        exec (.twWrite w) s = .next (match b.st with | .saved _ => u.writeImage c.blk | _ => u))) ∧
    (s.mayWrite w = false → exec (.registerWrite w) s = .next s) ∧
    (s.mayWrite w = true → (blockAt w.off).1 ≠ partB ∨ 0x2000 ≤ (blockAt w.off).2 → w.off ≠ mbB →
      let u := s.budgetPart w
      exec (.registerWrite w) s = .next ((u.setReg w.off (BitVec.ofNat 64 (u.rwValue w.off val))).afterWrite w.off (u.reg w.off).toNat
        (u.rwValue w.off val)))

/-- R16, R108, R109, R414 to R424: a window is configured unless its entry is bad, flow control and link states follow their
ports, and an access that arrives is served through a window and answered. It rests on the model's own choices of log entries 62,
63, 84. -/
def Obligations.LinkEvents : Prop :=
  ∀ (s t : State) (w : RegW) (port tc width speed v g : Nat) (f : FabAcc),
    let key := 8 * port + tc
    let val := w.val.toNat
    let e := (w.off - fabB - 0x1000) / 32
    let i := (w.off - fabB - 0x1000) % 32 / 8
    let base := bits (s.fwinW e 1) 0 56
    let d := s.asDesc (bits val 48 16)
    let kept : State := s.setReg w.off (BitVec.ofNat 64 (val &&& fwinMask i))
    let data (v : Nat) : List Byte := match f.kind with | .store _ => [] | _ => leBytes f.size v
    let serve (r : State × HaRes) : Prop := s.fabServe f.srow f.scol f.svdev f.off (fabReq f) (fabOp f) = r
    let word : Prop := fabB + 0x1000 ≤ w.off ∧ w.off < fabB + 0x3000 ∧ w.off % 8 = 0
    (word → w.dev ≠ 0 → exec (.fwinWrite w) s = .next s) ∧
    (word → w.dev = 0 → (bitOf val 0 = false ∨ i ≠ 0) → exec (.fwinWrite w) s = .next kept) ∧
    (word → w.dev = 0 → i = 0 → bitOf val 0 = true → (val &&& fwinMask 0 ≠ val ∨ base % 0x10000 ≠ 0 ∨
      2 ^ 56 < base + bits (s.fwinW e 2) 0 50 ∨ d % 2 = 0 ∨ descOk d = false ∨ bits d 8 6 ≠ bits val 32 6) →
      exec (.fwinWrite w) s = .next s) ∧
    (word → w.dev = 0 → i = 0 → bitOf val 0 = true → val &&& fwinMask 0 = val → base % 0x10000 = 0 → base + bits (s.fwinW e 2) 0 50 ≤ 2 ^ 56 → d % 2 = 1 →
      descOk d = true → bits d 8 6 = bits val 32 6 → exec (.fwinWrite w) s = .next kept) ∧
    (port < 32 → tc < 4 → SMap.get false s.lnk.stopped key = false → ∃ t, exec (.flowStop port tc) s = .next t ∧
      SMap.get false t.lnk.stopped key = true) ∧
    (port < 32 → tc < 4 → SMap.get false s.lnk.stopped key = true → ∃ t, exec (.flowGo port tc) s = .next t ∧
      SMap.get false t.lnk.stopped key = false) ∧
    (port < 32 → exec (.linkStateChange port width 0) s = .next (s.setLink port 0 0)) ∧
    (port < 32 → speed ≠ 0 → trains port width speed = true → (port < 24 ∨ s.meshPos.1 < 24 ∧ s.meshPos.2 < 24) →
      exec (.linkStateChange port width speed) s = .next (s.setLink port width speed).potGo) ∧
    (s.mig.potWait = none → s.potGo = s) ∧
    (16 ≤ port → port < 32 → s.marginLow port = true →
      let lanes := s.fld (lstat port) 1 5
      let n := if lanes ≤ 1 then 0 else 1 + Config.choice s.fresh % (lanes - 1)
      let u : State := { s with fresh := s.fresh + 1 }
      exec (.laneMarginRemove port) s = .next (if 24 ≤ port ∧ n ≤ 4 then u.setLink port 0 0 else u.setLink port n (s.fld (lstat port) 6 3)) ∧
      (1 < lanes → n < lanes)) ∧
    (port < 16 ∨ s.marginLow port = false → exec (.laneMarginRemove port) s = .refused (.notEnabled "LANE_MARGIN_REMOVE")) ∧
    (serve (t, .ok v g) → exec (.fabricAccessArrive f) s = .next { t with lnk := { t.lnk with sent := some (.done (data v), Nat.max g t.pt) } }) ∧
    (∀ c q l a, serve (t, .fault c q l a) →
      exec (.fabricAccessArrive f) s = .next { t with lnk := { t.lnk with sent := some (.fault c q l, t.pt) } }) ∧
    (∀ asid va, s.fabMatch f.srow f.scol f.svdev f.off (fabOp f).writes = .ok (asid, va) → serve (t, .hold g) →
      ∃ u id q, exec (.fabricAccessArrive f) s = .next u ∧ u.ms.reqs.find? id = some q ∧ q.space = farSpace ∧ q.kind = fabReqKind f ∧
        q.asid = asid ∧ q.va = va ∧ q.open_ = true)

/-- R384, R385, R407, R408, R422 to R429: management requests are checked in order, a command in progress runs and is answered,
and resets, power and boot act as they find the machine. It rests on the model's own choices of log entries 3, 29, 58 to 60, 101.
-/
def Obligations.ManagementEvents : Prop :=
  ∀ (s : State) (r : MgmtReq) (bsy : Nat → Prop) (a : Option Nat) (nonce : List (BitVec 8)) (img : Option Image) (i c w mode : Nat)
    (rcd : List (BitVec 8)),
    (∀ n, bsy n ↔ s.mgmt.busy = some (n, a) ∧ s.pwr ≠ .off) →
    let n := Config.certChain.length
    let good : Prop := s.pwr ≠ .off ∧ r.ver = 1 ∧ r.reserved = 0 ∧ r.payload.length ≤ 512
    let recalled := (s.ownedUnder 0).foldl State.writeBack s
    (s.pwr ≠ .off → r.ver ≠ 1 → exec (.mgmtRequest r) s = .next s) ∧
    (s.pwr ≠ .off → r.ver = 1 → (r.reserved ≠ 0 ∨ 512 < r.payload.length) → exec (.mgmtRequest r) s = .next (s.answer r 1)) ∧
    (good → r.signed = false → exec (.mgmtRequest r) s = .next (if r.code = 1 ∨ r.code = 2 then s.accept r else s.answer r 3)) ∧
    (good → r.signed = true → s.operator r = false → exec (.mgmtRequest r) s = .next (s.answer r 3)) ∧
    (good → r.signed = true → s.operator r = true →
      (s.mgmt.mseq < r.mseq → exec (.mgmtRequest r) s = .next
        (({ s with mgmt := { s.mgmt with mseq := r.mseq, reply := none } }).accept r)) ∧
      (r.mseq = s.mgmt.mseq → r.mseq ≠ 0 → exec (.mgmtRequest r) s = .next (match s.mgmt.reply with
        | some p => { s with mgmt := { s.mgmt with sent := some p } } | none => s.answer r 2)) ∧
      ((r.mseq < s.mgmt.mseq ∨ r.mseq = 0) → exec (.mgmtRequest r) s = .next (s.answer r 3))) ∧
    (∀ e, s.mgmt.busy = none → r.code ≠ 7 → mgmtEvent r.code r.arg0 r.arg1 r.payload = some e → s.accept r =
      { s with mgmt := { s.mgmt with busy := some (r.code, some r.mseq), signed := r.signed }, todo := s.todo ++ [e] }) ∧
    (∀ x, s.mgmt.busy = some x → r.code ≠ 3 → (s.accept r).mgmt.sent = some { code := r.code, status := 1, mseq := r.mseq } ∧
      (s.accept r).mgmt.busy = some x) ∧
    (∀ k q st res pay, s.mgmt.busy = some (k, some q) →
      (s.mgmtEnd st res pay).mgmt.sent = some { code := k, status := st, mseq := q, res := res, pay := pay } ∧
      (s.mgmt.freezeNext = [] → (s.mgmtEnd st res pay).mgmt.busy = none)) ∧
    (bsy 1 → exec (.identity nonce) s = .next
      (if nonce.length = 64 then s.mgmtEnd 0 0 (s.identityRec nonce) else s.mgmtEnd 1 0 [])) ∧
    (bsy 2 → exec (.cert i) s = .next (if n ≤ 512 * i then s.mgmtEnd 1 (BitVec.ofNat 64 n) []
      else s.mgmtEnd 0 (BitVec.ofNat 64 n) ((Config.certChain.drop (512 * i)).take 512))) ∧
    (bsy 3 → exec .freeze s = .next { s.mgmtEnd 0 0 [] with pwr := .frozen }) ∧
    (bsy 4 → exec .thaw s = .next { s.mgmtEnd 0 0 [] with pwr := .run }) ∧
    (bsy 5 → s.pwr ≠ .frozen → exec (.scan c w) s = .next (s.mgmtEnd 1 0 [])) ∧
    (∀ z, bsy 5 → s.pwr = .frozen → scanWords c = some z →
      exec (.scan c w) s = .next (if w < z then s.mgmtEnd 0 (s.scanArray c w) [] else s.mgmtEnd 1 0 [])) ∧
    (bsy 5 → scanWords c = none → exec (.scan c w) s = .next (s.mgmtEnd 1 0 [])) ∧
    (bsy 6 → exec .coldresetCmd s = .next (s.mgmtEnd 0 0 []).coldReset) ∧
    (bsy 7 → let given := if a = none then s.mailImage else img
      (∀ im, given = some im → verifies s.mgmt.bootmin im = true →
        exec (.update img) s = .next (({ s with mgmt := { s.mgmt with flash := some im } }).mgmtEnd 0 0 [])) ∧
      ((∀ im, given = some im → verifies s.mgmt.bootmin im = false) → exec (.update img) s = .next (s.mgmtEnd 1 0 []))) ∧
    (bsy 8 → exec .commit s = .next ({ s with mgmt := { s.mgmt with bootmin := s.mgmt.run.fwseq } }.mgmtEnd 0 0 [])) ∧
    (bsy 9 → mode ≠ 1 → mode ≠ 2 → exec (.key0 mode) s = .next (s.mgmtEnd 1 0 [])) ∧
    (bsy 9 → mode = 2 → exec (.key0 mode) s = .next
      ((State.setKey { recalled with fresh := recalled.fresh + 1 } 0 { mode := 2 }).mgmtEnd 0 0 [])) ∧
    (bsy 9 → mode = 1 → exec (.key0 mode) s = .next ((State.setKey { recalled with fresh := recalled.fresh + 1 } 0
      { mode := 1, mat := (Config.drawnKey recalled.fresh).toNat + 1 }).mgmtEnd 0 0 [])) ∧
    (bsy 10 → cfgOk rcd = true → cfgSeq s.mgmt.cfg < cfgSeq rcd → exec (.setcfg rcd) s = .next
      ((State.retune { s with mgmt := { s.mgmt with cfg := rcd, cfgFlash := rcd } }).mgmtEnd 0 0 [])) ∧
    (bsy 10 → (cfgOk rcd = false ∨ cfgSeq rcd ≤ cfgSeq s.mgmt.cfg) → exec (.setcfg rcd) s = .next (s.mgmtEnd 1 0 [])) ∧
    (exec .coldReset s = .next s.coldReset) ∧
    (s.pwr ≠ .off → s.mgmt.booted = false → s.mgmt.retryAt ≤ s.pt → exec (.tftpRetry none) s = .next
      { s with mgmt := { s.mgmt with retryAt := s.pt + 2 ^ 35 } }) ∧
    (∀ im, s.pwr ≠ .off → s.mgmt.booted = false → s.mgmt.retryAt ≤ s.pt → exec (.tftpRetry (some im)) s = .next
      (if verifies s.mgmt.bootmin im = true then { s with mgmt := { s.mgmt with flash := some im } }.bootRun im
       else { s with mgmt := { s.mgmt with retryAt := s.pt + 2 ^ 35 } })) ∧
    (s.pwr ≠ .off → exec .thermtrip s = .next (s.blank .off)) ∧
    (s.pwr ≠ .off → let t := { s.blank .off with fresh := s.fresh + 1 }
      ((∀ q, s.mgmt.busy ≠ some (7, q)) → exec .powerLoss s = .next t) ∧
      (∀ q, s.mgmt.busy = some (7, q) → exec .powerLoss s = .next
        (if Config.choice s.fresh % 2 = 1 then { t with mgmt := { t.mgmt with flash := none } } else t))) ∧
    (s.pwr = .off → exec .powerLoss s = .refused (.notEnabled "POWER_LOSS"))

/-! ### What the shared operations give -/

/-- R210, R220, R232, R233: Fit gives W bits that, read back in the type, equal the exact result when it lies in the type's range,
the nearer end of the range when it does not and SAT is set, and else the exact result modulo 2^W. The quotient times the divisor
and the remainder give the dividend back, the remainder is smaller than the divisor and has the dividend's sign, and both come out
in the type's range but for the one quotient that leaves it. -/
def Obligations.IntegerRanges : Prop :=
  ∀ (t : Ty) (sat : Bool) (i a b : Int), t.int4 = true →
    let lo := minOf t.signed t.width
    let hi := maxOf t.signed t.width
    let v := intVal t t.width (fit t sat i)
    let q := divVal t a b
    let r := remVal a b
    fit t sat i < 2 ^ t.width ∧ (lo ≤ i → i ≤ hi → v = i) ∧ (sat = true → i < lo → v = lo) ∧ (sat = true → hi < i → v = hi) ∧
    (sat = false → ∃ k : Int, i = v + k * 2 ^ t.width) ∧
    (lo ≤ a → a ≤ hi → lo ≤ b → b ≤ hi → b ≠ 0 →
      q * b + r = a ∧ r.natAbs < b.natAbs ∧ (0 ≤ a → 0 ≤ r) ∧ (a ≤ 0 → r ≤ 0) ∧ intVal t t.width (wrap t.width r) = r ∧
      (intVal t t.width (wrap t.width q) = q ∨
        (t.signed = true ∧ a = lo ∧ b = -1 ∧ intVal t t.width (wrap t.width q) = a)))

/-- R235: popc counts the 1 bits, clz the 0 bits above the highest 1 bit, ctz those below the lowest, both giving W for 0, and
brev moves bit i to bit W − 1 − i; each completes with its result in D, and popc, clz and ctz write one 32-bit register whatever
the type. -/
def Obligations.BitCounts : Prop :=
  ∀ (s : State) (x : Iss) (o : Opr) (t : Ty),
    let a (l : Nat) : Nat := x.rd s l t.width .zero .a
    (s.issues (.popc o t) = some x → exec (.popc o t) s = .next (s.lands x 32 false fun l => popcVal t.width (a l))) ∧
    (s.issues (.clz o t) = some x → exec (.clz o t) s = .next (s.lands x 32 false fun l => clzVal t.width (a l))) ∧
    (s.issues (.ctz o t) = some x → exec (.ctz o t) s = .next (s.lands x 32 false fun l => ctzVal t.width (a l))) ∧
    (s.issues (.brev o t) = some x → exec (.brev o t) s = .next (s.lands x t.width t.signed fun l => brevVal t.width (a l))) ∧
    ∀ w a, 0 < w → a < 2 ^ w →
      popcVal w a = ((List.range w).filter (fun i => a.testBit i)).length ∧
      clzVal w 0 = w ∧ ctzVal w 0 = w ∧
      (∀ h < w, a.testBit h = true → (∀ i < w, h < i → a.testBit i = false) → clzVal w a = w - 1 - h) ∧
      (∀ h < w, a.testBit h = true → (∀ i < h, a.testBit i = false) → ctzVal w a = h) ∧
      (∀ i < w, (brevVal w a).testBit (w - 1 - i) = a.testBit i) ∧ brevVal w a < 2 ^ w

/-- R174, R190, R191, R195: writing a value to a destination and reading it back gives the value, and every other register of the
thread is as before; a v register outside the segment takes nothing, and p7 reads 1 whatever is written to it. An operand read at
an issue finds in each register what it holds, or what it held before a result that has landed since the last issue (R185). -/
def Obligations.RegisterWriteReadsBack : Prop :=
  ∀ (c : Ctx) (l w : Nat) (sgn : Bool) (n : BitVec 8) (m : BitVec 6) (p : BitVec 3) (x : Nat),
    l < 32 → (w = 32 ∨ w = 64 ∨ w = 128) → x < 2 ^ w →
    let cv := c.applyAll (c.dst l w sgn (.v n) x)
    let cs := c.applyAll (c.dst l w sgn (.s m) x)
    let cp := c.applyAll (c.dst l w sgn (.pred p) x)
    (n.toNat + w / 32 ≤ 32 * Nat.min c.seg 8 → cv.wide l n.toNat (w / 32) = x) ∧
    (∀ k j, j < 256 → (k ≠ l ∨ j < n.toNat ∨ n.toNat + w / 32 ≤ j ∨ 32 * Nat.min c.seg 8 ≤ j) → cv.rv k j = c.rv k j) ∧
    { cv with v := c.v } = c ∧
    (w = 64 → (cs.rs m.toNat).toNat = x) ∧
    (w = 32 → (cs.rs m.toNat).toNat = if sgn = true ∧ 2 ^ 31 ≤ x then 2 ^ 64 - 2 ^ 32 + x else x) ∧
    (∀ j, j ≠ m.toNat → cs.rs j = c.rs j) ∧ { cs with s := c.s } = c ∧
    (p ≠ 7 → cp.rp l p.toNat = decide (x ≠ 0)) ∧ (∀ k j, k < 32 → (k ≠ l ∨ j ≠ p.toNat) → cp.rp k j = c.rp k j) ∧
    { cp with p := c.p } = c ∧ (p = 7 → cp = c) ∧ cp.rp l 7 = true ∧
    ∀ (olds : List RW) (pt op j : Nat), j < 256 → let seen := c.asRead olds pt op
      (seen.rv l j = c.rv l j ∨ RW.v l j (seen.rv l j) ∈ olds) ∧ (seen.rs j = c.rs j ∨ RW.s j (seen.rs j) ∈ olds) ∧
      (seen.rp l j = c.rp l j ∨ RW.p l j (seen.rp l j) ∈ olds) ∧ (olds = [] → seen = c) ∧
      { seen with v := c.v, s := c.s, p := c.p } = c

/-- R185, R194, R229: an instruction whose result is available at once changes, in its own thread, only registers that its
destination covers in lanes that take part, and the place of its lanes; every other register, flag and counter of the thread,
every other thread and block, every register of the package and every byte of memory is as before. -/
def Obligations.RegisterResultsFrame : Prop :=
  ∀ (s t : State) (i : Instr) (x : Iss), Instr.plainResult i = true → s.issues i = some x → exec i s = .next t →
    { t with ctxs := s.ctxs } = s ∧ (∀ k ≠ x.cid, t.ctxs.find? k = s.ctxs.find? k) ∧ (∀ key a, t.rdByte key a = s.rdByte key a) ∧
    ∃ c, t.ctxs.find? x.cid = some c ∧
      { c with v := x.c.v, s := x.c.s, p := x.c.p, splits := x.c.splits, stack := x.c.stack } = x.c ∧
      (∀ l < 32, ∀ n < 256, x.covers l n = false → c.rv l n = x.c.rv l n) ∧
      (∀ n, x.coversS n = false → c.rs n = x.c.rs n) ∧
      (∀ l < 32, ∀ n, x.coversP l n = false → c.rp l n = x.c.rp l n)

/-- R184, R185: a variable-latency instruction that computes from registers leaves every register of its thread as it was: it
records one result whose writes its destination covers, counts its flag, and moves on; nothing outside its thread changes. It
rests on the model's own choices of log entry 23. -/
def Obligations.LateResultsFrame : Prop :=
  ∀ (s t : State) (i : Instr) (x : Iss), Instr.lateResult i = true → s.issues i = some x → exec i s = .next t →
    { t with ctxs := s.ctxs } = s ∧ (∀ k ≠ x.cid, t.ctxs.find? k = s.ctxs.find? k) ∧ (∀ key a, t.rdByte key a = s.rdByte key a) ∧
    ∃ c r, t.ctxs.find? x.cid = some c ∧
      { c with splits := x.c.splits, stack := x.c.stack, res := x.c.res, flags := x.c.flags } = x.c ∧
      c.flags = (x.c.flagUp (if x.c.stream = .host then none else x.flag)).flags ∧
      c.res = x.c.res.put (freshKey x.c.res) r ∧ r.ka = none ∧ r.mats = [] ∧
      ∀ w ∈ r.writes, match w with
        | .v l n _ => x.covers l n = true
        | .s n _ => x.coversS n = true
        | .p l n _ => x.coversP l n = true

/-- R184, R217, R218: a rounding instruction changes beside its result only the generators of the lanes that take part, and those
only under stochastic rounding. -/
def Obligations.RoundingFrame : Prop :=
  ∀ (s t : State) (i : Instr) (x : Iss) (rm : Rm), Instr.rounds i = some rm → s.issues i = some x → exec i s = .next t →
    { t with ctxs := s.ctxs } = s ∧ (∀ k ≠ x.cid, t.ctxs.find? k = s.ctxs.find? k) ∧ (∀ key a, t.rdByte key a = s.rdByte key a) ∧
    ∃ c, t.ctxs.find? x.cid = some c ∧
      { c with v := x.c.v, splits := x.c.splits, stack := x.c.stack, res := x.c.res, flags := x.c.flags, sr := x.c.sr } = x.c ∧
      (∀ l < 32, ∀ n < 256, x.covers l n = false → c.rv l n = x.c.rv l n) ∧
      (rm ≠ .sr → c.sr = x.c.sr) ∧ (∀ l, x.part.getLsbD l = false → c.sr.find? l = x.c.sr.find? l)

/-- R192, R243, R244, R270: ixset and ixinc write their one index register in lanes that take part, and kaclr, kaadd and kamad the
thread's accumulator; nothing else of the machine changes but the place of the lanes. -/
def Obligations.IndexAndKulischFrame : Prop :=
  ∀ (s t : State) (i : Instr) (x : Iss) (m : BitVec 2), s.issues i = some x → exec i s = .next t →
    let frame : Prop := { t with ctxs := s.ctxs } = s ∧ (∀ k ≠ x.cid, t.ctxs.find? k = s.ctxs.find? k) ∧
      ∀ key a, t.rdByte key a = s.rdByte key a
    ((i = .ixset x.o ∨ i = .ixinc x.o) → x.o.d = .ix m → frame ∧ ∃ c, t.ctxs.find? x.cid = some c ∧
      { c with ix := x.c.ix, splits := x.c.splits, stack := x.c.stack } = x.c ∧
      ∀ l < 32, ∀ j < 4, (x.part.getLsbD l = false ∨ j ≠ m.toNat) → c.rix l j = x.c.rix l j) ∧
    ((i = .kaclr x.o ∨ i = .kaadd x.o ∨ i = .kamad x.o) → x.c.kaBusy = false → frame ∧ ∃ c, t.ctxs.find? x.cid = some c ∧
      { c with ka := x.c.ka, splits := x.c.splits, stack := x.c.stack } = x.c)

/-! ### Memory and its order -/

/-- R4, R87, R89, R408: bytes written under a key read back under it; no other byte read under that key changes, and in a line
that the write does not touch no byte changes under any key. Bytes of a block's ASP and of an ACS element read back as written
too, and the others are as before. It rests on the model's own choices of log entries 2, 11. -/
def Obligations.BytesReadBack : Prop :=
  ∀ (s : State) (key pa a k : Nat) (bs : List Byte) (b : Block) (o n v : Nat),
    let t := s.wrBytes key pa bs
    (∀ i (h : i < bs.length), t.rdByte key (pa + i) = bs[i]) ∧
    ((a < pa ∨ pa + bs.length ≤ a) → t.rdByte key a = s.rdByte key a) ∧
    (a / 128 ∉ linesOf pa bs.length → t.rdByte k a = s.rdByte k a) ∧
    (b.aspWr o bs).aspRd o bs.length = leNat bs ∧
    ((a < o ∨ o + bs.length ≤ a) → SMap.get 0 (b.aspWr o bs).asp a = SMap.get 0 b.asp a) ∧
    (o % 16 + n ≤ 16 → v < 256 ^ n → (b.acsWr o n v).acsRd o n = v) ∧
    (o % 16 + n ≤ 16 → a % 16 + k ≤ 16 → (a / 16 ≠ o / 16 ∨ a + k ≤ o ∨ o + n ≤ a) → (b.acsWr o n v).acsRd a k = b.acsRd a k)

/-- R71, R95, R96: a write's completion time lies after its performing time, after every lease granted on its line and after the
completion time of the line's last write; a reader of another party is held exactly until the latest hidden write of another party
has its completion time, and never longer. It rests on the model's own choices of log entries 13, 14. -/
def Obligations.LeasesBoundWrites : Prop :=
  ∀ (s u : State) (v v' w w' r l limit h : Nat),
    let t := (s.orderWrite v w l).1
    let g := (s.orderWrite v w l).2
    let lease := s.grantLease v l limit
    g = Nat.max s.pt (Nat.max (s.dirOf v l).exp (s.dirOf v l).gprev) + 1 ∧
    (u.ms.dir.find? l = t.ms.dir.find? l → g < (u.orderWrite v' w' l).2) ∧
    lease.2 ≤ limit ∧ (u.ms.dir.find? l = lease.1.ms.dir.find? l → lease.2 < (u.orderWrite v' w' l).2) ∧
    (r ≠ w → ∃ h, t.readHold r l = some h ∧ g ≤ h) ∧
    (s.readHold r l = some h ↔ ∃ d, s.ms.dir.find? l = some d ∧ (∃ p ∈ d.pend, p.1 = h ∧ s.pt < h ∧ p.2 ≠ r) ∧
      ∀ p ∈ d.pend, s.pt < p.1 → p.2 ≠ r → p.1 ≤ h)

/-- R17, R47, R74, R95: a privileged host thread's store to a physical address of HBM4E or LPDDR6, and a store through spaces 0x0
to 0x3 whose address is translated, once nothing stands before it (no earlier access of its thread to its bytes, no page-table
entry of a migration in it, no throttle, no counting, no owner whose data its key refuses), writes its bytes at that address, for
the translated one where the page now stands and where it is mirrored, and changes no other byte of memory. It rests on the
model's own choices of log entry 14. -/
def Obligations.PhysicalStore : Prop :=
  ∀ (s : State) (id a key : Nat) (r : Req) (c : Ctx) (d : List Byte), s.ms.reqs.find? id = some r → s.ctxs.find? r.cid = some c →
    r.kind = .store d → d.length = r.size → r.st = .waiting → 0 < r.size → s.behind c id r = false →
    (r.space = 15 → r.fixed = [] → r.via = none → region r.va < 2 → r.va % 128 + r.size ≤ 128 → s.populated r.va r.size = true →
      s.fwdOf (r.va / 65536) = none → s.pteOfMig r.va r.size = none → s.throttled r.dev r.va = none → s.keyMode 0 ≠ 0 →
      (∀ o, s.ms.dir.find? (r.va / 128) = some o → o.owner = none ∨ s.keyMode o.okey ≠ 0) →
      s.fld (tslot r.dev + 0x60 + 16 * region r.va) 0 1 = 0 →
      ∃ t, exec (.haWrite id) s = .next t ∧ (∀ i (h : i < d.length), t.rdByte 0 (r.va + i) = d[i]) ∧
        ((a < r.va ∨ r.va + r.size ≤ a) → t.rdByte 0 a = s.rdByte 0 a) ∧ (a / 128 ≠ r.va / 128 → t.rdByte key a = s.rdByte key a)) ∧
    ∀ tr : Trans, r.space ≤ 3 → r.fixedAt r.va = some tr → s.pt < tr.exp → s.issueMates c id r = [] → s.poolSays tr.pa = .serve →
      let pa := s.routed tr.pa
      pa % 128 + r.size ≤ 128 → (∀ i f, s.fwdOf (pa / 65536) = some (i, f) → f.st ≠ .catching) → s.pteOfMig pa r.size = none →
      s.throttled tr.vdev pa = none → s.keyMode tr.key ≠ 0 →
      (∀ l o, s.ms.dir.find? l = some o → o.owner = none ∨ s.keyMode o.okey ≠ 0) →
      s.fld (tslot tr.vdev + 0x60 + 16 * region pa) 0 1 = 0 →
      ∃ t, exec (.haWrite id) s = .next t ∧ (∀ i (h : i < d.length), t.rdByte tr.key (pa + i) = d[i]) ∧
        (∀ m, s.mirrorOf pa = some m → ∀ i (h : i < d.length), t.rdByte tr.key (m + i) = d[i]) ∧
        ((a < pa ∨ pa + r.size ≤ a) → (∀ m, s.mirrorOf pa = some m → a < m ∨ m + r.size ≤ a) → t.rdByte tr.key a = s.rdByte tr.key a) ∧
        (a / 128 ≠ pa / 128 → (∀ m, s.mirrorOf pa = some m → a / 128 ≠ m / 128) → t.rdByte key a = s.rdByte key a)

/-- R11, R12, R14, R19 to R23, R31 to R33: what each pointer of an access raises, selector and agent first, then bounds, then
alignment; that an access at issue traps for the lowest lane whose pointer fails, with every such lane marked; and what a walk
raises, at the level at which it stops: an entry that is not present, one that is malformed, a leaf of memory that does not exist,
then kind, privilege, key and grant. A read of a poisoned line raises POISON. It rests on the model's own choices of log entry 72.
-/
def Obligations.AccessFaults : Prop :=
  ∀ (s : State) (x : Iss) (o : Opr) (t : Ty) (op : AtomOp) (cw : CasW) (ord : Sys2Proof.Ord) (sc : Scope),
    (∀ (c : Ctx) (reg : Bool) (n align ptr : Nat),
      let place := s.place c reg n align ptr
      let sel := bits ptr 60 4
      let fits (bad : Prop) [Decidable bad] (at_ : Nat) (p : Place) : Prop :=
        place = if bad then .error (.space, 2) else if at_ % align ≠ 0 then .error (.align, 0) else .ok p
      let host : Prop := c.stream = .host
      (9 ≤ sel → sel ≤ 14 → place = .error (.space, 0)) ∧
      (sel ≤ 3 → fits (bits ptr 56 4 ≠ 0) (bits ptr 0 56) (.glob sel (bits ptr 0 56))) ∧
      (sel = 4 ∨ sel = 5 ∨ sel = 6 → host ∨ s.blk? c.blk = none → place = .error (.space, 1)) ∧
      (∀ b, c.stream ≠ .host → s.blk? c.blk = some b →
        (sel = 4 → fits (bits ptr 21 39 ≠ 0 ∨ Nat.min (b.aspk * 4096) 0x180000 < bits ptr 0 21 + n) (bits ptr 0 21)
          (.asp (bits ptr 0 21))) ∧
        (sel = 5 → fits (bits ptr 48 12 ≠ 0 ∨ bits ptr 21 24 ≠ 0 ∨ b.gsize ≤ bits ptr 45 3 ∨
          Nat.min (b.aspk * 4096) 0x180000 < bits ptr 0 21 + n) (bits ptr 0 21) (.peer (bits ptr 45 3) (bits ptr 0 21))) ∧
        (sel = 6 → c.stream = .cox → fits (bits ptr 19 41 ≠ 0 ∨ Nat.min (b.acst * 0x10000) 0x80000 < bits ptr 0 19 + n) (bits ptr 0 19)
          (.acs (bits ptr 0 19)))) ∧
      (sel = 6 → c.stream ≠ .cox → place = .error (.space, 1)) ∧
      (sel = 7 → c.stream = .cox → place = .error (.space, 1)) ∧
      (sel = 7 → c.stream ≠ .cox → fits (bits ptr 32 28 ≠ 0 ∨ c.llsize = 0 ∨ c.llBytes < bits ptr 0 32 + n + 1024) (bits ptr 0 32)
        (.loc (bits ptr 0 32))) ∧
      (sel = 8 → fits (24 ≤ bits ptr 55 5 ∨ 24 ≤ bits ptr 50 5) (bits ptr 0 50) (.fab (bits ptr 55 5) (bits ptr 50 5) (bits ptr 0 50))) ∧
      (sel = 15 → ¬ host → place = .error (.space, 1)) ∧
      (sel = 15 → host → bits ptr 52 8 ≠ 0 ∨ (region (bits ptr 0 52) = 4 ∧ reg = false) → place = .error (.space, 2)) ∧
      (sel = 15 → host → bits ptr 52 8 = 0 → (region (bits ptr 0 52) = 4 → reg = true) → n ≠ 80 → place =
        if bits ptr 0 52 % align ≠ 0 then .error (.align, 0)
        else if c.priv = true then .ok (.phys (bits ptr 0 52))
        else if (if region (bits ptr 0 52) = 4 then inBlock (bits ptr 0 52 % 2 ^ 48) else s.populated (bits ptr 0 52) n) = true
        then .error (.perm, 1) else .error (.page, 2))) ∧
    (let stops (i : Instr) (wr reg : Bool) (n align : Nat) (ls : List Nat) : Prop :=
       let placed (l : Nat) := s.place x.c reg n align (x.ptr s l)
       s.issues i = some x → s.orderWait x.c wr ord sc = none → ∀ pre l post cs q, ls = pre ++ l :: post →
         (∀ j ∈ pre, ∃ p, placed j = .ok p) → placed l = .error (cs, q) → exec i s = .next (s.trapAt x
           { cause := cs, qual := q, addr := BitVec.ofNat 64 (x.ptr s l),
             lmask := maskOf (ls.filter fun j => match placed j with | .ok _ => false | .error _ => true) })
     let all := lanesOf x.part
     stops (.ld o t ord sc) false (t.size = 8) t.size t.size all ∧ stops (.st o t ord sc) true (t.size = 8) t.size t.size all ∧
     stops (.atom o t op ord sc) true false t.size t.size all ∧ stops (.red o t op ord sc) true false t.size t.size all ∧
     stops (.cas o cw ord sc) true false (cw.bits / 8) (cw.bits / 8) all ∧
     (x.c.kaBusy = false → stops (.kast o ord sc) true false 80 16 [lowest x.part] ∧
       stops (.kald o ord sc) false false 80 16 [lowest x.part] ∧ stops (.kaaddm o ord sc) false false 80 16 [lowest x.part])) ∧
    (∀ (asid va : Nat) (k : Akind) (priv : Bool),
      let dA := s.fld 0 19 33 * 2 ^ 19 + asid * 8
      let d := s.physRd dA 8
      let look := s.look asid va k priv
      let served (a : Nat) : Prop := s.poolSays a = .serve ∧ s.walkHold a 8 = none
      (s.fld 0 63 1 = 0 → look = .fault .page 2 0 0) ∧
      (s.fld 0 63 1 = 1 → served dA → d % 2 = 0 → look = .fault .page 0 0 0) ∧
      (s.fld 0 63 1 = 1 → served dA → d % 2 = 1 → bits d 1 7 ≠ 0 ∨ bits d 14 2 ≠ 0 ∨ bits d 57 7 ≠ 0 ∨ asid = 0 →
        look = .fault .page 1 0 0) ∧
      ∀ lvl tab, s.fld 0 63 1 = 1 → served dA → d % 2 = 1 → descOk d = true → asid ≠ 0 → lvl ≤ 4 →
        s.tableAt va lvl (bits d 16 41 * 2 ^ 11) 0 = some tab → served (tab + walkIndex va lvl * 8) →
        let e := s.physRd (tab + walkIndex va lvl * 8) 8
        let page := bits e 16 36 * 2 ^ 16
        (e % 2 = 0 → look = .fault .page 0 lvl 0) ∧
        (e % 2 = 1 → s.entryOk e lvl = false → look = .fault .page 1 lvl 0) ∧
        (e % 2 = 1 → s.entryOk e lvl = true → isLeaf e = true →
          let allows : Bool := match k with
            | .load => bitOf e 1 | .store => bitOf e 2 | .atomic => bitOf e 1 && bitOf e 2 | .fetch => bitOf e 3
          (s.populated page (pageBytes lvl) = false → look = .fault .page 2 lvl 0) ∧
          (s.populated page (pageBytes lvl) = true →
            (allows = false → look = .fault .perm 0 lvl 0) ∧
            (allows = true → bitOf e 4 = false → priv = false → look = .fault .perm 1 lvl 0) ∧
            (allows = true → bitOf e 4 = true ∨ priv = true →
              (s.keyAssigned (bits d 8 6) (bits e 52 12) = false → look = .fault .perm 2 lvl 0) ∧
              (s.keyAssigned (bits d 8 6) (bits e 52 12) = true →
                (s.granted (bits d 8 6) (bits e 16 36) = false → look = .fault .perm 3 lvl 0) ∧
                (s.granted (bits d 8 6) (bits e 16 36) = true → ∃ tr, look = .ok tr ∧ tr.pa = page + va % pageBytes lvl ∧
                  tr.key = bits e 52 12 ∧ tr.lvl = lvl)))))) ∧
    ∀ (q : HaReq) (tr : Trans) (pa : Nat) (by_ : Server) (leaf : Option (Nat × Nat × Nat × Nat)),
      s.poisoned (pa / 128) = true → q.engine = false →
      (s.performData q tr pa .rd by_ leaf).2 = .fault .poison 2 0 (BitVec.ofNat 64 (s.poisonSeq pa))

/-- R74, R98, R282, R283: a load, store or atomic at issue writes no byte of memory, since its accesses are performed later, each
at its performing point: unless its split traps, every byte of memory, every register of its thread, every other thread and every
block but its own is as before. It rests on the model's own choices of log entries 15, 16. -/
def Obligations.MemoryIssueFrame : Prop :=
  ∀ (s t : State) (i : Instr) (x : Iss), Instr.isAccess i = true → s.issues i = some x → exec i s = .next t →
    (∀ c sp, t.ctxs.find? x.cid = some c → c.splits.find? x.k = some sp → sp.parked = none) →
    (∀ key a, t.rdByte key a = s.rdByte key a) ∧ t.sys = s.sys ∧ (∀ k ≠ x.cid, t.ctxs.find? k = s.ctxs.find? k) ∧
    (∀ b ≠ x.c.blk, t.blk? b = s.blk? b) ∧
    ∃ c, t.ctxs.find? x.cid = some c ∧ c.v = x.c.v ∧ c.s = x.c.s ∧ c.p = x.c.p ∧ c.ix = x.c.ix ∧ c.sr = x.c.sr ∧ c.ka = x.c.ka

/-! ### Issue, traps and the step -/

/-- R186, R194, R197: for every instruction word, what the checks of issue find is the trap that the instruction takes, and when
they find nothing and no lane takes part the split only moves on; join and join.t are looked at whatever their guard, and without
a thread no instruction has a meaning. It rests on the model's own choices of log entries 25, 26, 28. -/
def Obligations.IssueChecks : Prop :=
  ∀ (s : State) (i : Instr) (o : Opr), i.opr? = some o →
    (s.thread i = none → exec i s = .fault .noThread) ∧
    ∀ x, s.thread i = some x →
      (∀ t, x.check = some t → exec i s = .next (s.trapAt x t)) ∧
      (x.check = none → x.part = 0 → i ≠ .join o → i ≠ .joinT o → exec i s = .next (s.retire x x.c)) ∧
      (x.ill = false → x.rangeFail = 0 → x.c.priv = false → privOnly i = true → x.part ≠ 0 →
        exec i s = .next (s.trapAt x { cause := .perm, qual := qPriv }))

/-- R367, R368, R370, R371, R382: a trap parks its split at its own address under a new token that then names it, changes no
register of the thread and no other split, thread or block, clears its block's discardable bit, and writes no byte of memory
outside the next entry of its fault queue, where that entry's page stands and, while it is copied, where it is mirrored (R47). It
rests on the model's own choices of log entries 28, 69. -/
def Obligations.TakingATrap : Prop :=
  ∀ (s : State) (cid k : Nat) (t : TrapInfo) (c : Ctx) (sp : Split), s.ctxs.find? cid = some c → c.splits.find? k = some sp →
    let u := s.takeTrap cid k t
    let tok := s.newToken c.dev
    let f := fslot c.fq
    u.ctxs.find? cid = some (c.setSplit k { sp with parked := some tok, wait := .none, replay := none }) ∧
    (∀ j ≠ cid, u.ctxs.find? j = s.ctxs.find? j) ∧ u.sys = s.sys ∧ u.pt = s.pt ∧
    (∀ b ≠ c.blk, u.blk? b = s.blk? b) ∧
    (c.stream ≠ .host → ∀ b, s.blk? c.blk = some b → u.blk? c.blk = some { b with disc := false }) ∧
    (∃ y, u.trp.toks.find? s.trp.nextTok = some y ∧ y.cid = cid ∧ y.k = k ∧ y.bytes = s.trapRec cid c sp.pc 0 tok t ∧
      y.pmask = t.pmask) ∧ u.trp.nextTok = s.trp.nextTok + 1 ∧
    ∀ key a, (∀ sz base, s.ring f = some (sz, base) → let e := base + s.fillAt (f + 8) % 2 ^ sz * 128
      (a < s.routed e ∨ s.routed e + 128 ≤ a) ∧ ∀ d, s.mirrorOf (s.routed e) = some d → a < d ∨ d + 128 ≤ a) → u.rdByte key a = s.rdByte key a

/-- R341, R371, R376: after the return the token names nothing; a replayed split stands unparked at the trapped instruction with
the lanes that are to take part, and waits for the others first if that is its reconvergence address, and a thread of one split
that skips or is redirected stands at the next instruction or at the target. No register changes. It rests on the model's own
choices of log entry 31. -/
def Obligations.TrapReturn : Prop :=
  ∀ (s : State) (n cid k : Nat) (c : Ctx) (sp : Split) (m : Option Mask) (l : Option Latch) (pc : BitVec 64),
    s.ctxs.find? cid = some c → c.splits.find? k = some sp →
    let replayed := s.returnFromTrap n cid k (.replay m l)
    let skipped := s.returnFromTrap n cid k .skip
    let gone := s.returnFromTrap n cid k (.goto pc)
    let one : Prop := c.splits = [(k, sp)] ∧ c.stack = [] ∧ sp.mask ≠ 0
    let again := c.setSplit k { sp with parked := none, wait := .none, replay := m, relatch := l, inLine := none }
    (∀ r, (s.returnFromTrap n cid k r).trp.toks.find? n = none) ∧
    replayed.ctxs.find? cid = some (if sp.j = some sp.pc then Ctx.settle s.pt 64 again else again) ∧
    (one → ∃ d q, skipped.ctxs.find? cid = some d ∧ d.splits = [(k, q)] ∧ q.pc = nextPc sp.pc ∧ q.parked = none ∧
      { d with splits := c.splits } = c) ∧
    (one → ∃ d q, gone.ctxs.find? cid = some d ∧ d.splits = [(k, q)] ∧ q.pc = pc ∧ q.parked = none ∧ { d with splits := c.splits } = c) ∧
    (∀ r, ∀ j ≠ cid, (s.returnFromTrap n cid k r).ctxs.find? j = s.ctxs.find? j)

/-- R166, R179, R183, R184, R186, R364: while the clocks run, a turn of a split runs the instruction that its slot's bytes decode
to, in the state one tick on, once the line's flags are clear where it enters the line, and counts the instruction unless it held;
a line that the core's instruction cache holds is entered in the same step. A pair raises PAIR, holds while its second slot would,
or has the effect of its first slot and then of its second; a slot that decodes to nothing raises ILL; and at its reconvergence
address a split looks only at join.t. A host thread's instruction that would read or write a register to which a result is due
waits (R173). A turn that is an event runs that event. No event that a rule gives no more time may stand before the turn. It rests
on the model's own choices of log entries 4, 6, 22. -/
def Obligations.StepRunsDecoded : Prop :=
  ∀ (s v w : State) (cid k n : Nat) (rest : List Turn) (c b d : Ctx) (sp p q : Split) (bs : List Byte) (i i2 : Instr) (o : Opr),
    s.pwr = .run → s.todo = [] → tryEvents exec s.tick s.tick.overdue = none →
    let u : State := { s.tick with agenda := rest }
    let turn : Prop := s.agenda = .issue cid k :: rest ∧ u.ctxs.find? cid = some c ∧ c.splits.find? k = some sp ∧
      u.mayRun c sp = true ∧ c.needsRefill sp = false ∧ u.lineStands cid k c sp v b p ∧ p.line = some bs ∧ slotOf p.pc = some n
    let ready : Prop := turn ∧ v.enters cid k n b p bs = some (w, d, q)
    let first := pairFirst bs (q.inLine.getD n) n
    let paired : Prop := first = true ∧ slotInstr bs (n + 1) = .ok i2 ∧ w.pairFault cid k d q bs n = none
    let single : Prop := first = false ∨ (w.pairFault cid k d q bs n = none ∧ ∀ j, slotInstr bs (n + 1) ≠ .ok j)
    let free : Prop := ∀ t, q.wait ≠ .atJoin t
    let guarded := maskOf ((lanesOf q.mask).filter (fun l => d.rp l (bits (slotWord bs n) 82 3) != bitOf (slotWord bs n) 85))
    let traps (t : TrapInfo) : Prop :=
      step s = .next (w.takeTrap cid k { t with lmask := if guarded = 0 then q.mask else guarded, pmask := guarded })
    let runs (i : Instr) (w : State) (then_ : State → Out) : Prop :=
      (∀ t, exec i { w with cur := (cid, k) } = .next t → step s = then_ t) ∧
      (∀ f, exec i { w with cur := (cid, k) } = .fault f → step s = .fault f) ∧
      (∀ r, exec i { w with cur := (cid, k) } = .refused r → step s = .refused r)
    (turn → v.enters cid k n b p bs = none → step s = .next v) ∧
    (ready → free → slotInstr bs n = .ok i → single → d.interlocked i = false →
      runs i w (fun t => .next (if pairSecond bs (q.inLine.getD n) n = true then t else t.noteIssue cid k))) ∧
    (ready → free → slotInstr bs n = .ok i → single → d.interlocked i = true → step s = .next w) ∧
    (ready → free → ∀ e, first = true → w.pairFault cid k d q bs n = some e → traps { cause := .pair, qual := e }) ∧
    (ready → free → ∀ e, first = false ∨ w.pairFault cid k d q bs n = none → slotInstr bs n = .error e → traps { cause := .ill }) ∧
    (ready → free → slotInstr bs n = .ok i → paired → d.interlocked i = true ∨ d.interlocked i2 = true → step s = .next w) ∧
    (ready → free → slotInstr bs n = .ok i → paired → d.interlocked i = false → d.interlocked i2 = false →
      (∀ h, w.holdOf exec i2 cid k (nextPc q.pc) = some h → step s = .next (w.setCtx cid (d.setSplit k { q with wait := h }))) ∧
      (w.holdOf exec i2 cid k (nextPc q.pc) = none → ∀ t e y, exec i { w with cur := (cid, k) } = .next t →
        (t.noteIssue cid k).ctxs.find? cid = some e → e.splits.find? k = some y →
        (y.pc = nextPc q.pc ∧ y.wait = .none ∧ y.parked = none ∧ y.mask ≠ 0 → runs i2 (t.noteIssue cid k) (fun t => .next t)) ∧
        (¬ (y.pc = nextPc q.pc ∧ y.wait = .none ∧ y.parked = none ∧ y.mask ≠ 0) → step s = .next (t.noteIssue cid k)))) ∧
    (ready → ∀ h, q.wait = .atJoin h →
      (slotInstr bs n = .ok (.joinT o) → runs (.joinT o) w (fun t => .next (t.noteIssue cid k))) ∧
      ((∀ o, slotInstr bs n ≠ .ok (.joinT o)) →
        step s = .next (w.setCtx cid (Ctx.settle w.pt 64 (d.setSplit k { q with wait := .join h none }))))) ∧
    (s.agenda = .event i :: rest → step s = exec i u)

/-- R147 to R151: adding a leaf, accepting a path and pruning keep every node's parent below it and every accepted node's parent
accepted; in such a tree a node is one deeper than its parent and sees itself and what its parent sees. -/
def Obligations.TreeShape : Prop :=
  ∀ (t : Tree) (n : TNode) (i : Nat), t.shape →
    (n.parent < t.nodes.length → n.accept = false → t.nodes.length < 256 → ({ t with nodes := t.nodes ++ [n] } : Tree).shape) ∧
    (i < t.nodes.length → (t.acceptNode i).shape ∧ ((t.acceptNode i).node i).accept = true) ∧
    (t.nodes ≠ [] → t.prune.1.shape ∧ t.prune.1.base = t.base + t.prune.2.1 ∧ t.prune.1.nodes.length ≤ t.nodes.length) ∧
    (0 < i → i < t.nodes.length → t.depth i = t.depth (t.node i).parent + 1 ∧ t.pos i = t.pos (t.node i).parent + 1 ∧
      ∀ j, (t.mask i).testBit j = (decide (j = i) || (t.mask (t.node i).parent).testBit j)) ∧
    t.depth 0 = 0 ∧ t.mask 0 = 1

/-! ### Rules of the spec as they stand -/

/-- R237: in every lane that takes part sel writes a to D when the 32-bit c is not zero and b otherwise, whatever D names: a
direct or an indexed lane register, the cox's register, or a predicate, which takes whether the value is not zero; a predicate
named as c supplies 0 or 1. -/
def Obligations.SelWrites : Prop :=
  ∀ (s : State) (x : Iss) (o : Opr) (t : Ty), s.issues (.sel o t) = some x →
    ∃ u c, exec (.sel o t) s = .next u ∧ u.ctxs.find? x.cid = some c ∧
      ∀ l, x.part.getLsbD l = true →
        let v := if x.rd s l 32 .zero .c ≠ 0 then x.rd s l t.width .zero .a else x.rd s l t.width .zero .b
        (∀ n, o.d = .v n → c.wide l n.toNat (t.width / 32) = v) ∧
        (∀ m off n, o.d = .vix m off → ixReg (x.c.rix l m.toNat) off t.width x.c.seg = some n → c.wide l n (t.width / 32) = v) ∧
        (∀ n, o.d = .s n → (∀ k, x.part.getLsbD k = true → k = l) → (c.rs n.toNat).toNat = v) ∧
        (∀ k, o.d = .pred k → k ≠ 7 → c.rp l k.toNat = decide (v ≠ 0)) ∧
        (x.olds = [] → ∀ k, o.c = .pred k → x.rd s l 32 .zero .c = if x.c.rp l k.toNat = true then 1 else 0)

/-- R407: at cold reset key 0 is PLAIN and every other key OFF, with no material, in the state after reset and after a cold reset
of any state. -/
def Obligations.KeysAtReset : Prop :=
  State.reset.keyMode 0 = 2 ∧ (∀ k ≠ 0, State.reset.keyMode k = 0 ∧ State.reset.keyMat k = 0) ∧
  ∀ s, ∃ t, exec .coldReset s = .next t ∧ t.keyMode 0 = 2 ∧ ∀ k ≠ 0, t.keyMode k = 0 ∧ t.keyMat k = 0

/-- R73: a write of LEASECFG that breaks LMIN ≤ LDEF ≤ LMAX ≤ 10 leaves the register; one that keeps it gives grants their new
classes, the leases already issued staying as they are; DETERMINISTIC mode makes the class fixed. -/
def Obligations.LeaseConfigWrite : Prop :=
  ∀ (s : State) (w : RegW) (v l limit : Nat), v < 64 → w.off = cacheB + 0x80 * v + 0x40 → s.mayWrite w = true →
    let lmin := bits w.val.toNat 0 4
    let lmax := bits w.val.toNat 4 4
    let ldef := bits w.val.toNat 8 4
    let good : Prop := lmin ≤ ldef ∧ ldef ≤ lmax ∧ lmax ≤ 10
    ∃ t, exec (.registerWrite w) s = .next t ∧ t.ms = s.ms ∧ (¬good → t.reg w.off = s.reg w.off) ∧
      (good → s.mode v = 0 → t.leaseCfg v = (lmin, lmax, ldef, w.val.toNat.testBit 12)) ∧
      (good → s.mode v = 1 → (t.grantLease v l limit).2 = Nat.min (t.pt + 64 * 2 ^ ldef) limit) ∧
      (s.mode v = 1 → (s.leaseCfg v).2.2.2 = true)

/-! ### Encoding, reset and the whole machine -/

/-- R187 to R198: some words of the spec and the instructions they stand for. -/
def Obligations.DecodeWords : Prop :=
  decodeWord 0x001C08000400000300000000 = .ok (.add { gn := false, gp := 7, fs := 0, d := .v 2, a := .v 0, b := .v 1, c := .none, imm := 0 } .s32 false) ∧
  decodeWord 0x249C24200000011100000000 = .ok (.fsqrt { gn := false, gp := 7, fs := 1, d := .v 9, a := .v 8, b := .none, c := .none, imm := 0 } .f32 .rne) ∧
  decodeWord 0x00281410FC00C023FFFFFFFD =
    .ok (.add { gn := true, gp := 2, fs := 0, d := .v 5, a := .v 4, b := .imm, c := .none, imm := 0xFFFFFFFD } .s32 true) ∧
  decodeWord 0x821C00000000000000000000 = .ok (.nop { gn := false, gp := 7, fs := 0, d := .none, a := .none, b := .none, c := .none, imm := 0 }) ∧
  decodeWord 0x800400000400000000000080 =
    .ok (.bra { gn := false, gp := 1, fs := 0, d := .none, a := .none, b := .none, c := .none, imm := 0 } ⟨16, 0⟩ (some ⟨32, 0⟩)) ∧
  decodeWord 0x609C2010181C010000000000 =
    .ok (.atom { gn := false, gp := 7, fs := 1, d := .v 8, a := .v 4, b := .v 6, c := .none, imm := 0 } .n32 .add .rlx .grp) ∧
  decodeWord 0xA01C00401402810000000009 =
    .ok (.mma { gn := false, gp := 7, fs := 1, d := .none, a := .s 16, b := .s 5, c := .none, imm := 0 } .e4m3 .e4m3 1 true) ∧
  decodeWord 0xC01C0008101AA00300000000 =
    .ok (.cpy { gn := false, gp := 7, fs := 0, d := .none, a := .s 2, b := .s 4, c := .s 6, imm := 0 } 3)

/-- R187 to R198: every well-formed instruction's word decodes to that instruction, and every word that decodes is the word of the
instruction it decodes to, so that no bit of a word is dropped and no two words have one meaning. It rests on the model's own
choices of log entry 24. -/
def Obligations.EncodeDecode : Prop :=
  ∀ (i : Instr) (w : BitVec 96), (encode i = some w ∧ i.wf = true) ↔ decodeWord w = .ok i

/-- R18, R92, R163, R174, R423: right after reset package time is 0 and the clocks run, no memory byte and no register of the
system region has been written, so that each reads its reset value, no block is resident, and every thread's context that is there
is host thread 0's, privileged, on device 0, with nothing under way and its lane registers 0. It rests on the model's own choices
of log entries 1, 2, 3, 7. -/
def Obligations.ResetState : Prop :=
  let s := State.reset
  s.pt = 0 ∧ s.pwr = .run ∧ Memory.wf s.ms.mem ∧ s.ms.mem = [] ∧ s.sys = [] ∧ s.blocks = [] ∧ (∀ off, s.reg off = sysReset off) ∧
  ∀ p ∈ s.ctxs, p.1 = 0 ∧ p.2.stream = .host ∧ p.2.priv = true ∧ p.2.dev = 0 ∧ p.2.alive = 1 ∧ p.2.flags = [] ∧ p.2.res = [] ∧
    p.2.accs = [] ∧ ∀ l n, p.2.rv l n = 0

/-- Memory keeps its canonical form at every step: addresses strictly rising and no byte listed that an unlisted one reads as. -/
def Obligations.MemoryStaysCanonical : Prop :=
  ∀ s t : State, Memory.wf s.ms.mem → s.stepsTo t → Memory.wf t.ms.mem
end

