-- ==== Sys2Proof/Laws/Map.lean ====
section
/-! SUPPORT. The laws of sparse maps: what is read after a write, and that writes keep the canonical form. -/

namespace Sys2Proof.SMap

variable {α : Type}

@[simp] theorem find?_nil (k : Nat) : find? ([] : SMap α) k = none := rfl

theorem find?_cons (j : Nat) (v : α) (m : SMap α) (k : Nat) :
    find? ((j, v) :: m : SMap α) k = if k = j then some v else find? m k := rfl

theorem erase_cons (p : Nat × α) (m : SMap α) (k : Nat) :
    erase (p :: m : SMap α) k = if p.1 = k then erase m k else p :: erase m k := by
  by_cases h : p.1 = k <;> simp [erase, h]

@[simp] theorem find?_erase_same (m : SMap α) (k : Nat) : find? (erase m k) k = none := by
  induction m with
  | nil => rfl
  | cons p m ih =>
    rw [erase_cons]
    split
    · exact ih
    · rw [find?_cons, if_neg (by omega), ih]

theorem find?_erase_ne (m : SMap α) {k j : Nat} (h : j ≠ k) : find? (erase m k) j = find? m j := by
  induction m with
  | nil => rfl
  | cons p m ih =>
    rw [erase_cons]
    split
    · rw [find?_cons, if_neg (by omega), ih]
    · rw [find?_cons, find?_cons, ih]

@[simp] theorem find?_put_same (m : SMap α) (k : Nat) (v : α) : find? (put m k v) k = some v := by
  induction m with
  | nil => simp [put, find?_cons]
  | cons p m ih =>
    simp only [put]
    split
    · simp [find?_cons]
    · split
      · simp [find?_cons]
      · rename_i h; rw [find?_cons, if_neg h, ih]

theorem find?_put_ne (m : SMap α) {k j : Nat} (v : α) (h : j ≠ k) : find? (put m k v) j = find? m j := by
  induction m with
  | nil => simp [put, find?_cons, h]
  | cons p m ih =>
    simp only [put]
    split
    · rw [find?_cons, if_neg h]
    · split
      · rename_i hp; rw [find?_cons, find?_cons, if_neg h, if_neg (by omega)]
      · rw [find?_cons, find?_cons]
        split
        · rfl
        · exact ih

theorem mem_put {m : SMap α} {k : Nat} {v : α} {x : Nat × α} (h : x ∈ put m k v) : x = (k, v) ∨ x ∈ m := by
  induction m with
  | nil => simpa [put] using h
  | cons p m ih =>
    simp only [put] at h
    split at h
    · simpa using h
    · split at h
      · rcases List.mem_cons.mp h with h | h
        · exact .inl h
        · exact .inr (List.mem_cons_of_mem _ h)
      · rcases List.mem_cons.mp h with h | h
        · exact .inr (h ▸ List.mem_cons_self)
        · rcases ih h with h | h
          · exact .inl h
          · exact .inr (List.mem_cons_of_mem _ h)

theorem pairwise_put {m : SMap α} (h : m.Pairwise (fun x y => x.1 < y.1)) (k : Nat) (v : α) :
    (put m k v).Pairwise (fun x y => x.1 < y.1) := by
  induction m with
  | nil => simp [put]
  | cons p m ih =>
    obtain ⟨hp, hm⟩ := List.pairwise_cons.mp h
    simp only [put]
    split
    · rename_i hk
      refine List.pairwise_cons.mpr ⟨fun x hx => ?_, h⟩
      rcases List.mem_cons.mp hx with rfl | hx
      · exact hk
      · exact Nat.lt_trans hk (hp x hx)
    · split
      · rename_i hk
        exact List.pairwise_cons.mpr ⟨fun x hx => hk ▸ hp x hx, hm⟩
      · rename_i h1 h2
        refine List.pairwise_cons.mpr ⟨fun x hx => ?_, ih hm⟩
        rcases mem_put hx with rfl | hx
        · show p.1 < k; omega
        · exact hp x hx

variable [DecidableEq α]

@[simp] theorem get_set_same (d : α) (m : SMap α) (k : Nat) (v : α) : get d (set d m k v) k = v := by
  unfold set get
  split
  · rename_i h; simp [h]
  · simp

theorem get_set_ne (d e : α) (m : SMap α) {k j : Nat} (v : α) (h : j ≠ k) : get d (set e m k v) j = get d m j := by
  unfold set get
  split
  · rw [find?_erase_ne m h]
  · rw [find?_put_ne m v h]

/-! ### The canonical form -/

theorem wf_nil (d : α) : wf d ([] : SMap α) = true := rfl

theorem wf_iff (d : α) (m : SMap α) :
    wf d m = true ↔ m.Pairwise (fun x y => x.1 < y.1) ∧ ∀ x ∈ m, x.2 ≠ d := by
  simp [wf, List.all_eq_true]

/-- Every write keeps the canonical form. -/
theorem wf_set {d : α} {m : SMap α} (h : wf d m = true) (k : Nat) (v : α) : wf d (set d m k v) = true := by
  rw [wf_iff] at h ⊢
  unfold set
  split
  · exact ⟨h.1.filter _, fun x hx => h.2 x (List.mem_of_mem_filter hx)⟩
  · rename_i hv
    refine ⟨pairwise_put h.1 k v, fun x hx => ?_⟩
    rcases mem_put hx with rfl | hx
    · exact hv
    · exact h.2 x hx

end Sys2Proof.SMap
end

