-- ==== Sys2Proof/Laws/State.lean ====
section
/-! SUPPORT. One lemma per field of the state for each update of the state, and the reads of what an update has written. -/

namespace Sys2Proof.Machine

@[simp] theorem State.setReg_pt (s : State) (off : Nat) (x : Word64) : (s.setReg off x).pt = s.pt := rfl
@[simp] theorem State.setReg_pwr (s : State) (off : Nat) (x : Word64) : (s.setReg off x).pwr = s.pwr := rfl
@[simp] theorem State.setReg_cur (s : State) (off : Nat) (x : Word64) : (s.setReg off x).cur = s.cur := rfl
@[simp] theorem State.setReg_agenda (s : State) (off : Nat) (x : Word64) : (s.setReg off x).agenda = s.agenda := rfl
@[simp] theorem State.setReg_todo (s : State) (off : Nat) (x : Word64) : (s.setReg off x).todo = s.todo := rfl
@[simp] theorem State.setReg_fresh (s : State) (off : Nat) (x : Word64) : (s.setReg off x).fresh = s.fresh := rfl
@[simp] theorem State.setReg_ctxs (s : State) (off : Nat) (x : Word64) : (s.setReg off x).ctxs = s.ctxs := rfl
@[simp] theorem State.setReg_blocks (s : State) (off : Nat) (x : Word64) : (s.setReg off x).blocks = s.blocks := rfl
@[simp] theorem State.setReg_ms (s : State) (off : Nat) (x : Word64) : (s.setReg off x).ms = s.ms := rfl
@[simp] theorem State.setReg_mig (s : State) (off : Nat) (x : Word64) : (s.setReg off x).mig = s.mig := rfl
@[simp] theorem State.setReg_rsds (s : State) (off : Nat) (x : Word64) : (s.setReg off x).rsds = s.rsds := rfl
@[simp] theorem State.setReg_kv (s : State) (off : Nat) (x : Word64) : (s.setReg off x).kv = s.kv := rfl
@[simp] theorem State.setReg_eng (s : State) (off : Nat) (x : Word64) : (s.setReg off x).eng = s.eng := rfl
@[simp] theorem State.setReg_trp (s : State) (off : Nat) (x : Word64) : (s.setReg off x).trp = s.trp := rfl
@[simp] theorem State.setReg_sch (s : State) (off : Nat) (x : Word64) : (s.setReg off x).sch = s.sch := rfl
@[simp] theorem State.setReg_part (s : State) (off : Nat) (x : Word64) : (s.setReg off x).part = s.part := rfl
@[simp] theorem State.setReg_mgmt (s : State) (off : Nat) (x : Word64) : (s.setReg off x).mgmt = s.mgmt := rfl
@[simp] theorem State.setReg_lnk (s : State) (off : Nat) (x : Word64) : (s.setReg off x).lnk = s.lnk := rfl

@[simp] theorem State.setCtx_pt (s : State) (cid : Nat) (c : Ctx) : (s.setCtx cid c).pt = s.pt := rfl
@[simp] theorem State.setCtx_pwr (s : State) (cid : Nat) (c : Ctx) : (s.setCtx cid c).pwr = s.pwr := rfl
@[simp] theorem State.setCtx_cur (s : State) (cid : Nat) (c : Ctx) : (s.setCtx cid c).cur = s.cur := rfl
@[simp] theorem State.setCtx_agenda (s : State) (cid : Nat) (c : Ctx) : (s.setCtx cid c).agenda = s.agenda := rfl
@[simp] theorem State.setCtx_todo (s : State) (cid : Nat) (c : Ctx) : (s.setCtx cid c).todo = s.todo := rfl
@[simp] theorem State.setCtx_fresh (s : State) (cid : Nat) (c : Ctx) : (s.setCtx cid c).fresh = s.fresh := rfl
@[simp] theorem State.setCtx_blocks (s : State) (cid : Nat) (c : Ctx) : (s.setCtx cid c).blocks = s.blocks := rfl
@[simp] theorem State.setCtx_ms (s : State) (cid : Nat) (c : Ctx) : (s.setCtx cid c).ms = s.ms := rfl
@[simp] theorem State.setCtx_sys (s : State) (cid : Nat) (c : Ctx) : (s.setCtx cid c).sys = s.sys := rfl
@[simp] theorem State.setCtx_mig (s : State) (cid : Nat) (c : Ctx) : (s.setCtx cid c).mig = s.mig := rfl
@[simp] theorem State.setCtx_rsds (s : State) (cid : Nat) (c : Ctx) : (s.setCtx cid c).rsds = s.rsds := rfl
@[simp] theorem State.setCtx_kv (s : State) (cid : Nat) (c : Ctx) : (s.setCtx cid c).kv = s.kv := rfl
@[simp] theorem State.setCtx_eng (s : State) (cid : Nat) (c : Ctx) : (s.setCtx cid c).eng = s.eng := rfl
@[simp] theorem State.setCtx_trp (s : State) (cid : Nat) (c : Ctx) : (s.setCtx cid c).trp = s.trp := rfl
@[simp] theorem State.setCtx_sch (s : State) (cid : Nat) (c : Ctx) : (s.setCtx cid c).sch = s.sch := rfl
@[simp] theorem State.setCtx_part (s : State) (cid : Nat) (c : Ctx) : (s.setCtx cid c).part = s.part := rfl
@[simp] theorem State.setCtx_mgmt (s : State) (cid : Nat) (c : Ctx) : (s.setCtx cid c).mgmt = s.mgmt := rfl
@[simp] theorem State.setCtx_lnk (s : State) (cid : Nat) (c : Ctx) : (s.setCtx cid c).lnk = s.lnk := rfl

@[simp] theorem State.setBlk_pt (s : State) (b : Nat) (x : Block) : (s.setBlk b x).pt = s.pt := rfl
@[simp] theorem State.setBlk_pwr (s : State) (b : Nat) (x : Block) : (s.setBlk b x).pwr = s.pwr := rfl
@[simp] theorem State.setBlk_cur (s : State) (b : Nat) (x : Block) : (s.setBlk b x).cur = s.cur := rfl
@[simp] theorem State.setBlk_agenda (s : State) (b : Nat) (x : Block) : (s.setBlk b x).agenda = s.agenda := rfl
@[simp] theorem State.setBlk_todo (s : State) (b : Nat) (x : Block) : (s.setBlk b x).todo = s.todo := rfl
@[simp] theorem State.setBlk_fresh (s : State) (b : Nat) (x : Block) : (s.setBlk b x).fresh = s.fresh := rfl
@[simp] theorem State.setBlk_ctxs (s : State) (b : Nat) (x : Block) : (s.setBlk b x).ctxs = s.ctxs := rfl
@[simp] theorem State.setBlk_ms (s : State) (b : Nat) (x : Block) : (s.setBlk b x).ms = s.ms := rfl
@[simp] theorem State.setBlk_sys (s : State) (b : Nat) (x : Block) : (s.setBlk b x).sys = s.sys := rfl
@[simp] theorem State.setBlk_mig (s : State) (b : Nat) (x : Block) : (s.setBlk b x).mig = s.mig := rfl
@[simp] theorem State.setBlk_rsds (s : State) (b : Nat) (x : Block) : (s.setBlk b x).rsds = s.rsds := rfl
@[simp] theorem State.setBlk_kv (s : State) (b : Nat) (x : Block) : (s.setBlk b x).kv = s.kv := rfl
@[simp] theorem State.setBlk_eng (s : State) (b : Nat) (x : Block) : (s.setBlk b x).eng = s.eng := rfl
@[simp] theorem State.setBlk_trp (s : State) (b : Nat) (x : Block) : (s.setBlk b x).trp = s.trp := rfl
@[simp] theorem State.setBlk_sch (s : State) (b : Nat) (x : Block) : (s.setBlk b x).sch = s.sch := rfl
@[simp] theorem State.setBlk_part (s : State) (b : Nat) (x : Block) : (s.setBlk b x).part = s.part := rfl
@[simp] theorem State.setBlk_mgmt (s : State) (b : Nat) (x : Block) : (s.setBlk b x).mgmt = s.mgmt := rfl
@[simp] theorem State.setBlk_lnk (s : State) (b : Nat) (x : Block) : (s.setBlk b x).lnk = s.lnk := rfl

@[simp] theorem State.setMs_pt (s : State) (m : MemSys) : (s.setMs m).pt = s.pt := rfl
@[simp] theorem State.setMs_pwr (s : State) (m : MemSys) : (s.setMs m).pwr = s.pwr := rfl
@[simp] theorem State.setMs_cur (s : State) (m : MemSys) : (s.setMs m).cur = s.cur := rfl
@[simp] theorem State.setMs_agenda (s : State) (m : MemSys) : (s.setMs m).agenda = s.agenda := rfl
@[simp] theorem State.setMs_todo (s : State) (m : MemSys) : (s.setMs m).todo = s.todo := rfl
@[simp] theorem State.setMs_fresh (s : State) (m : MemSys) : (s.setMs m).fresh = s.fresh := rfl
@[simp] theorem State.setMs_ctxs (s : State) (m : MemSys) : (s.setMs m).ctxs = s.ctxs := rfl
@[simp] theorem State.setMs_blocks (s : State) (m : MemSys) : (s.setMs m).blocks = s.blocks := rfl
@[simp] theorem State.setMs_sys (s : State) (m : MemSys) : (s.setMs m).sys = s.sys := rfl
@[simp] theorem State.setMs_mig (s : State) (m : MemSys) : (s.setMs m).mig = s.mig := rfl
@[simp] theorem State.setMs_rsds (s : State) (m : MemSys) : (s.setMs m).rsds = s.rsds := rfl
@[simp] theorem State.setMs_kv (s : State) (m : MemSys) : (s.setMs m).kv = s.kv := rfl
@[simp] theorem State.setMs_eng (s : State) (m : MemSys) : (s.setMs m).eng = s.eng := rfl
@[simp] theorem State.setMs_trp (s : State) (m : MemSys) : (s.setMs m).trp = s.trp := rfl
@[simp] theorem State.setMs_sch (s : State) (m : MemSys) : (s.setMs m).sch = s.sch := rfl
@[simp] theorem State.setMs_part (s : State) (m : MemSys) : (s.setMs m).part = s.part := rfl
@[simp] theorem State.setMs_mgmt (s : State) (m : MemSys) : (s.setMs m).mgmt = s.mgmt := rfl
@[simp] theorem State.setMs_lnk (s : State) (m : MemSys) : (s.setMs m).lnk = s.lnk := rfl

@[simp] theorem State.setDir_pt (s : State) (l : Nat) (d : Dir) : (s.setDir l d).pt = s.pt := rfl
@[simp] theorem State.setDir_pwr (s : State) (l : Nat) (d : Dir) : (s.setDir l d).pwr = s.pwr := rfl
@[simp] theorem State.setDir_cur (s : State) (l : Nat) (d : Dir) : (s.setDir l d).cur = s.cur := rfl
@[simp] theorem State.setDir_agenda (s : State) (l : Nat) (d : Dir) : (s.setDir l d).agenda = s.agenda := rfl
@[simp] theorem State.setDir_todo (s : State) (l : Nat) (d : Dir) : (s.setDir l d).todo = s.todo := rfl
@[simp] theorem State.setDir_fresh (s : State) (l : Nat) (d : Dir) : (s.setDir l d).fresh = s.fresh := rfl
@[simp] theorem State.setDir_ctxs (s : State) (l : Nat) (d : Dir) : (s.setDir l d).ctxs = s.ctxs := rfl
@[simp] theorem State.setDir_blocks (s : State) (l : Nat) (d : Dir) : (s.setDir l d).blocks = s.blocks := rfl
@[simp] theorem State.setDir_sys (s : State) (l : Nat) (d : Dir) : (s.setDir l d).sys = s.sys := rfl
@[simp] theorem State.setDir_mig (s : State) (l : Nat) (d : Dir) : (s.setDir l d).mig = s.mig := rfl
@[simp] theorem State.setDir_rsds (s : State) (l : Nat) (d : Dir) : (s.setDir l d).rsds = s.rsds := rfl
@[simp] theorem State.setDir_kv (s : State) (l : Nat) (d : Dir) : (s.setDir l d).kv = s.kv := rfl
@[simp] theorem State.setDir_eng (s : State) (l : Nat) (d : Dir) : (s.setDir l d).eng = s.eng := rfl
@[simp] theorem State.setDir_trp (s : State) (l : Nat) (d : Dir) : (s.setDir l d).trp = s.trp := rfl
@[simp] theorem State.setDir_sch (s : State) (l : Nat) (d : Dir) : (s.setDir l d).sch = s.sch := rfl
@[simp] theorem State.setDir_part (s : State) (l : Nat) (d : Dir) : (s.setDir l d).part = s.part := rfl
@[simp] theorem State.setDir_mgmt (s : State) (l : Nat) (d : Dir) : (s.setDir l d).mgmt = s.mgmt := rfl
@[simp] theorem State.setDir_lnk (s : State) (l : Nat) (d : Dir) : (s.setDir l d).lnk = s.lnk := rfl

@[simp] theorem State.setPoison_pt (s : State) (l : Nat) (b : Bool) : (s.setPoison l b).pt = s.pt := rfl
@[simp] theorem State.setPoison_pwr (s : State) (l : Nat) (b : Bool) : (s.setPoison l b).pwr = s.pwr := rfl
@[simp] theorem State.setPoison_cur (s : State) (l : Nat) (b : Bool) : (s.setPoison l b).cur = s.cur := rfl
@[simp] theorem State.setPoison_agenda (s : State) (l : Nat) (b : Bool) : (s.setPoison l b).agenda = s.agenda := rfl
@[simp] theorem State.setPoison_todo (s : State) (l : Nat) (b : Bool) : (s.setPoison l b).todo = s.todo := rfl
@[simp] theorem State.setPoison_fresh (s : State) (l : Nat) (b : Bool) : (s.setPoison l b).fresh = s.fresh := rfl
@[simp] theorem State.setPoison_ctxs (s : State) (l : Nat) (b : Bool) : (s.setPoison l b).ctxs = s.ctxs := rfl
@[simp] theorem State.setPoison_blocks (s : State) (l : Nat) (b : Bool) : (s.setPoison l b).blocks = s.blocks := rfl
@[simp] theorem State.setPoison_sys (s : State) (l : Nat) (b : Bool) : (s.setPoison l b).sys = s.sys := rfl
@[simp] theorem State.setPoison_mig (s : State) (l : Nat) (b : Bool) : (s.setPoison l b).mig = s.mig := rfl
@[simp] theorem State.setPoison_rsds (s : State) (l : Nat) (b : Bool) : (s.setPoison l b).rsds = s.rsds := rfl
@[simp] theorem State.setPoison_kv (s : State) (l : Nat) (b : Bool) : (s.setPoison l b).kv = s.kv := rfl
@[simp] theorem State.setPoison_eng (s : State) (l : Nat) (b : Bool) : (s.setPoison l b).eng = s.eng := rfl
@[simp] theorem State.setPoison_trp (s : State) (l : Nat) (b : Bool) : (s.setPoison l b).trp = s.trp := rfl
@[simp] theorem State.setPoison_sch (s : State) (l : Nat) (b : Bool) : (s.setPoison l b).sch = s.sch := rfl
@[simp] theorem State.setPoison_part (s : State) (l : Nat) (b : Bool) : (s.setPoison l b).part = s.part := rfl
@[simp] theorem State.setPoison_mgmt (s : State) (l : Nat) (b : Bool) : (s.setPoison l b).mgmt = s.mgmt := rfl
@[simp] theorem State.setPoison_lnk (s : State) (l : Nat) (b : Bool) : (s.setPoison l b).lnk = s.lnk := rfl

@[simp] theorem State.setReq_pt (s : State) (id : Nat) (r : Req) : (s.setReq id r).pt = s.pt := rfl
@[simp] theorem State.setReq_pwr (s : State) (id : Nat) (r : Req) : (s.setReq id r).pwr = s.pwr := rfl
@[simp] theorem State.setReq_cur (s : State) (id : Nat) (r : Req) : (s.setReq id r).cur = s.cur := rfl
@[simp] theorem State.setReq_agenda (s : State) (id : Nat) (r : Req) : (s.setReq id r).agenda = s.agenda := rfl
@[simp] theorem State.setReq_todo (s : State) (id : Nat) (r : Req) : (s.setReq id r).todo = s.todo := rfl
@[simp] theorem State.setReq_fresh (s : State) (id : Nat) (r : Req) : (s.setReq id r).fresh = s.fresh := rfl
@[simp] theorem State.setReq_ctxs (s : State) (id : Nat) (r : Req) : (s.setReq id r).ctxs = s.ctxs := rfl
@[simp] theorem State.setReq_blocks (s : State) (id : Nat) (r : Req) : (s.setReq id r).blocks = s.blocks := rfl
@[simp] theorem State.setReq_sys (s : State) (id : Nat) (r : Req) : (s.setReq id r).sys = s.sys := rfl
@[simp] theorem State.setReq_mig (s : State) (id : Nat) (r : Req) : (s.setReq id r).mig = s.mig := rfl
@[simp] theorem State.setReq_rsds (s : State) (id : Nat) (r : Req) : (s.setReq id r).rsds = s.rsds := rfl
@[simp] theorem State.setReq_kv (s : State) (id : Nat) (r : Req) : (s.setReq id r).kv = s.kv := rfl
@[simp] theorem State.setReq_eng (s : State) (id : Nat) (r : Req) : (s.setReq id r).eng = s.eng := rfl
@[simp] theorem State.setReq_trp (s : State) (id : Nat) (r : Req) : (s.setReq id r).trp = s.trp := rfl
@[simp] theorem State.setReq_sch (s : State) (id : Nat) (r : Req) : (s.setReq id r).sch = s.sch := rfl
@[simp] theorem State.setReq_part (s : State) (id : Nat) (r : Req) : (s.setReq id r).part = s.part := rfl
@[simp] theorem State.setReq_mgmt (s : State) (id : Nat) (r : Req) : (s.setReq id r).mgmt = s.mgmt := rfl
@[simp] theorem State.setReq_lnk (s : State) (id : Nat) (r : Req) : (s.setReq id r).lnk = s.lnk := rfl

@[simp] theorem State.setDir_mem (s : State) (l : Nat) (d : Dir) : (s.setDir l d).ms.mem = s.ms.mem := rfl
@[simp] theorem State.setPoison_mem (s : State) (l : Nat) (b : Bool) : (s.setPoison l b).ms.mem = s.ms.mem := rfl
@[simp] theorem State.setReq_mem (s : State) (id : Nat) (r : Req) : (s.setReq id r).ms.mem = s.ms.mem := rfl
@[simp] theorem State.setMs_ms (s : State) (m : MemSys) : (s.setMs m).ms = m := rfl

@[simp] theorem State.setCtx_find?_same (s : State) (cid : Nat) (c : Ctx) : (s.setCtx cid c).ctxs.find? cid = some c := by
  simp [State.setCtx]
theorem State.setCtx_find?_ne (s : State) {cid j : Nat} (c : Ctx) (h : j ≠ cid) :
    (s.setCtx cid c).ctxs.find? j = s.ctxs.find? j := SMap.find?_put_ne _ c h
@[simp] theorem State.setBlk_find?_same (s : State) (b : Nat) (x : Block) : (s.setBlk b x).blocks.find? b = some x := by
  simp [State.setBlk]
theorem State.setBlk_find?_ne (s : State) {b j : Nat} (x : Block) (h : j ≠ b) :
    (s.setBlk b x).blocks.find? j = s.blocks.find? j := SMap.find?_put_ne _ x h
@[simp] theorem State.reg_setReg_same (s : State) (off : Nat) (x : Word64) : (s.setReg off x).reg off = x := by
  simp [State.reg, State.setReg]
theorem State.reg_setReg_ne (s : State) {off j : Nat} (x : Word64) (h : j ≠ off) : (s.setReg off x).reg j = s.reg j :=
  SMap.get_set_ne _ _ _ x h

@[simp] theorem State.tell_pt (s : State) (dst : Nat × Nat) (m : PodMsg) : (s.tell dst m).pt = s.pt := rfl
@[simp] theorem State.tell_pwr (s : State) (dst : Nat × Nat) (m : PodMsg) : (s.tell dst m).pwr = s.pwr := rfl
@[simp] theorem State.tell_cur (s : State) (dst : Nat × Nat) (m : PodMsg) : (s.tell dst m).cur = s.cur := rfl
@[simp] theorem State.tell_agenda (s : State) (dst : Nat × Nat) (m : PodMsg) : (s.tell dst m).agenda = s.agenda := rfl
@[simp] theorem State.tell_todo (s : State) (dst : Nat × Nat) (m : PodMsg) : (s.tell dst m).todo = s.todo := rfl
@[simp] theorem State.tell_fresh (s : State) (dst : Nat × Nat) (m : PodMsg) : (s.tell dst m).fresh = s.fresh := rfl
@[simp] theorem State.tell_ctxs (s : State) (dst : Nat × Nat) (m : PodMsg) : (s.tell dst m).ctxs = s.ctxs := rfl
@[simp] theorem State.tell_blocks (s : State) (dst : Nat × Nat) (m : PodMsg) : (s.tell dst m).blocks = s.blocks := rfl
@[simp] theorem State.tell_ms (s : State) (dst : Nat × Nat) (m : PodMsg) : (s.tell dst m).ms = s.ms := rfl
@[simp] theorem State.tell_sys (s : State) (dst : Nat × Nat) (m : PodMsg) : (s.tell dst m).sys = s.sys := rfl
@[simp] theorem State.tell_mig (s : State) (dst : Nat × Nat) (m : PodMsg) : (s.tell dst m).mig = s.mig := rfl
@[simp] theorem State.tell_rsds (s : State) (dst : Nat × Nat) (m : PodMsg) : (s.tell dst m).rsds = s.rsds := rfl
@[simp] theorem State.tell_kv (s : State) (dst : Nat × Nat) (m : PodMsg) : (s.tell dst m).kv = s.kv := rfl
@[simp] theorem State.tell_eng (s : State) (dst : Nat × Nat) (m : PodMsg) : (s.tell dst m).eng = s.eng := rfl
@[simp] theorem State.tell_trp (s : State) (dst : Nat × Nat) (m : PodMsg) : (s.tell dst m).trp = s.trp := rfl
@[simp] theorem State.tell_sch (s : State) (dst : Nat × Nat) (m : PodMsg) : (s.tell dst m).sch = s.sch := rfl
@[simp] theorem State.tell_part (s : State) (dst : Nat × Nat) (m : PodMsg) : (s.tell dst m).part = s.part := rfl
@[simp] theorem State.tell_mgmt (s : State) (dst : Nat × Nat) (m : PodMsg) : (s.tell dst m).mgmt = s.mgmt := rfl

@[simp] theorem State.setRsd_pt (s : State) (key : Nat) (r : Rsd) : (s.setRsd key r).pt = s.pt := rfl
@[simp] theorem State.setRsd_pwr (s : State) (key : Nat) (r : Rsd) : (s.setRsd key r).pwr = s.pwr := rfl
@[simp] theorem State.setRsd_cur (s : State) (key : Nat) (r : Rsd) : (s.setRsd key r).cur = s.cur := rfl
@[simp] theorem State.setRsd_agenda (s : State) (key : Nat) (r : Rsd) : (s.setRsd key r).agenda = s.agenda := rfl
@[simp] theorem State.setRsd_todo (s : State) (key : Nat) (r : Rsd) : (s.setRsd key r).todo = s.todo := rfl
@[simp] theorem State.setRsd_fresh (s : State) (key : Nat) (r : Rsd) : (s.setRsd key r).fresh = s.fresh := rfl
@[simp] theorem State.setRsd_ctxs (s : State) (key : Nat) (r : Rsd) : (s.setRsd key r).ctxs = s.ctxs := rfl
@[simp] theorem State.setRsd_blocks (s : State) (key : Nat) (r : Rsd) : (s.setRsd key r).blocks = s.blocks := rfl
@[simp] theorem State.setRsd_ms (s : State) (key : Nat) (r : Rsd) : (s.setRsd key r).ms = s.ms := rfl
@[simp] theorem State.setRsd_sys (s : State) (key : Nat) (r : Rsd) : (s.setRsd key r).sys = s.sys := rfl
@[simp] theorem State.setRsd_mig (s : State) (key : Nat) (r : Rsd) : (s.setRsd key r).mig = s.mig := rfl
@[simp] theorem State.setRsd_kv (s : State) (key : Nat) (r : Rsd) : (s.setRsd key r).kv = s.kv := rfl
@[simp] theorem State.setRsd_eng (s : State) (key : Nat) (r : Rsd) : (s.setRsd key r).eng = s.eng := rfl
@[simp] theorem State.setRsd_trp (s : State) (key : Nat) (r : Rsd) : (s.setRsd key r).trp = s.trp := rfl
@[simp] theorem State.setRsd_sch (s : State) (key : Nat) (r : Rsd) : (s.setRsd key r).sch = s.sch := rfl
@[simp] theorem State.setRsd_part (s : State) (key : Nat) (r : Rsd) : (s.setRsd key r).part = s.part := rfl
@[simp] theorem State.setRsd_mgmt (s : State) (key : Nat) (r : Rsd) : (s.setRsd key r).mgmt = s.mgmt := rfl
@[simp] theorem State.setRsd_lnk (s : State) (key : Nat) (r : Rsd) : (s.setRsd key r).lnk = s.lnk := rfl

@[simp] theorem State.setOp_pt (s : State) (id : Nat) (o : EOp) : (s.setOp id o).pt = s.pt := rfl
@[simp] theorem State.setOp_pwr (s : State) (id : Nat) (o : EOp) : (s.setOp id o).pwr = s.pwr := rfl
@[simp] theorem State.setOp_cur (s : State) (id : Nat) (o : EOp) : (s.setOp id o).cur = s.cur := rfl
@[simp] theorem State.setOp_agenda (s : State) (id : Nat) (o : EOp) : (s.setOp id o).agenda = s.agenda := rfl
@[simp] theorem State.setOp_todo (s : State) (id : Nat) (o : EOp) : (s.setOp id o).todo = s.todo := rfl
@[simp] theorem State.setOp_fresh (s : State) (id : Nat) (o : EOp) : (s.setOp id o).fresh = s.fresh := rfl
@[simp] theorem State.setOp_ctxs (s : State) (id : Nat) (o : EOp) : (s.setOp id o).ctxs = s.ctxs := rfl
@[simp] theorem State.setOp_blocks (s : State) (id : Nat) (o : EOp) : (s.setOp id o).blocks = s.blocks := rfl
@[simp] theorem State.setOp_ms (s : State) (id : Nat) (o : EOp) : (s.setOp id o).ms = s.ms := rfl
@[simp] theorem State.setOp_sys (s : State) (id : Nat) (o : EOp) : (s.setOp id o).sys = s.sys := rfl
@[simp] theorem State.setOp_mig (s : State) (id : Nat) (o : EOp) : (s.setOp id o).mig = s.mig := rfl
@[simp] theorem State.setOp_rsds (s : State) (id : Nat) (o : EOp) : (s.setOp id o).rsds = s.rsds := rfl
@[simp] theorem State.setOp_kv (s : State) (id : Nat) (o : EOp) : (s.setOp id o).kv = s.kv := rfl
@[simp] theorem State.setOp_trp (s : State) (id : Nat) (o : EOp) : (s.setOp id o).trp = s.trp := rfl
@[simp] theorem State.setOp_sch (s : State) (id : Nat) (o : EOp) : (s.setOp id o).sch = s.sch := rfl
@[simp] theorem State.setOp_part (s : State) (id : Nat) (o : EOp) : (s.setOp id o).part = s.part := rfl
@[simp] theorem State.setOp_mgmt (s : State) (id : Nat) (o : EOp) : (s.setOp id o).mgmt = s.mgmt := rfl
@[simp] theorem State.setOp_lnk (s : State) (id : Nat) (o : EOp) : (s.setOp id o).lnk = s.lnk := rfl

@[simp] theorem State.setColl_pt (s : State) (x : Coll) : (s.setColl x).pt = s.pt := rfl
@[simp] theorem State.setColl_pwr (s : State) (x : Coll) : (s.setColl x).pwr = s.pwr := rfl
@[simp] theorem State.setColl_cur (s : State) (x : Coll) : (s.setColl x).cur = s.cur := rfl
@[simp] theorem State.setColl_agenda (s : State) (x : Coll) : (s.setColl x).agenda = s.agenda := rfl
@[simp] theorem State.setColl_todo (s : State) (x : Coll) : (s.setColl x).todo = s.todo := rfl
@[simp] theorem State.setColl_fresh (s : State) (x : Coll) : (s.setColl x).fresh = s.fresh := rfl
@[simp] theorem State.setColl_ctxs (s : State) (x : Coll) : (s.setColl x).ctxs = s.ctxs := rfl
@[simp] theorem State.setColl_blocks (s : State) (x : Coll) : (s.setColl x).blocks = s.blocks := rfl
@[simp] theorem State.setColl_ms (s : State) (x : Coll) : (s.setColl x).ms = s.ms := rfl
@[simp] theorem State.setColl_sys (s : State) (x : Coll) : (s.setColl x).sys = s.sys := rfl
@[simp] theorem State.setColl_mig (s : State) (x : Coll) : (s.setColl x).mig = s.mig := rfl
@[simp] theorem State.setColl_rsds (s : State) (x : Coll) : (s.setColl x).rsds = s.rsds := rfl
@[simp] theorem State.setColl_kv (s : State) (x : Coll) : (s.setColl x).kv = s.kv := rfl
@[simp] theorem State.setColl_trp (s : State) (x : Coll) : (s.setColl x).trp = s.trp := rfl
@[simp] theorem State.setColl_sch (s : State) (x : Coll) : (s.setColl x).sch = s.sch := rfl
@[simp] theorem State.setColl_part (s : State) (x : Coll) : (s.setColl x).part = s.part := rfl
@[simp] theorem State.setColl_mgmt (s : State) (x : Coll) : (s.setColl x).mgmt = s.mgmt := rfl
@[simp] theorem State.setColl_lnk (s : State) (x : Coll) : (s.setColl x).lnk = s.lnk := rfl

@[simp] theorem State.setFwd_pt (s : State) (i : Nat) (f : Fwd) : (s.setFwd i f).pt = s.pt := rfl
@[simp] theorem State.setFwd_pwr (s : State) (i : Nat) (f : Fwd) : (s.setFwd i f).pwr = s.pwr := rfl
@[simp] theorem State.setFwd_cur (s : State) (i : Nat) (f : Fwd) : (s.setFwd i f).cur = s.cur := rfl
@[simp] theorem State.setFwd_agenda (s : State) (i : Nat) (f : Fwd) : (s.setFwd i f).agenda = s.agenda := rfl
@[simp] theorem State.setFwd_todo (s : State) (i : Nat) (f : Fwd) : (s.setFwd i f).todo = s.todo := rfl
@[simp] theorem State.setFwd_fresh (s : State) (i : Nat) (f : Fwd) : (s.setFwd i f).fresh = s.fresh := rfl
@[simp] theorem State.setFwd_ctxs (s : State) (i : Nat) (f : Fwd) : (s.setFwd i f).ctxs = s.ctxs := rfl
@[simp] theorem State.setFwd_blocks (s : State) (i : Nat) (f : Fwd) : (s.setFwd i f).blocks = s.blocks := rfl
@[simp] theorem State.setFwd_ms (s : State) (i : Nat) (f : Fwd) : (s.setFwd i f).ms = s.ms := rfl
@[simp] theorem State.setFwd_sys (s : State) (i : Nat) (f : Fwd) : (s.setFwd i f).sys = s.sys := rfl
@[simp] theorem State.setFwd_rsds (s : State) (i : Nat) (f : Fwd) : (s.setFwd i f).rsds = s.rsds := rfl
@[simp] theorem State.setFwd_kv (s : State) (i : Nat) (f : Fwd) : (s.setFwd i f).kv = s.kv := rfl
@[simp] theorem State.setFwd_eng (s : State) (i : Nat) (f : Fwd) : (s.setFwd i f).eng = s.eng := rfl
@[simp] theorem State.setFwd_trp (s : State) (i : Nat) (f : Fwd) : (s.setFwd i f).trp = s.trp := rfl
@[simp] theorem State.setFwd_sch (s : State) (i : Nat) (f : Fwd) : (s.setFwd i f).sch = s.sch := rfl
@[simp] theorem State.setFwd_part (s : State) (i : Nat) (f : Fwd) : (s.setFwd i f).part = s.part := rfl
@[simp] theorem State.setFwd_mgmt (s : State) (i : Nat) (f : Fwd) : (s.setFwd i f).mgmt = s.mgmt := rfl
@[simp] theorem State.setFwd_lnk (s : State) (i : Nat) (f : Fwd) : (s.setFwd i f).lnk = s.lnk := rfl

@[simp] theorem State.setFact_pt (s : State) (n : Nat) (f : PoolFact) : (s.setFact n f).pt = s.pt := rfl
@[simp] theorem State.setFact_pwr (s : State) (n : Nat) (f : PoolFact) : (s.setFact n f).pwr = s.pwr := rfl
@[simp] theorem State.setFact_cur (s : State) (n : Nat) (f : PoolFact) : (s.setFact n f).cur = s.cur := rfl
@[simp] theorem State.setFact_agenda (s : State) (n : Nat) (f : PoolFact) : (s.setFact n f).agenda = s.agenda := rfl
@[simp] theorem State.setFact_todo (s : State) (n : Nat) (f : PoolFact) : (s.setFact n f).todo = s.todo := rfl
@[simp] theorem State.setFact_fresh (s : State) (n : Nat) (f : PoolFact) : (s.setFact n f).fresh = s.fresh := rfl
@[simp] theorem State.setFact_ctxs (s : State) (n : Nat) (f : PoolFact) : (s.setFact n f).ctxs = s.ctxs := rfl
@[simp] theorem State.setFact_blocks (s : State) (n : Nat) (f : PoolFact) : (s.setFact n f).blocks = s.blocks := rfl
@[simp] theorem State.setFact_ms (s : State) (n : Nat) (f : PoolFact) : (s.setFact n f).ms = s.ms := rfl
@[simp] theorem State.setFact_sys (s : State) (n : Nat) (f : PoolFact) : (s.setFact n f).sys = s.sys := rfl
@[simp] theorem State.setFact_rsds (s : State) (n : Nat) (f : PoolFact) : (s.setFact n f).rsds = s.rsds := rfl
@[simp] theorem State.setFact_kv (s : State) (n : Nat) (f : PoolFact) : (s.setFact n f).kv = s.kv := rfl
@[simp] theorem State.setFact_eng (s : State) (n : Nat) (f : PoolFact) : (s.setFact n f).eng = s.eng := rfl
@[simp] theorem State.setFact_trp (s : State) (n : Nat) (f : PoolFact) : (s.setFact n f).trp = s.trp := rfl
@[simp] theorem State.setFact_sch (s : State) (n : Nat) (f : PoolFact) : (s.setFact n f).sch = s.sch := rfl
@[simp] theorem State.setFact_part (s : State) (n : Nat) (f : PoolFact) : (s.setFact n f).part = s.part := rfl
@[simp] theorem State.setFact_mgmt (s : State) (n : Nat) (f : PoolFact) : (s.setFact n f).mgmt = s.mgmt := rfl
@[simp] theorem State.setFact_lnk (s : State) (n : Nat) (f : PoolFact) : (s.setFact n f).lnk = s.lnk := rfl

@[simp] theorem State.setLaunch_pt (s : State) (l : Nat) (x : Launch) : (s.setLaunch l x).pt = s.pt := rfl
@[simp] theorem State.setLaunch_pwr (s : State) (l : Nat) (x : Launch) : (s.setLaunch l x).pwr = s.pwr := rfl
@[simp] theorem State.setLaunch_cur (s : State) (l : Nat) (x : Launch) : (s.setLaunch l x).cur = s.cur := rfl
@[simp] theorem State.setLaunch_agenda (s : State) (l : Nat) (x : Launch) : (s.setLaunch l x).agenda = s.agenda := rfl
@[simp] theorem State.setLaunch_todo (s : State) (l : Nat) (x : Launch) : (s.setLaunch l x).todo = s.todo := rfl
@[simp] theorem State.setLaunch_fresh (s : State) (l : Nat) (x : Launch) : (s.setLaunch l x).fresh = s.fresh := rfl
@[simp] theorem State.setLaunch_ctxs (s : State) (l : Nat) (x : Launch) : (s.setLaunch l x).ctxs = s.ctxs := rfl
@[simp] theorem State.setLaunch_blocks (s : State) (l : Nat) (x : Launch) : (s.setLaunch l x).blocks = s.blocks := rfl
@[simp] theorem State.setLaunch_ms (s : State) (l : Nat) (x : Launch) : (s.setLaunch l x).ms = s.ms := rfl
@[simp] theorem State.setLaunch_sys (s : State) (l : Nat) (x : Launch) : (s.setLaunch l x).sys = s.sys := rfl
@[simp] theorem State.setLaunch_mig (s : State) (l : Nat) (x : Launch) : (s.setLaunch l x).mig = s.mig := rfl
@[simp] theorem State.setLaunch_rsds (s : State) (l : Nat) (x : Launch) : (s.setLaunch l x).rsds = s.rsds := rfl
@[simp] theorem State.setLaunch_kv (s : State) (l : Nat) (x : Launch) : (s.setLaunch l x).kv = s.kv := rfl
@[simp] theorem State.setLaunch_eng (s : State) (l : Nat) (x : Launch) : (s.setLaunch l x).eng = s.eng := rfl
@[simp] theorem State.setLaunch_trp (s : State) (l : Nat) (x : Launch) : (s.setLaunch l x).trp = s.trp := rfl
@[simp] theorem State.setLaunch_part (s : State) (l : Nat) (x : Launch) : (s.setLaunch l x).part = s.part := rfl
@[simp] theorem State.setLaunch_mgmt (s : State) (l : Nat) (x : Launch) : (s.setLaunch l x).mgmt = s.mgmt := rfl
@[simp] theorem State.setLaunch_lnk (s : State) (l : Nat) (x : Launch) : (s.setLaunch l x).lnk = s.lnk := rfl

@[simp] theorem State.setWin_pt (s : State) (n : Nat) (x : TWin) : (s.setWin n x).pt = s.pt := rfl
@[simp] theorem State.setWin_pwr (s : State) (n : Nat) (x : TWin) : (s.setWin n x).pwr = s.pwr := rfl
@[simp] theorem State.setWin_cur (s : State) (n : Nat) (x : TWin) : (s.setWin n x).cur = s.cur := rfl
@[simp] theorem State.setWin_agenda (s : State) (n : Nat) (x : TWin) : (s.setWin n x).agenda = s.agenda := rfl
@[simp] theorem State.setWin_todo (s : State) (n : Nat) (x : TWin) : (s.setWin n x).todo = s.todo := rfl
@[simp] theorem State.setWin_fresh (s : State) (n : Nat) (x : TWin) : (s.setWin n x).fresh = s.fresh := rfl
@[simp] theorem State.setWin_ctxs (s : State) (n : Nat) (x : TWin) : (s.setWin n x).ctxs = s.ctxs := rfl
@[simp] theorem State.setWin_blocks (s : State) (n : Nat) (x : TWin) : (s.setWin n x).blocks = s.blocks := rfl
@[simp] theorem State.setWin_ms (s : State) (n : Nat) (x : TWin) : (s.setWin n x).ms = s.ms := rfl
@[simp] theorem State.setWin_sys (s : State) (n : Nat) (x : TWin) : (s.setWin n x).sys = s.sys := rfl
@[simp] theorem State.setWin_mig (s : State) (n : Nat) (x : TWin) : (s.setWin n x).mig = s.mig := rfl
@[simp] theorem State.setWin_rsds (s : State) (n : Nat) (x : TWin) : (s.setWin n x).rsds = s.rsds := rfl
@[simp] theorem State.setWin_kv (s : State) (n : Nat) (x : TWin) : (s.setWin n x).kv = s.kv := rfl
@[simp] theorem State.setWin_eng (s : State) (n : Nat) (x : TWin) : (s.setWin n x).eng = s.eng := rfl
@[simp] theorem State.setWin_sch (s : State) (n : Nat) (x : TWin) : (s.setWin n x).sch = s.sch := rfl
@[simp] theorem State.setWin_part (s : State) (n : Nat) (x : TWin) : (s.setWin n x).part = s.part := rfl
@[simp] theorem State.setWin_mgmt (s : State) (n : Nat) (x : TWin) : (s.setWin n x).mgmt = s.mgmt := rfl
@[simp] theorem State.setWin_lnk (s : State) (n : Nat) (x : TWin) : (s.setWin n x).lnk = s.lnk := rfl

@[simp] theorem State.setKey_pt (s : State) (k : Nat) (x : KeySt) : (s.setKey k x).pt = s.pt := rfl
@[simp] theorem State.setKey_pwr (s : State) (k : Nat) (x : KeySt) : (s.setKey k x).pwr = s.pwr := rfl
@[simp] theorem State.setKey_cur (s : State) (k : Nat) (x : KeySt) : (s.setKey k x).cur = s.cur := rfl
@[simp] theorem State.setKey_agenda (s : State) (k : Nat) (x : KeySt) : (s.setKey k x).agenda = s.agenda := rfl
@[simp] theorem State.setKey_todo (s : State) (k : Nat) (x : KeySt) : (s.setKey k x).todo = s.todo := rfl
@[simp] theorem State.setKey_fresh (s : State) (k : Nat) (x : KeySt) : (s.setKey k x).fresh = s.fresh := rfl
@[simp] theorem State.setKey_ctxs (s : State) (k : Nat) (x : KeySt) : (s.setKey k x).ctxs = s.ctxs := rfl
@[simp] theorem State.setKey_blocks (s : State) (k : Nat) (x : KeySt) : (s.setKey k x).blocks = s.blocks := rfl
@[simp] theorem State.setKey_ms (s : State) (k : Nat) (x : KeySt) : (s.setKey k x).ms = s.ms := rfl
@[simp] theorem State.setKey_sys (s : State) (k : Nat) (x : KeySt) : (s.setKey k x).sys = s.sys := rfl
@[simp] theorem State.setKey_mig (s : State) (k : Nat) (x : KeySt) : (s.setKey k x).mig = s.mig := rfl
@[simp] theorem State.setKey_rsds (s : State) (k : Nat) (x : KeySt) : (s.setKey k x).rsds = s.rsds := rfl
@[simp] theorem State.setKey_kv (s : State) (k : Nat) (x : KeySt) : (s.setKey k x).kv = s.kv := rfl
@[simp] theorem State.setKey_eng (s : State) (k : Nat) (x : KeySt) : (s.setKey k x).eng = s.eng := rfl
@[simp] theorem State.setKey_trp (s : State) (k : Nat) (x : KeySt) : (s.setKey k x).trp = s.trp := rfl
@[simp] theorem State.setKey_sch (s : State) (k : Nat) (x : KeySt) : (s.setKey k x).sch = s.sch := rfl
@[simp] theorem State.setKey_mgmt (s : State) (k : Nat) (x : KeySt) : (s.setKey k x).mgmt = s.mgmt := rfl
@[simp] theorem State.setKey_lnk (s : State) (k : Nat) (x : KeySt) : (s.setKey k x).lnk = s.lnk := rfl

@[simp] theorem State.tell_out (s : State) (dst : Nat × Nat) (m : PodMsg) : (s.tell dst m).lnk.out = s.lnk.out ++ [(dst, m)] := rfl
@[simp] theorem State.setRsd_find?_same (s : State) (key : Nat) (r : Rsd) : (s.setRsd key r).rsds.find? key = some r := by
  simp [State.setRsd]
theorem State.setRsd_find?_ne (s : State) {key j : Nat} (r : Rsd) (h : j ≠ key) :
    (s.setRsd key r).rsds.find? j = s.rsds.find? j := SMap.find?_put_ne _ r h
@[simp] theorem State.setOp_find?_same (s : State) (id : Nat) (o : EOp) : (s.setOp id o).eng.ops.find? id = some o := by
  simp [State.setOp]
@[simp] theorem State.setLaunch_find?_same (s : State) (l : Nat) (x : Launch) : (s.setLaunch l x).sch.launches.find? l = some x := by
  simp [State.setLaunch]

@[simp] theorem Ctx.land_olds (c : Ctx) (ws : List RW) :
    (c.land ws).olds = if c.stream = .host then [] else c.olds ++ ws.map c.old := rfl
@[simp] theorem Ctx.land_s (c : Ctx) (ws : List RW) : (c.land ws).s = (c.applyAll ws).s := rfl
@[simp] theorem Ctx.land_v (c : Ctx) (ws : List RW) : (c.land ws).v = (c.applyAll ws).v := rfl
@[simp] theorem Ctx.land_p (c : Ctx) (ws : List RW) : (c.land ws).p = (c.applyAll ws).p := rfl
/-- With nothing landed since the last issue, an operand is what the thread holds. -/
@[simp] theorem Ctx.asRead_nil (c : Ctx) (pt op : Nat) : c.asRead [] pt op = c := rfl

end Sys2Proof.Machine
end

