-- ==== Sys2Proof/Laws/Memory.lean ====
section
/-! SUPPORT. What the operations over memory can do: each of them keeps the canonical form. -/

namespace Sys2Proof.Machine

theorem MemSys.setByte_wf {m : MemSys} (h : Memory.wf m.mem) (pa : Nat) (b : Byte) : Memory.wf (m.setByte pa b).mem :=
  SMap.wf_set h pa b

theorem putRun_wf {m : MemSys} (h : Memory.wf m.mem) (pa : Nat) (bs : List Byte) : Memory.wf (putRun m pa bs).mem := by
  induction bs generalizing m pa with
  | nil => exact h
  | cons b bs ih => exact ih (MemSys.setByte_wf h pa b) (pa + 1)

/-- A fold of steps that keep memory canonical keeps it. -/
theorem foldl_wf {α : Type} {f : State → α → State} (hf : ∀ s a, Memory.wf s.ms.mem → Memory.wf (f s a).ms.mem) (l : List α)
    {s : State} (h : Memory.wf s.ms.mem) : Memory.wf (l.foldl f s).ms.mem := by
  induction l generalizing s with
  | nil => exact h
  | cons a l ih => exact ih (hf s a h)

/-- A line that already holds its bytes under the key's material stays as it is. -/
theorem State.rekeyLine_same {s : State} {key l : Nat} (hm : SMap.get 0 s.ms.mat l = s.keyMat key) : s.rekeyLine key l = s :=
  if_pos hm

/-- Another line's bytes are placed as they read under the key. -/
theorem State.rekeyLine_other {s : State} {key l : Nat} (hm : ¬ SMap.get 0 s.ms.mat l = s.keyMat key) :
    s.rekeyLine key l = s.putLine l (s.keyMat key) (s.rdBytes key (l * 128) 128) := if_neg hm

theorem State.putLine_mem (s : State) (l r : Nat) (bs : List Byte) : (s.putLine l r bs).ms.mem = (putRun s.ms (l * 128) bs).mem := rfl

theorem State.rekeyLine_wf {s : State} (h : Memory.wf s.ms.mem) (key l : Nat) : Memory.wf (s.rekeyLine key l).ms.mem := by
  by_cases hm : SMap.get 0 s.ms.mat l = s.keyMat key
  · rw [State.rekeyLine_same hm]; exact h
  · rw [State.rekeyLine_other hm, State.putLine_mem]; exact putRun_wf h _ _

theorem State.wrBytes_wf {s : State} (h : Memory.wf s.ms.mem) (key pa : Nat) (bs : List Byte) :
    Memory.wf (s.wrBytes key pa bs).ms.mem :=
  putRun_wf (foldl_wf (fun _ l h => State.rekeyLine_wf h key l) (linesOf pa bs.length) h) pa bs

theorem State.recall_mem (s : State) (l : Nat) : (s.recall l).ms.mem = s.ms.mem := by
  unfold State.recall
  split
  · rfl
  · split <;> rfl

theorem State.recall_wf {s : State} (h : Memory.wf s.ms.mem) (l : Nat) : Memory.wf (s.recall l).ms.mem := by
  rw [State.recall_mem]; exact h

theorem State.orderWrite_mem (s : State) (v w l : Nat) : (s.orderWrite v w l).1.ms.mem = s.ms.mem := rfl

theorem State.putPiece_wf {s : State} (h : Memory.wf s.ms.mem) (pa : Nat) (bs : List Byte) :
    Memory.wf (s.putPiece pa bs).1.ms.mem := by
  unfold State.putPiece
  dsimp only
  rw [State.orderWrite_mem]
  split
  · exact State.wrBytes_wf (State.wrBytes_wf h _ _ _) _ _ _
  · exact State.wrBytes_wf h _ _ _

theorem pieceFold_wf (ps : List (Nat × List Byte)) {r : State × Nat} (h : Memory.wf r.1.ms.mem) :
    Memory.wf (ps.foldl (fun r p => let (s', g) := r.1.putPiece p.1 p.2; (s', Nat.max r.2 g)) r).1.ms.mem := by
  induction ps generalizing r with
  | nil => exact h
  | cons p ps ih => exact ih (State.putPiece_wf h p.1 p.2)

/-- A write by the hub keeps memory canonical if what recalls the owners does. -/
theorem State.putQuiet_wf {rc : State → Nat → State} (hr : ∀ s l, Memory.wf s.ms.mem → Memory.wf (rc s l).ms.mem) {s : State}
    (h : Memory.wf s.ms.mem) (pa : Nat) (bs : List Byte) : Memory.wf (s.putQuiet rc pa bs).1.ms.mem := by
  unfold State.putQuiet
  split
  · exact h
  · exact pieceFold_wf _ (foldl_wf hr _ h)

theorem State.watchNotice_ms (s : State) (l g : Nat) : (s.watchNotice l g).ms = s.ms := rfl

theorem State.noticeRange_ms (s : State) (pa n g : Nat) : (s.noticeRange pa n g).ms = s.ms := by
  unfold State.noticeRange
  induction linesOf (s.routed pa) n generalizing s with
  | nil => rfl
  | cons l ls ih => rw [List.foldl_cons, ih]; rfl

theorem State.ringPut_wf {s : State} (h : Memory.wf s.ms.mem) (b i : Nat) (bs : List Byte) :
    Memory.wf (s.ringPut b i bs).1.ms.mem := by
  unfold State.ringPut
  split
  · exact h
  · unfold State.ringWr
    dsimp only
    rw [State.noticeRange_ms]
    exact State.putQuiet_wf (fun s l h => State.recall_wf h l) h _ _

theorem State.setFld_ms (s : State) (off lo n v : Nat) : (s.setFld off lo n v).ms = s.ms := rfl
theorem State.tailUp_ms (s : State) (off : Nat) : (s.tailUp off).ms = s.ms := State.setFld_ms _ _ _ _ _
theorem State.tailLater_ms (s : State) (off g : Nat) : (s.tailLater off g).ms = s.ms := rfl

theorem State.errorLog_wf {s : State} (h : Memory.wf s.ms.mem) (pa cls v : Nat) : Memory.wf (s.errorLog pa cls v).1.ms.mem := by
  unfold State.errorLog
  dsimp only
  rw [State.setReg_ms]
  split
  · rw [State.setReg_ms]; exact h
  · rw [State.tailUp_ms]; exact State.ringPut_wf h _ _ _

theorem State.intAppend_wf {s : State} (h : Memory.wf s.ms.mem) (v : Nat) (bs : List Byte) : Memory.wf (s.intAppend v bs).ms.mem := by
  unfold State.intAppend
  dsimp only
  split
  · rw [State.setFld_ms]; exact h
  · rw [State.tailLater_ms]; exact State.ringPut_wf h _ _ _

theorem State.intSend_wf {s : State} (h : Memory.wf s.ms.mem) (v bit : Nat) (a : IrqAt) :
    Memory.wf (s.intSend v bit a).ms.mem := by
  unfold State.intSend
  dsimp only
  split
  · rw [State.tell_ms]; exact h
  · exact State.intAppend_wf h _ _

theorem State.interrupt_wf {s : State} (h : Memory.wf s.ms.mem) (v bit hthr q d : Nat) (f : Nat := 0) :
    Memory.wf (s.interrupt v bit hthr q d f).ms.mem := by
  have hp (t : State) (p : Part) (ht : Memory.wf t.ms.mem) : Memory.wf ({ t with part := p } : State).ms.mem := ht
  unfold State.interrupt
  split
  · exact h
  · dsimp only
    split
    · exact State.intSend_wf (hp _ _ (by rw [State.setFld_ms]; exact h)) _ _ _
    · exact hp _ _ (by rw [State.setFld_ms]; exact h)

theorem State.poisonLine_wf {s : State} (h : Memory.wf s.ms.mem) (pa cls v : Nat) : Memory.wf (s.poisonLine pa cls v).ms.mem := by
  have hc (t : State) (pc : SMap Nat) (ht : Memory.wf t.ms.mem) :
      Memory.wf ({ t with ms := { t.ms with poisonCache := pc } } : State).ms.mem := ht
  have hs : Memory.wf (s.setPoison (pa / 128) true).ms.mem := h
  unfold State.poisonLine
  exact State.interrupt_wf (hc _ _ (State.errorLog_wf hs pa cls v)) _ _ _ _ _

theorem State.writeBack_wf {s : State} (h : Memory.wf s.ms.mem) (l : Nat) : Memory.wf (s.writeBack l).ms.mem := by
  unfold State.writeBack
  split
  · exact h
  · split
    · exact h
    · dsimp only
      split
      · exact State.poisonLine_wf (State.recall_wf h l) _ _ _
      · exact State.recall_wf h l

theorem State.physWrQuiet_wf {s : State} (h : Memory.wf s.ms.mem) (pa : Nat) (bs : List Byte) :
    Memory.wf (s.physWrQuiet pa bs).1.ms.mem := State.putQuiet_wf (fun _ l h => State.writeBack_wf h l) h pa bs

/-- A write by the hub keeps memory canonical. -/
theorem State.physWr_wf {s : State} (h : Memory.wf s.ms.mem) (pa : Nat) (bs : List Byte) :
    Memory.wf (s.physWr pa bs).1.ms.mem := by
  unfold State.physWr
  dsimp only
  rw [State.noticeRange_ms]
  exact State.physWrQuiet_wf h pa bs

theorem reset_mem_wf : Memory.wf State.reset.ms.mem := by decide

end Sys2Proof.Machine
end

