-- ==== Sys2Proof/Laws/Ops.lean ====
section
/-! SUPPORT. What the shared operations of issue can do. -/

namespace Sys2Proof.Machine

theorem State.mayIssue_iff {s : State} {i : Instr} {x : Iss} :
    s.mayIssue i = some x ↔ s.thread i = some x ∧ x.check = none ∧ s.ptWait x = none ∧ x.flagRoom = true := by
  unfold State.mayIssue
  split
  · rename_i y hy
    constructor
    · intro h
      split at h
      · rename_i hc; cases h; exact ⟨hy, hc⟩
      · cases h
    · rintro ⟨h, hc⟩
      rw [hy] at h; cases h
      exact if_pos hc
  · rename_i hn
    constructor
    · intro h; cases h
    · rintro ⟨h, -⟩; rw [hn] at h; cases h

theorem State.issues_iff {s : State} {i : Instr} {x : Iss} : s.issues i = some x ↔ s.mayIssue i = some x ∧ x.part ≠ 0 := by
  unfold State.issues
  split
  · rename_i y hy
    constructor
    · intro h
      split at h
      · rename_i hc; cases h; exact ⟨hy, hc⟩
      · cases h
    · rintro ⟨h, hc⟩
      rw [hy] at h; cases h
      exact if_pos hc
  · rename_i hn
    constructor
    · intro h; cases h
    · rintro ⟨h, -⟩; rw [hn] at h; cases h

/-- The issuing record names the instruction's own operands. -/
theorem State.thread_opr {s : State} {i : Instr} {x : Iss} (h : s.thread i = some x) : x.i = i ∧ i.opr? = some x.o := by
  unfold State.thread at h
  split at h
  · rename_i c o _ ho
    split at h
    · split at h
      · cases h
      · cases h; exact ⟨rfl, ho⟩
    · cases h
  · cases h

/-- An instruction that issues has its own effect. -/
theorem State.issue_mayIssue {s : State} {i : Instr} {x : Iss} (h : s.mayIssue i = some x) (always : Bool)
    (ha : always = true ∨ x.part ≠ 0) (body : State → Iss → State) : s.issue i always body = .next (body s x) := by
  obtain ⟨ht, hc, hp, hf⟩ := State.mayIssue_iff.mp h
  unfold State.issue
  rw [ht]
  dsimp only
  rw [hc]
  dsimp only
  rw [if_neg (fun h => by rcases ha with ha | ha; · simp [ha] at h
                          · exact ha h.1), hp]
  cases hflag : x.flag with
  | none => rfl
  | some f =>
    dsimp only
    refine if_neg ?_
    rintro ⟨h0, h1, h2⟩
    exact h0 (by simpa [Iss.flagRoom, hflag, h1, h2] using hf)

theorem State.issue_issues {s : State} {i : Instr} {x : Iss} (h : s.issues i = some x) (always : Bool)
    (body : State → Iss → State) : s.issue i always body = .next (body s x) := by
  obtain ⟨hm, hp⟩ := State.issues_iff.mp h
  exact State.issue_mayIssue hm always (.inr hp) body

/-- Everything that issue can answer: no thread, a trap of the checks, the move past an instruction in which no lane takes part, a
hold, or the instruction's own effect. -/
theorem State.issue_cases (s : State) (i : Instr) (always : Bool) (body : State → Iss → State) :
    s.issue i always body = .fault .noThread ∨
    ∃ x, s.thread i = some x ∧
      ((∃ t, x.check = some t ∧ s.issue i always body = .next (s.trapAt x t)) ∨
       (x.check = none ∧ x.part = 0 ∧ always = false ∧ s.issue i always body = .next (s.retire x x.c)) ∨
       (x.check = none ∧ ∃ w, s.issue i always body = .next (s.holdAs x w)) ∨
       (x.check = none ∧ s.issue i always body = .next (body s x))) := by
  unfold State.issue
  cases ht : s.thread i with
  | none => exact .inl rfl
  | some x =>
    refine .inr ⟨x, rfl, ?_⟩
    dsimp only
    cases hc : x.check with
    | some t => exact .inl ⟨t, rfl, rfl⟩
    | none =>
      refine .inr ?_
      dsimp only
      by_cases hp : x.part = 0 ∧ (!always) = true
      · exact .inl ⟨rfl, hp.1, by simpa using hp.2, if_pos hp⟩
      · refine .inr ?_
        rw [if_neg hp]
        split
        · exact .inl ⟨rfl, _, rfl⟩
        · split
          · exact .inl ⟨rfl, _, rfl⟩
          · exact .inr ⟨rfl, rfl⟩
        · exact .inr ⟨rfl, rfl⟩

/-- What moving a thread on changes: that thread alone. -/
theorem State.retire_frame (s : State) (x : Iss) (c : Ctx) :
    s.retire x c = { s with ctxs := s.ctxs.put x.cid (c.advance s.pt x.k) } := rfl

theorem State.retire_thread (s : State) (x : Iss) (c : Ctx) :
    (s.retire x c).ctxs.find? x.cid = some (c.advance s.pt x.k) := SMap.find?_put_same _ _ _

theorem State.holdAs_frame (s : State) (x : Iss) (w : Wait) :
    s.holdAs x w = { s with ctxs := s.ctxs.put x.cid (x.c.setSplit x.k { x.sp with wait := w }) } := rfl

/-- With nothing landed since the thread's last issue, a source value is what its registers hold. -/
theorem Iss.rd_settled {x : Iss} (h : x.olds = []) (s : State) (l w : Nat) (e : Ext) (op : Operand) :
    x.rd s l w e op = s.src x.cid x.c l w e x.o (op.of x.o) := by
  simp [Iss.rd, Iss.rdAt, h]

end Sys2Proof.Machine
end

