-- ==== Sys2Proof/Tests/Slice0.lean ====
section
/-! SUPPORT. Checks of the model on small states: instruction words written out from the spec, terms that well-formedness and the
decoder refuse, worked values of the spec, and for each statement with hypotheses (Certificates/Slice0/Obligations.lean) a
theorem witness_… that shows states and operands that meet the hypotheses of each of its clauses. -/

set_option maxRecDepth 100000

open Sys2Proof Sys2Proof.Machine

/-! ### Words written out from the encoding tables (R187 to R198, R231, R248, R257 to R281, R287, R318, R335 to R345) -/

/-- Each word decodes to the instruction beside it. -/
def T.decodes (l : List (Nat × Instr)) : Bool :=
  l.all fun p => match decodeWord (BitVec.ofNat 96 p.1) with | .ok i => decide (i = p.2) | .error _ => false

/-- Integer. -/
theorem test_words_integer_1 : T.decodes [
    (0x00281410FC00C023FFFFFFFD, .add ⟨true, 2, 0, .v 5, .v 4, .imm, .none, 0xFFFFFFFD⟩ .s32 true),
    (0x005C18102000000800000000, .sub ⟨false, 7, 0, .v 6, .v 4, .v 8, .none, 0x0⟩ .n64 false),
    (0x009C1411C400400300000000, .mul ⟨false, 7, 0, .v 5, .v 4, .vix 1 49, .none, 0x0⟩ .s32 false),
    (0x00DC14101800000700000000, .mulhi ⟨false, 7, 0, .v 5, .v 4, .v 6, .none, 0x0⟩ .n32),
    (0x011C04080CFEA82400000000, .mad ⟨false, 7, 0, .s 1, .s 2, .s 3, .s 63, 0x0⟩ .s64 true),
    (0x015C14101800010300000000, .div ⟨false, 7, 1, .v 5, .v 4, .v 6, .none, 0x0⟩ .s32),
    (0x019C0BF80000020800000000, .rem ⟨false, 7, 2, .v 2, .v 254, .v 0, .none, 0x0⟩ .n64),
    (0x01DC14101800000300000000, .min ⟨false, 7, 0, .v 5, .v 4, .v 6, .none, 0x0⟩ .s32),
    (0x021C14100000C00700000000, .max ⟨false, 7, 0, .v 5, .v 4, .sreg .lane, .none, 0x0⟩ .n32),
    (0x025C18100000002400000000, .abs ⟨false, 7, 0, .v 6, .v 4, .none, .none, 0x0⟩ .s64 true),
    (0x029C14100000000300000000, .neg ⟨false, 7, 0, .v 5, .v 4, .none, .none, 0x0⟩ .s32 false),
    (0x02DC14101800000000000000, .and ⟨false, 7, 0, .v 5, .v 4, .v 6, .none, 0x0⟩ .b32),
    (0x031C0C10FC02C80900008000, .or ⟨false, 7, 0, .s 3, .s 4, .imm, .none, 0x8000⟩ .b64),
    (0x035C14104C00C00000000000, .xor ⟨false, 7, 0, .v 5, .v 4, .pred 3, .none, 0x0⟩ .b32)] = true := by decide

/-- Integer. -/
theorem test_words_integer_2 : T.decodes [
    (0x039C14100000000000000000, .not ⟨false, 7, 0, .v 5, .v 4, .none, .none, 0x0⟩ .b32),
    (0x03DC18201C00000900000000, .shl ⟨false, 7, 0, .v 6, .v 8, .v 7, .none, 0x0⟩ .b64),
    (0x041C18201C00000000000000, .shr ⟨false, 7, 0, .v 6, .v 8, .v 7, .none, 0x0⟩ .b32),
    (0x045C18201C00000900000000, .sar ⟨false, 7, 0, .v 6, .v 8, .v 7, .none, 0x0⟩ .b64),
    (0x049C18201C00000000000000, .rol ⟨false, 7, 0, .v 6, .v 8, .v 7, .none, 0x0⟩ .b32),
    (0x04DC18201C00000900000000, .ror ⟨false, 7, 0, .v 6, .v 8, .v 7, .none, 0x0⟩ .b64),
    (0x051C14101800000300000000, .bfx ⟨false, 7, 0, .v 5, .v 4, .v 6, .none, 0x0⟩ .s32),
    (0x055C14101824000000000000, .bfi ⟨false, 7, 0, .v 5, .v 4, .v 6, .v 9, 0x0⟩ .b32),
    (0x059C14100000000900000000, .popc ⟨false, 7, 0, .v 5, .v 4, .none, .none, 0x0⟩ .b64),
    (0x05DC14100000000900000000, .clz ⟨false, 7, 0, .v 5, .v 4, .none, .none, 0x0⟩ .b64),
    (0x061C14100000000900000000, .ctz ⟨false, 7, 0, .v 5, .v 4, .none, .none, 0x0⟩ .b64),
    (0x065C14100000000000000000, .brev ⟨false, 7, 0, .v 5, .v 4, .none, .none, 0x0⟩ .b32),
    (0x069C14101848300000000000, .sel ⟨false, 7, 0, .v 5, .v 4, .v 6, .pred 2, 0x0⟩ .b32),
    (0x06DC14100000000100000000, .mov ⟨false, 7, 0, .v 5, .v 4, .none, .none, 0x0⟩ .s8)] = true := by decide

/-- Integer. -/
theorem test_words_integer_3 : T.decodes [
    (0x071C18081000004700000000, .lea ⟨false, 7, 0, .v 6, .v 2, .v 4, .none, 0x0⟩ .n32 2),
    (0x075C4810FC00CC4700000010, .cmp ⟨false, 7, 0, .pred 2, .v 4, .imm, .none, 0x10⟩ .n32 .lt)] = true := by decide

/-- Predicates, index descriptors, segments. -/
theorem test_words_predicates_1 : T.decodes [
    (0x081C44484C03CC2000000000, .pand ⟨false, 7, 0, .pred 1, .pred 2, .pred 3, .none, 0x0⟩ true),
    (0x085C44484C03CC0000000000, .por ⟨false, 7, 0, .pred 1, .pred 2, .pred 3, .none, 0x0⟩ false),
    (0x089C44484C03CC0000000000, .pxor ⟨false, 7, 0, .pred 1, .pred 2, .pred 3, .none, 0x0⟩ false),
    (0x08DC440800000C0000000000, .pnot ⟨false, 7, 0, .pred 1, .v 2, .none, .none, 0x0⟩),
    (0x0A1C04FC00030000000E1040, .ixset ⟨false, 7, 0, .ix 1, .imm, .none, .none, 0xE1040⟩),
    (0x0A5C0CFC00030000FFFFFFF2, .ixinc ⟨false, 7, 0, .ix 3, .imm, .none, .none, 0xFFFFFFF2⟩),
    (0x0A9C14080000000000000000, .ixget ⟨false, 7, 0, .v 5, .ix 2, .none, .none, 0x0⟩),
    (0x0C1C500800000D0000000000, .rgrow ⟨false, 7, 1, .pred 4, .v 2, .none, .none, 0x0⟩),
    (0x0C5C5CFC00030C0000000002, .rshrink ⟨false, 7, 0, .pred 7, .imm, .none, .none, 0x2⟩)] = true := by decide

/-- Floating point. -/
theorem test_words_float_1 : T.decodes [
    (0x201C1410FC00C03140000000, .fadd ⟨false, 7, 0, .v 5, .v 4, .imm, .none, 0x40000000⟩ .f32 .rz),
    (0x205C14101800005300000000, .fsub ⟨false, 7, 0, .v 5, .v 4, .v 6, .none, 0x0⟩ .f16 .rd),
    (0x209C14101800007200000000, .fmul ⟨false, 7, 0, .v 5, .v 4, .v 6, .none, 0x0⟩ .bf16 .ru),
    (0x20DC18101828009000000000, .ffma ⟨false, 7, 0, .v 6, .v 4, .v 6, .v 10, 0x0⟩ .f64 .rna),
    (0x211C14101800001100000000, .fmin ⟨false, 7, 0, .v 5, .v 4, .v 6, .none, 0x0⟩ .f32),
    (0x215C18101800001000000000, .fmax ⟨false, 7, 0, .v 6, .v 4, .v 6, .none, 0x0⟩ .f64),
    (0x219C14100000001300000000, .fabs ⟨false, 7, 0, .v 5, .v 4, .none, .none, 0x0⟩ .f16),
    (0x21DC14100000001100000000, .fneg ⟨false, 7, 0, .v 5, .v 4, .none, .none, 0x0⟩ .f32),
    (0x221C481018000CF100000000, .fcmp ⟨false, 7, 0, .pred 2, .v 4, .v 6, .none, 0x0⟩ .f32 .ord),
    (0x225C302C0000001400000013, .fcvt ⟨false, 7, 0, .v 12, .v 11, .none, .none, 0x0⟩ .e4m3 .f16 .rne 0),
    (0x229C1410000000A300000033, .fcvti ⟨false, 7, 0, .v 5, .v 4, .none, .none, 0x0⟩ .s32 .f16 .sr 1),
    (0x22DC1410000000330000000B, .icvtf ⟨false, 7, 0, .v 5, .v 4, .none, .none, 0x0⟩ .f16 .h2 .rz 0),
    (0x231C14100000005100000000, .frnd ⟨false, 7, 0, .v 5, .v 4, .none, .none, 0x0⟩ .f32 .rd),
    (0x235C14100000001000000000, .fclass ⟨false, 7, 0, .v 5, .v 4, .none, .none, 0x0⟩ .f64)] = true := by decide

/-- Floating point. -/
theorem test_words_float_2 : T.decodes [
    (0x241C14100000011100000000, .frcp ⟨false, 7, 1, .v 5, .v 4, .none, .none, 0x0⟩ .f32),
    (0x245C18100000001000000000, .frsqrt ⟨false, 7, 0, .v 6, .v 4, .none, .none, 0x0⟩ .f64),
    (0x249C24200000011100000000, .fsqrt ⟨false, 7, 1, .v 9, .v 8, .none, .none, 0x0⟩ .f32 .rne),
    (0x24DC14100000021100000000, .fexp2 ⟨false, 7, 2, .v 5, .v 4, .none, .none, 0x0⟩ .f32),
    (0x251C14100000021100000000, .flog2 ⟨false, 7, 2, .v 5, .v 4, .none, .none, 0x0⟩ .f32),
    (0x255C14100000021100000000, .fsin ⟨false, 7, 2, .v 5, .v 4, .none, .none, 0x0⟩ .f32),
    (0x259C14100000021100000000, .fcos ⟨false, 7, 2, .v 5, .v 4, .none, .none, 0x0⟩ .f32),
    (0x25DC14100000021100000000, .ftanh ⟨false, 7, 2, .v 5, .v 4, .none, .none, 0x0⟩ .f32),
    (0x261C14101800007100000000, .fdiv ⟨false, 7, 0, .v 5, .v 4, .v 6, .none, 0x0⟩ .f32 .ru)] = true := by decide

/-- Vector, packed-pixel and cross-lane. -/
theorem test_words_vector_1 : T.decodes [
    (0x401C14101800002B00000000, .hadd ⟨false, 7, 0, .v 5, .v 4, .v 6, .none, 0x0⟩ true),
    (0x405C1410FC00C00B01000100, .hsub ⟨false, 7, 0, .v 5, .v 4, .imm, .none, 0x1000100⟩ false),
    (0x409C14101800002B00000000, .hmul ⟨false, 7, 0, .v 5, .v 4, .v 6, .none, 0x0⟩ true),
    (0x40DC1410181C000B00000000, .hmad ⟨false, 7, 0, .v 5, .v 4, .v 6, .v 7, 0x0⟩ false),
    (0x411C14101800000B00000000, .hmin ⟨false, 7, 0, .v 5, .v 4, .v 6, .none, 0x0⟩),
    (0x415C14101800000B00000000, .hmax ⟨false, 7, 0, .v 5, .v 4, .v 6, .none, 0x0⟩),
    (0x419C14101800004B00000000, .hsar ⟨false, 7, 0, .v 5, .v 4, .v 6, .none, 0x0⟩ true),
    (0x41DC1410181C000B00000000, .hclamp ⟨false, 7, 0, .v 5, .v 4, .v 6, .v 7, 0x0⟩),
    (0x421C28201C00002B00000000, .pxunpk ⟨false, 7, 0, .v 10, .v 8, .v 7, .none, 0x0⟩ .w12),
    (0x425C28101800004B00000000, .pxpack ⟨false, 7, 0, .v 10, .v 4, .v 6, .none, 0x0⟩ .w14),
    (0x441C14101800006000000000, .perm ⟨false, 7, 0, .v 5, .v 4, .v 6, .none, 0x0⟩ .b32 .swp),
    (0x445C14100000004000000000, .lmask ⟨false, 7, 0, .v 5, .v 4, .none, .none, 0x0⟩ .rank),
    (0x449C14100000002000000000, .lgrp ⟨false, 7, 0, .v 5, .v 4, .none, .none, 0x0⟩ .b32 .rep),
    (0x44DC1410FC00C01100000005, .lred ⟨false, 7, 0, .v 5, .v 4, .imm, .none, 0x5⟩ .f32 .add)] = true := by decide

/-- Vector, packed-pixel and cross-lane. -/
theorem test_words_vector_2 : T.decodes [
    (0x451C1410FC00C0430000000D, .lpre ⟨false, 7, 0, .v 5, .v 4, .imm, .none, 0xD⟩ .s32 .max),
    (0x481C00000000000000000000, .kaclr ⟨false, 7, 0, .none, .none, .none, .none, 0x0⟩),
    (0x485C00100000001100000000, .kaadd ⟨false, 7, 0, .none, .v 4, .none, .none, 0x0⟩),
    (0x489C00101800001100000000, .kamad ⟨false, 7, 0, .none, .v 4, .v 6, .none, 0x0⟩),
    (0x499C18000000013000000000, .karead ⟨false, 7, 1, .v 6, .none, .none, .none, 0x0⟩ .f64 .rz)] = true := by decide

/-- Memory. -/
theorem test_words_memory_1 : T.decodes [
    (0x48DC00500000000000000000, .kast ⟨false, 7, 0, .none, .v 20, .none, .none, 0x0⟩ .rlx .grp),
    (0x491C00500000012100000000, .kald ⟨false, 7, 1, .none, .v 20, .none, .none, 0x0⟩ .acq .pkg),
    (0x495C020C0001000000000050, .kaaddm ⟨false, 7, 0, .none, .vix 2 3, .none, .none, 0x50⟩ .rlx .grp),
    (0x601C2010001C002100000040, .ld ⟨false, 7, 0, .v 8, .v 4, .none, .none, 0x40⟩ .n32 .acq .pkg),
    (0x605C0018301C000000000000, .st ⟨false, 7, 0, .none, .v 6, .v 12, .none, 0x0⟩ .n32 .rlx .grp),
    (0x609C2010181C010000000000, .atom ⟨false, 7, 1, .v 8, .v 4, .v 6, .none, 0x0⟩ .n32 .add .rlx .grp),
    (0x60DC00101944000AFFFFFFF8, .red ⟨false, 7, 0, .none, .v 4, .v 6, .none, 0xFFFFFFF8⟩ .f32 .max .rel .blk),
    (0x611C20101828006C00000000, .cas ⟨false, 7, 0, .v 8, .v 4, .v 6, .v 10, 0x0⟩ .b64 .sc .fab),
    (0x615C00000000001300000000, .fence ⟨false, 7, 0, .none, .none, .none, .none, 0x0⟩ .ar .gang),
    (0x619C00100000004000000080, .prefetch ⟨false, 7, 0, .none, .v 4, .none, .none, 0x80⟩ .l2),
    (0x61DC00FC0003000500000003, .waitAc ⟨false, 7, 0, .none, .imm, .none, .none, 0x3⟩ .rsd),
    (0x621C20100000003100000010, .accLd ⟨false, 7, 0, .v 8, .v 4, .none, .none, 0x10⟩ .f32 .rz)] = true := by decide

/-- Control. -/
theorem test_words_control_1 : T.decodes [
    (0x800400000400000000000080, .bra ⟨false, 1, 0, .none, .none, .none, .none, 0x0⟩ ⟨16, 0⟩ (some ⟨32, 0⟩)),
    (0x800C0000001C0000FFFFFFF9, .bra ⟨false, 3, 0, .none, .none, .none, .none, 0x0⟩ ⟨0x1FFFFFFF, 1⟩ none),
    (0x805C001BFFE4000000000000, .brx ⟨false, 7, 0, .none, .v 6, .none, .none, 0x0⟩ (some ⟨0x1FFF, 1⟩)),
    (0x809C00000000000000000009, .call ⟨false, 7, 0, .none, .none, .none, .none, 0x0⟩ ⟨1, 1⟩),
    (0x80DC00180000000000000000, .callx ⟨false, 7, 0, .none, .v 6, .none, .none, 0x0⟩),
    (0x811C00000000000000000000, .ret ⟨false, 7, 0, .none, .none, .none, .none, 0x0⟩),
    (0x815C00000000000000000000, .join ⟨false, 7, 0, .none, .none, .none, .none, 0x0⟩),
    (0x819C440000000C00000001F4, .joinT ⟨false, 7, 0, .pred 1, .none, .none, .none, 0x1F4⟩),
    (0x81D000000000000000000000, .exit ⟨false, 4, 0, .none, .none, .none, .none, 0x0⟩),
    (0x821C00000000000000000000, .nop ⟨false, 7, 0, .none, .none, .none, .none, 0x0⟩)] = true := by decide

/-- Matrix, residency, tree and KV. -/
theorem test_words_matrix_1 : T.decodes [
    (0xA01C00401402810000000009, .mma ⟨false, 7, 1, .none, .s 16, .s 5, .none, 0x0⟩ .e4m3 .e4m3 1 true),
    (0xA05C00201402804400000017, .mmas ⟨false, 7, 0, .none, .s 8, .s 5, .none, 0x0⟩ .e2m1 .e2m1 7 false true),
    (0xA09C00001402803500000002, .mmx ⟨false, 7, 0, .none, .s 0, .s 5, .none, 0x0⟩ .s8 .e2m3 2 false),
    (0xA0DC00400002006600000008, .mmt ⟨false, 7, 0, .none, .s 16, .none, .none, 0x0⟩ .bf16 .bf16 0 true),
    (0xA21C00000000000000000081, .accClr ⟨false, 7, 0, .none, .none, .none, .none, 0x0⟩ 0x81),
    (0xA25C00081002801100000003, .accIn ⟨false, 7, 0, .none, .s 2, .s 4, .none, 0x0⟩ .f32 3),
    (0xA29C00303402805100000006, .accOut ⟨false, 7, 0, .none, .s 12, .s 13, .none, 0x0⟩ .f32 .rd 6),
    (0xA2DC0000000000A100008005, .accCvt ⟨false, 7, 0, .none, .none, .none, .none, 0x0⟩ .fToI .sr 5 0x80),
    (0xA31C28000000080000000000, .mrpRd ⟨false, 7, 0, .s 10, .none, .none, .none, 0x0⟩),
    (0xA35C00300002000000000000, .mrpWr ⟨false, 7, 0, .none, .s 12, .none, .none, 0x0⟩),
    (0xA41C0014FC02C000000001FF, .rsdAlloc ⟨false, 7, 0, .none, .s 5, .imm, .none, 0x1FF⟩),
    (0xA45C00142802800100000000, .rsdLoad ⟨false, 7, 0, .none, .s 5, .s 10, .none, 0x0⟩ true),
    (0xA49C00FC0003000000000031, .rsdPin ⟨false, 7, 0, .none, .imm, .none, .none, 0x31⟩),
    (0xA4DC00140002000000000000, .rsdUnpin ⟨false, 7, 0, .none, .s 5, .none, .none, 0x0⟩)] = true := by decide

/-- Matrix, residency, tree and KV. -/
theorem test_words_matrix_2 : T.decodes [
    (0xA51C00140002000000000000, .rsdFree ⟨false, 7, 0, .none, .s 5, .none, .none, 0x0⟩),
    (0xA55C18140002090000000000, .rsdQuery ⟨false, 7, 1, .s 6, .s 5, .none, .none, 0x0⟩),
    (0xA81C00FC0C03800000000064, .treeClr ⟨false, 7, 0, .none, .imm, .s 3, .none, 0x64⟩),
    (0xA85C04080C02880000000000, .treeAdd ⟨false, 7, 0, .s 1, .s 2, .s 3, .none, 0x0⟩),
    (0xA89C10240002080000000000, .treeMask ⟨false, 7, 0, .s 4, .s 9, .none, .none, 0x0⟩),
    (0xA8DC04080002080000000000, .treePos ⟨false, 7, 0, .s 1, .s 2, .none, .none, 0x0⟩),
    (0xA91C00080002000000000000, .treeAccept ⟨false, 7, 0, .none, .s 2, .none, .none, 0x0⟩),
    (0xA95C04800003080000000000, .treePrune ⟨false, 7, 0, .s 1, .zero, .none, .none, 0x0⟩),
    (0xA99C08FC00030800000000FF, .treeRd ⟨false, 7, 0, .s 2, .imm, .none, .none, 0xFF⟩),
    (0xAC1C04080C02880000000000, .kvFind ⟨false, 7, 0, .s 1, .s 2, .s 3, .none, 0x0⟩),
    (0xAC5C00080C12A00000000000, .kvInsert ⟨false, 7, 0, .none, .s 2, .s 3, .s 4, 0x0⟩),
    (0xAC9C00080C02800000000000, .kvDelete ⟨false, 7, 0, .none, .s 2, .s 3, .none, 0x0⟩)] = true := by decide

/-- Engines, synchronisation, tiers and system. -/
theorem test_words_system_1 : T.decodes [
    (0xC01C0008101AA00300000000, .cpy ⟨false, 7, 0, .none, .s 2, .s 4, .s 6, 0x0⟩ 3),
    (0xC05C0008101AA03E09000000, .cpy2d ⟨false, 7, 0, .none, .s 2, .s 4, .s 6, 0x0⟩ 62 9),
    (0xC09C0014081AA08007000000, .dcx ⟨false, 7, 0, .none, .s 5, .s 2, .s 6, 0x0⟩ 0 .dfl 7),
    (0xC0DC0008101AA03F00000000, .srd ⟨false, 7, 0, .none, .s 2, .s 4, .s 6, 0x0⟩ 63),
    (0xC11C0030283AA03F14001200, .coll ⟨false, 7, 0, .none, .s 12, .s 10, .s 14, 0x0⟩ 63 .ar .sum .f32 1 true 20),
    (0xC15C0408FC02C80000000011, .launch ⟨false, 7, 0, .s 1, .s 2, .imm, .none, 0x11⟩),
    (0xC41C0C00FC00C10100000005, .barArrive ⟨false, 7, 1, .v 3, .none, .imm, .none, 0x5⟩ 1),
    (0xC45C000C0000000F00000000, .barWait ⟨false, 7, 0, .none, .v 3, .none, .none, 0x0⟩ 15),
    (0xC49C001C0002000000000000, .dqPush ⟨false, 7, 0, .none, .s 7, .none, .none, 0x0⟩),
    (0xC4DC20000000010200000000, .dqPop ⟨false, 7, 1, .v 8, .none, .none, .none, 0x0⟩ 2),
    (0xC51C3800FC00C00000000004, .gangArrive ⟨false, 7, 0, .v 14, .none, .imm, .none, 0x4⟩ 0),
    (0xC55C00480003000300000000, .gangWait ⟨false, 7, 0, .none, .pred 2, .none, .none, 0x0⟩ 3),
    (0xC81C0020FC00C00000000001, .tierHint ⟨false, 7, 0, .none, .v 8, .imm, .none, 0x1⟩),
    (0xC85C00200C00000000000000, .tierPin ⟨false, 7, 0, .none, .v 8, .v 3, .none, 0x0⟩)] = true := by decide

/-- Engines, synchronisation, tiers and system. -/
theorem test_words_system_2 : T.decodes [
    (0xC89C000C0002000000000000, .tierUnpin ⟨false, 7, 0, .none, .s 3, .none, .none, 0x0⟩),
    (0xC8DC10200000010000000000, .tierQuery ⟨false, 7, 1, .v 4, .v 8, .none, .none, 0x0⟩),
    (0xE01C00000000000000000308, .trap ⟨false, 7, 0, .none, .none, .none, .none, 0x0⟩ .page 3),
    (0xE05C00000000000000123456, .svc ⟨false, 7, 0, .none, .none, .none, .none, 0x0⟩ 0x123456),
    (0xE09C00000000000000000007, .brk ⟨false, 7, 0, .none, .none, .none, .none, 0x0⟩ 7),
    (0xE0DC0810181C000008000000, .tresume ⟨false, 7, 0, .v 2, .v 4, .v 6, .v 7, 0x0⟩ 8),
    (0xE11C00100000000000000001, .wrpriv ⟨false, 7, 0, .none, .v 4, .none, .none, 0x0⟩ 1),
    (0xE15C18000000000000000007, .rdpriv ⟨false, 7, 0, .v 6, .none, .none, .none, 0x0⟩ 7),
    (0xE19C0C000000080000000004, .rdctr ⟨false, 7, 0, .s 3, .none, .none, .none, 0x0⟩ 4)] = true := by decide

/-! ### Small states -/

/-- Node 0 of a tree. -/
def T.node : TNode := { parent := 0, accept := false, user := 0, token := 0, score := 0 }

/-- A block of one group and a cox, with four tiles, 64 KiB of ASP and a tree of one node. -/
def T.blk : Block := { placedBlock with asid := 65, acst := 4, aspk := 16, tree := some { base := 0, nodes := [T.node] } }

/-- Page 1 of address space 0x41, mapped to frame 1 with every permission (R21). -/
def T.tlb : SMap TEnt :=
  [(0, { asid := 65, page := 1, lvl := 4, leafPA := 0x2000, pte := 0x0000000000016077, vdev := 0, exp := 1000 })]

/-- Host thread 0, privileged, with the pair v0 holding 0x10000 and the pair v2 an address of space 0xF. -/
def T.host : State :=
  { State.reset with
    ms := { tlb := T.tlb }
    ctxs := [(0, { bootCtx with v := [(0, 0x10000), (3, 0xF0000000), (4, 0x1F00), (5, 0x508), (6, 0x40000000)], ix := [(1, 0x0410)] })] }

/-- A group of 32 lanes in block 0: lane l of the first three has 7, 0 and 9 in v0. -/
def T.group : Ctx := { placedCtx .lane with asid := 65, v := [(0, 7), (2, 5), (16, 0x10000), (512, 9)], ix := [(1, 0x0410), (4, 0x0410)] }

def T.lane : State := { T.host with cur := (ctxKey 0 0, 0), blocks := [(0, T.blk)], ctxs := [(0, bootCtx), (ctxKey 0 0, T.group)] }

/-- The cox of block 0: s1 is 2, s2 an address of page 1, s3 an address of its ASP. -/
def T.coxCtx : Ctx := { placedCtx .cox with asid := 65, s := [(1, 2), (2, 0x10000), (3, 0x4000000000000000), (4, 16)] }

def T.cox : State := { T.host with cur := (coxKey 0, 0), blocks := [(0, T.blk)], ctxs := [(0, bootCtx), (coxKey 0, T.coxCtx)] }

/-- Every instruction of the list may issue in the state, and some lane takes part. -/
def T.can (s : State) (is : List Instr) : Bool := is.all fun i => (s.issues i).isSome

/-- The instruction may issue, and what it issues as has a property. -/
def T.iss (s : State) (i : Instr) (f : Iss → Bool) : Bool := (s.issues i).any f

/-- The instruction answers a next state. -/
def T.goes (s : State) (i : Instr) : Bool := match exec i s with | .next _ => true | _ => false

/-- The next state has a property. -/
def T.after (s : State) (i : Instr) (f : State → Bool) : Bool := match exec i s with | .next t => f t | _ => false

/-- The event is not enabled. -/
def T.stops (s : State) (i : Instr) : Bool := match exec i s with | .refused (.notEnabled _) => true | _ => false

/-- D, A, B and C from v registers; with pairs, with s registers, and with IMM for B. -/
def T.o : Opr := { d := .v 8, a := .v 0, b := .v 2, c := .v 4 }
def T.o2 : Opr := { d := .v 254, a := .v 0, b := .v 2, c := .v 4 }
def T.oS : Opr := { d := .s 63, a := .s 1, b := .s 2, c := .s 4 }
def T.oI (x : BitVec 32) : Opr := { d := .v 8, a := .v 0, b := .imm, imm := x }
/-- Only D and A; only A; only D. -/
def T.da : Opr := { d := .v 8, a := .v 0 }
def T.a : Opr := { a := .v 0 }
def T.dab : Opr := { d := .v 8, a := .v 0, b := .v 2 }
def T.ab : Opr := { a := .v 0, b := .v 2 }

/-! ### Well-formedness: a term for each check, which the check refuses -/

theorem test_wf_good : [Instr.add T.dab .s32 false, .fadd T.dab .f32 .sr, .mov { d := .v 252, a := .v 0 } .b128,
    .ld { d := .v 8, a := .v 0, imm := 0xFFFFFFFF } .n32 .acq .pkg].all Instr.wf = true := by decide
/-- R189: an operand that the entry does not use. -/
theorem test_wf_unused : (Instr.abs { d := .v 1, a := .v 0, b := .v 3 } .s32 false).wf = false ∧
    (Instr.nop { d := .v 1 }).unusedAbsent = false := by decide
/-- R189: an operand that the entry uses is missing. -/
theorem test_wf_missing : (Instr.add { d := .v 1, a := .v 0 } .s32 false).wf = false := by decide
/-- R191: a pair that begins at an odd register. -/
theorem test_wf_pair : (Instr.add { d := .v 1, a := .v 0, b := .v 2 } .s64 false).wf = false ∧
    (Instr.mov { d := .v 2, a := .v 0 } .b128).wf = false := by decide
/-- R193: a destination that is no destination. -/
theorem test_wf_dest : (Instr.add { d := .imm, a := .v 0, b := .v 2 } .s32 false).wf = false ∧
    (Instr.add { d := .sreg .lane, a := .v 0, b := .v 2 } .s32 false).wf = false := by decide
/-- R193: two operands are IMM. -/
theorem test_wf_two_imm : (Instr.add { d := .v 1, a := .imm, b := .imm, imm := 5 } .s32 false).immWf = false := by decide
/-- R189: IMM is set and nothing uses it. -/
theorem test_wf_imm_unused : (Instr.add { d := .v 1, a := .v 0, b := .v 2, imm := 5 } .s32 false).immWf = false := by decide
/-- R198: a type that the entry does not list, and a rounding mode, order or tile mask that it does not permit. -/
theorem test_wf_mod : [Instr.add T.dab .f32 false, .fadd T.dab .s32 .rne, .ld T.da .n32 .rel .pkg, .ld T.da .n32 .rlx .pkg,
    .fence {} .rlx .grp, .accClr {} 0, .mma { a := .s 0, b := .s 1 } .e4m3 .s8 0 false].all (fun i => !i.modLegal) = true := by decide
/-- R187: flag select 0b11. -/
theorem test_wf_fs : (Instr.add { T.dab with fs := 3 } .s32 false).wf = false := by decide
/-- R12: the encoder has no word for an ill-formed instruction's reserved flag select, and the decoder refuses what no row lists. -/
theorem test_decode_refuses : [0x07800000 * 2 ^ 64, 0x821C00000000000000000001, 0x001C0800040000FF00000000].all
    (fun w => match decodeWord (BitVec.ofNat 96 w) with | .error _ => true | .ok _ => false) = true := by decide

/-! ### Witnesses: states and operands that meet the hypotheses of each statement -/

/-- IntegerArithmetic, IntegerDivision, BitOperations, BitCounts, SelectMoveCompare: every instruction, in a group. -/
theorem witness_integer : T.can T.lane [.add T.dab .s32 true, .sub T.dab .n64 false, .mul T.dab .s64 false, .mulhi T.dab .n32,
    .mad T.o .s32 true, .div T.dab .s32, .rem T.dab .n64, .min T.dab .s32, .max T.dab .n64, .abs T.da .s64 true, .neg T.da .s32 false,
    .and T.dab .b32, .or T.dab .b64, .xor T.dab .b32, .not T.da .b64, .shl T.dab .b64, .shr T.dab .b32, .sar T.dab .b64, .rol T.dab .b32,
    .ror T.dab .b64, .bfx T.dab .s64, .bfi T.o .b32, .popc T.da .b64, .clz T.da .b32, .ctz T.da .b64, .brev T.da .b32, .sel T.o .b64,
    .mov T.da .b128, .lea T.dab .n32 7, .cmp { d := .pred 7, a := .v 0, b := .zero } .s64 .ge, .pand T.dab true, .por T.dab false,
    .pxor { d := .pred 0, a := .pred 1, b := .pred 7 } true, .pnot T.da] = true := by decide
/-- The same in a cox, at the highest register, and in a host thread through an index register (R192). -/
theorem witness_integer_forms : T.can T.cox [.add { d := .s 63, a := .s 1, b := .s 0 } .s64 true, .mov { d := .s 63, a := .imm, imm := 0xFFFFFFFF } .s32] = true ∧
    T.can T.host [.add { d := .vix 1 3, a := .vix 1 0, b := .imm, imm := 0x80000000 } .s32 true] = true := by decide

/-- IndexAndSegments, IndexAndKulischFrame. -/
theorem witness_index : T.can T.lane [.ixset { d := .ix 3, a := .imm, imm := 0x0E1040 }, .ixinc { d := .ix 0, a := .v 0 },
    .ixget { d := .v 8, a := .ix 3 }] = true ∧
    T.iss T.lane (.rgrow { d := .pred 7, a := .imm, imm := 8 }) (fun x => decide (x.c.rgrow = none)) = true ∧
    T.iss T.lane (.rshrink { d := .pred 0, a := .imm, imm := 1 }) (fun x => decide (x.c.rgrow = none)) = true := by decide
/-- FloatArithmetic, FloatConversions with each clause's side condition, FloatSpecialFunctions, RoundingFrame. -/
theorem witness_float : T.can T.lane [.fadd T.dab .f16 .sr, .fsub T.dab .f64 .rz, .fmul T.dab .bf16 .ru, .ffma T.o .f32 .rne,
    .frnd T.da .f32 .rna, .fmin T.dab .f32, .fmax T.dab .f64, .fabs T.da .f16, .fneg T.da .f64, .fcmp { T.dab with d := .pred 0 } .f32 .un,
    .fclass T.da .f64, .fcvt T.da .e4m3 .f32 .sr 3, .fcvti T.da .s64 .bf16 .rd 1, .icvtf T.da .f64 .n64 .rne 0, .icvtf T.da .f16 .s32 .rz 1,
    .icvtf T.da .bf16 .h2 .rne 0, .frcp T.da .f64, .frsqrt T.da .f32, .fsqrt T.da .f64 .ru, .fexp2 T.da .f32, .flog2 T.da .f32,
    .fsin T.da .f32, .fcos T.da .f32, .ftanh T.da .f32, .fdiv T.dab .f32 .rne] = true := by decide
/-- PackedElements, CrossLane, KulischRegister with no image read under way. -/
theorem witness_vector : T.can T.lane [.hadd T.dab true, .hsub T.dab false, .hmul T.dab true, .hmad T.o false, .hmin T.dab, .hmax T.dab,
    .hclamp T.o, .hsar T.dab true, .pxunpk T.dab .w14, .pxpack T.dab .w10, .perm T.dab .b64 .gat, .lmask T.da .rank, .lgrp T.da .b64 .num,
    .lred T.dab .f32 .add, .lpre T.dab .b32 .xor] = true ∧
    [Instr.kaclr {}, .kaadd T.a, .kamad T.ab, .karead { d := .v 8 } .f64 .sr].all (fun i => T.iss T.lane i fun x => !x.c.kaBusy) = true := by
  decide

/-- The place of every lane that takes part is found, nothing is held and ac.rmt has room. -/
def T.places (s : State) (x : Iss) (reg : Bool) (n al : Nat) (wr : Bool) (ord : Sys2Proof.Ord) (sc : Scope) : Bool :=
  decide (s.orderWait x.c wr ord sc = none) && decide (SMap.get 0 x.c.ac 4 + 32 ≤ 65535) && !x.c.kaBusy &&
    (lanesOf x.part).all (fun l => match s.place x.c reg n al (x.ptr s l) with | .ok _ => true | .error _ => false)

/-- MemoryAccesses, MemoryIssueFrame: one lane of a group, and a privileged host thread's access to a physical address. -/
theorem witness_memory :
    let lane := { T.lane with ctxs := [(ctxKey 0 0, { T.group with p := [(0, 1)] })] }
    let o : Opr := { gp := 0, a := .v 16 }
    T.iss lane (.ld { o with d := .v 8, imm := 0xFFFFFFFC } .n32 .acq .pkg) (fun x => T.places lane x false 4 4 false .acq .pkg) = true ∧
    T.iss lane (.ld { o with d := .v 8 } .b64 .rlx .grp) (fun x => T.places lane x true 8 8 false .rlx .grp) = true ∧
    T.iss lane (.st { o with b := .v 8 } .b128 .sc .fab) (fun x => T.places lane x false 16 16 true .sc .fab) = true ∧
    T.iss lane (.atom { o with d := .v 8, b := .v 2 } .n32 .add .ar .die) (fun x => T.places lane x false 4 4 true .ar .die) = true ∧
    T.iss lane (.red { o with b := .v 2 } .f64 .max .rel .blk) (fun x => T.places lane x false 8 8 true .rel .blk) = true ∧
    T.iss lane (.cas { o with d := .v 8, b := .v 4, c := .v 12 } .b128 .sc .pkg) (fun x => T.places lane x false 16 16 true .sc .pkg) = true ∧
    T.iss lane (.kast o .rel .pkg) (fun x => T.places lane x false 80 16 true .rel .pkg) = true ∧
    T.iss lane (.kald o .acq .pkg) (fun x => T.places lane x false 80 16 false .acq .pkg) = true ∧
    T.iss lane (.kaaddm o .rlx .grp) (fun x => T.places lane x false 80 16 false .rlx .grp) = true ∧
    T.iss T.host (.st { a := .v 2, b := .v 0 } .b64 .rlx .grp) (fun x => T.places T.host x true 8 8 true .rlx .grp) = true := by decide

/-- FencesAndCounters. -/
theorem witness_fences : T.can T.lane [.fence {} .acq .pkg, .fence {} .rel .fab, .fence {} .ar .grp] = true ∧
    T.iss T.lane (.fence {} .sc .pkg) (fun x => T.lane.released x.c .pkg && x.c.loadsBack) = true ∧
    T.iss T.lane (.prefetch T.a .l2) (fun x => decide (T.lane.gateOf x.c false = none)) = true ∧
    T.iss T.lane (.accLd { d := .v 8, a := .v 20, imm := 0x3FFF0 } .f32 .rz) (fun x =>
      decide (T.lane.gateOf x.c false = none) && (lanesOf x.part).all (fun l => decide ((x.rd T.lane l 32 .zero .a + 0x3FFF0) / 0x10000 < 4))) = true ∧
    T.iss T.lane (.waitAc { a := .zero } .cpy) (fun x => decide (x.sp.relatch = none ∧ SMap.get 0 x.c.ac 0 ≤ x.threshold T.lane
      ∧ x.c.latch.find? 0 = none)) = true := by decide

/-- A line of nops of which every slot may be entered, live in the core's instruction cache at the thread's address (R69, R180). -/
def T.lined (s : State) (cid : Nat) : State := s.placeLine cid (s.ctx cid) 0 0x821C00000000000000000000

/-- The checks of a branch's targets pass, and its lanes can go there. -/
def T.branches (s : State) (x : Iss) (ts : List (Nat × BitVec 64)) (j jj : Option (BitVec 64)) : Bool :=
  match s.checkTargets x.cid x.c ts j with
  | (s1, .ok c, due) => (s1.goesTo x c x.sp [] ts jj due).isSome
  | _ => false

/-- The checks of a call's targets pass, no return stack is full, the return address is pushed and the lanes can go there. -/
def T.calls (s : State) (x : Iss) (ts : List (Nat × BitVec 64)) : Bool :=
  let next := nextPc x.sp.pc
  let meetAt : Option (BitVec 64) :=
    if x.c.stream = .lane ∧ 1 < (pathsOf next (x.sp.mask &&& ~~~ maskOf (ts.map (·.1))) ts).length then some next else none
  match s.checkTargets x.cid x.c ts meetAt with
  | (s1, .ok c, due) =>
    let (c2, ws) := Ctx.pushRet next (lanesOf x.part) c []
    (lanesOf x.part).all (fun l => !c.callFull l) && (s1.goesTo x c2 x.sp ws ts meetAt due).isSome
  | _ => false

/-- A return goes where its stacks say, or ends its split. -/
def T.returns (s : State) (x : Iss) : Bool :=
  match s.popRet x (lanesOf x.part) x.c [] with
  | (s1, .ok c, ts) => (match s1.checkTargets x.cid c ts none with
    | (s2, .ok c2, due) =>
      let e := x.endLanes c2 (x.part &&& ~~~ maskOf (ts.map (·.1)))
      if e.2.mask = 0 then (match s2.refillEnded x.cid x.k 130 (e.1.setSplit x.k e.2) with | (_, .ok _) => true | _ => false)
      else (s2.goesTo x e.1 e.2 [] ts none due).isSome
    | _ => false)
  | _ => false

/-- BranchesAndCalls: a divergent branch with a reconvergence address, the other transfers, and a return that ends its lanes. -/
theorem witness_branches :
    let s := T.lined { T.lane with ctxs := [(ctxKey 0 0, { T.group with p := [(0, 5)] })] } (ctxKey 0 0)
    let all (x : Iss) : List (Nat × BitVec 64) := (lanesOf x.part).map (fun l => (l, 24))
    let some_ (j : Option (BitVec 64)) (x : Iss) : Bool := T.branches s x (all x) j j
    T.iss s (.bra { gp := 0 } ⟨0, 2⟩ (some ⟨0, 3⟩)) (fun x => some_ (some 36) x) = true ∧
    T.iss s (.bra { gp := 7 } ⟨0, 2⟩ none) (fun x => some_ none x) = true ∧
    T.iss s (.brx { gp := 0, a := .v 4 } none) (fun x => T.branches s x ((lanesOf x.part).map (fun l => (l, 0))) none none) = true ∧
    T.iss s (.call { gp := 0 } ⟨0, 2⟩) (fun x => T.calls s x (all x)) = true ∧
    T.iss s (.callx { gp := 0, a := .v 4 }) (fun x => T.calls s x ((lanesOf x.part).map (fun l => (l, 0)))) = true ∧
    T.iss s (.ret { gp := 0 }) (T.returns s) = true ∧
    T.iss (T.lined T.lane (ctxKey 0 0)) (.ret {}) (fun x => T.returns s x && decide ((x.endLanes x.c x.part).2.mask = 0)) = true ∧
    T.iss (T.lined T.lane (ctxKey 0 0)) (.exit {}) (fun x => decide ((x.endLanes x.c x.part).2.mask = 0 ∧ x.c.spilled = [])) = true := by
  decide

/-- JoinsAndEnds: a split whose reconvergence address is here and one that has none, and a lane that ends. -/
theorem witness_joins :
    let at_ : State := { T.lane with ctxs := [(ctxKey 0 0, { T.group with
      splits := [(0, { pc := 0, mask := 0xFFFF, j := some 0 }), (1, { pc := 24, mask := 0xFFFF0000, j := some 0 })]
      stack := [{ isSet := true, pc := 0, join := none, mask := 0xFFFFFFFF }] })] }
    let here (x : Iss) : Bool :=
      x.c.stream = .lane && !x.sp.merged && x.sp.j = some x.sp.pc && (x.c.setOf x.sp.pc x.sp.mask).isSome
    (at_.mayIssue (.join {})).any here = true ∧ (at_.mayIssue (.joinT { d := .pred 1, imm := 500 })).any here = true ∧
    (T.lane.mayIssue (.join {})).any (fun x => !here x) = true ∧ (T.lane.mayIssue (.joinT { d := .pred 7 })).any (fun x => !here x) = true ∧
    T.can T.lane [.exit {}] = true ∧ (T.lane.mayIssue (.nop { gp := 0 })).isSome = true := by decide

/-- A cox with an address record for one row of one K-block at s16, and residency 1 of one tile, ready. -/
def T.mat : State :=
  { T.cox with
    rsds := [(rsdKey 0 1, { st := .ready, cores := 0xFF, nt := 1 })]
    ctxs := [(coxKey 0, { T.coxCtx with s := [(1, 1), (3, 0x4000000000000000), (4, 256), (16, 0x4000000000000000), (17, 0x0000200100000000),
      (24, 0x4000000000000000), (25, 0x0000200100000000), (27, 0x4000000000000000), (29, 0x0001000000000010), (32, 0x4000000000000000), (33, 0x0000200100000000),
      (36, 0x4000000000000080), (40, 0x4000000000000000), (41, 0x0000200100000000), (42, 0x4000000000000000), (43, 0x4000000000000400)] })] }

/-- The checks of a matrix instruction raise nothing and its every step is done. -/
def T.runs (x : Iss) (k : MKind) (fa fb : MFmt) : Bool :=
  let s := T.mat
  match s.matBlock x [1], s.cellsOf x T.blk (x.s64 s .b) with
  | some b, .ok cell =>
    let j : MJob := { k := k, fa := fa, fb := fb, tile := 1, z := true, r := arecOf x.arec, cell := cell, key := fun _ => none,
                      masked := fun _ _ => false }
    arecOk k fb x.arec && (b.maPtrTrap (mPtrs k fa fb j.r)).isNone && decide (s.gateOf x.c false = none) &&
      (match j.runs s x b with | (_, _, .done) => true | _ => false)
  | _, _ => false

/-- MatrixMultiply: mma, mmas, mmx. -/
theorem witness_mma : T.iss T.mat (.mma { a := .s 16, b := .s 1 } .e4m3 .e5m2 1 true) (fun x => T.runs x .mma .e4m3 .e5m2) = true := by
  decide
theorem witness_mmas : T.iss T.mat (.mmas { a := .s 32, b := .s 1 } .s8 .s8 1 true false) (fun x => T.runs x (.mmas false) .s8 .s8) = true := by
  decide
theorem witness_mmx : T.iss T.mat (.mmx { a := .s 40, b := .s 1 } .e2m1 .e2m1 1 true) (fun x => T.runs x .mmx .e2m1 .e2m1) = true := by
  decide
/-- MatrixMultiply: mmt over the tree's slots. -/
theorem witness_mmt : T.iss T.mat (.mmt { a := .s 24 } .bf16 .f16 1 true) (fun x =>
    let r := arecOf x.arec
    match T.mat.matBlock x [1], T.mat.mmtKeys x { base := 0, nodes := [T.node] } r with
    | some b, (s1, .ok key) =>
      arecOk .mmt .f16 x.arec && (b.maPtrTrap (mPtrs .mmt .bf16 .f16 r ++ b.keyPtrs .f16 r)).isNone && decide (r.qn0 + r.m ≤ 1) &&
        (b.keyTrap .f16 r ((List.range 64).filterMap key)).isNone &&
        (match (s1.lookDone x).blk? x.c.blk with
         | some b1 =>
           let j : MJob := { k := .mmt, fa := .bf16, fb := .f16, tile := 1, z := true, r := r, cell := fun _ => 0, key := key,
                             masked := fun m n => !({ base := 0, nodes := [T.node] } : Tree).visible r m n }
           (match j.runs (s1.lookDone x) x b1 with | (_, _, .done) => true | _ => false)
         | none => false)
    | _, _ => false) = true := by decide

/-- AccumulatorTiles: acc.in and acc.out of a tile from and to the block's own ASP, and the others. -/
theorem witness_acc_in : T.iss T.mat (.accIn { a := .s 3, b := .s 5 } .bf16 1) (fun x =>
    let rd := (List.range 64).foldl (fun r i => r.span x T.blk (x.s64 T.mat .a + i * 0) 128) ({ s := T.mat, memo := [] } : MaRead)
    (T.mat.matBlock x [1]).isSome && (T.blk.accTrap (x.s64 T.mat .a) 0 2).isNone && !rd.hold && (lowestFault rd.faults).isNone) = true := by
  decide
theorem witness_acc : T.iss T.mat (.accClr {} 0x0F) (fun x => (T.mat.matBlock x [0, 1, 2, 3]).isSome) = true ∧
    T.iss T.mat (.accCvt {} .fToI .sr 3 0x80) (fun x => (T.mat.matBlock x [3]).isSome) = true ∧
    T.iss T.mat (.mrpRd { d := .s 62 }) (fun x => decide (x.c.matBusy = 0)) = true ∧
    T.iss T.mat (.mrpWr { a := .s 6 }) (fun x => decide (x.c.matBusy = 0 ∧ bits x.pairA 56 8 = 0 ∧ bits x.pairA 79 1 = 0 ∧ bits x.pairA 88 40 = 0))
      = true := by decide
theorem witness_acc_out : T.iss T.mat (.accOut { a := .s 3, b := .s 5 } .s8 .rne 1) (fun x => (T.mat.matBlock x [1]).isSome
    && (T.blk.accTrap (x.s64 T.mat .a) 0 1).isNone && !x.c.tileBusy 1 && decide (T.mat.gateOf x.c true = none)) = true := by decide

/-- A cox, with some s registers, in a state with some residencies and registers of the system region. -/
def T.coxW (ss : SMap Word64) (rs : SMap Rsd) (sys : SMap Word64) : State :=
  { T.cox with rsds := rs, sys := sys, ctxs := [(coxKey 0, { T.coxCtx with s := ss })] }

/-- ResidencyInstructions: the highest handle is allocated with the largest tile count; a load, pins, a free and a query of handle 1. -/
theorem witness_residency :
    let s := T.coxW [(1, 1), (2, 0x10000), (3, 0xFFFF), (4, 0x180FF)] [(rsdKey 0 1, { st := .stale, cores := 0xFF, nt := 1 })] [(rsdB + 8, 385)]
    let ok (i : Instr) (f : Iss → State → Block → Bool) : Bool := T.iss s i (fun x => match s.spoiled x with | some (t, b) => f x t b | none => false)
    ok (.rsdAlloc { a := .s 3, b := .s 4 }) (fun _ t b => (t.rsd? b.dev 0xFFFF).isNone
      && !coresFail 0xFF (fun c => t.fld (rsdB + 8) 0 9 < t.charged b.dev 0 c + 384) && !coresFail 0xFF (fun c => 384 < t.held b.cluster c + 383)
      && decide (t.vcluster b.dev b.cluster = 0)) = true ∧
    ok (.rsdLoad { a := .s 1, b := .s 2 } true) (fun x t b => (match t.rsd? b.dev 1 with
      | some r => decide (t.physCluster b.dev r.vcl = some b.cluster ∧ r.st = .stale) && !globFar 0x10000 ({ r with shard := true } : Rsd).len
      | none => false) && (spaceFail 0x10000 3).isNone && decide (t.queued b.cluster false < 64 ∧ SMap.get 0 x.c.ac 5 ≠ 65535
        ∧ t.gateOf x.c true = none)) = true ∧
    [Instr.rsdPin { a := .s 1 }, .rsdUnpin { a := .imm, imm := 1 }, .rsdFree { a := .s 1 }].all
      (fun i => ok i fun x t b => (t.rsd? b.dev 1).isSome && ((t.freeRsd (rsdKey b.dev 1)).ctxs.find? x.cid).isSome) = true ∧
    ok (.rsdQuery { d := .s 63, a := .s 3 }) (fun _ _ _ => true) = true := by decide

/-- TreeInstructions: the tree of one node, and one of 255 nodes to which the last is added. -/
theorem witness_tree :
    let s := T.coxW [(1, 0xFFFFFFFF), (2, 0x3F00), (3, 0xFFF8), (4, 0xF800)] [] []
    [Instr.treeClr { a := .s 1, b := .s 2 }, .treeMask { d := .s 60, a := .zero }, .treePos { d := .s 63, a := .zero },
      .treeAccept { a := .zero }, .treeRd { d := .s 62, a := .zero }].all (fun i => T.iss s i fun x =>
        (match s.blk? x.c.blk with | some b => b.tree.isSome | none => false)) = true ∧
    T.iss s (.treeAdd { d := .s 0, a := .s 1, b := .s 2 }) (fun x => decide (bits (x.s64 s .b) 14 50 = 0 ∧ bits (x.s64 s .b) 0 8 < 1)) = true ∧
    T.iss s (.treePrune { d := .s 0, a := .s 4 }) (fun x => decide (x.s64 s .a + 2048 ≤ T.blk.aspBytes ∧ x.s64 s .a % 8 = 0
      ∧ s.gateOf x.c true = none) && !s.aspOpen x T.blk (x.s64 s .a) 8) = true := by decide

/-- KvInstructions: kv.find meets a live result under the greatest key; kv.insert and kv.delete read a descriptor at page 1. -/
theorem witness_kv :
    let s := { T.coxW [(2, 0x10000), (3, 0x00FFFFFFFFFFFFFF)] [] [] with
      kv := { State.reset.kv with
        kvt := [{ core := 0, asid := 65, desc := 0x10000, seq := 0xFFFFFFFF, lblk := 0xFFFFFF, p := 5, exp := 100, lines := [] }] } }
    T.iss s (.kvFind { d := .s 1, a := .s 2, b := .s 3 }) (fun x => (kvOperandTrap (x.s64 s .a) (x.s64 s .b)).isNone
      && decide (s.gateOf x.c false = none) && (match s.kvFind x (x.s64 s .a) (bits (x.s64 s .b) 0 32) (bits (x.s64 s .b) 32 24) with
        | (_, .ok (some 5)) => true | _ => false)) = true ∧
    [Instr.kvInsert { a := .s 2, b := .s 3, c := .zero }, .kvDelete { a := .s 2, b := .s 3 }].all (fun i => T.iss s i fun x =>
      match s.spoiled x with
      | some (t, _) => (kvOperandTrap (x.s64 t .a) (x.s64 t .b)).isNone && decide (t.orderWait x.c true .ar .pkg = none)
        && (match t.kvRd { t.kvCox x with core := none } (x.s64 t .a) 64 with | (_, .ok _) => true | _ => false)
      | none => false) = true := by decide

/-- EngineInstructions: the checks raise nothing and there is room. -/
def T.engine (s : State) (x : Iss) (q : EIss) : Bool :=
  match s.blk? x.c.blk with
  | some b => (s.engCheck b q).isNone && !s.engFull b q && !s.ctrFull q && decide (s.gateOf x.c true = none)
      && (((s.clearDisc x.c).engStart x.c.blk b q).1.ctxs.find? x.cid).isSome
  | none => false
theorem witness_engines :
    let s := T.coxW [(0, 0xFFF0), (2, 0x10000), (3, 0x4000000000000000), (4, 0x0001000000000010), (5, 0x8000000000000010), (6, 512), (7, 0x00010010)]
      [] [(engB + 0x2000, 1), (engB + 0x2010, 1)]
    let w (x : Iss) (o : Operand) : BitVec 64 := x.w64 s o
    T.iss s (.cpy { a := .s 3, b := .s 2, c := .s 0 } 63) (fun x => T.engine s x
      { cid := x.cid, opc := 0x300, md := 63, imm := 0, a := w x .a, b := w x .b, c := w x .c }) = true ∧
    T.iss s (.cpy2d { a := .s 3, b := .s 2, c := .s 7 } 0 4) (fun x => T.engine s x
      { cid := x.cid, opc := 0x301, md := 0, imm := 0x04000000, a := w x .a, b := w x .b, c := 0x0000000100000010, e := 0 }) = true ∧
    T.iss s (.dcx { a := .s 3, b := .s 2, c := .s 6 } 62 .lz4 5) (fun x => T.engine s x
      { cid := x.cid, opc := 0x302, md := 62 + 64, imm := 0x05000000, a := w x .a, b := w x .b, c := w x .c, e := x.eWord s 0 5 }) = true ∧
    T.iss s (.srd { a := .s 3, b := .s 63, c := .s 6 } 63) (fun x => T.engine s x
      { cid := x.cid, opc := 0x303, md := 63, imm := 0, a := w x .a, b := w x .b, c := w x .c }) = true := by decide

/-- EngineInstructions: a collective of two packages, of which this one is the second; and a launch. -/
theorem witness_coll :
    let s := { T.coxW [(2, 0x10000), (3, 0x10400), (4, 4)] [] [(fabB, 1)] with
      ms := { mem := [(0x10404, 2), (0x10406, 1), (0x10442, 1)], tlb := T.tlb } }
    T.iss s (.coll { a := .s 2, b := .s 3, c := .s 4 } 63 .rs .max .bf16 7 false 0) (fun x =>
      let q : EIss := { cid := x.cid, opc := 0x304, md := 63, imm := 1 + 8 + 64 + 512 * 7, a := x.w64 s .a, b := x.w64 s .b,
                        c := x.w64 s .c }
      T.engine s x q && !s.busyReqs x.cid && (match s.readComm x T.blk q.b.toNat with
        | (t, .ok m) => m.ok && m.n = 2 && (((t.clearDisc x.c).collStart x.c.blk T.blk q m).ctxs.find? x.cid).isSome
        | _ => false)) = true := by decide
theorem witness_launch :
    let s := T.coxW [(2, 0x10000), (3, 255)] [] [(qreg 255 0, 3)]
    T.iss s (.launch { d := .s 1, a := .s 2, b := .s 3 }) (fun x =>
      let w : KvWho := { asid := 65, dev := 0, who := threadW x.cid, core := none, die := 2 }
      decide (s.qdev 255 = T.blk.dev ∧ s.orderWait x.c true .rel .pkg = none) && !s.busyReqs x.cid
        && (T.blk.engSpace (x.s64 s .a) 256 true false false).isNone && (match s.kvRd w (x.s64 s .a) 128 with
        | (t, .ok _) => (match t.kvRd w (x.s64 t .a + 128) 128 with
          | (u, .ok v) => (((u.clearDisc x.c).take 255 (leBytes 256 (v * 2 ^ 1024))).ctxs.find? x.cid).isSome
          | _ => false)
        | _ => false)) = true := by decide

/-- BarriersAndQueue: the greatest counts, a queue of fifteen entries, and a queue with nothing left whose cox has ended. -/
theorem witness_barriers :
    let s := T.lane
    let e := { T.lane with ctxs := [(ctxKey 0 0, T.group), (coxKey 0, { T.coxCtx with alive := 0 })] }
    let p := { T.cox with blocks := [(0, { T.blk with dq := List.replicate 15 3 })], ctxs := [(ctxKey 0 0, T.group), (coxKey 0, T.coxCtx)] }
    T.iss s (.barArrive { d := .v 8, b := .imm, imm := 49 } 15) (fun x => decide (x.rd s (lowest x.part) 32 .zero .b = 49 ∧ s.orderWait x.c true .rel .blk = none)) = true ∧
    T.iss s (.gangArrive { d := .v 8, b := .imm, imm := 392 } 3) (fun x => decide (x.rd s (lowest x.part) 32 .zero .b = 392 ∧ s.orderWait x.c true .rel .gang = none)
      && (s.blk? T.blk.lead).isSome) = true ∧
    [Instr.barWait T.a 15, .gangWait T.a 3].all (fun i => T.iss s i fun x => (x.rd s (lowest x.part) 32 .zero .a).testBit 0) = true ∧
    T.iss p (.dqPush { a := .s 1 }) (fun x => decide (p.orderWait x.c true .rel .blk = none)
      && (match p.blk? 0 with | some b => decide ((p.dqTrim 0 b).dq.length = 15) | none => false)) = true ∧
    T.iss { s with blocks := [(0, { T.blk with dq := [3] })] } (.dqPop { d := .v 8 } 6) (fun x => decide (x.c.dqIdx = T.blk.dqBase)) = true ∧
    T.iss e (.dqPop { d := .v 8 } 0) (fun x => decide (T.blk.dq[x.c.dqIdx - T.blk.dqBase]? = none)) = true := by decide

/-- TierInstructions: one lane names page 1 and the last tier; the address spaces have no table, so a query gives 0. -/
theorem witness_tier :
    let s := { T.lane with ctxs := [(ctxKey 0 0, { T.group with p := [(0, 1)] })] }
    let o : Opr := { gp := 0, a := .v 16, b := .imm, imm := 2 }
    let at1 (x : Iss) : Bool := decide (s.gateOf x.c false = none) && (lanesOf x.part).all (fun l =>
      decide (x.rd s l 32 .zero .b ≤ 2) && (match s.tierVa x l with | .ok 0x10000 => true | _ => false))
    [Instr.tierHint o, .tierPin o, .tierUnpin { o with b := .none, imm := 0 }].all (fun i => T.iss s i at1) = true ∧
    T.iss s (.tierPin o) (fun x => let r := s.pinReqs x [(0, 0x10000, .pin 2), (1, 0x10000, .pin 1), (2, 0x20000, .pin 1)] [] []
      decide (r.2.map (·.1) = [0, 1, 2]) && (r.2[0]?.map (·.2) == r.2[1]?.map (·.2)) && (r.2[0]?.map (·.2) != r.2[2]?.map (·.2))
        && decide (r.1.mig.hints.length = 2) && ((r.1.pinWait x r.2 []).ctxs.find? x.cid).any (fun c => (c.splits.find? x.k).any (fun sp =>
          match sp.wait with | .confirm _ => true | _ => false))) = true ∧
    T.iss s (.tierQuery { gp := 0, d := .v 8, a := .v 16 }) (fun x => at1 x && (match s.leafNow 65 0x10000 with | .ok none => true | _ => false)) = true := by
  decide

/-- SystemInstructions: trap, svc and brk of a group, the greatest register numbers, and a resumption of a token that names nothing. -/
theorem witness_system : T.can T.lane [.trap {} .kvmiss 255, .svc {} 0xFFFFFF, .brk {} 0xFFFFFF, .rdctr { d := .v 8 } 5] = true ∧
    T.can T.host [.wrpriv { a := .v 0 } 7, .rdpriv { d := .v 8 } 7] = true ∧
    T.iss T.host (.tresume { d := .v 8, a := .v 0, b := .imm, c := .v 2, imm := 3 } 0) (fun x =>
      decide (x.rd T.host (lowest x.part) 32 .zero .b = 3 ∧ T.host.orderWait x.c true .rel .pkg = none)
        && ((T.host.tresume (BitVec.ofNat 64 (x.rd T.host (lowest x.part) 64 .zero .a)) 3
          (BitVec.ofNat 32 (x.rd T.host (lowest x.part) 32 .zero .c)) 0).1.ctxs.find? x.cid).isSome) = true := by decide

/-! Events: for each clause of a statement a state that meets its hypotheses, at an end of a range. -/

/-- A request of lane 0 of the group, and a state that holds it under id 3. -/
def T.q : Req := { cid := ctxKey 0 0, lane := 0, kind := .load, space := 1, va := 0x1FFFC, size := 4, asid := 65, dev := 0, priv := false, die := 0, core := 0 }
def T.rq (q : Req) : State := { T.lane with ms := { tlb := T.tlb, reqs := [(3, q)] } }

/-- ResultsAndRequests: a result with two writes, of which the first lands alone, and a confirmation. -/
theorem witness_results :
    let r : Res := { writes := [.v 0 8 1, .p 0 1 true], flag := some 3 }
    let c := { T.group with res := [(2, r)], splits := [(0, { pc := 0, mask := 1, wait := .confirm 4 })] }
    let a : Acc := { k := 0, pc := 0, kind := .store, ds := [], part := 1, flag := none, reqs := [(0, 3)], ptrs := [] }
    let s := { T.rq { T.q with kind := .store [1], st := .done 0 7 } with ctxs := [(ctxKey 0 0, { c with accs := [(4, a)] })] }
    (match s.ctxs.find? (ctxKey 0 0) with | some c => (match c.res.find? 2 with | some r => r.mats.isEmpty && decide (r.writes[0]? = some (RW.v 0 8 1)) | none => false) | none => false) = true ∧
    T.after s (.variableLatencyResult (ctxKey 0 0) (2 * 2 ^ 20)) (fun t => (t.ctxs.find? (ctxKey 0 0)).any (fun c => decide (c.rv 0 8 = 1) && c.rp 0 1)) = true ∧
    T.after s (.variableLatencyResult (ctxKey 0 0) (2 * 2 ^ 20 + 1)) (fun t => (t.ctxs.find? (ctxKey 0 0)).any (fun c => decide (c.rv 0 8 = 1) && !c.rp 0 1)) = true ∧
    ((s.ctxs.find? (ctxKey 0 0)).any (fun c => (c.splits.find? 0).any (fun sp => decide (sp.wait = .confirm 4)) && (c.accs.find? 4).any (fun a =>
      a.reqs.all (fun p => (s.ms.reqs.find? p.2).any Req.sure)))) = true ∧ T.goes s (.accessConfirm ⟨ctxKey 0 0, 0⟩) = true ∧
    s.badOf a = [] ∧ (let u := { s with ms := { s.ms with reqs := [(3, { T.q with st := .failed .page 2 4 0 })] } }
      firstFault (u.badOf a) = some (0, .page, 2, 4, 0) ∧ T.after u (.accessConfirm ⟨ctxKey 0 0, 0⟩) (fun t =>
        (t.ctxs.find? (ctxKey 0 0)).any (fun c => (c.splits.find? 0).any (fun sp => sp.parked.isSome))) = true) := by decide

/-- ResultsAndRequests: another package's access and a write of the table unit that waited here, a completion signal, and an unpin. -/
theorem witness_hub_requests :
    let far : Req := { T.q with cid := noThreadId, space := farSpace, va := 0x10000 }
    let sig : Req := { far with space := sigSpace, kind := .store [1, 0, 0, 0, 0, 0, 0, 0], size := 8 }
    let kvu : Req := { sig with space := kvuSpace }
    let un : Req := { T.q with kind := .unpin, space := 0, va := 0x10000 }
    let u := { T.rq un with sys := [(0, 0x8000000000080000)], ms := { (T.rq un).ms with mem := [(0x800, 1), (0x801, 0x10), (0x1000, 1),
      (0x1001, 0x20), (0x2000, 1), (0x2001, 0x30), (0x3000, 1), (0x3001, 0x40), (0x4008, 0x77), (0x4009, 0x60), (0x400A, 1), (0x80208, 1),
      (0x8020A, 1)] } }
    [far, { far with kind := .store [7], size := 1 }].all (fun q => (T.rq q).dueReq q && ((T.rq q).serveFar 3 q .queue).isSome) = true ∧
    T.goes (T.rq far) (.haRead 3) = true ∧ T.goes (T.rq { far with kind := .store [7], size := 1 }) (.haWrite 3) = true ∧
    (match (T.rq sig).sigStep sig with | (_, .ok _ _) => true | _ => false) = true ∧ T.goes (T.rq sig) (.haWrite 3) = true ∧
    ((T.rq kvu).serveKvu 3).isSome = true ∧ T.goes (T.rq kvu) (.haWrite 3) = true ∧
    (match u.unpinStep un with | (_, .ok _ _) => true | _ => false) = true ∧ T.goes u (.haWrite 3) = true := by decide

/-- ResultsAndRequests: a load of the last word of page 1 and a store to its first byte are served. -/
theorem witness_requests :
    let w : Req := { T.q with kind := .store [9], va := 0x10000, size := 1, st := .held 0 0 }
    [T.q, w].all (fun q => (T.rq q).dueReq q && !q.isReg && !(T.rq q).behind T.group 3 q && ((T.rq q).twins 3 q).isEmpty
      && !((T.rq q).aliasHold T.group 3 q).2 && (match (T.rq q).performReq T.group q .queue with | (_, .ok _ _) => true | _ => false)
      && ((T.rq q).servePtr 3 q .queue).isSome) = true ∧
    T.goes (T.rq T.q) (.haRead 3) = true ∧ T.after (T.rq w) (.haWrite 3) (fun t => decide (t.rdByte 0 0x10000 = 9)) = true := by decide

/-- ResultsAndRequests: an access to the bank of the own gang, an acknowledgement, a timeout, the end of a release wait, a side queue. -/
theorem witness_waits :
    let p : Req := { T.q with space := 5, va := 0xFFF8, size := 8, kind := .store [1, 2, 3, 4, 5, 6, 7, 8] }
    let r : Req := { T.q with space := 8, va := 2 ^ 55, kind := .store [1], size := 1 }
    let c := { T.group with splits := [(0, { pc := 0, mask := 1, wait := .release .pkg })] }
    ((T.rq p).peerOf T.blk 0).any (fun k => (k.2.aspDo p.va p.size p.kind).isSome) = true ∧ T.goes (T.rq p) (.gangPeerAccess 3) = true ∧
    ((T.rq r).ownMesh r.va || (T.rq r).kwekorUp) = false ∧
    T.goes (T.rq { r with st := .confirmed 0 99 }) (.remoteWriteAck 3 (.done [])) = true ∧
    T.goes { T.rq r with pt := 0xB72 * 1024 } (.linkTimeout 3) = true ∧
    T.goes { T.rq r with pt := 0xB72 * 1024 - 1 } (.linkTimeout 3) = false ∧
    (T.lane.released c .pkg) = true ∧
    T.goes { T.lane with ctxs := [(ctxKey 0 0, c)] } (.releaseWaitEnd ⟨ctxKey 0 0, 0⟩) = true ∧
    T.goes { T.lane with ctxs := [(ctxKey 0 0, { c with splits := [(0, { pc := 0, mask := 1, wait := .gate })] })] } (.releaseWaitEnd ⟨ctxKey 0 0, 0⟩) = true ∧
    (match (T.rq p).blk? 0 with | some z => !(T.rq p).ownBankBehind z 3 p | none => false) = true := by decide

/-- ResultsAndRequests: a side queue whose head has gone; that of a bank whose throttle lets one through, and still holds it; and those of
a load and a store of page 1 once the throttle is lifted. -/
theorem witness_side :
    let s (th : SMap Nat) : State := { T.rq T.q with pt := 192, ms := { (T.rq T.q).ms with side := [(64, [3])], throttle := th, sideAt := th } }
    T.goes { T.lane with ms := { side := [(7, [5])] } } (.sideQueueRelease 7) = true ∧
    (s [(64, 0)]).sideOpen 64 = true ∧ (s [(64, 1)]).sideOpen 64 = false ∧ T.stops (s [(64, 1)]) (.sideQueueRelease 64) = true := by decide
theorem witness_side_lifted :
    let w : Req := { T.q with kind := .store [9], va := 0x10000, size := 1 }
    [T.q, w].all (fun q => let u := T.rq q
      !(u.behind T.group 3 q) && (u.twins 3 q).isEmpty && (u.serveSide 3 q).isSome
        && T.goes { u with ms := { u.ms with side := [(64, [3])] } } (.sideQueueRelease 64)
        && (match u.performReq T.group q .through with | (_, .ok _ _) => true | _ => false)) = true := by decide

/-- ResultsAndRequests: the reads that clear, at the first and last slots. -/
theorem witness_clearing :
    let reg (off : Nat) : State := { T.host with ms := { reqs := [(3, { T.q with cid := 0, space := 15, va := 15 * 2 ^ 48 + off, size := 8 })] } }
    [(Instr.eloglostRead 3, tierB + 0x48), (.qevtRead 3, schB + 0x28), (.qevtRead 3, schB + 0x40 * 255 + 0x28),
      (.iovfRead 3, partB + 0x10000 + 0x3A0), (.iovfRead 3, partB + 0x10000 + 0x400 * 63 + 0x3A0),
      (.prestatRead 3, trapB + 0x30), (.prestatRead 3, trapB + 0x80 * 63 + 0x30)].all (fun p => T.goes (reg p.2) p.1) = true := by decide

/-- Address space 65 with tables of five levels: page 1 in tier 0 at frame 1. -/
def T.mem : List Host.Cell := [(0x800, 1), (0x801, 0x10), (0x1000, 1), (0x1001, 0x20), (0x2000, 1), (0x2001, 0x30), (0x3000, 1), (0x3001, 0x40),
  (0x4008, 0x77), (0x4009, 0x61), (0x400A, 1), (0x80208, 1), (0x8020A, 1)]
def T.tabled (s : State) : State := { s with sys := [(0, 0x8000000000080000)], ms := { s.ms with mem := T.mem } }

/-- CacheEvents: what has expired at this moment, and what has one tick to go. -/
theorem witness_caches :
    let d : Dir := { owner := some (2, 65, 0x10000, 1000), exp := 8, gprev := 9, pend := [(1000, 5)] }
    let s (pt : Nat) : State := T.tabled { T.lane with
      pt := pt
      ms := { tlb := T.tlb, dir := [(512, d)], counters := [(0x3000, (5, 0))],
              copies := [(4, { lvl := .l1, unit := 0, asid := 65, va := 0x10000, data := [], bad := false, exp := 1000 })] } }
    [Instr.translationLeaseExpiry 0, .leaseExpiry 4, .ownershipExpiry 512, .directoryDrop 512].map (T.goes (s 1000)) = [true, true, true, true] ∧
    [Instr.translationLeaseExpiry 0, .leaseExpiry 4, .leaseRenewal 4, .ownershipExpiry 512, .directoryDrop 512].map (T.stops (s 999))
      = [true, true, true, true, true] ∧
    T.stops { s 1000 with sys := [] } (.leaseRenewal 4) = true ∧
    (match (s 999).translate 65 0x10000 .store true with | (t, .ok r) => decide (r.pa = 0x10000 ∧ t.poolSays r.pa = .serve) && !t.moving 1 | _ => false) = true ∧
    [Instr.ownershipRequest 2 65 0x10000 0, .ownershipRecall 512, .l2Eviction 512, .counterWriteback 0x3000].map (T.goes (s 999))
      = [true, true, true, true] := by decide

/-- CacheEvents: an L1D copy that the L2's copy renews, and an L3 copy that the HA renews before its lease ends. -/
theorem witness_renewals :
    let c (lvl : Level) (n exp : Nat) : Copy := { lvl := lvl, unit := 0, asid := 65, va := 0x10000, data := List.replicate n 0, bad := false, exp := exp }
    let s (l : SMap Copy) : State := T.tabled { T.lane with pt := 500, ms := { tlb := T.tlb, copies := l } }
    let inner := s [(4, c .l1 64 400), (5, c .l2 128 900)]
    let outer := s [(6, c .l3 128 900)]
    (match inner.outerCopy (c .l1 64 400) with
     | some (i, o) => decide (i = 5 ∧ o.upd = []) && T.goes inner (.leaseRenewal 4)
     | none => false) = true ∧
    (outer.outerCopy (c .l3 128 900)).isNone = true ∧ (outer.renewAtHA 6 (c .l3 128 900)).isSome = true ∧ T.goes outer (.leaseRenewal 6) = true := by decide

/-- Page 1 of that address space, moving to tier 2. -/
def T.fwd : Fwd := { src := 1, dst := 2, copied := 15, dev := 0, asid := 65, va := 0x10000, leafPA := 0x4008, srcTier := 0, dstTier := 2 }
def T.mig (pt : Nat) (f : Fwd) (h : List Hint) : State :=
  { T.host with pt := pt, sys := [(0, 0x8000000000080000), (tslot 0 + 0x50, 6)], ms := { mem := T.mem }, mig := { fwd := [(255, f)], hints := h, waiting := h } }

/-- MigrationEvents: a pin to another tier than the page's migration waits, a hint of an address space without a table is over, and
the states of an entry with the moments at which they end. -/
theorem witness_migration :
    let pin : Hint := { dev := 0, asid := 65, va := 0x10000, tier := 1, pinReq := some 3, priv := false }
    let hint : Hint := { pin with asid := 66, pinReq := none }
    let look (h : Hint) : HintRes := (T.mig 0 T.fwd []).migLook h
    (match look pin with | .wait => true | _ => false) = true ∧ (match look hint with | .over _ => true | _ => false) = true ∧
    [Instr.migAccept, .pinRetry].map (T.goes (T.mig 0 T.fwd [hint])) = [true, true] ∧
    T.after (T.mig 0 T.fwd [pin]) .migAccept (fun t => decide (t.mig.waiting.length = 2)) = true ∧
    decide (T.fwd.st = .copying ∧ T.fwd.copied = 15) = true ∧
    T.goes (T.mig 6000 { T.fwd with st := .catching, copied := 16 } []) (.catchTimeout 255) = true ∧
    T.stops (T.mig 6000 { T.fwd with st := .catching, copied := 16 } []) (.catchSwap 255) = true ∧
    (let u := T.mig 5999 { T.fwd with st := .catching, copied := 16 } []
     T.goes u (.catchSwap 255) = true) ∧
    (let c := { T.mig 0 { T.fwd with copied := 15 } [] with sys := [(0, 0x8000000000080000)] }
     c.poolSays (0x10000 + 15 * 4096) = .serve ∧ c.poolSays (0x20000 + 15 * 4096) = .serve ∧ c.keyMode (c.fwdKey T.fwd) = 2 ∧
       { c with part := { c.part with keys := [] } }.keyMode (c.fwdKey T.fwd) = 0) ∧
    (T.fwd.dst < 2 ^ 36 ∧ T.fwd.dstTier < 4) ∧
    T.stops (T.mig 5999 { T.fwd with st := .catching, copied := 16 } []) (.catchTimeout 255) = true ∧
    T.goes (T.mig 7 { T.fwd with copied := 16, retryAt := 7 } []) (.catchRetry 255) = true ∧
    T.goes (T.mig 7 { T.fwd with st := .committed, retireAt := 7 } []) (.migRetire 255) = true ∧
    (T.mig 7 T.fwd []).ringFull (tslot 0 + 0x50) (tslot 0 + 0x58) = false := by decide

/-- PoolAndErrorEvents: page 0 of the pool is this package's (member 0), page 1 another's, page 2 unknown, page 3 there is none; the
entry of page 1 is asked for, or was until it timed out. -/
def T.pool (pt : Nat) (f : PoolFact) : State :=
  { T.host with pt := pt, sys := SMap.put [(tierB, 2 ^ 63 + 3 * 2 ^ 8)] (fabB + 0x180) 1, ms := { mem := [(0, 0x10), (8, 0x11)] },
                mig := { facts := [(0, f)], potReq := some (1, 5, 0, 0) } }
theorem witness_pool :
    let own : PoolFact := { owned := true, handover := none, seq := 0 }
    let w (n : Nat) : RegW := { dev := 0, off := tierB + 0x10, val := BitVec.ofNat 64 ((2 ^ 33 + n) * 2 ^ 16 + 1) }
    let s := T.pool 3000005 own
    let late := { s with mig := { s.mig with potReq := none, late := [(1, 7)], potCmds := 7 } }
    let asked := { s with mig := { s.mig with facts := [(0, own), (1, own)] } }
    (s.potBusy || { s with sys := [(tierB + 0x18, 1)] }.potBusy) = true ∧ s.potBusy = false ∧
    let down := { s with sys := [(tierB, 2 ^ 63 + 3 * 2 ^ 8)] }
    let held (pt : Nat) : State := { down with pt := pt, mig := { down.mig with potWait := some (true, 2 ^ 33, 0) } }
    (s.cxlUp = true ∧ down.cxlUp = false ∧ down.potBusy = false ∧ (down.poolPage (2 ^ 33)).isSome = true) ∧
    [Instr.potcmdRequest (w 0), .potcmdForce (w 0)].all (T.goes down) = true ∧ T.stops down (.handoverRequest (2 ^ 33) 1) = true ∧
    (T.goes (held (0xB72 * 1024)) .handoverTimeout = true ∧ T.stops (held (0xB72 * 1024 - 1)) .handoverTimeout = true) ∧
    (match s.potTarget (potPpn (w 0)), s.potTarget (potPpn (w 1)), s.potTarget (potPpn (w 3)) with
     | some (0, e0), some (1, e1), none => decide (bits e0 0 4 = s.member ∧ bits e0 4 2 = 1 ∧ bits e1 0 4 ≠ s.member)
     | _, _, _ => false) = true ∧
    [Instr.potcmdRequest (w 0), .potcmdRequest (w 1), .potcmdRequest (w 3), .potcmdForce (w 1), .potcmdForce (w 3), .potcmdBadcmd (w 1),
      .handoverRequest (2 ^ 33 + 2) 1, .handoverTimeout].all (T.goes s) = true ∧
    (s.poolPage (2 ^ 33) = some 0 ∧ s.poolPage (2 ^ 33 + 1) = some 1 ∧ s.poolPage (2 ^ 33 + 2) = some 2) ∧
    (own.owned = true ∧ s.mig.facts.find? 0 = some own ∧ s.mig.facts.find? 2 = none ∧ potOk (s.potEntry 0) = true ∧ s.mig.fwd = []) ∧
    (T.pool 1 { own with handover := some 15 }).pageExp (2 ^ 33) < 1 ∧
    T.stops (T.pool 3000004 own) .handoverTimeout = true ∧ (T.pool 1 own).newerSeq 1 0 = true ∧
    late.mig.late.find? (fun x => x.1 = 1) = some (1, 7) ∧
    [Instr.handoverReply (2 ^ 33 + 1) (some 2) 0 0, .handoverReply (2 ^ 33 + 1) none 0 1].map (T.goes s) = [true, true] ∧
    T.goes late (.handoverReply (2 ^ 33 + 1) none 0 1) = true ∧ (asked.mig.facts.find? 1).isSome = true := by decide

/-- PoolAndErrorEvents: the last controllers and lines, the 255th and 256th correction. -/
theorem witness_errors :
    let last := 0x218711A0000 - 1
    let s (n : Nat) : State := { T.host with ms := { corr := [(23, n)], throttle := [((23 * 2 ^ 32 + 1) * 64, 0)] } }
    [0, 23, 64, 79].all isCtl = true ∧ isCtl 24 = false ∧ isCoreCtl (4096 + 319) = true ∧ T.goes (s 0) (.correctableError 4096 0) = true ∧ (s 0).dramLine last = true ∧ (s 0).dramLine (last + 1) = false ∧
    T.after (s 0) (.refreshWindowEnd 23) (fun t => t.ms.throttle.isEmpty) = true ∧
    T.after (s 254) (.correctableError 23 last) (fun t => decide (SMap.get 0 t.ms.corr 23 = 255)) = true ∧
    T.after (s 255) (.correctableError 23 last) (fun t => decide (SMap.get 0 t.ms.corr 23 = 0)) = true ∧
    [Instr.patrolScrub last true, .patrolScrub 0 false].map (T.goes (s 0)) = [true, true] ∧
    ((s 0).populated (last / 128 * 128) 128 && !(s 0).poisoned (last / 128)) = true ∧
    [Instr.uncorrectableError last 63 0, .uncorrectableError 0 0x7F 0].map (T.goes (s 0)) = [true, true] ∧
    T.after (s 0) (.uncorrectableError last 63 0) (fun t => t.poisoned (last / 128)) = true := by decide

/-- ResidencyAndTableEvents: the last device and handle, the greatest quota, the moment at which a lookup is too old, a free node. -/
theorem witness_residencies :
    let off (r : Nat) : Nat := rsdB + 0x40 * 63 + r
    let s (r : Rsd) : State := { T.host with rsds := [(rsdKey 63 65535, r)] }
    let w (n : Nat) : RegW := { dev := 63, off := off 0x10, val := BitVec.ofNat 64 n }
    let busy := { s {} with sys := [(off 0x18, 1)] }
    let k := { T.host with pt := 32768, kv := { State.reset.kv with look := [(8 * 7 + 1, 0)], quar := [{ dev := 0, asid := 65, desc := 0, table := 0, node := 1, due := 32769 }] } }
    [none, some (Cause.page, 2, 4, 0x10000)].all (fun f => T.goes (s { st := .filling, filled := true, nt := 1, fault := f }) (.fillComplete 63 65535)
      && T.goes (s { st := .rebuilding, filled := true, nt := 1, fault := f }) (.rebuildComplete 63 65535)
      && T.stops (s { st := .filling, fault := f }) (.fillComplete 63 65535) && T.stops (s { st := .rebuilding, fault := f }) (.rebuildComplete 63 65535)) = true ∧
    (s {}).fld (rsdB + 0x40 * 63) 0 1 = 0 ∧
    [({ s {} with sys := [] } : State), { s {} with sys := [(rsdB + 0x40 * 63, 2 ^ 21 + 1)] }].all (fun u => [RState.ready, .free].all (fun st =>
      T.goes { u with rsds := [(rsdKey 63 65535, { st := st, dirtyMirror := true })] } (.rdtMirrorWrite 63 65535))) = true ∧
    ({ s {} with sys := [(rsdB + 0x40 * 63, 2 ^ 21 + 1)] } : State).fld (rsdB + 0x40 * 63) 0 1 = 1 ∧
    (s { st := .ready }).rsdInUse (rsdKey 63 65535) = false ∧
    { s { st := .ready } with ctxs := [(coxKey 0, { T.coxCtx with res := [(0, { writes := [], flag := none, isMat := true, rsd := some (rsdKey 63 65535) })] })] }.rsdInUse
      (rsdKey 63 65535) = true ∧
    T.goes (s { st := .ready }) (.cellError 63 65535) = true ∧ ((s { st := .ready }).rsd? 63 65535).isSome = true ∧
    ((s {}).fld (off 0x18) 0 2 ≠ 1 ∧ busy.fld (off 0x18) 0 2 = 1 ∧ rsdSlotOf (off 0x10) = 63) ∧
    [Instr.rcmdRevoke (w 65535), .rcmdRevoke (w 7), .rcmdRevokeAll (w 0), .rcmdBadcmd (w 0)].map (T.goes (s { st := .ready })) = [true, true, true, true] ∧
    [Instr.rcmdRevoke (w 65535), .rcmdRevokeAll (w 0), .rcmdBadcmd (w 0)].map (T.goes busy) = [true, true, true] ∧
    [Instr.rquotaWrite (w 384), .rquotaWrite (w 385)].map (T.goes (s {})) = [true, true] ∧
    T.goes k (.kvLookupRestart ⟨7, 1⟩) = true ∧ T.stops { k with pt := 32767 } (.kvLookupRestart ⟨7, 1⟩) = true ∧
    T.stops k (.quarantineRelease 0) = true ∧ T.goes { k with pt := 32769 } (.quarantineRelease 0) = true ∧
    T.goes { k with kv := { upds := [{ cid := 7, k := 1, insert := true, desc := 0, table := 0, seq := 0, lblk := 0, p := 0, asid := 65, began := true }] } }
      (.kvUpdate ⟨7, 1⟩) = true := by decide

/-- An operation of the cox of block 0 on storage channel 63 with one command of 8 blocks of 512 bytes, submitted at PT 0. -/
def T.op (kd : EKind) (st : ESt) : EOp :=
  { kind := kd, blk := 0, cid := coxKey 0, cluster := 0, core := 0, dev := 0, asid := 65, ctr := 2, charged := [], opc := 0x303, md := 0,
    imm := 0, a := 0x4000000000000000, b := 0, c := 32, e := 0, st := st, cmds := [{ lba := 0, blocks := 8, off := 0, sub := some 0 }], chan := 63 }
def T.eng (pt : Nat) (o : EOp) (sys : SMap Word64) : State := { T.cox with pt := pt, sys := sys, eng := { State.reset.eng with ops := [(9, o)] } }

/-- EngineEvents: an operation whose last write becomes visible now, a command that ends well, ends badly and times out, and CHCFG of
the last channel. -/
theorem witness_engine_events :
    let o := T.op .srd .running
    let w (v : Nat) : RegW := { dev := 0, off := chanReg 63 0, val := BitVec.ofNat 64 v }
    let sound : SMap Word64 := [(chanReg 63 0x18, 1), (chanReg 63 0x20, 1)]
    let on : SMap Word64 := [(chanReg 63 0, 1)]
    [Instr.engineCountOut 9].map (T.goes (T.eng 7 (T.op .cpy (.written 7 none)) [])) = [true] ∧
    (let e := { T.eng 7 { o with charged := [coxKey 0] } [] with ctxs := [(coxKey 0, { T.coxCtx with ac := [(2, 1)], eng := [(2, [9])] })] }
     (e.countOut 9 (some (.page, 2, 4, 0)) 0).ctxs.find? (coxKey 0) |>.any (fun c => decide (SMap.get 0 c.ac 2 = 0) && (c.latch.find? 2).isSome)) = true ∧
    T.goes (T.eng 7 { T.op .cpy (.written 7 none) with spoiled := true } []) (.engineCountOut 9) = true ∧
    [Instr.engineCountOut 9].map (T.stops (T.eng 6 (T.op .cpy (.written 7 none)) [])) = [true] ∧
    [Instr.nvmeCompletion 9 0 0x8000 (List.replicate 32 1), .nvmeCompletion 9 0 0x7FFF []].map (T.goes (T.eng 0 o [])) = [true, true] ∧
    T.goes (T.eng (0x4000 * 1024) o []) (.nvmeTimeout 9 0) = true ∧ T.stops (T.eng (0x4000 * 1024 - 1) o []) (.nvmeTimeout 9 0) = true ∧
    (T.eng 0 o sound).chanOk 63 1 = true ∧ (T.eng 0 o []).chanOk 63 1 = false ∧ (T.eng 0 o on).fld (chanReg 63 0) 0 1 = 1 ∧
    [Instr.chcfgWrite (w 1), .chcfgWrite (w 0)].map (T.goes (T.eng 0 o sound)) = [true, true] ∧
    [Instr.chcfgWrite (w 1)].map (T.goes (T.eng 0 o [])) = [true] ∧
    [Instr.chcfgWrite (w 1), .chcfgWrite (w 0)].map (T.goes (T.eng 0 o on)) = [true, true] := by decide

/-- CollectiveEvents: two members, this package rank 0 or rank 1, at the deadline and at twice the deadline. -/
theorem witness_collectives :
    let c : CollId := { vdev := 63, cid := 4, seq := 0 }
    let x : Coll := { vdev := 63, cid := 4, seq := 0, op := some 9, members := [(0, 0), (1, 1)], deadline := 100, issue := 0 }
    let p : CollPar := { kd := .ar, cop := .sum, ct := .f32, ne := 0, deadline := 100, members := x.members }
    let s (pt : Nat) (x : Coll) : State := { T.eng pt (T.op .coll .running) [(fabB + 0x1000 + 32 * 255, 0x3F3F040005)] with
      eng := { ops := [(9, T.op .coll .running)], colls := [x] } }
    let shut := { s 0 x with sys := [] }
    ((s 0 x).coll? c).isSome = true ∧ (shut.coll? c).isSome = true ∧
    ([(s 0 x).collHere c ((s 0 x).memberAt 1), (s 0 x).collHere c (fun _ => p.members[1]?), (s 0 x).collHere c (fun _ => none)].all fun r =>
      match r with | .ok d => decide (d = c) | .error _ => false) = true ∧
    ([shut.collHere c (shut.memberAt 0), shut.collHere c (fun _ => none)].all fun r => match r with | .ok _ => false | .error _ => true) = true ∧
    [Instr.collData c 1 ⟨p, [1, 2]⟩, .collReady c 1, .collAbortRequest c 4].map (T.goes (s 0 x)) = [true, true, true] ∧
    (s 0 x).collOpen x = true ∧ (s 0 x).collLeads c = true ∧ (s 0 { x with rank := 1 }).collLeads c = false ∧
    [Instr.collData c 1 ⟨p, [1, 2]⟩, .collReady c 1, .collAbortRequest c 4].map (T.goes shut) = [true, true, true] ∧
    (let away := { shut with eng := { shut.eng with colls := [{ x with rank := 1 }] } }
     [Instr.collCommit c, .collAbortDecision c 4].map (T.goes away) = [true, true]) ∧
    [0, 1].map (fun r => T.goes (s 0 { x with rank := r, said := true, ready := [0, 1] }) (.collCommit c)) = [true, true] ∧
    [({ x with ready := [0] } : Coll), { x with abort := some 1, ready := [0, 1], said := true }].map (fun x => T.stops (s 0 x) (.collCommit c)) = [true, true] ∧
    [({ x with abort := some 4 } : Coll), { x with rank := 1 }].map (fun x => T.goes (s 0 x) (.collAbortDecision c 4)) = [true, true] ∧
    [0, 1].map (fun r => T.goes (s 100 { x with rank := r }) (.collDeadline c)) = [true, true] ∧
    T.goes (s 200 { x with rank := 1 }) (.collNodecision c) = true ∧ T.stops (s 200 x) (.collNodecision c) = true ∧
    T.stops (s 199 { x with rank := 1 }) (.collNodecision c) = true ∧ T.stops (s 99 x) (.collDeadline c) = true := by decide

/-- Host queue 255 in address space 65: its ring at page 1, a record there that has not been taken; and a launch of one block. -/
def T.launch : Launch := { queue := 255, lindex := 0, dev := 0, record := { levels := [(0, 1), (1, 1), (2, 1)] }, total := 1 }
def T.queue (l : SMap Launch) : State :=
  { T.host with sys := [(qreg 255 0, 0x4104000001), (qreg 255 8, 0x10000), (qreg 255 0x10, 0x10400), (qreg 255 0x18, 2 ^ 32), (qreg 255 0x20, 1)]
                sch := { State.reset.sch with launches := l, order := l.map (·.1), nextLaunch := 5 } }

/-- LaunchEvents: the last queue, with nothing taken, takes its record and reads its tail. -/
theorem witness_queue :
    let w := T.queue []
    let s : State := { w with sch := { w.sch with tails := [(255, (512, none))] } }
    let r (va n : Nat) : State × HaRes := s.qread 255 va n
    (s.hostRuns 255 && w.tailDue 255 && (s.sch.tails.find? 255).isSome) = true ∧ s.takenOf 255 < 16 ∧ s.fld (qreg 255 0x18) 0 32 ≠ s.fld (qreg 255 0x18) 32 32 ∧
    (match r 0x10000 128 with
     | (t, .ok lo _) =>
       (match t.qread 255 0x10080 128 with
        | (u, .ok hi _) =>
          (match (u.take 255 (leBytes 128 lo ++ leBytes 128 hi)).perform
              { asid := 65, va := 0x10408, n := 4, priv := false, who := hubW, atL := .ha } (.wr (leBytes 4 1)) with
           | (_, .ok _ _) => true
           | _ => false)
        | _ => false)
     | _ => false) = true ∧
    (match w.qread 255 0x10400 4 with | (_, .ok lo _) => !tailBad 0 none lo 4 | _ => false) = true ∧
    T.goes s (.launchTake 255) = true ∧ T.goes w (.tailWatch 255) = true ∧
    (let f := s.setReg (qreg 255 8) 0x30000
     (match f.qread 255 0x30000 128 with | (_, .fault _ _ _ _) => true | _ => false) = true ∧ T.goes f (.launchTake 255) = true) ∧
    (tailBad 0 none 17 4 = true ∧ tailBad 5 (some 7) 6 4 = true ∧ tailBad 5 (some 7) 21 4 = false) := by decide

/-- LaunchEvents: a queue's slot, running and not. -/
theorem witness_qcfg :
    let w (r v : Nat) : RegW := { dev := 0, off := qreg 255 r, val := BitVec.ofNat 64 v }
    (T.queue []).fld (qreg 255 0) 0 1 = 1 ∧ T.host.fld (qreg 255 0) 0 1 ≠ 1 ∧
    T.goes (T.queue []) (.qcfgWrite (w 0 0)) = true ∧ T.goes T.host (.qcfgWrite (w 8 0x10000)) = true ∧
    [Instr.oppStable 0, .oppStable 1].map (T.goes { T.host with sys := [(oppReg 0, 64), (oppReg 1, 64)] }) = [true, true] := by decide

/-- LaunchEvents: a launch whose one block has its place, on an empty package. -/
theorem witness_block_start :
    let s := T.queue [(4, T.launch)]
    (s.ready 4 T.launch && T.launch.waiting && !s.blocks.any (fun _ => true)) = true ∧
    (match s.nextPlace T.launch (fun _ _ => true) with
     | some (_, n, cl, ks) => !s.outranked 4 T.launch cl ks && (s.sch.lastStart.find? cl).isNone && decide (n = 1)
         && ks.all (fun k => !s.rgrowDue cl k) && decide (s.oppWant T.launch (dieOfCl cl) ≤ s.oppCur (dieOfCl cl))
     | none => false) = true ∧ T.goes s (.blockStart 4) = true := by decide

/-- LaunchEvents: a gang of nine blocks, each with all of a core's ASP, which no cluster of its device can take, splits into fallback
gangs. -/
theorem witness_splits :
    let x : Launch := { T.launch with record := { levels := [(0, 1), (1, 1), (2, 1), (3, 9)], gfall := 1, aspk := 384 }, total := 9 }
    let s := T.queue [(4, x)]
    (s.ready 4 x && x.waiting && (s.nextPlace x (fun _ _ => true)).isNone && s.splitsNow x && !s.behindOwn 4 x) = true ∧ T.goes s (.blockStart 4) = true := by
  decide

/-- LaunchEvents: a launch that asks for point 6 where its die runs at point 0; whether it may have more is the power cap's. -/
def T.fast : Launch := { T.launch with record := { T.launch.record with opp := 6 } }
def T.slow : State := { T.queue [(4, T.fast)] with sys := (T.queue []).sys ++ [(pslot 0 + 0x98, 7), (oppReg 0, 0)] }
theorem witness_opp : (match T.slow.nextPlace T.fast (fun _ _ => true) with
     | some (_, _, cl, ks) => !T.slow.outranked 4 T.fast cl ks && decide (dieOfCl cl = 0)
     | none => false) = true ∧ T.slow.oppCur 0 = 0 ∧ (T.fast.chosen.find? 0).isNone = true := by decide
theorem witness_opp_waits (h : 0 < Config.powerCeiling 7200) : T.slow.oppCur 0 < T.slow.oppWant T.fast 0 := by
  have e : T.slow.oppWant T.fast 0 = Nat.min 6 (Nat.min 7 (Nat.min 7 (Config.powerCeiling 7200))) := rfl
  have c : T.slow.oppCur 0 = 0 := by decide
  rw [e, c]
  exact Nat.lt_min.mpr ⟨by decide, Nat.lt_min.mpr ⟨by decide, Nat.lt_min.mpr ⟨by decide, h⟩⟩⟩

/-- A core whose granules lie in two runs of 124: a block of sixteen groups of eight granules has room there but no run. -/
def T.frag (pt : Nat) : State :=
  { T.queue [(4, { T.launch with record := { levels := [(0, 1), (1, 1), (2, 16)], vgran := 8 } })] with
    pt := pt
    sys := [(pslot 0, 0x10001), (pslot 0 + 8, 0x80), (pslot 0 + 16, 0), (pslot 0 + 24, 0), (pslot 0 + 32, 0), (pslot 0 + 40, 0)]
    blocks := [(0, T.blk)], ctxs := [(ctxKey 0 0, { T.group with seg := 8, segAt := 124 })] }

/-- LaunchEvents: a search for a run begins, and ends 12,000 ticks later. -/
theorem witness_relocation :
    let s := T.frag 12000
    let t := { s with sch := { s.sch with frag := [(4, 0)] } }
    (match s.sch.launches.find? 4 with
     | some x => s.ready 4 x && x.waiting && (s.nextPlace x (fun _ _ => true)).isNone && decide (s.fragCores x = [0]) && s.fragmented x 0 0
     | none => false) = true ∧
    s.blocks.all (fun p => match p.2.st with | .saved _ => false | _ => true) = true ∧
    T.goes s (.blockStart 4) = true ∧ T.goes t (.segmentRelocation 0) = true ∧ T.stops { t with pt := 11999 } (.segmentRelocation 0) = true := by decide

/-- LaunchEvents: a block that has ended and one that has not, and rgrow granted and denied. -/
theorem witness_segments :
    let g (want : Nat) : Ctx := { T.group with seg := 8, rgrow := some { want := want, part := 1, pred := 0, flag := some 1, since := 0 },
                                               splits := [(0, { pc := 0, mask := 1, wait := .confirm 0 })] }
    let s (c : Ctx) : State := { T.lane with ctxs := [(ctxKey 0 0, c)] }
    (s { T.group with alive := 0 }).canRetire 0 = true ∧ T.lane.canRetire 0 = false ∧ T.blk.st = .resident ∧
    T.goes (s { T.group with alive := 0 }) (.blockRetire 0) = true ∧
    ((s (g 256)).freeGranules 0 0 = 248 ∧ (s (g 256)).rgrowDue 0 0 = true ∧ (s (g 257)).rgrowDue 0 0 = false) ∧
    T.goes (s (g 256)) (.rgrowGrant (ctxKey 0 0)) = true ∧
    (((s (g 257)).groupsOn 0 0).map (fun p => ((s (g 257)).inRgrow p.1 p.2, (s (g 257)).stuck p.1 p.2))) = [(true, true)] ∧
    T.goes (s (g 257)) (.rgrowDeny 0) = true := by decide

/-- LaunchEvents: the home of a rectangle launch of two members: the second's answer is late, the route checks, the start and the end;
three claims held and a fourth. -/
theorem witness_rectangles :
    let s (g : Rect) : State := { T.queue [(4, { T.launch with rect := some g })] with pt := 3000000 }
    let m := [(0, 0), (1, 1)]
    let rq (i : Nat) : RectReq := { row := 1, col := 2, id := i, vdev := 0, queue := 0, lindex := 0, prio := 0, record := [] }
    let three := { T.host with sch := { State.reset.sch with claims := [rq 0, rq 1, rq 2] } }
    ((s {}).meshPos = (31, 31) ∧ T.launch.total ≠ 0) ∧
    T.goes (s { members := m, granted := 1 }) (.rectClaimTimeout 4 1) = true ∧
    T.stops (s { members := m, granted := 1, since := 1 }) (.rectClaimTimeout 4 1) = true ∧
    [true, false].map (fun b => T.goes (s { members := m, granted := 2, loaded := true }) (.rectRouteReport 4 1 b)) = [true, true] ∧
    T.goes (s { members := m, granted := 2, routed := [0, 1], loaded := true }) (.rectStart 4) = true ∧
    (let g : Rect := { members := m, granted := 2, routed := [0, 1], loaded := true }
     let x := { T.launch with rect := some g, lindex := 1 }
     let y := { x with record := { x.record with ranges := [(0, 0), (0, 0), (0, 0), (0, 0), (0x10000, 1)] } }
     let u := { T.queue [(3, { y with rect := none }), (4, y)] with pt := 3000000 }
     u.heldLaunch 4 y = true ∧ T.stops u (.rectStart 4) = true) ∧
    T.goes (s { members := m, granted := 2, routed := [0, 1], started := true }) (.rectMemberRetire 4 1) = true ∧
    T.goes three (.rectClaim (rq 3)) = true ∧ T.stops three (.rectClaim (rq 2)) = true ∧
    T.stops { three with sch := { three.sch with claims := rq 4 :: three.sch.claims } } (.rectClaim (rq 3)) = true ∧
    (let own := s { members := [(31, 31)] }
     own.claimsSelf 4 = true ∧ T.goes own (.rectClaim { rq 4 with row := 31, col := 31 }) = true) := by decide

/-- LaunchEvents: a wait at a join whose time is up, and the fetch of a line. -/
theorem witness_join_timeout :
    let set : SEnt := { isSet := true, pc := 64, join := none, mask := 3 }
    let c : Ctx := { T.group with stack := [set], splits := [(0, { pc := 64, mask := 1, wait := .join 0 (some (7, 0)) }), (1, { pc := 0, mask := 2 })] }
    let s := { T.lane with pt := 7, ctxs := [(ctxKey 0 0, c)] }
    (c.setOf 64 1).isSome = true ∧ s.onCore c = true ∧ T.goes s (.joinTimeout ⟨ctxKey 0 0, 0⟩) = true ∧
    { s with pt := 8 }.overdue.length = 1 ∧ s.overdue.length = 0 ∧
    T.goes s (.lineFetch ⟨ctxKey 0 0, 1⟩) = true ∧ (match s.fetchLine (ctxKey 0 0) c 0 false with | (_, .fault _ _ _ _) => true | _ => false) = true := by decide

/-- LaunchEvents: a line fetched from memory, and one whose copy in the instruction cache has a wrong bit, which is fetched again. -/
theorem witness_line_fetch :
    let c : Ctx := { T.group with splits := [(0, { pc := 0x10000, mask := 1 })] }
    let s (l : SMap Copy) : State := { T.lane with
      ctxs := [(ctxKey 0 0, c)]
      ms := { tlb := [(0, { asid := 65, page := 1, lvl := 4, leafPA := 0x2000, pte := 0x1607F, vdev := 0, exp := 1000 })], copies := l } }
    let bad := s [(4, { lvl := .ic, unit := T.lane.coreOf (ctxKey 0 0), asid := 65, va := 0x10000, data := 1 :: List.replicate 63 0, bad := false, exp := 1000 })]
    let quarters (r : State × HaRes) : Option Nat := match r.2 with | .ok v _ => some (badQuarters (leBytes 64 v)) | _ => none
    quarters ((s []).fetchLine (ctxKey 0 0) c 0x10000 false) = some 0 ∧ T.goes (s []) (.lineFetch ⟨ctxKey 0 0, 0⟩) = true ∧
    quarters (bad.fetchLine (ctxKey 0 0) c 0x10000 false) = some 1 ∧
    quarters ((bad.dropLine (ctxKey 0 0) c 0x10000).fetchLine (ctxKey 0 0) c 0x10000 true) = some 0 ∧ T.goes bad (.lineFetch ⟨ctxKey 0 0, 0⟩) = true := by
  decide

/-- PreemptionEvents: the cluster at the end of its range, the moments before and at a deadline, and the last host thread's alarm. -/
theorem witness_preemption :
    let b (st : BState) : State := { T.lane with blocks := [(0, { T.blk with st := st })] }
    let pre := { T.lane with pt := 300000, sch := { State.reset.sch with pre := [(0, { dev := 0, mode := .save, since := 0 })] } }
    let busy := { T.lane with blocks := [(0, { T.blk with st := .saving 0 })], ctxs := [(ctxKey 0 0, { T.group with rem8 := 1 })] }
    let h (pt : Nat) : State := { T.host with pt := pt, ctxs := [(95, { bootCtx with halarm := 9, hien := true })] }
    let away := { T.host with sch := { State.reset.sch with holder := [(39, 5)] } }
    ((match away.windowOwner 39 with | some (d, _) => d | none => 64) ≠ away.holderOf 39 ∧ away.sch.pre.find? 39 = none) ∧
    T.goes away (.sliceEnd 39) = true ∧ (b (.saving 0)).quiet 0 = true ∧ busy.quiet 0 = false ∧ T.stops busy (.saveComplete 0) = true ∧
    ((match (b (.saved 0)).oldestSaved 0 with | some (k, _) => k == 0 | none => false) && ((b (.saved 0)).resumePlace T.blk).isSome) = true ∧
    pre.preDeadline 0 = 300000 ∧ (T.blk.dev = 0 ∧ T.blk.cluster = 0 ∧ T.blk.standing = true) ∧
    T.stops { pre with pt := 299999 } (.preemptDeadline 0) = true ∧ T.host.pwr = .run ∧ T.host.sch.heat.find? 1 = none ∧
    T.goes T.host (.thermalStep 1) = true ∧
    [44999, 45000].map (fun pt => T.goes { T.host with pt := pt, sch := { State.reset.sch with heat := [(1, 0)] } } (.thermalStep 1)) = [false, true] ∧
    T.goes (h 9) (.halarmExpiry 95) = true ∧ T.stops (h 8) (.halarmExpiry 95) = true := by decide

/-- CommandEvents: the commands of the partition slot of device 63, busy and idle. -/
theorem witness_partition :
    let w (r v : Nat) : RegW := { dev := 63, off := pslot 63 + r, val := BitVec.ofNat 64 v }
    let busy := { T.host with sys := [(pslot 63 + 0x3D0, 1)] }
    let job (pt at_ : Nat) : State := { T.host with pt := pt, part := { State.reset.part with rc := [(63, { at_ := at_ })] } }
    let own := { T.host with sys := [(qreg 255 0, 63 * 2 ^ 8)] }
    let child := { T.host with sys := [(pslot 62, 3 + 2 ^ 8 * 63)] }
    (partSlotOf (w 0x3C8 0).off = 63 ∧ busy.rcBusyNow 63 = true ∧ T.host.rcBusyNow 63 = false) ∧
    [Instr.reconfigCommand (w 0x3C8 1), .qkill (w 0x3D8 0), .rreset (w 0x3D8 0)].map (T.goes busy) = [true, true, true] ∧
    [Instr.reconfigCommand (w 0x3C8 0), .reconfigCommand (w 0x3C8 65), .reconfigCommand (w 0x3C8 64), .qkill (w 0x3D8 7), .rreset (w 0x3D8 5)].map
      (T.goes T.host) = [true, true, true, true, true] ∧
    (match T.host.rcRun 63 (T.host.fld (pslot 63 + 0x3C0) 5 47 * 32) 64 0 with | .error _ => true | .ok _ => false) = true ∧
    (T.host.qdev 7 ≠ 63 ∧ T.host.descends (T.host.qdev 7) 63 = false ∧ own.qdev 255 = 63 ∧ T.host.descends 5 63 = false) ∧
    T.goes (job 65536 65536) (.reconfigDone 63) = true ∧ T.stops (job 65535 65536) (.reconfigDone 63) = true ∧
    T.goes T.host (.ipendWrite (w 0x388 0xFF)) = true ∧ child.descends 62 63 = true ∧
    T.goes child (.rreset (w 0x3D8 62)) = true := by decide

/-- CommandEvents: a command of one entry, which creates device 1, takes effect. -/
theorem witness_reconfig :
    let s := { T.host with ms := { mem := [(1, 1), (8, 1), (16, 1)] } }
    (match s.rcRun 0 (s.fld (pslot 0 + 0x3C0) 5 47 * 32) 1 0 with | .ok t => t.active 1 && decide (t.level 1 = 1) | .error _ => false) = true := by
  decide

/-- CommandEvents: keys of device 63: one that stands in its KEYS and one that does not. -/
theorem witness_keys :
    let w (v : Nat) : RegW := { dev := 63, off := partB + 0x80 * 63 + 0x40, val := BitVec.ofNat 64 v }
    let s := { T.host with sys := [(pslot 63 + 0x100 + 8 * 63, 2 ^ 63)], part := { State.reset.part with kdata := [(8 * 63, 5)] } }
    (keySlotOf (w 4095).off = 63 ∧ (s.clearKdata 63).keyOwned 63 4095 = true ∧ (s.clearKdata 63).keyOwned 63 0 = false) ∧
    s.kdataOf 63 % 2 ^ 256 ≠ s.kdataOf 63 / 2 ^ 256 ∧ T.host.kdataOf 63 % 2 ^ 256 = T.host.kdataOf 63 / 2 ^ 256 ∧
    T.goes { s with part := { s.part with kdata := [] } } (.keyXts (w 0x1FFF)) = true ∧
    [Instr.keyOff (w 4095), .keyXts (w 0x1FFF), .keyPlain (w 0x2FFF), .keyBadcmd (w 0x3FFF), .keyBadcmd (w 0)].map (T.goes s)
      = [true, true, true, true, true] := by decide

/-- CommandEvents: host thread 95, busy, running and stopped. -/
theorem witness_host_threads :
    let w : RegW := { dev := 0, off := htslot 95 + 0x10, val := 1 }
    let s (v : Nat) : State := { T.host with sys := [(htslot 95 + 0x18, BitVec.ofNat 64 v)] }
    let d : State := { T.host with pt := 7, part := { State.reset.part with htDone := [(95, (7, false))] } }
    let e : State := { T.host with ctxs := [(95, { bootCtx with halt := 2 })] }
    (htOf w.off = 95 ∧ (s 2).htBusy 95 = true ∧ (s 0).htBusy 95 = false ∧ (s 1).htBusy 95 = false) ∧
    ([0, 1, 2].all fun v => [Instr.htcmdStart w, .htcmdStop w, .htcmdSwap w, .htcmdBadcmd w].all (T.goes (s v))) = true ∧
    T.goes d (.htcmdStopDone 95) = true ∧ T.goes { d with part := { d.part with htDone := [(95, (7, true))] } } (.htcmdStopDone 95) = true ∧
    T.goes { T.host with ctxs := [(95, { bootCtx with halt := 4 })] } (.htcmdStopDone 95) = true ∧ (e.htDrained { bootCtx with halt := 2 }) = true ∧ T.goes e (.htcmdStopDone 95) = true := by decide

/-- CommandEvents: a token of host thread 0 and a window bound to it, a held record, and a write of a register. -/
theorem witness_windows :
    let k : Tok := { cid := 0, k := 0, bytes := [] }
    let c := { bootCtx with splits := [(0, { pc := 0, mask := 1, parked := some 0x103FF })] }
    let s (st : Nat) : State := { T.host with
      sys := [(fslot 63, 6)], ctxs := [(0, c)]
      trp := { State.reset.trp with toks := [(1, k)], wins := [(3, { token := 0x103FF, stat := st })],
                                    held := [{ slot := 63, bytes := [1], pt := 0, cid := noThreadId, k := 0, token := 0 }] } }
    let w (off v : Nat) : RegW := { dev := 0, off := off, val := BitVec.ofNat 64 v }
    let win := trapB + 0x10000 * 4
    ((winOf (win + 0x10)).1 = 3 ∧ ((s 1).liveTok 0x103FF).isSome = true ∧ c.res = [] ∧ c.accs = [] ∧ c.stream = .host) ∧
    ((s 0).trp.held.any (fun h => h.slot = 63 && (s 0).heldReady h) && !(s 0).ringFull (fslot 63) (fslot 63 + 8)) = true ∧
    T.goes (s 0) (.heldRecordEnter 63) = true ∧ [0, 0x103FF].map (fun v => T.goes (s 0) (.twselWrite (w win v))) = [true, true] ∧
    (s 0).tokAway 0x10001 = some (1, 0) ∧ T.goes (s 0) (.twselWrite (w win 0x10001)) = true ∧ (s 0).tokAway 0x103FF = none ∧
    (let away := { s 0 with trp := { (s 0).trp with wins := [(3, { token := 0x10001, stat := 2 })] } }
     (away.win 3).stat = 2 ∧ away.tokAway (away.win 3).token = some (1, 0) ∧ T.goes away (.twWrite (w (win + 0x10) 7)) = true) ∧
    T.goes (s 1) (.twBindComplete 3) = true ∧ [1, 2].map (fun n => T.goes (s n) (.twWrite (w (win + 0x10) 7))) = [true, true] ∧
    (T.host.mayWrite { dev := 5, off := tierB, val := 0 } = false ∧ T.host.mayWrite (w tierB 1) = true ∧
      (blockAt tierB).1 ≠ partB ∧ tierB ≠ mbB) ∧
    [({ dev := 5, off := tierB, val := 0 } : RegW), w tierB 1].map (fun w => T.goes T.host (.registerWrite w)) = [true, true] := by decide

/-- CommandEvents: windows on a split of a group and of a cox, whose block is on its core or has been saved. -/
theorem witness_group_windows :
    let s (cid : Nat) (c : Ctx) (st : BState) : State := { T.host with
      ctxs := [(cid, { c with splits := [(0, { pc := 0, mask := 1, parked := some 0x103FF })] })]
      blocks := [(0, { T.blk with st := st })]
      trp := { State.reset.trp with toks := [(1, { cid := cid, k := 0, bytes := [] })], wins := [(3, { token := 0x103FF, stat := 2 })] } }
    let w (off v : Nat) : RegW := { dev := 0, off := trapB + 0x10000 * 4 + off, val := BitVec.ofNat 64 v }
    [BState.resident, .saved 0].all (fun st => [(ctxKey 0 0, T.group), (coxKey 0, T.coxCtx)].all fun p =>
      let u := s p.1 p.2 st
      decide ((u.win 3).stat = 2) && (u.tokAway (u.win 3).token).isNone && (u.liveTok (u.win 3).token).isSome
        && T.goes u (.twWrite (w 0x1000 7)) && T.goes u (.twWrite (w 0x1900 7))) = true := by decide

/-- CommandEvents: a context record of zeros is loaded. -/
theorem witness_load_thread : (match T.host.loadThread 95 0 with | .ok _ => true | .error _ => false) = true := by decide

/-- LinkEvents: the last window, port and class; an access that arrives for a page of the window, and one that no window admits. -/
theorem witness_links :
    let w (r v : Nat) : RegW := { dev := 0, off := fabB + 0x1000 + 32 * 255 + r, val := BitVec.ofNat 64 v }
    let s := { T.host with sys := [(lstat 31, 1), (fabB + 0x1000 + 32 * 255, 0x0041000000040007), (fabB + 0x1000 + 32 * 255 + 8, 0x10000), (fabB + 0x1000 + 32 * 255 + 16, 0x10000)] }
    let f (k : FabKind) : FabAcc := { srow := 23, scol := 23, svdev := 0, off := 0xFFFF, size := 1, kind := k }
    let serve (s : State) (f : FabAcc) : HaRes := (s.fabServe f.srow f.scol f.svdev f.off (fabReq f) (fabOp f)).2
    [Instr.fwinWrite (w 0 0), .fwinWrite (w 8 1), .fwinWrite (w 0 9), .fwinWrite { dev := 1, off := (w 0 0).off, val := 0 }].map (T.goes T.host)
      = [true, true, true, true] ∧
    T.goes T.host (.flowStop 31 3) = true ∧ T.goes { T.host with lnk := { stopped := [(8 * 31 + 3, true)] } } (.flowGo 31 3) = true ∧
    (trains 23 16 2 = true ∧ trains 15 4 3 = true ∧ trains 0 1 1 = true) ∧
    [Instr.linkStateChange 31 8 0, .linkStateChange 23 16 2].map (T.goes T.host) = [true, true] ∧
    (let m := { s with pt := 0xB72 * 1024, lnk := { lowAt := [(31, 0)] } }
     m.marginLow 31 = true ∧ T.goes m (.laneMarginRemove 31) = true ∧ T.stops { m with pt := 0xB72 * 1024 - 1 } (.laneMarginRemove 31) = true ∧
       T.stops m (.laneMarginRemove 15) = true) ∧
    [FabKind.load, .store [7]].all (fun k => match serve s (f k) with | .ok _ _ => true | _ => false) = true ∧
    [s, T.host].map (fun s => T.goes s (.fabricAccessArrive (f .load))) = [true, true] ∧
    (match serve T.host (f .load) with | .fault .perm _ _ _ => true | _ => false) = true ∧
    (let h := { s with ms := { s.ms with dir := [(0x1FFFF / 128, { pend := [(1000, 5)] })] } }
     (match serve h (f .load), h.fabMatch 23 23 0 0xFFFF false with | .hold _, .ok (asid, va) => decide (asid = 65 ∧ va = 0x1FFFF) | _, _ => false)
       = true ∧ T.after h (.fabricAccessArrive (f .load)) (fun t => t.ms.reqs.any (fun p => p.2.space = farSpace && p.2.open_)) = true) := by decide

/-- ManagementEvents: a request of another version, a signed one, and each command as it runs. -/
theorem witness_management :
    let r : MgmtReq := { ver := 1, code := 3, signed := true, reserved := 0, mseq := 1, arg0 := 0, arg1 := 0, payload := List.replicate 512 0, oppub := [], sigR := [], sigS := [] }
    let s (n : Nat) : State := { T.host with mgmt := { State.reset.mgmt with busy := some (n, none), cfg := [] } }
    let froz (n : Nat) : State := { s n with pwr := .frozen }
    let rcd := 1 :: List.replicate 511 0
    let new := rcd.set 256 1
    (r.payload.length = 512 ∧ T.host.mgmt.mseq < r.mseq ∧ T.host.pwr ≠ .off) ∧
    T.goes T.host (.mgmtRequest { r with ver := 2 }) = true ∧
    [Instr.identity [], .identity (List.replicate 64 0)].map (T.goes (s 1)) = [true, true] ∧ T.goes (s 2) (.cert 0) = true ∧ T.goes (s 3) .freeze = true ∧
    [Instr.thaw].map (T.goes (froz 4)) = [true] ∧ T.goes (s 5) (.scan 0 0) = true ∧
    scanLength 0x229F0000 = some 131072 ∧ scanLength 0xC0000000 = none ∧
    [131071, 131072].map (fun w => T.goes (froz 5) (.scan 0x229F0000 w)) = [true, true] ∧ T.goes (froz 5) (.scan 0xC0000000 0) = true ∧
    T.goes (s 6) .coldresetCmd = true ∧ T.goes (s 7) (.update none) = true ∧ T.goes (s 8) .commit = true ∧
    [0, 1, 2].map (fun m => T.goes (s 9) (.key0 m)) = [true, true, true] ∧
    (cfgOk new = true ∧ cfgSeq (s 10).mgmt.cfg < cfgSeq new ∧ cfgOk [] = false) ∧
    [rcd, new, []].map (fun b => T.goes (s 10) (.setcfg b)) = [true, true, true] := by decide

/-- ManagementEvents: resets, power and a boot without an image. -/
theorem witness_power :
    let s (pt : Nat) : State := { T.host with pt := pt, mgmt := { State.reset.mgmt with booted := false, retryAt := 9 } }
    T.goes T.host .coldReset = true ∧ T.goes (s 9) (.tftpRetry none) = true ∧ T.stops (s 8) (.tftpRetry none) = true ∧
    T.goes T.host .thermtrip = true ∧ T.stops { T.host with pwr := .off } .powerLoss = true ∧ T.host.pwr ≠ .off := by decide

/-! The statements about shared operations, frames and the step. -/

/-- IntegerRanges: the ends of the ranges, and the one quotient that leaves them. -/
theorem witness_ranges : Ty.int4 .s32 = true ∧ Ty.int4 .n64 = true ∧ minOf true 32 = -2 ^ 31 ∧ maxOf true 32 = 2 ^ 31 - 1 ∧ minOf false 64 = 0 ∧
    fit .s32 true (2 ^ 31) = 0x7FFFFFFF ∧ fit .s32 true (-2 ^ 31 - 1) = 0x80000000 ∧ fit .s32 false (2 ^ 31) = 0x80000000 ∧
    wrap 32 (divVal .s32 (-2 ^ 31) (-1)) = 0x80000000 ∧ divVal .s32 (-7) 2 = -3 ∧ remVal (-7) 2 = -1 := by decide

/-- BitOperations, BitCounts: the narrowest and widest words. -/
theorem witness_bits : brevVal 32 1 = 0x80000000 ∧ rolVal 32 0x80000001 4 = 0x18 ∧ rorVal 64 0x18 4 = 0x8000000000000001 ∧
    sarVal 64 0x8000000000000000 64 = 0xFFFFFFFFFFFFFFFF ∧ clzVal 32 0 = 32 ∧ ctzVal 64 0x8000000000000000 = 63 ∧ popcVal 64 0xFFFFFFFFFFFFFFFF = 64 := by
  decide

/-- RegisterWriteReadsBack: the last pair of the segment, the first register outside it, p6 and p7, and a signed word in s63. -/
theorem witness_register_writes :
    let v (n : BitVec 8) (w : Nat) := T.group.applyAll (T.group.dst 31 w false (.v n) 0xFFFFFFFF00000001)
    T.group.seg = 8 ∧ (v 254 64).wide 31 254 2 = 0xFFFFFFFF00000001 ∧
    ({ T.group with seg := 1 }.applyAll ({ T.group with seg := 1 }.dst 0 32 false (.v 32) 5)).rv 0 32 = 0 ∧
    (T.coxCtx.applyAll (T.coxCtx.dst 0 32 true (.s 63) 0x80000000)).rs 63 = 0xFFFFFFFF80000000 ∧
    (T.group.applyAll (T.group.dst 31 32 false (.pred 6) 1)).rp 31 6 = true ∧
    (T.group.applyAll (T.group.dst 31 32 false (.pred 7) 0)).rp 31 7 = true := by decide

/-- RegisterResultsFrame, LateResultsFrame, RoundingFrame and IndexAndKulischFrame: instructions of each kind that answer a next state. -/
theorem witness_frames :
    [Instr.add T.dab .s32 true, .pxpack T.dab .w10].all (fun i => Instr.plainResult i && (T.lane.issues i).isSome && T.goes T.lane i) = true ∧
    [Instr.div T.dab .s32, .lmask T.da .rank, .frcp T.da .f32].all (fun i => Instr.lateResult i && (T.lane.issues i).isSome && T.goes T.lane i) = true ∧
    [Instr.fadd T.dab .f32 .sr, .fsqrt T.da .f32 .rne].all (fun i => (Instr.rounds i).isSome && (T.lane.issues i).isSome && T.goes T.lane i) = true ∧
    [Instr.ixset { d := .ix 3, a := .imm, imm := 0 }, .ixinc { d := .ix 0, a := .v 0 }, .kaclr {}, .kaadd T.a, .kamad T.ab].all (fun i =>
      (T.lane.issues i).isSome && T.goes T.lane i) = true ∧ T.group.kaBusy = false := by decide

/-- BytesReadBack: the last byte of a line, an element's last bytes. -/
theorem witness_bytes :
    let t := T.host.wrBytes 0 127 [1, 2]
    t.rdByte 0 127 = 1 ∧ t.rdByte 0 128 = 2 ∧ t.rdByte 0 126 = 0 ∧ 256 ∉ linesOf 127 2 ∧ linesOf 127 2 = [0, 1] ∧
    (T.blk.aspWr 0xFFFF [7]).aspRd 0xFFFF 1 = 7 ∧ 0x3FFFC % 16 + 4 ≤ 16 ∧ (T.blk.acsWr 0x3FFFC 4 9).acsRd 0x3FFFC 4 = 9 ∧
    (T.blk.acsWr 0x3FFFC 4 9).acsRd 0x3FFF0 12 = 0 := by decide

/-- LeasesBoundWrites: a lease of the shortest class granted to one party, then a write by another that a third cannot yet see. -/
theorem witness_leases :
    let s := (T.host.grantLease 0 3 1000).1
    let t := (s.orderWrite 0 5 3).1
    (T.host.grantLease 0 3 7).2 = 7 ∧ t.readHold 6 3 = some (s.orderWrite 0 5 3).2 ∧ t.readHold 5 3 = none ∧
    (t.ms.dir.find? 3).isSome = true ∧ ({ t with pt := (s.orderWrite 0 5 3).2 } : State).readHold 6 3 = none := by decide

/-- PhysicalStore: the last eight bytes of the LPDDR6 tier's first line. -/
theorem witness_physical_store :
    let r : Req := { T.q with cid := 0, kind := .store [1, 2, 3, 4, 5, 6, 7, 8], space := 15, va := 2 ^ 48 + 120, size := 8 }
    let s := { T.host with ms := { reqs := [(3, r)] } }
    (region r.va = 1 ∧ r.va % 128 + r.size ≤ 128) ∧ s.populated r.va 8 = true ∧ s.behind bootCtx 3 r = false ∧
    (s.fwdOf (r.va / 65536)).isNone = true ∧ (s.pteOfMig r.va 8).isNone = true ∧ s.throttled 0 r.va = none ∧ s.keyMode 0 ≠ 0 ∧
    (s.ms.dir.find? (r.va / 128)).isNone = true ∧
    s.fld (tslot 0 + 0x60 + 16 * region r.va) 0 1 = 0 ∧ T.after s (.haWrite 3) (fun t => t.rdByte 0 (2 ^ 48 + 127) = 8) = true := by decide

/-- PhysicalStore: a store of page 1 while the page moves, at its first byte, which is mirrored, and once it has moved. -/
theorem witness_translated_store :
    let tr : Trans := { pa := 0x10000, key := 0, lvl := 4, leafPA := 0x4008, pte := 0x16077, vdev := 0, exp := 1000 }
    let r : Req := { T.q with kind := .store [9], va := 0x10000, size := 1, fixed := [(0x10000, tr)] }
    let s (st : FState) : State := { T.rq r with mig := { fwd := [(255, { T.fwd with st := st })] } }
    (r.fixedAt r.va = some tr ∧ tr.key = 0) ∧
    [FState.copying, .committed].all (fun st => let u := s st
      !(u.behind T.group 3 r) && decide (u.pt < tr.exp ∧ u.issueMates T.group 3 r = [] ∧ u.poolSays tr.pa = .serve ∧ u.keyMode 0 ≠ 0)
        && (u.pteOfMig (u.routed tr.pa) 1).isNone && (u.throttled 0 (u.routed tr.pa)).isNone && decide (u.fld (tslot 0 + 0x60) 0 1 = 0)) = true ∧
    ((s .copying).routed 0x10000 = 0x10000 ∧ (s .copying).mirrorOf 0x10000 = some 0x20000 ∧ (s .committed).routed 0x10000 = 0x20000) ∧
    T.after (s .copying) (.haWrite 3) (fun t => decide (t.rdByte 0 0x10000 = 9 ∧ t.rdByte 0 0x20000 = 9)) = true ∧
    T.after (s .committed) (.haWrite 3) (fun t => decide (t.rdByte 0 0x10000 = 0 ∧ t.rdByte 0 0x20000 = 9)) = true := by decide

/-- What a pointer raises: cause and qualifier; none where it leads somewhere. -/
def T.raises (s : State) (c : Ctx) (n al ptr : Nat) : Option (Cause × Nat) := match s.place c false n al ptr with | .ok _ => none | .error e => some e
/-- AccessFaults: each selector at the edges of its space, for a group, a cox and a host thread. -/
theorem witness_pointers :
    let sp (k off : Nat) : Nat := k * 2 ^ 60 + off
    let g (ptr n : Nat) := T.raises T.lane T.group n n ptr
    let x (ptr n : Nat) := T.raises T.cox T.coxCtx n n ptr
    let h (c : Ctx) (ptr n : Nat) := T.raises T.host c n n ptr
    [9, 14].map (fun k => g (sp k 0) 4) = [some (.space, 0), some (.space, 0)] ∧
    [g (sp 3 (2 ^ 56 - 4)) 4, g (sp 0 (2 ^ 56)) 4, g (sp 0 2) 4] = [none, some (.space, 2), some (.align, 0)] ∧
    [g (sp 4 0xFFFC) 4, g (sp 4 0x10000) 4, g (sp 4 0xFFFE) 2, h bootCtx (sp 4 0) 4] = [none, some (.space, 2), none, some (.space, 1)] ∧
    [g (sp 5 0xFFFC) 4, g (sp 5 (2 ^ 45)) 4] = [none, some (.space, 2)] ∧
    [x (sp 6 0x3FFF0) 16, x (sp 6 0x40000) 16, x (sp 6 8) 16, g (sp 6 0) 4] = [none, some (.space, 2), some (.align, 0), some (.space, 1)] ∧
    [g (sp 7 0) 4, x (sp 7 0) 4] = [some (.space, 2), some (.space, 1)] ∧
    (T.raises T.lane { T.group with llsize := 2 } 4 4 (sp 7 0)).isNone = true ∧
    [g (sp 8 (23 * 2 ^ 55)) 4, g (sp 8 (24 * 2 ^ 55)) 4] = [none, some (.space, 2)] ∧
    [h bootCtx (sp 15 0) 4, h bootCtx (sp 15 (2 ^ 52)) 4, h bootCtx (sp 15 (4 * 2 ^ 50)) 4, g (sp 15 0) 4]
      = [none, some (.space, 2), some (.space, 2), some (.space, 1)] ∧
    [h { bootCtx with priv := false } (sp 15 0) 4, h { bootCtx with priv := false } (sp 15 (2 ^ 47)) 4] = [some (.perm, 1), some (.page, 2)] := by
  decide
/-- AccessFaults: accesses of which one lane's pointer fails, each kind. -/
theorem witness_issue_faults :
    let s := { T.lane with ctxs := [(ctxKey 0 0, { T.group with p := [(0, 5)] })] }
    let o : Opr := { gp := 0, a := .v 0 }
    let bad (i : Instr) (wr : Bool) (n al : Nat) : Bool := T.iss s i fun x => decide (s.orderWait x.c wr .rlx .grp = none) && !x.c.kaBusy &&
      (match s.place x.c false n al (x.ptr s 2) with | .error _ => true | .ok _ => false) && T.goes s i
    (bad (.ld { o with d := .v 8 } .n32 .rlx .grp) false 4 4 && bad (.st { o with b := .v 8 } .n32 .rlx .grp) true 4 4
      && bad (.atom { o with d := .v 8, b := .v 2 } .n32 .add .rlx .grp) true 4 4 && bad (.red { o with b := .v 2 } .n32 .add .rlx .grp) true 4 4
      && bad (.cas { o with d := .v 8, b := .v 2, c := .v 4 } .b32 .rlx .grp) true 4 4 && bad (.kast o .rlx .grp) true 80 16
      && bad (.kald o .rlx .grp) false 80 16 && bad (.kaaddm o .rlx .grp) false 80 16) = true := by decide
/-- Host thread 0 with the tables of address space 65, some bytes of them changed, and what a look at page 1 raises. -/
def T.walks (m : List Host.Cell) : State :=
  { T.host with sys := [(0, 0x8000000000080000)], ms := { mem := ((0x4009, 0x60) :: m).foldl (fun l p => SMap.set 0 l p.1 p.2) T.mem } }
def T.looks (s : State) (k : Akind) (priv : Bool) : Option (Cause × Nat × Nat) :=
  match s.look 65 0x10000 k priv with | .fault c q l _ => some (c, q, l) | _ => none
/-- AccessFaults: walks of address space 65 that stop: no table, no descriptor or a reserved bit in it, no entry at level 4 or 0, a leaf marked as
migrating that is not. -/
theorem witness_walks : 0x100 * 2 ^ 11 = 0x80000 ∧ (T.walks []).tableAt 0x10000 4 0x800 0 = some 0x4000 ∧
    T.looks { T.walks [] with sys := [] } .load true = some (.page, 2, 0) ∧ T.looks (T.walks [(0x80208, 0)]) .load true = some (.page, 0, 0) ∧
    T.looks (T.walks [(0x80208, 3)]) .load true = some (.page, 1, 0) ∧ T.looks (T.walks [(0x4008, 0)]) .load true = some (.page, 0, 4) ∧
    T.looks (T.walks [(0x800, 0)]) .load true = some (.page, 0, 0) ∧ T.looks (T.walks [(0x4009, 0x61)]) .load true = some (.page, 1, 4) ∧
    [0x80208, 0x800, 0x4008].all (fun a => decide ((T.walks []).poolSays a = .serve ∧ (T.walks []).walkHold a 8 = none)) = true := by decide
/-- AccessFaults: memory that does not exist, and a kind, privilege, key and grant that the leaf does not give. -/
theorem witness_leaves :
    T.looks (T.walks [(0x400D, 0x04)]) .load true = some (.page, 2, 4) ∧ T.looks (T.walks []) .fetch true = some (.perm, 0, 4) ∧
    T.looks (T.walks [(0x4008, 0x67)]) .load false = some (.perm, 1, 4) ∧ T.looks (T.walks [(0x400E, 0x10)]) .load true = some (.perm, 2, 4) ∧
    T.looks { T.walks [(0x80209, 1)] with sys := SMap.put [(0, 0x8000000000080000)] (pslot 1 + 0x100) 1 } .load true = some (.perm, 3, 4) ∧
    (match (T.walks []).look 65 0x10000 .atomic false with | .ok t => decide (t.pa = 0x10000 ∧ t.key = 0 ∧ t.lvl = 4) | _ => false) = true := by decide
/-- AccessFaults: a read of a poisoned line. -/
theorem witness_poison :
    let q : HaReq := { asid := 65, va := 0x10000, n := 4, priv := false, who := 3, atL := .ha }
    let tr : Trans := { pa := 0x10000, key := 0, lvl := 4, leafPA := 0x4008, pte := 0x16077, vdev := 0, exp := 1000 }
    let u := T.host.setPoison 512 true
    u.poisoned 512 = true ∧ (match (u.performData q tr 0x10000 .rd .ha none).2 with | .fault .poison 2 0 _ => true | _ => false) = true := by decide

/-- MemoryIssueFrame: a load and a store of one lane issue and do not trap. -/
theorem witness_memory_frame :
    let lane := { T.lane with ctxs := [(ctxKey 0 0, { T.group with p := [(0, 1)] })] }
    [Instr.ld { gp := 0, a := .v 16, d := .v 8 } .n32 .rlx .grp, .st { gp := 0, a := .v 16, b := .v 8 } .b128 .rlx .grp].all (fun i =>
      Instr.isAccess i && (lane.issues i).isSome && T.after lane i (fun t => (t.ctxs.find? (ctxKey 0 0)).any (fun c =>
        (c.splits.find? 0).any (fun sp => sp.parked.isNone)))) = true := by decide

/-- IssueChecks: no thread, a check that finds a trap, no lane that takes part, and a privileged instruction without privilege. -/
theorem witness_issue :
    let none' := { T.lane with ctxs := [] }
    let user := { T.host with ctxs := [(0, { bootCtx with priv := false })] }
    (none'.thread (.add T.dab .s32 false)).isNone = true ∧
    ((T.lane.thread (.add { T.dab with d := .imm } .s32 false)).any (fun x => x.check.isSome)) = true ∧
    ((T.lane.thread (.add { T.dab with gp := 0 } .s32 false)).any (fun x => x.check.isNone && decide (x.part = 0))) = true ∧
    ((user.thread (.rdpriv { d := .v 8 } 0)).any (fun x => !x.ill && decide (x.rangeFail = 0 ∧ x.part ≠ 0) && !x.c.priv && privOnly x.i)) = true := by
  decide

/-- TakingATrap and TrapReturn: a trap of host thread 0, and the three ways back. -/
theorem witness_traps :
    let u := T.host.takeTrap 0 0 { cause := .brk }
    let back (r : Resume) : Bool := ((u.returnFromTrap 1 0 0 r).ctxs.find? 0).any (fun c => (c.splits.find? 0).any (fun sp => sp.parked.isNone))
    (T.host.ctxs.find? 0).any (fun c => decide (c.splits.length = 1 ∧ c.stack = []) && (c.splits.find? 0).isSome) = true ∧
    (u.trp.toks.find? 1).isSome = true ∧
    [Resume.replay none none, .skip, .goto 64].all back = true := by decide

/-- A line whose slot 0 holds add.s32 v2, v0, v1, and host thread 0 standing in it. -/
def T.line : List Byte := placedLine 0x001C08000400000300000000 0
def T.stand : Split := { pc := 0, mask := 1, line := some T.line }
def T.turn (sp : Split) : State := { T.host with agenda := [.issue 0 0, .event .coldReset], ctxs := [(0, { bootCtx with splits := [(0, sp)] })] }

/-- The next step is a turn of split 0 of a thread which comes to its line and enters it: a property of the state, thread and split as
they then stand, the line and the slot. -/
def T.begins (s : State) (cid : Nat) (f : State → Ctx → Split → List Byte → Nat → Bool) : Bool :=
  let u : State := { s.tick with agenda := s.agenda.tail }
  decide (s.pwr = .run ∧ s.todo = [] ∧ s.agenda.head? = some (.issue cid 0)) && (tryEvents exec s.tick s.tick.overdue).isNone &&
    (u.ctxs.find? cid).any fun c => (c.splits.find? 0).any fun sp =>
      u.mayRun c sp && !c.needsRefill sp &&
      (if sp.line.isSome then some u
       else if (u.copyHit .ic (u.coreOf cid) c.asid (sp.pc.toNat / 64 * 64 % 2 ^ 56)).isSome then u.lineFetch cid 0 else none).any fun v =>
        (v.ctxs.find? cid).any fun b => (b.splits.find? 0).any fun p => p.parked.isNone && p.line.any fun bs => (slotOf p.pc).any fun n =>
          match v.enters cid 0 n b p bs with | some (w, d, q) => f w d q bs n | none => false

/-- A line of five words under a line word. -/
def T.lineOf (ws : List Nat) (lw : Nat) : List Byte := ws.flatMap (leBytes 12) ++ leBytes 4 lw
/-- add.s32 v2, v0, v1 and hadd v5, v4, v6; a load through v4; join.t p1. -/
def T.wAdd : Nat := 0x001C08000400000300000000
def T.wHadd : Nat := 0x401C14101800002B00000000
def T.wLd : Nat := 0x601C2010001C002100000040
def T.wJoin : Nat := 0x819C440000000C00000001F4
def T.pairs (w : Nat) : List Byte := T.lineOf [T.wAdd, w, T.wAdd, T.wAdd, T.wAdd] (2 ^ 25)

/-- StepRunsDecoded: the split stands in the line, entered or not, or the line is in the instruction cache; the thread then stands at the
next instruction. -/
theorem witness_step :
    [T.turn { T.stand with inLine := some 0 }, T.turn T.stand, State.reset.withFetchWord 96 T.wAdd].all (fun s =>
      T.begins s 0 (fun _ d q bs n => !pairFirst bs (q.inLine.getD n) n && decide (q.wait = .none) && (match slotInstr bs n with
        | .ok i => !d.interlocked i | .error _ => false))
      && (match step s with
        | .next t => decide ((t.ctxs.find? 0).any (fun c => (c.splits.find? 0).any (fun sp => sp.pc = 12)))
        | _ => false)) = true ∧
    (match step { T.turn T.stand with agenda := [.event .coldReset] } with | .next _ => true | _ => false) = true := by decide
/-- StepRunsDecoded: a result is due to v0, which the instruction reads. -/
theorem witness_interlock :
    let s := { T.turn T.stand with ctxs := [(0, { bootCtx with splits := [(0, { T.stand with inLine := some 0 })], res := [(0, { writes := [.v 0 0 5], flag := none })] })] }
    T.begins s 0 (fun _ d _ bs n => match slotInstr bs n with | .ok i => d.interlocked i | .error _ => false) = true ∧
    ((s.ctxs.find? 0).any fun c => !c.interlocked (.add { d := .v 2, a := .v 3, b := .v 1 } .s32 false)) = true ∧
    (match step s with | .next t => (t.ctxs.find? 0).any (fun c => (c.splits.find? 0).any (fun sp => decide (sp.pc = 0))) | _ => false) = true := by decide
/-- StepRunsDecoded: pairs: of one class, and so a PAIR fault; two that issue together, of which one is interlocked; a second slot that
would hold; and slots that decode to nothing, the first or the second. -/
theorem witness_pairs :
    let s (l : List Byte) (c : Ctx) : State := { T.turn T.stand with ctxs := [(0, { c with splits := [(0, { T.stand with line := some l })] })] }
    let late := { bootCtx with res := [(0, { writes := [.v 0 4 5], flag := none })] }
    let reads (f : State → Ctx → Split → Instr → Instr → Bool) (w : State) (d : Ctx) (q : Split) (bs : List Byte) (n : Nat) : Bool :=
      pairFirst bs (q.inLine.getD n) n && (w.pairFault 0 0 d q bs n).isNone &&
        (match slotInstr bs n, slotInstr bs (n + 1) with | .ok i, .ok j => f w d q i j | _, _ => false)
    T.begins (s (T.pairs T.wAdd) bootCtx) 0 (fun w d q bs n => pairFirst bs (q.inLine.getD n) n && (w.pairFault 0 0 d q bs n).isSome) = true ∧
    T.begins (s (T.pairs T.wHadd) bootCtx) 0 (reads fun w d q i j => !d.interlocked i && !d.interlocked j &&
      (w.holdOf exec j 0 0 (nextPc q.pc)).isNone) = true ∧
    T.begins (s (T.pairs T.wHadd) late) 0 (reads fun _ d _ i j => !d.interlocked i && d.interlocked j) = true ∧
    T.begins (s (T.pairs T.wLd) { bootCtx with gPt := 1000 }) 0 (reads fun w _ q _ j => w.holdOf exec j 0 0 (nextPc q.pc) = some .gate) = true ∧
    T.begins (s (T.pairs (0x07800000 * 2 ^ 64)) bootCtx) 0 (fun w d q bs n => pairFirst bs (q.inLine.getD n) n &&
      (w.pairFault 0 0 d q bs n).isSome) = true ∧
    T.begins (s (T.lineOf (List.replicate 5 (0x07800000 * 2 ^ 64)) 0) bootCtx) 0 (fun _ _ q bs n => !pairFirst bs (q.inLine.getD n) n &&
      (match slotInstr bs n with | .error _ => true | .ok _ => false)) = true ∧
    (match step (s (T.pairs T.wHadd) bootCtx) with
     | .next t => (t.ctxs.find? 0).any (fun c => (c.splits.find? 0).any (fun sp => decide (sp.pc = 24)))
     | _ => false) = true := by decide
/-- StepRunsDecoded: at its reconvergence address a split looks at join.t alone; and a group's line waits for a flag. -/
theorem witness_at_join :
    let s (w : Nat) : State := T.turn { T.stand with line := some (T.lineOf [w, w, w, w, w] 0), wait := .atJoin 0 }
    let c := { T.group with flags := [(0, 1)], splits := [(0, { pc := 0, mask := 1, line := some (T.lineOf (List.replicate 5 T.wAdd) (2 ^ 8)) })] }
    let l := { T.lane with agenda := [.issue (ctxKey 0 0) 0], ctxs := [(ctxKey 0 0, c)] }
    [T.wJoin, T.wAdd].map (fun w => T.begins (s w) 0 (fun _ _ q bs n => decide (q.wait = .atJoin 0) && (match slotInstr bs n with
      | .ok (.joinT _) => true | _ => false))) = [true, false] ∧ T.begins (s T.wAdd) 0 (fun _ _ q _ _ => decide (q.wait = .atJoin 0)) = true ∧
    T.begins l (ctxKey 0 0) (fun _ _ _ _ _ => true) = false ∧
    T.begins { l with ctxs := [(ctxKey 0 0, { c with flags := [] })] } (ctxKey 0 0) (fun _ _ _ _ _ => true) = true := by decide

/-- BarriersAndQueue: one arrival of one, and the last of two. -/
theorem witness_phase : (({} : Bar).arrive 1).phase = true ∧ ((({} : Bar).arrive 2).arrive 9).phase = true ∧ (({} : Bar).arrive 2).phase = false ∧
    (({} : Bar).arrive 2).arr = 1 := by decide

/-- TreeShape: a tree of three nodes, to which a leaf is added, of which the last is accepted, and which is pruned. -/
theorem witness_tree_shape : ({ nodes := [T.node, T.node, { T.node with parent := 1 }] } : Tree).shape := by
  constructor
  · decide
  · intro i h
    have : i = 0 ∨ i = 1 ∨ i = 2 := by simp at h; omega
    rcases this with rfl | rfl | rfl <;> decide

/-- SelWrites: each destination: the last pair, with a predicate that is false in lane 0 as c; an index register; the cox's last
register in its one lane; and a predicate. -/
theorem witness_sel : T.iss T.lane (.sel { d := .v 254, a := .v 0, b := .v 2, c := .pred 3 } .b64) (fun x =>
      decide (x.rd T.lane 0 32 .zero .c = 0)) = true ∧
    T.iss T.host (.sel { d := .vix 1 3, a := .v 0, b := .v 2, c := .pred 7 } .b32) (fun x =>
      x.part.getLsbD 0 && decide (x.rd T.host 0 32 .zero .c = 1) && (ixReg (x.c.rix 0 1) 3 32 x.c.seg).isSome) = true ∧
    T.iss T.cox (.sel { d := .s 63, a := .s 0, b := .imm, c := .zero } .b64) (fun x => decide (x.part = 1)) = true ∧
    T.can T.lane [.sel { d := .pred 6, a := .v 0, b := .v 2, c := .v 1 } .b32] = true := by decide

/-- LeaseConfigWrite: the last device in DETERMINISTIC mode and not; a value that keeps the order at its ends and one that breaks it. -/
theorem witness_lease_config :
    let w (v : Nat) : RegW := { dev := 0, off := cacheB + 0x80 * 63 + 0x40, val := BitVec.ofNat 64 v }
    let det := { T.host with sys := [(pslot 63, 0x10003)] }
    let s := { T.host with sys := [(pslot 63, 3)] }
    (s.mayWrite (w 0xAAA) = true ∧ det.mayWrite (w 0x1000) = true) ∧ (s.mode 63 = 0 ∧ det.mode 63 = 1) ∧
    T.after s (.registerWrite (w 0x1AAA)) (fun t => decide (t.leaseCfg 63 = (10, 10, 10, true))) = true ∧
    T.after s (.registerWrite (w 0xAB0)) (fun t => decide (t.reg (w 0).off = 0x4A0)) = true := by decide

/-- MemoryStaysCanonical: a state that steps, with memory in canonical form. -/
theorem witness_canonical : Memory.wf (T.turn T.stand).ms.mem ∧ ∃ t, (T.turn T.stand).stepsTo t := by
  refine ⟨by decide, ?_⟩
  have h : (match step (T.turn T.stand) with | .next _ => true | _ => false) = true := by decide
  unfold State.stepsTo
  revert h
  cases step (T.turn T.stand) <;> simp

/-! ### Worked values of the spec -/

/-- A group of 32 lanes of which those of a mask take part, with v4 of lane l as given and v5 of every lane. -/
def T.lanes (m : Mask) (a : Nat → Nat) (b : Nat) : State :=
  { T.lane with ctxs := [(ctxKey 0 0, { T.group with
      p := [(0, m)]
      v := (List.range 32).flatMap (fun l => [(256 * l + 4, BitVec.ofNat 32 (a l)), (256 * l + 5, BitVec.ofNat 32 b)]) })] }
/-- A register of a lane after the instruction, its results landed. -/
def T.gives (s : State) (i : Instr) (l n : Nat) : Nat :=
  match exec i s with
  | .next t => (match t.ctxs.find? s.cur.1 with | some c => ((c.res.foldl (fun c r => c.applyAll r.2.writes) c).rv l n).toNat | none => 0)
  | _ => 0
/-- D is v8, A v4, B v5, under p0. -/
def T.op1 : Opr := { gp := 0, d := .v 8, a := .v 4 }
def T.op2 : Opr := { T.op1 with b := .v 5 }

/-- R236: bits 12 to 8 of 0x1F00. -/
theorem test_bfx : [Ty.s32, .n32].map (fun t => T.gives (T.lanes 1 (fun _ => 0x1F00) 0x0508) (.bfx T.op2 t) 0 8) = [0xFFFFFFFF, 0x1F] := by decide
/-- R238: 400 as an .s8, and 4,294,967,280 as an .n8. -/
theorem test_mov : T.gives (T.lanes 1 (fun _ => 400) 0) (.mov T.op1 .s8) 0 8 = 0x7F ∧
    T.gives (T.lanes 1 (fun _ => 0xFFFFFFF0) 0) (.mov T.op1 .n8) 0 8 = 0xFF := by decide
/-- R216, R221: 300.0, 304.0, 500.0, +Inf and NaN to E4M3 under RNE, and 304.0 under RZ, in byte 2. -/
theorem test_fcvt : [0x43960000, 0x43980000, 0x43FA0000, 0x7F800000, 0x7FC00001].map (fun x =>
    T.gives (T.lanes 1 (fun _ => x) 0) (.fcvt T.op1 .e4m3 .f32 .rne 2) 0 8) = [0x790000, 0x7A0000, 0x7E0000, 0x7E0000, 0x7F0000] ∧
    T.gives (T.lanes 1 (fun _ => 0x43980000) 0) (.fcvt T.op1 .e4m3 .f32 .rz 2) 0 8 = 0x790000 := by decide
/-- R217: the first stochastic step of lane 0 rounds 300.0 down. -/
theorem test_fcvt_sr : T.gives (T.lanes 1 (fun _ => 0x43960000) 0) (.fcvt T.op1 .e4m3 .f32 .sr 0) 0 8 = 0x79 := by decide
/-- R227: bit 320 alone is 1.0. -/
theorem test_karead :
    let s := { T.lane with ctxs := [(ctxKey 0 0, { T.group with p := [(0, 1)], ka := BitVec.ofNat 640 (2 ^ 320) })] }
    T.gives s (.karead { gp := 0, d := .v 8 } .f32 .rne) 0 8 = 0x3F800000 := by decide
/-- R266: .rot, .rev and .swp over 100 + l. -/
theorem test_perm :
    let f (m : PermMode) (b : Nat) (n : Nat) : List Nat := (List.range n).map (fun l => T.gives (T.lanes 0xFFFFFFFF (100 + ·) b) (.perm T.op2 .b32 m) l 8)
    f .rot 10 4 = [101, 102, 103, 100] ∧ f .rev 3 2 = [107, 106] ∧ f .swp 13 4 = [102, 103, 100, 101] := by decide
/-- R268: 2^24 + 1 + 1 is rounded once; the exclusive prefixes; segments of two. -/
theorem test_lred :
    let a (l : Nat) : Nat := if l = 0 then 0x4B800000 else 0x3F800000
    let f (i : Instr) (b : Nat) : List Nat := [0, 1, 2].map (fun l => T.gives (T.lanes 7 a b) i l 8)
    f (.lred T.op2 .f32 .add) 5 = [0x4B800001, 0x4B800001, 0x4B800001] ∧ f (.lpre T.op2 .f32 .add) 13 = [0, 0x4B800000, 0x4B800000] ∧
    f (.lred T.op2 .f32 .add) 1 = [0x4B800000, 0x4B800000, 0x3F800000] := by decide
/-- R244: ix1 = 0x000E_1040 and then −14. -/
theorem test_ixinc :
    let s := { T.lane with ctxs := [(ctxKey 0 0, { T.group with ix := [(1, 0x000E1040)] })] }
    T.after s (.ixinc { d := .ix 1, a := .imm, imm := 0xFFFFFFF2 }) (fun t => (t.ctxs.find? (ctxKey 0 0)).any (fun c => decide (c.rix 0 1 = 0x1040))) = true := by
  decide
/-- R4: 0x1234_ABCD at 0x1000. -/
theorem test_byte_order : (T.host.wrBytes 0 0x1000 (leBytes 4 0x1234ABCD)).rdByte 0 0x1000 = 0xCD ∧
    (T.host.wrBytes 0 0x1000 (leBytes 4 0x1234ABCD)).rdByte 0 0x1003 = 0x12 := by decide
/-- R20, R23: the walk of 0x0012_3456_789A_BCDE in address space 0x41. -/
theorem test_walk :
    let bytes (pa x : Nat) : List Host.Cell := ((List.range 8).map (fun i => (pa + i, BitVec.ofNat 8 (x / 256 ^ i)))).filter (fun p => p.2 ≠ 0)
    let s := { T.host with
      sys := [(0, 0x8000000000080000)]
      part := { State.reset.part with keys := SMap.put State.reset.part.keys 5 { mode := 2 } }
      ms := { mem := bytes 0x80208 0x200010001 ++ bytes 0x10000890 0x10002001 ++ bytes 0x10002340 0x10003001 ++ bytes 0x10003AC8 0x10004001
                ++ bytes 0x10004E20 0x10005101 ++ bytes 0x100051D0 0x00500057_3A406037 } }
    (match (s.walk 65 0x123456789ABCDE .load false).2 with | .ok t => t.pa == 0x573A40BCDE && t.key == 5 | _ => false) = true ∧
    (match s.walk 65 0x123456789ABCDE .store false with | (t, .ok _) => t.physRd 0x100051D0 8 == 0x005000573A406077 | _ => false) = true := by decide
/-- R138: KvHash of (7, 3) and (8, 3). -/
theorem test_kv_hash :
    let d : KvDesc := { ptr := 0, tbase := 0, obase := 0, kvbase := 0, lnb := 12, lbs := 4, nov := 16, seed := 0x55, bstride := 1, ofree := 1 }
    kvHash d 7 3 = 124 ∧ kvHash d 8 3 = 4025 := by decide
/-- R149 to R151: a tree of seven nodes, its masks, and its prune after 6 and 4 are accepted. -/
theorem test_tree :
    let t : Tree := { base := 1000, nodes := [0, 0, 0, 1, 1, 2, 3].map (fun p => { T.node with parent := p }) }
    let p := ((t.acceptNode 6).acceptNode 4).prune
    (List.range 7).map t.mask = [1, 3, 5, 0xB, 0x13, 0x25, 0x4B] ∧ (List.range 7).map t.pos = [1000, 1001, 1001, 1002, 1002, 1002, 1003] ∧
    p.1.base = 1001 ∧ (List.range 4).map p.1.mask = [1, 3, 5, 0xB] ∧
    p.2.2 = [0x1000003E9, 0x10300000001, 0x10400000002, 0x10600000003] := by decide
/-- R371: the first four words of a trap record. -/
theorem test_trap_record :
    let c := { T.group with dev := 5 }
    let r := T.lane.trapRec 999 c 0x0000001000020018 0 0 { cause := .page, level := 4, addr := 0x0012345678AA0100, lmask := 0xFF000000, pmask := 0xFFFFFFFF }
    [0, 8, 16, 24].map (fun o => leNat ((r.drop o).take 8)) =
      [0x0041000500040008, 0x0000001000020018, 0x0012345678AA0100, 0xFFFFFFFFFF000000] := by decide
/-- R358: the rounded ranges of the launches L1 to L3. -/
theorem test_ranges :
    let w (r : Nat × Nat) : LRec := { ranges := [(0, 0), (0, 0), (0, 0), (0, 0), r] }
    let l1 := w (0x1010, 0x100)
    l1.conflicts { ranges := [(0x11F8, 8)] } = true ∧ l1.conflicts { ranges := [(0x1200, 0x40)] } = false := by decide
/-- R185: a result that has landed since the last issue: an operand reads the new value or the old one, and no other register but those. -/
theorem test_early :
    let c := { T.group.land [.v 0 9 5] with v := [(9, 5)] }
    T.group.olds = [] ∧ (c.rv 0 9 = 5 ∧ c.olds = [.v 0 9 0]) ∧ T.group.asRead [] 3 0 = T.group := by decide
/-- R406: AES-256 under the key 00 to 1F of the block 00, 11 to FF (FIPS 197, appendix C.3). -/
theorem test_aes : aesEnc (aesKeys ((List.range 32).map (BitVec.ofNat 8))) ((List.range 16).map (fun i => BitVec.ofNat 8 (i * 17)))
    = [0x8e, 0xa2, 0xb7, 0xca, 0x51, 0x67, 0x45, 0xbf, 0xea, 0xfc, 0x49, 0x90, 0x4b, 0x49, 0x60, 0x89] := by decide
end

/-! SUPPORT. A plain write of LEASECFG (R73): which register it is, what the write leaves in it, and what grants then read. -/

namespace Sys2Proof.Machine

/-! ### Fields of a masked write -/

theorem testBit_bits (x lo n i : Nat) : (bits x lo n).testBit i = (decide (i < n) && x.testBit (lo + i)) := by
  rw [bits, Nat.testBit_mod_two_pow, Nat.testBit_div_two_pow, Nat.add_comm]

theorem bitOf_eq_testBit (x lo : Nat) : bitOf x lo = x.testBit lo := by
  simp [bitOf, bits, Nat.testBit_eq_decide_div_mod_eq]

/-- A word of 64 bits of which a write changes the low k bits alone. -/
def lowWrite (k old x : Nat) : Nat := (old &&& (2 ^ 64 - 1 - (2 ^ k - 1))) ||| (x &&& (2 ^ k - 1))

theorem lowMask_lt {k : Nat} (hk : k ≤ 64) : 2 ^ k - 1 < 2 ^ 64 :=
  Nat.lt_of_lt_of_le (Nat.sub_lt (Nat.two_pow_pos k) (by decide)) (Nat.pow_le_pow_right (by decide) hk)

theorem lowWrite_lt {k : Nat} (hk : k ≤ 64) (old x : Nat) : lowWrite k old x < 2 ^ 64 :=
  Nat.or_lt_two_pow (Nat.and_lt_two_pow _ (by omega)) (Nat.and_lt_two_pow _ (lowMask_lt hk))

/-- The low k bits are the written ones. -/
theorem testBit_lowWrite {k i : Nat} (hk : k ≤ 64) (hi : i < k) (old x : Nat) : (lowWrite k old x).testBit i = x.testBit i := by
  have hmask : (2 ^ k - 1).testBit i = true := by simpa [Nat.testBit_two_pow_sub_one] using hi
  have hkeep : (2 ^ 64 - 1 - (2 ^ k - 1)).testBit i = false := by
    rw [Nat.sub_sub, Nat.add_comm 1, Nat.testBit_two_pow_sub_succ (lowMask_lt hk), hmask, Bool.not_true, Bool.and_false]
  rw [lowWrite, Nat.testBit_or, Nat.testBit_and, Nat.testBit_and, hmask, hkeep, Bool.and_false, Bool.false_or, Bool.and_true]

theorem bits_lowWrite {k lo n : Nat} (hk : k ≤ 64) (h : lo + n ≤ k) (old x : Nat) : bits (lowWrite k old x) lo n = bits x lo n := by
  refine Nat.eq_of_testBit_eq fun i => ?_
  rw [testBit_bits, testBit_bits]
  by_cases hi : i < n
  · rw [testBit_lowWrite hk (by omega)]
  · simp [hi]

/-! ### The register -/

/-- The offset of the LEASECFG of a device (R72, R81). -/
def leaseReg (v : Nat) : Nat := cacheB + 0x80 * v + 0x40

/-- What R73 asks of a value of LEASECFG: LMIN ≤ LDEF ≤ LMAX ≤ 10. -/
abbrev leaseOrder (x : Nat) : Prop := bits x 0 4 ≤ bits x 8 4 ∧ bits x 8 4 ≤ bits x 4 4 ∧ bits x 4 4 ≤ 10

theorem blockAt_cacheB {r : Nat} (h : r < 0x2000) : blockAt (cacheB + r) = (cacheB, r) := by
  have hfind : sysBlocks.find? (fun b => decide (b.1 ≤ cacheB + r ∧ cacheB + r < b.1 + b.2)) = some (cacheB, 0x2000) := by
    have h0 : ¬cacheB + r < 0x10000 := by unfold cacheB; omega
    have ht : ¬cacheB + r < tierB + 0x20000 := by unfold cacheB tierB; omega
    simp [sysBlocks, h0, ht, h]
  rw [blockAt, hfind]
  simp

section
variable {v : Nat} (hv : v < 64)
include hv

theorem blockAt_leaseReg : blockAt (leaseReg v) = (cacheB, 0x80 * v + 0x40) := by
  rw [leaseReg, Nat.add_assoc]
  exact blockAt_cacheB (by omega)

theorem rwMask_leaseReg : rwMask (leaseReg v) = 2 ^ 13 - 1 := by
  rw [rwMask, blockAt_leaseReg hv]
  have hr : (0x80 * v + 0x40) % 0x80 = 0x40 := by omega
  simp [cacheB, tierB, hr]

/-- R73: LMIN, LMAX, LDEF and FIXED as written if they keep the order, else the register's previous value. -/
theorem State.rwValue_leaseReg (s : State) (x : Nat) : s.rwValue (leaseReg v) x =
    if leaseOrder x then lowWrite 13 (s.reg (leaseReg v)).toNat x else (s.reg (leaseReg v)).toNat := by
  have hoff : leaseReg v ≠ tierB + 0x20 := by unfold leaseReg cacheB tierB; omega
  have hr : cacheB = cacheB ∧ (0x80 * v + 0x40) % 0x80 = 0x40 := ⟨rfl, by omega⟩
  rw [State.rwValue, blockAt_leaseReg hv, rwMask_leaseReg hv]
  dsimp only
  rw [if_neg hoff, if_pos hr, ← lowWrite]
  simp (disch := decide) only [bits_lowWrite]

theorem State.budgetPart_leaseReg (s : State) {w : RegW} (hw : w.off = leaseReg v) : s.budgetPart w = s := by
  rw [State.budgetPart, hw, blockAt_leaseReg hv]
  simp [cacheB, tierB]

theorem State.afterWrite_leaseReg (s : State) (old new : Nat) : s.afterWrite (leaseReg v) old new = s := by
  rw [State.afterWrite, blockAt_leaseReg hv]
  simp [cacheB, tierB, trapB, partB]

/-- A permitted write of LEASECFG sets that register alone. -/
theorem exec_registerWrite_leaseReg {s : State} {w : RegW} (hw : w.off = leaseReg v) (hmay : s.mayWrite w = true) :
    exec (.registerWrite w) s = .next (s.setReg w.off (BitVec.ofNat 64 (s.rwValue w.off w.val.toNat))) := by
  have hmb : leaseReg v ≠ mbB := by unfold leaseReg cacheB mbB; omega
  have hkey : ¬(cacheB = partB ∧ 0x80 * v + 0x40 < 0x2000) := fun h => absurd h.1 (by decide)
  show execRegisterWrite w s = _
  simp only [execRegisterWrite, hw, blockAt_leaseReg hv, hmay, hmb, hkey, State.budgetPart_leaseReg hv s hw,
    State.afterWrite_leaseReg hv, Bool.not_true, Bool.false_eq_true, if_false]

/-- The register after a write that keeps the order. -/
theorem State.reg_write_leaseReg (s : State) {x : Nat} (hx : leaseOrder x) :
    ((s.setReg (leaseReg v) (BitVec.ofNat 64 (s.rwValue (leaseReg v) x))).reg (leaseReg v)).toNat =
      lowWrite 13 (s.reg (leaseReg v)).toNat x := by
  rw [State.reg_setReg_same, State.rwValue_leaseReg hv, if_pos hx, BitVec.toNat_ofNat, Nat.mod_eq_of_lt (lowWrite_lt (by decide) _ _)]
end

/-- A device's mode stands in its partition slot, which no write of LEASECFG reaches: slots start at multiples of 0x80, LEASECFG is
0x40 past one. -/
theorem State.mode_setReg_leaseReg (s : State) (v d : Nat) (x : Word64) : (s.setReg (leaseReg v) x).mode d = s.mode d := by
  have hne : pslot d ≠ leaseReg v := by unfold pslot leaseReg partB cacheB; omega
  rw [State.mode, State.fld, State.reg_setReg_ne s x hne]; rfl

/-! ### What grants read of it -/

theorem State.leaseCfg_full {s : State} {v : Nat} (hm : s.mode v = 0) :
    s.leaseCfg v = (bits (s.reg (leaseReg v)).toNat 0 4, bits (s.reg (leaseReg v)).toNat 4 4,
      bits (s.reg (leaseReg v)).toNat 8 4, bitOf (s.reg (leaseReg v)).toNat 12) := by
  simp [State.leaseCfg, leaseReg, hm]

/-- DETERMINISTIC mode reads FIXED as 1 (R73). -/
theorem State.leaseCfg_deterministic {s : State} {v : Nat} (hm : s.mode v = 1) :
    s.leaseCfg v = (bits (s.reg (leaseReg v)).toNat 0 4, bits (s.reg (leaseReg v)).toNat 4 4,
      bits (s.reg (leaseReg v)).toNat 8 4, true) := by
  simp [State.leaseCfg, leaseReg, hm]

/-- A fixed class is LDEF whatever class the line has come to (R71). -/
theorem State.grantLease_fixed {s : State} {v lmin lmax ldef : Nat} (hc : s.leaseCfg v = (lmin, lmax, ldef, true))
    (l limit : Nat) : (s.grantLease v l limit).2 = Nat.min (s.pt + 64 * 2 ^ ldef) limit := by
  simp [State.grantLease, hc]

/-- Settles O56: a write of LEASECFG sets that register alone, to the written fields if they keep the order and to what it held if
not; the grants that follow read their classes there. -/
theorem leaseConfigWrite : Obligations.LeaseConfigWrite := by
  intro s w v l limit hv hw hmay
  dsimp only
  change w.off = leaseReg v at hw
  have hexec := exec_registerWrite_leaseReg hv hw hmay
  rw [hw] at hexec ⊢
  refine ⟨_, hexec, rfl, fun hbad => ?_, fun hgood hm => ?_, fun hgood hm => ?_, fun hm => ?_⟩
  · rw [State.reg_setReg_same, State.rwValue_leaseReg hv, if_neg hbad, BitVec.ofNat_toNat, BitVec.setWidth_eq]
  · rw [State.leaseCfg_full ((State.mode_setReg_leaseReg s v v _).trans hm), State.reg_write_leaseReg hv s hgood,
      bitOf_eq_testBit, testBit_lowWrite (by decide) (by decide)]
    simp (disch := decide) only [bits_lowWrite]
  · rw [State.grantLease_fixed (State.leaseCfg_deterministic ((State.mode_setReg_leaseReg s v v _).trans hm)),
      State.reg_write_leaseReg hv s hgood, bits_lowWrite (by decide) (by decide)]
  · rw [State.leaseCfg_deterministic hm]

end Sys2Proof.Machine

/-! SUPPORT. What an instruction that computes lane by lane completes with (R185, R229), and class 000's arithmetic (R232, R233). -/

namespace Sys2Proof.Machine

/-! ### Completion -/

section
variable {s : State} {i : Instr} {x : Iss} {w : Nat} {sgn : Bool} {v : Nat → Nat} {f : State → Iss → Nat → List RW}

/-- Results that are available at once land in D (R185). -/
theorem State.lanewise_lands (h : s.issues i = some x) (hf : ∀ l, f s x l = x.wr l w sgn (v l)) :
    s.lanewise i f = .next (s.lands x w sgn v) := by
  have hws : x.laneWrites (f s x) = x.results w sgn v := congrArg (List.flatMap · _) (funext hf)
  rw [State.lanewise, State.issue_issues h, hws]
  rfl

/-- Results of variable latency are due in D (R185). -/
theorem State.lanewiseVar_owes (h : s.issues i = some x) (hf : ∀ l, f s x l = x.wr l w sgn (v l)) :
    s.lanewiseVar i f = .next (s.owes x w sgn v) := by
  have hws : x.laneWrites (f s x) = x.results w sgn v := congrArg (List.flatMap · _) (funext hf)
  rw [State.lanewiseVar, State.issue_issues h, hws]
  rfl

end

/-! ### What the instructions of class 000 stand for -/

theorem exec_add (s : State) (o : Opr) (t : Ty) (sat : Bool) : exec (.add o t sat) s = execAdd o t sat s := rfl
theorem exec_sub (s : State) (o : Opr) (t : Ty) (sat : Bool) : exec (.sub o t sat) s = execSub o t sat s := rfl
theorem exec_mul (s : State) (o : Opr) (t : Ty) (sat : Bool) : exec (.mul o t sat) s = execMul o t sat s := rfl
theorem exec_mad (s : State) (o : Opr) (t : Ty) (sat : Bool) : exec (.mad o t sat) s = execMad o t sat s := rfl
theorem exec_mulhi (s : State) (o : Opr) (t : Ty) : exec (.mulhi o t) s = execMulhi o t s := rfl
theorem exec_abs (s : State) (o : Opr) (t : Ty) (sat : Bool) : exec (.abs o t sat) s = execAbs o t sat s := rfl
theorem exec_neg (s : State) (o : Opr) (t : Ty) (sat : Bool) : exec (.neg o t sat) s = execNeg o t sat s := rfl
theorem exec_min (s : State) (o : Opr) (t : Ty) : exec (.min o t) s = execMin o t s := rfl
theorem exec_max (s : State) (o : Opr) (t : Ty) : exec (.max o t) s = execMax o t s := rfl
theorem exec_div (s : State) (o : Opr) (t : Ty) : exec (.div o t) s = execDiv o t s := rfl
theorem exec_rem (s : State) (o : Opr) (t : Ty) : exec (.rem o t) s = execRem o t s := rfl

/-! ### Integers of W bits -/

theorem Ty.width_pos (t : Ty) : 0 < t.width := by cases t <;> decide

theorem wrap_eq_toNat_ofInt (w : Nat) (i : Int) : wrap w i = (BitVec.ofInt w i).toNat := (BitVec.toNat_ofInt i).symm

theorem wrap_lt (w : Nat) (i : Int) : wrap w i < 2 ^ w := by
  rw [wrap_eq_toNat_ofInt]; exact BitVec.isLt _

theorem wrap_cast (w : Nat) (i : Int) : (wrap w i : Int) = i % 2 ^ w := by
  rw [wrap, Int.toNat_of_nonneg (Int.emod_nonneg i (Int.natCast_ne_zero.mpr (Nat.two_pow_pos w).ne')), Nat.cast_pow, Nat.cast_ofNat]

theorem wrap_zero (w : Nat) : wrap w 0 = 0 := by simp [wrap]

/-- Two's complement is the signed value of a bit vector (R210). -/
theorem sx_eq_toInt {w a : Nat} (hw : 0 < w) (ha : a < 2 ^ w) : sx w a = (BitVec.ofNat w a).toInt := by
  obtain ⟨k, rfl⟩ : ∃ k, w = k + 1 := ⟨w - 1, by omega⟩
  rw [BitVec.toInt_eq_toNat_cond, BitVec.toNat_ofNat, Nat.mod_eq_of_lt ha, sx, Nat.add_sub_cancel, Nat.pow_succ]
  exact if_congr (by omega) rfl rfl

theorem sx_wrap {w : Nat} (hw : 0 < w) (i : Int) : sx w (wrap w i) = i.bmod (2 ^ w) := by
  rw [sx_eq_toInt hw (wrap_lt w i), wrap_eq_toNat_ofInt, BitVec.ofNat_toNat, BitVec.setWidth_eq, BitVec.toInt_ofInt]

/-- A value of the type's range is read back as it is (R210, R232). -/
theorem intVal_wrap {t : Ty} {w : Nat} {i : Int} (hw : 0 < w) (hlo : minOf t.signed w ≤ i) (hhi : i ≤ maxOf t.signed w) :
    intVal t w (wrap w i) = i := by
  cases hs : t.signed with
  | true =>
    obtain ⟨k, rfl⟩ : ∃ k, w = k + 1 := ⟨w - 1, by omega⟩
    simp only [hs, minOf, maxOf, if_true, Nat.add_sub_cancel] at hlo hhi
    rw [intVal, hs, if_pos rfl, sx_wrap hw]
    exact Int.bmod_eq_of_le_mul_two (by rw [Nat.pow_succ]; omega) (by rw [Nat.pow_succ]; omega)
  | false =>
    simp only [hs, minOf, maxOf, Bool.false_eq_true, if_false] at hlo hhi
    rw [intVal, hs, if_neg Bool.false_ne_true, wrap_cast]
    exact Int.emod_eq_of_lt hlo (by push_cast at hhi; omega)

theorem minOf_le_maxOf (sgn : Bool) (w : Nat) : minOf sgn w ≤ maxOf sgn w := by
  have h1 : 0 < 2 ^ (w - 1) := Nat.two_pow_pos _
  have h2 : 0 < 2 ^ w := Nat.two_pow_pos _
  cases sgn
  · simp only [minOf, maxOf, Bool.false_eq_true, if_false]; omega
  · simp only [minOf, maxOf, if_true]; omega

/-- Saturation clamps to the range (R220). -/
theorem satTo_eq_clamp (sgn : Bool) (w : Nat) (i : Int) : satTo sgn w i = max (minOf sgn w) (min (maxOf sgn w) i) := by
  have h := minOf_le_maxOf sgn w
  unfold satTo
  split <;> [skip; split] <;> omega

theorem satTo_mem (sgn : Bool) (w : Nat) (i : Int) : minOf sgn w ≤ satTo sgn w i ∧ satTo sgn w i ≤ maxOf sgn w := by
  have h := minOf_le_maxOf sgn w
  rw [satTo_eq_clamp]
  omega

/-- Fit with SAT, read back, is the exact result clamped to the type's range (R220, R232). -/
theorem intVal_fit_sat (t : Ty) (i : Int) :
    intVal t t.width (fit t true i) = max (minOf t.signed t.width) (min (maxOf t.signed t.width) i) := by
  obtain ⟨hlo, hhi⟩ := satTo_mem t.signed t.width i
  rw [← satTo_eq_clamp]
  exact intVal_wrap (Ty.width_pos t) hlo hhi

/-- −2^(W−1) has no negative among W bits: its pattern is its own negative (R232, R233). -/
theorem intVal_wrap_neg_least {t : Ty} {w : Nat} (hw : 0 < w) (hs : t.signed = true) :
    intVal t w (wrap w (-minOf true w)) = minOf true w := by
  obtain ⟨k, rfl⟩ : ∃ k, w = k + 1 := ⟨w - 1, by omega⟩
  have h : 0 < 2 ^ k := Nat.two_pow_pos k
  have hwrap : wrap (k + 1) (-minOf true (k + 1)) = 2 ^ k := by
    rw [minOf, if_pos rfl, neg_neg, Nat.add_sub_cancel, wrap, ← Int.natCast_mod, Int.toNat_natCast, Nat.pow_succ]
    exact Nat.mod_eq_of_lt (by omega)
  rw [hwrap, intVal, hs, if_pos rfl, sx, Nat.add_sub_cancel, if_neg (Nat.lt_irrefl _), minOf, if_pos rfl, Nat.add_sub_cancel,
    Nat.pow_succ]
  omega

/-- The absolute value as R232 writes it. -/
theorem natAbs_eq_ite (a : Int) : (a.natAbs : Int) = if a < 0 then -a else a := by
  split <;> omega

/-- The ends of the type's range as powers of two (R210). -/
theorem minOf_true (w : Nat) : minOf true w = -2 ^ (w - 1) := by simp [minOf]
theorem maxOf_true (w : Nat) : maxOf true w = 2 ^ (w - 1) - 1 := by simp [maxOf]
theorem minOf_false (w : Nat) : minOf false w = 0 := rfl
theorem maxOf_false (w : Nat) : maxOf false w = 2 ^ w - 1 := by simp [maxOf]

theorem minOf_eq_ite (sgn : Bool) (w : Nat) : minOf sgn w = if sgn = true then -2 ^ (w - 1) else 0 := by
  cases sgn
  · exact minOf_false w
  · exact minOf_true w

theorem maxOf_eq_ite (sgn : Bool) (w : Nat) : maxOf sgn w = if sgn = true then 2 ^ (w - 1) - 1 else 2 ^ w - 1 := by
  cases sgn
  · exact maxOf_false w
  · exact maxOf_true w

/-- Settles O1: each instruction lands its value lane by lane, and Fit's two cases are `wrap_cast` and `intVal_fit_sat`. -/
theorem integerArithmetic : Obligations.IntegerArithmetic := by
  intro s x o t sat
  dsimp only
  refine ⟨fun h => (exec_add ..).trans (State.lanewise_lands h fun _ => rfl),
    fun h => (exec_sub ..).trans (State.lanewise_lands h fun _ => rfl),
    fun h => (exec_mul ..).trans (State.lanewise_lands h fun _ => rfl),
    fun h => (exec_mad ..).trans (State.lanewise_lands h fun _ => rfl),
    fun h => (exec_mulhi ..).trans (State.lanewise_lands h fun _ => rfl),
    fun h => (exec_abs ..).trans (State.lanewise_lands h fun l => ?_),
    fun h => (exec_neg ..).trans (State.lanewise_lands h fun _ => rfl),
    fun h => (exec_min ..).trans (State.lanewise_lands h fun _ => rfl),
    fun h => (exec_max ..).trans (State.lanewise_lands h fun _ => rfl), fun _ i => ?_⟩
  · rw [natAbs_eq_ite]; rfl
  · rw [← minOf_eq_ite, ← maxOf_eq_ite]
    have hrange := minOf_le_maxOf t.signed t.width
    refine ⟨wrap_cast _ _, intVal_fit_sat t i, fun hs => ⟨?_, ?_⟩, fun hs hi => ?_⟩
    · rw [hs]; exact intVal_wrap_neg_least (Ty.width_pos t) hs
    · have hneg : maxOf t.signed t.width ≤ -minOf t.signed t.width := by
        rw [hs, maxOf_true, minOf_true]; omega
      rw [intVal_fit_sat]; omega
    · have hlow : satTo t.signed t.width i = 0 := by
        rw [satTo_eq_clamp]; rw [hs, minOf_false] at hrange ⊢; omega
      rw [fit, if_pos rfl, hlow, wrap_zero]

/-! ### Division (R233) -/

theorem tdiv_nonpos_of_nonpos_of_nonneg {a b : Int} (ha : a ≤ 0) (hb : 0 ≤ b) : a.tdiv b ≤ 0 := by
  have h := Int.tdiv_nonneg (Int.neg_nonneg_of_nonpos ha) hb
  rw [Int.neg_tdiv] at h
  omega

/-- A quotient towards zero is positive only when the signs agree. -/
theorem tdiv_pos_signs {a b : Int} (hq : 0 < a.tdiv b) : 0 < a ↔ 0 < b :=
  ⟨fun ha => Int.lt_of_not_ge fun hb => (Int.tdiv_nonpos_of_nonneg_of_nonpos ha.le hb).not_gt hq,
    fun hb => Int.lt_of_not_ge fun ha => (tdiv_nonpos_of_nonpos_of_nonneg ha hb.le).not_gt hq⟩

/-- A quotient towards zero is negative only when the signs differ. -/
theorem tdiv_neg_signs {a b : Int} (hq : a.tdiv b < 0) : 0 < a ↔ b < 0 :=
  ⟨fun ha => Int.lt_of_not_ge fun hb => (Int.tdiv_nonneg ha.le hb).not_gt hq,
    fun hb => Int.lt_of_not_ge fun ha => (Int.tdiv_nonneg_of_nonpos_of_nonpos ha hb.le).not_gt hq⟩

/-- The remainder has the dividend's sign (R233). -/
theorem tmod_nonpos {a : Int} (b : Int) (ha : a ≤ 0) : a.tmod b ≤ 0 := by
  have h := Int.tmod_nonneg b (Int.neg_nonneg_of_nonpos ha)
  rw [Int.neg_tmod] at h
  omega

/-- The quotient as R233 writes it. -/
theorem divVal_eq_ite (t : Ty) (a b : Int) : divVal t a b =
    if b = 0 then (if t.signed = true ∧ a < 0 then minOf t.signed t.width else maxOf t.signed t.width) else a.tdiv b := by
  simp only [divVal, Bool.and_eq_true, decide_eq_true_eq]

/-- Settles O2: the results are due as `lanewiseVar` says, and the quotient's signs, the remainder's sign and the least value divided by
−1 are facts of division towards zero. -/
theorem integerDivision : Obligations.IntegerDivision := by
  intro s x o t
  dsimp only
  refine ⟨fun h => (exec_div ..).trans (State.lanewiseVar_owes h fun l => ?_),
    fun h => (exec_rem ..).trans (State.lanewiseVar_owes h fun l => ?_),
    fun a b _ => ⟨⟨Int.natAbs_tdiv a b, tdiv_pos_signs, tdiv_neg_signs⟩, ?_⟩,
    fun _ hs => ⟨?_, ?_⟩, minOf_true _, maxOf_true _, maxOf_false _, by decide⟩
  · rw [← divVal_eq_ite]; rfl
  · rw [mul_comm]; rfl
  · rw [← Int.tmod_def]
    exact ⟨Int.tmod_nonneg b, tmod_nonpos b⟩
  · rw [Int.tdiv_neg, Int.tdiv_one]
    exact intVal_wrap_neg_least (Ty.width_pos t) hs
  · rw [Int.tdiv_neg, Int.tdiv_one, neg_mul_neg, one_mul, sub_self, wrap_zero]

end Sys2Proof.Machine

/-! SUPPORT. Bits, shifts, rotates and counts of class 000 (R234, R235). -/

namespace Sys2Proof.Machine

theorem exec_and (s : State) (o : Opr) (t : Ty) : exec (.and o t) s = execAnd o t s := rfl
theorem exec_or (s : State) (o : Opr) (t : Ty) : exec (.or o t) s = execOr o t s := rfl
theorem exec_xor (s : State) (o : Opr) (t : Ty) : exec (.xor o t) s = execXor o t s := rfl
theorem exec_not (s : State) (o : Opr) (t : Ty) : exec (.not o t) s = execNot o t s := rfl
theorem exec_shl (s : State) (o : Opr) (t : Ty) : exec (.shl o t) s = execShl o t s := rfl
theorem exec_shr (s : State) (o : Opr) (t : Ty) : exec (.shr o t) s = execShr o t s := rfl
theorem exec_sar (s : State) (o : Opr) (t : Ty) : exec (.sar o t) s = execSar o t s := rfl
theorem exec_rol (s : State) (o : Opr) (t : Ty) : exec (.rol o t) s = execRol o t s := rfl
theorem exec_ror (s : State) (o : Opr) (t : Ty) : exec (.ror o t) s = execRor o t s := rfl
theorem exec_popc (s : State) (o : Opr) (t : Ty) : exec (.popc o t) s = execPopc o t s := rfl
theorem exec_clz (s : State) (o : Opr) (t : Ty) : exec (.clz o t) s = execClz o t s := rfl
theorem exec_ctz (s : State) (o : Opr) (t : Ty) : exec (.ctz o t) s = execCtz o t s := rfl
theorem exec_brev (s : State) (o : Opr) (t : Ty) : exec (.brev o t) s = execBrev o t s := rfl

/-! ### Complement and shifts (R234) -/

theorem testBit_complement {w a : Nat} (ha : a < 2 ^ w) (i : Nat) :
    (2 ^ w - 1 - a).testBit i = (decide (i < w) && !a.testBit i) := by
  rw [Nat.sub_sub, Nat.add_comm 1, Nat.testBit_two_pow_sub_succ ha]

theorem testBit_shlVal (w a n i : Nat) : (shlVal w a n).testBit i = (decide (n ≤ i ∧ i < w) && a.testBit (i - n)) := by
  unfold shlVal
  split
  · rw [Nat.testBit_mod_two_pow, Nat.mul_comm, Nat.testBit_two_pow_mul, ← Bool.and_assoc, Bool.and_comm (decide (i < w)),
      ← Bool.decide_and]
  · rw [Nat.zero_testBit, decide_eq_false (by omega), Bool.false_and]

theorem testBit_shrVal (w a n i : Nat) : (shrVal w a n).testBit i = (decide (n < w) && a.testBit (i + n)) := by
  unfold shrVal
  split <;> rename_i hn
  · rw [Nat.testBit_div_two_pow, decide_eq_true hn, Bool.true_and]
  · rw [Nat.zero_testBit, decide_eq_false hn, Bool.false_and]

/-- A pattern shifted right by its width or more leaves copies of its sign alone. -/
theorem sx_div_of_width_le {w a n : Nat} (ha : a < 2 ^ w) (hn : w ≤ n) :
    sx w a / ((2 ^ n : Nat) : Int) = if a < 2 ^ (w - 1) then 0 else -1 := by
  have hpow : 2 ^ w ≤ 2 ^ n := Nat.pow_le_pow_right (by decide) hn
  unfold sx
  split
  · exact Int.ediv_eq_zero_of_lt (Int.natCast_nonneg a) (by omega)
  · exact ((Int.ediv_emod_unique (r := (a : Int) - (2 ^ w : Nat) + (2 ^ n : Nat)) (by omega)).mpr (by omega)).1

/-- sar is the arithmetic shift of a bit vector. -/
theorem sarVal_eq_sshiftRight {w a : Nat} (hw : 0 < w) (ha : a < 2 ^ w) (n : Nat) :
    sarVal w a n = ((BitVec.ofNat w a).sshiftRight n).toNat := by
  rw [BitVec.sshiftRight_eq, ← wrap_eq_toNat_ofInt, Int.shiftRight_eq_div_pow, ← sx_eq_toInt hw ha, sarVal]
  split
  · rfl
  · rw [sx_div_of_width_le ha (by omega)]

theorem testBit_sarVal {w a i : Nat} (hw : 0 < w) (ha : a < 2 ^ w) (hi : i < w) (n : Nat) :
    (sarVal w a n).testBit i = if i + n < w then a.testBit (i + n) else a.testBit (w - 1) := by
  have hbit {j : Nat} (hj : j < w) : (BitVec.ofNat w a).getLsbD j = a.testBit j := by
    rw [BitVec.getLsbD_ofNat, decide_eq_true hj, Bool.true_and]
  rw [sarVal_eq_sshiftRight hw ha, BitVec.testBit_toNat, BitVec.getLsbD_sshiftRight, decide_eq_false (by omega), Bool.not_false,
    Bool.true_and, BitVec.msb_eq_getLsbD_last, hbit (j := w - 1) (by omega), Nat.add_comm n]
  exact ite_congr rfl hbit fun _ => rfl

/-! ### Rotates (R234) -/

/-- W bits turned to the left by r places. -/
def turned (w a r : Nat) : Nat := a * 2 ^ r % 2 ^ w + a / 2 ^ (w - r)

theorem rolVal_eq_turned (w a n : Nat) : rolVal w a n = turned w a (n % w) := rfl

theorem rorVal_eq_turned {w : Nat} (hw : 0 < w) (a n : Nat) : rorVal w a n = turned w a (w - n % w) := by
  rw [turned, Nat.sub_sub_self (Nat.mod_lt n hw).le, Nat.add_comm]
  rfl

section
variable {w a r : Nat} (hr : r ≤ w) (ha : a < 2 ^ w)
include hr ha

theorem testBit_turned (j : Nat) :
    (turned w a r).testBit j = if j < r then a.testBit (j + (w - r)) else decide (j < w) && a.testBit (j - r) := by
  have hpow : 2 ^ w = 2 ^ r * 2 ^ (w - r) := by rw [← Nat.pow_add, Nat.add_sub_cancel' hr]
  have hlow : a / 2 ^ (w - r) < 2 ^ r := Nat.div_lt_of_lt_mul (by rwa [Nat.mul_comm, ← hpow])
  rw [turned, Nat.mul_comm, hpow, Nat.mul_mod_mul_left, Nat.testBit_two_pow_mul_add _ hlow, Nat.testBit_div_two_pow,
    Nat.testBit_mod_two_pow]
  split
  · rfl
  · rw [decide_eq_decide.mpr (by omega : j - r < w - r ↔ j < w)]

theorem turned_lt : turned w a r < 2 ^ w :=
  Nat.lt_pow_two_of_testBit _ fun j hj => by
    rw [testBit_turned hr ha, if_neg (by omega), decide_eq_false (by omega), Bool.false_and]

end

theorem add_mod_width {w i : Nat} (hi : i < w) (n : Nat) :
    (i + n) % w = if i + n % w < w then i + n % w else i + n % w - w := by
  rw [Nat.add_mod_eq_ite, Nat.mod_eq_of_lt hi, ← ite_not]
  exact if_congr (by omega) rfl rfl

theorem testBit_rolVal {w a i : Nat} (ha : a < 2 ^ w) (hi : i < w) (n : Nat) :
    (rolVal w a n).testBit ((i + n) % w) = a.testBit i := by
  have hr : n % w < w := Nat.mod_lt n (by omega)
  rw [rolVal_eq_turned, testBit_turned hr.le ha, add_mod_width hi]
  split
  · rw [if_neg (by omega), decide_eq_true ‹_›, Bool.true_and, Nat.add_sub_cancel]
  · rw [if_pos (by omega)]
    exact congrArg _ (by omega)

theorem testBit_rorVal {w a i : Nat} (ha : a < 2 ^ w) (hi : i < w) (n : Nat) :
    (rorVal w a n).testBit i = a.testBit ((i + n) % w) := by
  have hr : n % w < w := Nat.mod_lt n (by omega)
  rw [rorVal_eq_turned (by omega), testBit_turned (by omega) ha, add_mod_width hi, Nat.sub_sub_self hr.le, decide_eq_true hi,
    Bool.true_and, ← apply_ite]
  exact congrArg _ (ite_congr (propext (by omega)) (fun _ => rfl) fun _ => by omega)

/-- Settles O3: the results land lane by lane, and the bits of each are given by its `testBit_` lemma. -/
theorem bitOperations : Obligations.BitOperations := by
  intro s x o t
  dsimp only
  refine ⟨fun h => (exec_and ..).trans (State.lanewise_lands h fun _ => rfl),
    fun h => (exec_or ..).trans (State.lanewise_lands h fun _ => rfl),
    fun h => (exec_xor ..).trans (State.lanewise_lands h fun _ => rfl),
    fun h => (exec_not ..).trans (State.lanewise_lands h fun _ => rfl),
    fun h => (exec_shl ..).trans (State.lanewise_lands h fun _ => rfl),
    fun h => (exec_shr ..).trans (State.lanewise_lands h fun _ => rfl),
    fun h => (exec_sar ..).trans (State.lanewise_lands h fun _ => rfl),
    fun h => (exec_rol ..).trans (State.lanewise_lands h fun _ => rfl),
    fun h => (exec_ror ..).trans (State.lanewise_lands h fun _ => rfl), fun w a n hw ha => ?_⟩
  have hr : n % w ≤ w := (Nat.mod_lt n hw).le
  refine ⟨testBit_complement ha, testBit_shlVal w a n, testBit_shrVal w a n, fun _ hi => testBit_sarVal hw ha hi n,
    fun _ hi => testBit_rolVal ha hi n, fun _ hi => testBit_rorVal ha hi n, wrap_lt _ _, turned_lt hr ha, ?_⟩
  rw [rorVal_eq_turned hw]
  exact turned_lt (Nat.sub_le _ _) ha

/-! ### Counts and reversal (R235) -/

theorem popcVal_eq_length_filter (w a : Nat) : popcVal w a = ((List.range w).filter (fun i => a.testBit i)).length := by
  induction w generalizing a with
  | zero => rfl
  | succ w ih =>
    have hshift : (fun i => a.testBit i) ∘ Nat.succ = fun i => (a / 2).testBit i := funext fun i => Nat.testBit_succ a i
    rw [popcVal, ih, List.range_succ_eq_map, List.filter_cons, List.filter_map, hshift]
    rcases Nat.mod_two_eq_zero_or_one a with h | h <;> simp [h, Nat.add_comm]

theorem clzVal_of_highest {w a h : Nat} (ha : a < 2 ^ w) (hh : a.testBit h = true)
    (htop : ∀ i < w, h < i → a.testBit i = false) : clzVal w a = w - 1 - h := by
  have hge : 2 ^ h ≤ a := Nat.ge_two_pow_of_testBit hh
  have ha0 : a ≠ 0 := (Nat.lt_of_lt_of_le (Nat.two_pow_pos h) hge).ne'
  have hlt : a < 2 ^ (h + 1) := Nat.lt_pow_two_of_testBit _ fun i hi => by
    by_cases hiw : i < w
    · exact htop i hiw hi
    · exact Nat.testBit_lt_two_pow (Nat.lt_of_lt_of_le ha (Nat.pow_le_pow_right (by decide) (by omega)))
  rw [clzVal, if_neg ha0, (Nat.log2_eq_iff ha0).mpr ⟨hge, hlt⟩]

theorem ctzVal_zero (w : Nat) : ctzVal w 0 = w := by
  induction w with
  | zero => rfl
  | succ w ih => rw [ctzVal, if_neg (by decide), Nat.zero_div, ih, Nat.add_comm]

theorem ctzVal_of_lowest {w a h : Nat} (hw : h < w) (hh : a.testBit h = true) (hlow : ∀ i < h, a.testBit i = false) :
    ctzVal w a = h := by
  induction h generalizing w a with
  | zero =>
    obtain ⟨w, rfl⟩ := Nat.exists_eq_add_one.mpr hw
    rw [ctzVal, if_pos (by simpa using hh)]
  | succ h ih =>
    obtain ⟨w, rfl⟩ := Nat.exists_eq_add_one.mpr (Nat.zero_lt_of_lt hw)
    have hbit0 : ¬a % 2 = 1 := by simpa using hlow 0 (Nat.succ_pos h)
    have hrec : ctzVal w (a / 2) = h := ih (by omega) (by rwa [← Nat.testBit_succ])
      fun i hi => by rw [← Nat.testBit_succ]; exact hlow (i + 1) (by omega)
    rw [ctzVal, if_neg hbit0, hrec, Nat.add_comm]

theorem brevVal_lt (w a : Nat) : brevVal w a < 2 ^ w := by
  induction w generalizing a with
  | zero => exact Nat.one_pos
  | succ w ih =>
    have h := ih (a / 2)
    rw [brevVal, Nat.pow_succ]
    rcases Nat.mod_two_eq_zero_or_one a with h2 | h2 <;> rw [h2] <;> omega

theorem testBit_brevVal {w i : Nat} (hi : i < w) (a : Nat) : (brevVal w a).testBit (w - 1 - i) = a.testBit i := by
  induction w generalizing a i with
  | zero => omega
  | succ w ih =>
    rw [brevVal, Nat.mul_comm, Nat.testBit_two_pow_mul_add _ (brevVal_lt w (a / 2)), Nat.add_sub_cancel]
    cases i with
    | zero => simp
    | succ i =>
      rw [if_pos (by omega), Nat.testBit_succ, ← ih (by omega : i < w), Nat.sub_sub, Nat.add_comm 1]

/-- Settles O38: the results land lane by lane, and each count is proved along its recursion. -/
theorem bitCounts : Obligations.BitCounts := by
  intro s x o t
  dsimp only
  exact ⟨fun h => (exec_popc ..).trans (State.lanewise_lands h fun _ => rfl),
    fun h => (exec_clz ..).trans (State.lanewise_lands h fun _ => rfl),
    fun h => (exec_ctz ..).trans (State.lanewise_lands h fun _ => rfl),
    fun h => (exec_brev ..).trans (State.lanewise_lands h fun _ => rfl),
    fun w a _ ha => ⟨popcVal_eq_length_filter w a, if_pos rfl, ctzVal_zero w, fun _ _ => clzVal_of_highest ha,
      fun _ => ctzVal_of_lowest, fun _ hi => testBit_brevVal hi a, brevVal_lt w a⟩⟩

end Sys2Proof.Machine

/-! SUPPORT. Fields, selection, moves, addresses, comparisons and predicate logic of class 000 (R236 to R242). -/

namespace Sys2Proof.Machine

theorem exec_bfx (s : State) (o : Opr) (t : Ty) : exec (.bfx o t) s = execBfx o t s := rfl
theorem exec_bfi (s : State) (o : Opr) (t : Ty) : exec (.bfi o t) s = execBfi o t s := rfl
theorem exec_sel (s : State) (o : Opr) (t : Ty) : exec (.sel o t) s = execSel o t s := rfl
theorem exec_mov (s : State) (o : Opr) (t : Ty) : exec (.mov o t) s = execMov o t s := rfl
theorem exec_lea (s : State) (o : Opr) (t : Ty) (sh : BitVec 3) : exec (.lea o t sh) s = execLea o t sh s := rfl
theorem exec_cmp (s : State) (o : Opr) (t : Ty) (cc : Cond) : exec (.cmp o t cc) s = execCmp o t cc s := rfl
theorem exec_pand (s : State) (o : Opr) (nb : Bool) : exec (.pand o nb) s = execPand o nb s := rfl
theorem exec_por (s : State) (o : Opr) (nb : Bool) : exec (.por o nb) s = execPor o nb s := rfl
theorem exec_pxor (s : State) (o : Opr) (nb : Bool) : exec (.pxor o nb) s = execPxor o nb s := rfl
theorem exec_pnot (s : State) (o : Opr) : exec (.pnot o) s = execPnot o s := rfl

theorem bit_not (b : Bool) : bit (!b) = if b = true then 0 else 1 := by cases b <;> rfl

/-- Settles O4: each instruction lands its value lane by lane; the source of pnot is the one whose truth is turned round. -/
theorem selectMoveCompare : Obligations.SelectMoveCompare := by
  intro s x o t sh cc nb
  dsimp only
  exact ⟨fun h => (exec_bfx ..).trans (State.lanewise_lands h fun _ => rfl),
    fun h => (exec_bfi ..).trans (State.lanewise_lands h fun _ => rfl),
    fun h => (exec_sel ..).trans (State.lanewise_lands h fun _ => rfl),
    fun h => (exec_mov ..).trans (State.lanewise_lands h fun _ => rfl),
    fun h => (exec_lea ..).trans (State.lanewise_lands h fun _ => rfl),
    fun h => (exec_cmp ..).trans (State.lanewise_lands h fun _ => rfl),
    fun h => (exec_pand ..).trans (State.lanewise_lands h fun _ => rfl),
    fun h => (exec_por ..).trans (State.lanewise_lands h fun _ => rfl),
    fun h => (exec_pxor ..).trans (State.lanewise_lands h fun _ => rfl),
    fun h => (exec_pnot ..).trans (State.lanewise_lands h fun l => congrArg (x.wr l 32 false) (bit_not _))⟩

end Sys2Proof.Machine

/-! SUPPORT. sel with a predicate destination where the move to the next instruction ends a join.t of another split (R167, R237). -/

namespace Sys2Proof.Machine

/-- Lane 0 is about to reach its reconvergence address 12, where lane 1 waits since PT 0 at a join.t that gave up at PT 0. The record of that
join.t names p0 and lane 0, which is not a lane of its split. -/
def strayJoinGroup : Ctx :=
  { stream := .lane, alive := 3, stack := [{ isSet := true, pc := 12, join := none, mask := 3 }],
    splits := [(0, { pc := 0, mask := 1, j := some 12 }), (1, { pc := 12, mask := 2, j := some 12, wait := .join 0 (some (0, 0, 1)) })] }

/-- The group alone, at PT 1, split 0 about to issue. -/
def strayJoinState : State := { State.reset with pt := 1, cur := (ctxKey 0 0, 0), ctxs := [(ctxKey 0 0, strayJoinGroup)] }

/-- sel of 1 into p0. -/
def selOneIntoP0 : Opr := { d := .pred 0, a := .imm, b := .zero, c := .pred 7, imm := 1 }

/-- Lane 0 takes part, and its value for p0 is 1. -/
theorem issues_selOneIntoP0 : ∃ x, strayJoinState.issues (.sel selOneIntoP0 .b32) = some x ∧ x.cid = ctxKey 0 0 ∧
    x.part.getLsbD 0 = true ∧ x.rd strayJoinState 0 32 .zero .c = 1 ∧ x.rd strayJoinState 0 Ty.b32.width .zero .a = 1 := by
  have h : (strayJoinState.issues (.sel selOneIntoP0 .b32)).any (fun x => decide (x.cid = ctxKey 0 0 ∧ x.part.getLsbD 0 = true ∧
      x.rd strayJoinState 0 32 .zero .c = 1 ∧ x.rd strayJoinState 0 Ty.b32.width .zero .a = 1)) = true := by decide
  obtain ⟨x, hx, hp⟩ := (Option.any_eq_true _ _).mp h
  exact ⟨x, hx, of_decide_eq_true hp⟩

/-- The join.t that is given up once lane 0 has arrived leaves 0 in p0 of lane 0. -/
theorem exec_selOneIntoP0 {u : State} {c : Ctx} (hu : exec (.sel selOneIntoP0 .b32) strayJoinState = .next u)
    (hc : u.ctxs.find? (ctxKey 0 0) = some c) : c.rp 0 0 = false := by
  have h : (match exec (.sel selOneIntoP0 .b32) strayJoinState with
      | .next u => (u.ctxs.find? (ctxKey 0 0)).all (fun c => !c.rp 0 0) | _ => true) = true := by decide
  simpa [hu, hc] using h

/-- Refutes O54 for a predicate destination: the statement ranges over every state, also one in which the record of a waiting join.t names
a lane outside its own split. There sel writes 1 to p0 of lane 0, and the move to the reconvergence address gives that join.t up, which
writes 0 over it (R167). -/
theorem not_selWrites : ¬ Obligations.SelWrites := by
  intro hall
  obtain ⟨x, hx, hcid, hpart, hc, ha⟩ := issues_selOneIntoP0
  obtain ⟨u, c, hu, hfind, hlanes⟩ := hall _ x _ _ hx
  rw [hcid] at hfind
  obtain ⟨-, -, -, hpred, -⟩ := hlanes 0 hpart
  have hone := hpred 0 rfl (by decide)
  rw [hc, if_pos Nat.one_ne_zero, ha, decide_eq_true Nat.one_ne_zero] at hone
  exact Bool.false_ne_true ((exec_selOneIntoP0 hu hfind).symm.trans hone)

end Sys2Proof.Machine

/-! SUPPORT. The instruction word: its fields, its operands and its modifiers are read back as they were packed (R187 to R198). -/

namespace Sys2Proof

/-! ### Fields -/

theorem Raw.unpack_pack (r : Raw) : Raw.unpack r.pack = r := by
  obtain ⟨opc, gn, gp, d, a, b, c, ak, bk, ck, dk, fs, md, imm⟩ := r
  let word := opc ++ BitVec.ofBool gn ++ gp ++ d ++ a ++ b ++ c ++ ak ++ bk ++ ck ++ dk ++ fs ++ md ++ imm
  have field {lo n : Nat} {x : BitVec n} (h : BitVec.extractLsb' lo n word = x) :
      (Raw.mk opc gn gp d a b c ak bk ck dk fs md imm).pack.extractLsb' lo n = x := h
  have hgn (w : BitVec 96) (h : w.extractLsb' 85 1 = BitVec.ofBool gn) : w.getLsbD 85 = gn := by
    simpa [BitVec.getLsbD_extractLsb'] using congrArg (BitVec.getLsbD · 0) h
  rw [Raw.unpack, Raw.mk.injEq]
  refine ⟨field ?_, hgn _ (field ?_), field ?_, field ?_, field ?_, field ?_, field ?_, field ?_, field ?_, field ?_, field ?_, field ?_,
    field ?_, field ?_⟩ <;>
  simp (disch := decide) only [word, BitVec.extractLsb'_append_eq_of_le, BitVec.extractLsb'_append_eq_of_add_le, Nat.reduceSub,
    BitVec.extractLsb'_eq_self]

/-- Neighbouring fields make one field. -/
theorem Raw.pack_unpack (w : BitVec 96) : (Raw.unpack w).pack = w := by
  have hgn : BitVec.ofBool (w.getLsbD 85) = w.extractLsb' 85 1 := by
    ext i hi
    obtain rfl : i = 0 := by omega
    simp [BitVec.getLsbD_eq_getElem]
  show w.extractLsb' 86 10 ++ BitVec.ofBool (w.getLsbD 85) ++ w.extractLsb' 82 3 ++ w.extractLsb' 74 8 ++ w.extractLsb' 66 8 ++
    w.extractLsb' 58 8 ++ w.extractLsb' 50 8 ++ w.extractLsb' 48 2 ++ w.extractLsb' 46 2 ++ w.extractLsb' 44 2 ++
    w.extractLsb' 42 2 ++ w.extractLsb' 40 2 ++ w.extractLsb' 32 8 ++ w.extractLsb' 0 32 = w
  rw [hgn]
  repeat rw [BitVec.extractLsb'_append_extractLsb'_eq_extractLsb' (by rfl)]
  exact BitVec.extractLsb'_eq_self

/-- The operand is one that a field and kind of its own encode. -/
def Opnd.coded : Opnd → Bool
  | .none | .ix _ => false
  | _ => true

theorem Opnd.dec_enc {x : Opnd} (h : x.coded = true) : Opnd.dec x.enc.1 x.enc.2 = some x := by
  cases x with
  | none | ix m => cases h
  | v n => rfl
  | vix m off =>
    have hm : (m ++ off).extractLsb' 6 2 = m := BitVec.extractLsb'_append_eq_left
    have hoff : (m ++ off).extractLsb' 0 6 = off := BitVec.extractLsb'_append_eq_right
    show some (Opnd.vix ((m ++ off).extractLsb' 6 2) ((m ++ off).extractLsb' 0 6)) = _
    rw [hm, hoff]
  | s n => revert n; decide
  | sreg r => cases r <;> rfl
  | pred n => revert n; decide
  | pt | zero | imm => rfl

theorem Opnd.decIx_enc (m : BitVec 2) : Opnd.decIx (Opnd.ix m).enc.1 (Opnd.ix m).enc.2 = some (.ix m) := by
  revert m; decide

/-! ### Operands -/

/-- The operand fields that an entry uses, in the order of the word. -/
def Fields.used (u : Fields) (o : Opr) : List Opnd :=
  (if u.d then [o.d] else []) ++ (if u.a then [o.a] else []) ++ (if u.b then [o.b] else []) ++ (if u.c then [o.c] else [])

/-- The fields that the entry does not use are absent (R189). -/
def Fields.restAbsent (u : Fields) (o : Opr) : Prop :=
  (u.d = false → o.d = .none) ∧ (u.a = false → o.a = .none) ∧ (u.b = false → o.b = .none) ∧ (u.c = false → o.c = .none)

/-- The operands that an entry uses are encoded, and those that it does not use are absent. -/
structure Opr.Fits (o : Opr) (u : Fields) : Prop where
  used : ∀ x ∈ u.used o, x.coded = true
  rest : u.restAbsent o

/-- A field is read by the entry that uses it, or absent. -/
theorem Opnd.field_cases {use : Bool} {x : Opnd} (hu : use = true → x.coded = true) (hn : use = false → x = .none) :
    (use = true ∧ Opnd.dec x.enc.1 x.enc.2 = some x) ∨ (use = false ∧ x = .none) := by
  cases use with
  | true => exact .inl ⟨rfl, Opnd.dec_enc (hu rfl)⟩
  | false => exact .inr ⟨rfl, hn rfl⟩

/-- The operands of a word are read back by the entry that they fit, whatever stands in fields that it does not use. -/
theorem Opr.Fits.opr_eq {o : Opr} {u : Fields} (h : o.Fits u) {opc md : Nat} {imm : BitVec 32} {fb fc : BitVec 8} {keep : Bool}
    (hb : u.b = true → fb = o.b.enc.1) (hc : u.c = true → fc = o.c.enc.1) (himm : (if keep = true then imm else 0) = o.imm) :
    Raw.opr { o.raw opc md imm with b := fb, c := fc } u keep = some o := by
  obtain ⟨gn, gp, fs, d, a, b, c, oimm⟩ := o
  obtain ⟨hused, hd, ha, hb', hc'⟩ := h
  have rd := Opnd.field_cases (use := u.d) (fun hu => hused d (by simp [Fields.used, hu])) hd
  have ra := Opnd.field_cases (use := u.a) (fun hu => hused a (by simp [Fields.used, hu])) ha
  have rb := Opnd.field_cases (use := u.b) (fun hu => hused b (by simp [Fields.used, hu])) hb'
  have rc := Opnd.field_cases (use := u.c) (fun hu => hused c (by simp [Fields.used, hu])) hc'
  rcases rd with ⟨ud, rd⟩ | ⟨ud, rfl⟩ <;> rcases ra with ⟨ua, ra⟩ | ⟨ua, rfl⟩ <;> rcases rb with ⟨ub, rb⟩ | ⟨ub, rfl⟩ <;>
    rcases rc with ⟨uc, rc⟩ | ⟨uc, rfl⟩ <;> simp_all [Raw.opr, Opr.raw]

section
variable {o : Opr} {u : Fields} (h : o.Fits u) (opc md : Nat) (imm : BitVec 32)
include h

theorem Opr.Fits.raw_keep : (o.raw opc md o.imm).opr u true = some o := h.opr_eq (fun _ => rfl) (fun _ => rfl) rfl

theorem Opr.Fits.raw_drop (himm : o.imm = 0) : (o.raw opc md imm).opr u false = some o :=
  h.opr_eq (fun _ => rfl) (fun _ => rfl) himm.symm

theorem Opr.Fits.rawC_keep (hc : u.c = false) (cf : Nat) : (o.rawC opc md cf).opr u true = some o :=
  h.opr_eq (fun _ => rfl) (fun hu => absurd hu (by simp [hc])) rfl

theorem Opr.Fits.rawX_drop (hb : u.b = false) (hc : u.c = false) (himm : o.imm = 0) (j : Option JoinPtr) :
    (o.rawX opc j imm).opr u false = some o :=
  h.opr_eq (fun hu => absurd hu (by simp [hb])) (fun hu => absurd hu (by simp [hc])) himm.symm
end

/-! ### Index registers named directly (R243) -/

theorem Opr.decIx_d {o : Opr} {m : BitVec 2} (h : o.d = .ix m) (opc : Nat) :
    Opnd.decIx (o.raw opc 0 o.imm).d (o.raw opc 0 o.imm).dk = some o.d := by
  show Opnd.decIx o.d.enc.1 o.d.enc.2 = _
  rw [h, Opnd.decIx_enc]

theorem Opr.decIx_a {o : Opr} {m : BitVec 2} (h : o.a = .ix m) (opc : Nat) :
    Opnd.decIx (o.raw opc 0 o.imm).a (o.raw opc 0 o.imm).ak = some o.a := by
  show Opnd.decIx o.a.enc.1 o.a.enc.2 = _
  rw [h, Opnd.decIx_enc]

/-- The A operand beside an index register that D names. -/
theorem Opr.raw_ixD {o : Opr} (opc : Nat) (ha : o.a.coded = true) (hb : o.b = .none) (hc : o.c = .none) :
    (o.raw opc 0 o.imm).opr { a := true } true = some { o with d := .none } := by
  have hf : Opr.Fits { o with d := .none } { a := true } := ⟨by simpa [Fields.used] using ha, by simp [Fields.restAbsent, hb, hc]⟩
  exact hf.raw_keep opc 0

/-- The destination beside an index register that A names. -/
theorem Opr.raw_ixA {o : Opr} (opc : Nat) (hd : o.d.coded = true) (hb : o.b = .none) (hc : o.c = .none) :
    (o.raw opc 0 o.imm).opr { d := true } true = some { o with a := .none } := by
  have hf : Opr.Fits { o with a := .none } { d := true } := ⟨by simpa [Fields.used] using hd, by simp [Fields.restAbsent, hb, hc]⟩
  exact hf.raw_keep opc 0

/-! ### What well-formedness gives -/

theorem Slot.coded_of_legal {x : Slot} (h : x.legal = true) (hc : x.cls ≠ .ixR) : x.op.coded = true := by
  obtain ⟨op, wr, rd, w, grp, cls⟩ := x
  cases cls <;> cases op <;> first | rfl | exact absurd rfl hc | exact absurd h (by simp [Slot.legal])


theorem Slot.ne_imm_of_legal {x : Slot} (h : x.legal = true) (hs : x.cls ≠ .src) (hi : x.cls ≠ .sI) : x.op ≠ .imm := by
  obtain ⟨op, wr, rd, w, grp, cls⟩ := x
  rintro rfl
  cases cls <;> first | exact hs rfl | exact hi rfl | exact absurd h (by simp [Slot.legal])

theorem Slot.ix_of_legal {x : Slot} (h : x.legal = true) (hc : x.cls = .ixR) : ∃ m, x.op = .ix m := by
  obtain ⟨op, wr, rd, w, grp, cls⟩ := x
  obtain rfl : cls = .ixR := hc
  cases op with
  | ix m => exact ⟨m, rfl⟩
  | _ => cases h

/-- What well-formedness asks (R189 to R193, R198). -/
theorem Instr.wf_parts {i : Instr} (h : i.wf = true) :
    i.unusedAbsent = true ∧ (∀ x ∈ i.slots, x.legal = true) ∧ i.immWf = true ∧ i.modLegal = true := by
  simp only [Instr.wf, Instr.operandsWf, Bool.and_eq_true, List.all_eq_true, and_assoc] at h
  obtain ⟨habs, hlegal, himm, hmod, -⟩ := h
  exact ⟨habs, hlegal, himm, hmod⟩

/-- A well-formed instruction's operands fit its entry: the used fields are its slots' operands, of which none is an index register named
directly, and the others are absent. -/
theorem Instr.fits {i : Instr} {o : Opr} (u : Fields) (hw : i.wf = true) {rest : List Opnd}
    (hs : i.slots.map Slot.op = u.used o ++ rest) (hc : i.slots.all (fun x => decide (x.cls ≠ .ixR)) = true)
    {P : Prop} [Decidable P] (hp : i.unusedAbsent = decide P) (hu : P → u.restAbsent o) : o.Fits u := by
  obtain ⟨habs, hlegal, -, -⟩ := Instr.wf_parts hw
  refine ⟨fun x hx => ?_, hu (of_decide_eq_true (hp ▸ habs))⟩
  obtain ⟨y, hy, rfl⟩ := List.mem_map.mp (hs ▸ List.mem_append_left rest hx : x ∈ i.slots.map Slot.op)
  exact Slot.coded_of_legal (hlegal y hy) (of_decide_eq_true (List.all_eq_true.mp hc y hy))

theorem Instr.imm_eq_zero_of_unused {i : Instr} {o : Opr} (h : i.immWf = true) (ho : i.opr? = some o) (hu : o.usesImm = false)
    (hi : i.immIsField = false) : o.imm = 0 := by
  simp only [Instr.immWf, ho, hu, hi, Bool.or_false, Bool.and_eq_true, decide_eq_true_eq] at h
  exact h.2

/-- IMM is zero where no used operand can be IMM and it is no field of the entry's own (R189). -/
theorem Instr.imm_eq_zero {i : Instr} {o : Opr} {u : Fields} (hw : i.wf = true) (hf : o.Fits u) {rest : List Opnd}
    (hs : i.slots.map Slot.op = u.used o ++ rest) (hc : i.slots.all (fun x => decide (x.cls ≠ .src ∧ x.cls ≠ .sI)) = true)
    (ho : i.opr? = some o) (hi : i.immIsField = false) : o.imm = 0 := by
  obtain ⟨-, hlegal, himm, -⟩ := Instr.wf_parts hw
  have hused {x : Opnd} (hx : x ∈ u.used o) : x ≠ .imm := by
    obtain ⟨y, hy, rfl⟩ := List.mem_map.mp (hs ▸ List.mem_append_left rest hx : x ∈ i.slots.map Slot.op)
    obtain ⟨h1, h2⟩ := of_decide_eq_true (List.all_eq_true.mp hc y hy)
    exact Slot.ne_imm_of_legal (hlegal y hy) h1 h2
  have hne {use : Bool} {x : Opnd} (h1 : use = true → x ∈ u.used o) (h0 : use = false → x = .none) : x ≠ .imm := by
    cases use with
    | true => exact hused (h1 rfl)
    | false => rw [h0 rfl]; nofun
  obtain ⟨-, ha, hb, hcn⟩ := hf.rest
  have na : o.a ≠ .imm := hne (fun h => by simp [Fields.used, h]) ha
  have nb : o.b ≠ .imm := hne (fun h => by simp [Fields.used, h]) hb
  have nc : o.c ≠ .imm := hne (fun h => by simp [Fields.used, h]) hcn
  exact Instr.imm_eq_zero_of_unused himm ho (by simp [Opr.usesImm, na, nb, nc]) hi

/-! ### Modifiers: a code names one member, and fits its field -/

@[simp] theorem Ty.ofCode_code (x : Ty) : Ty.ofCode x.code = some x := by cases x <;> rfl
@[simp] theorem Rm.ofCode_code (x : Rm) : Rm.ofCode x.code = some x := by cases x <;> rfl
@[simp] theorem Cond.ofCode_code (x : Cond) : Cond.ofCode x.code = some x := by cases x <;> rfl
@[simp] theorem FCond.ofCode_code (x : FCond) : FCond.ofCode x.code = some x := by cases x <;> rfl
@[simp] theorem Ord.ofCode_code (x : Ord) : Ord.ofCode x.code = some x := by cases x <;> rfl
@[simp] theorem Scope.ofCode_code (x : Scope) : Scope.ofCode x.code = some x := by cases x <;> rfl
@[simp] theorem PermMode.ofCode_code (x : PermMode) : PermMode.ofCode x.code = some x := by cases x <;> rfl
@[simp] theorem LmaskMode.ofCode_code (x : LmaskMode) : LmaskMode.ofCode x.code = some x := by cases x <;> rfl
@[simp] theorem LgrpMode.ofCode_code (x : LgrpMode) : LgrpMode.ofCode x.code = some x := by cases x <;> rfl
@[simp] theorem LredOp.ofCode_code (x : LredOp) : LredOp.ofCode x.code = some x := by cases x <;> rfl
@[simp] theorem AtomOp.ofCode_code (x : AtomOp) : AtomOp.ofCode x.code = some x := by cases x <;> rfl
@[simp] theorem PxW.ofCode_code (x : PxW) : PxW.ofCode x.code = some x := by cases x <;> rfl
@[simp] theorem CasW.ofCode_code (x : CasW) : CasW.ofCode x.code = some x := by cases x <;> rfl
@[simp] theorem PfLevel.ofCode_code (x : PfLevel) : PfLevel.ofCode x.code = some x := by cases x <;> rfl
@[simp] theorem AcCtr.ofCode_code (x : AcCtr) : AcCtr.ofCode x.code = some x := by cases x <;> rfl
@[simp] theorem MFmt.ofCode_code (x : MFmt) : MFmt.ofCode x.code = some x := by cases x <;> rfl
@[simp] theorem CvtKind.ofCode_code (x : CvtKind) : CvtKind.ofCode x.code = some x := by cases x <;> rfl
@[simp] theorem DcxFmt.ofCode_code (x : DcxFmt) : DcxFmt.ofCode x.code = some x := by cases x <;> rfl
@[simp] theorem CollKind.ofCode_code (x : CollKind) : CollKind.ofCode x.code = some x := by cases x <;> rfl
@[simp] theorem CollOp.ofCode_code (x : CollOp) : CollOp.ofCode x.code = some x := by cases x <;> rfl
@[simp] theorem CollTy.ofCode_code (x : CollTy) : CollTy.ofCode x.code = some x := by cases x <;> rfl
@[simp] theorem Cause.ofCode_code (x : Cause) : Cause.ofCode x.code = some x := by cases x <;> rfl

theorem Ty.code_lt (x : Ty) : x.code < 32 := by cases x <;> decide
theorem Rm.code_lt (x : Rm) : x.code < 8 := by cases x <;> decide
theorem Cond.code_lt (x : Cond) : x.code < 8 := by cases x <;> decide
theorem FCond.code_lt (x : FCond) : x.code < 8 := by cases x <;> decide
theorem Ord.code_lt (x : Ord) : x.code < 8 := by cases x <;> decide
theorem Scope.code_lt (x : Scope) : x.code < 8 := by cases x <;> decide
theorem PermMode.code_lt (x : PermMode) : x.code < 8 := by cases x <;> decide
theorem LmaskMode.code_lt (x : LmaskMode) : x.code < 8 := by cases x <;> decide
theorem LgrpMode.code_lt (x : LgrpMode) : x.code < 8 := by cases x <;> decide
theorem LredOp.code_lt (x : LredOp) : x.code < 8 := by cases x <;> decide
theorem AtomOp.code_lt (x : AtomOp) : x.code < 8 := by cases x <;> decide
theorem PxW.code_lt (x : PxW) : x.code < 8 := by cases x <;> decide
theorem CasW.code_lt (x : CasW) : x.code < 4 := by cases x <;> decide
theorem PfLevel.code_lt (x : PfLevel) : x.code < 4 := by cases x <;> decide
theorem AcCtr.code_lt (x : AcCtr) : x.code < 8 := by cases x <;> decide
theorem MFmt.code_lt (x : MFmt) : x.code < 16 := by cases x <;> decide
theorem CvtKind.code_lt (x : CvtKind) : x.code < 4 := by cases x <;> decide
theorem DcxFmt.code_lt (x : DcxFmt) : x.code < 4 := by cases x <;> decide
theorem CollKind.code_lt (x : CollKind) : x.code < 8 := by cases x <;> decide
theorem CollOp.code_lt (x : CollOp) : x.code < 8 := by cases x <;> decide
theorem CollTy.code_lt (x : CollTy) : x.code < 8 := by cases x <;> decide
theorem Cause.code_lt (x : Cause) : x.code < 256 := by cases x <;> decide

section
variable (o : Opr) (opc md cf : Nat) (imm : BitVec 32) (j : Option JoinPtr)

@[simp] theorem Opr.raw_opc : (o.raw opc md imm).opc.toNat = opc % 1024 := rfl
@[simp] theorem Opr.rawC_opc : (o.rawC opc md cf).opc.toNat = opc % 1024 := rfl
@[simp] theorem Opr.rawX_opc : (o.rawX opc j imm).opc.toNat = opc % 1024 := rfl
@[simp] theorem Opr.raw_md : (o.raw opc md imm).md = BitVec.ofNat 8 md := rfl
@[simp] theorem Opr.rawC_md : (o.rawC opc md cf).md = BitVec.ofNat 8 md := rfl
@[simp] theorem Opr.rawC_c : (o.rawC opc md cf).c = BitVec.ofNat 8 cf := rfl
@[simp] theorem Opr.raw_imm : (o.raw opc md imm).imm = imm := rfl
@[simp] theorem Opr.rawX_imm : (o.rawX opc j imm).imm = imm := rfl

end

/-! ### Fields of MOD and IMM -/

theorem extract_setWidth {w k : Nat} (h : k ≤ w) (x : BitVec k) : (x.setWidth w).extractLsb' 0 k = x := by
  ext i hi
  simp [hi, Nat.lt_of_lt_of_le hi h]

theorem extract_ofNat {w n lo k : Nat} {q : BitVec k} (h : n % 2 ^ w / 2 ^ lo % 2 ^ k = q.toNat) :
    (BitVec.ofNat w n).extractLsb' lo k = q :=
  BitVec.eq_of_toNat_eq (by rw [BitVec.extractLsb'_toNat, BitVec.toNat_ofNat, Nat.shiftRight_eq_div_pow, h])

/-- The flags of one bit that stand at the foot of a field. -/
theorem bit_lt (b : Bool) : bit b < 8 := by cases b <;> decide
theorem two_mul_bit_lt (b : Bool) : 2 * bit b < 8 := by cases b <;> decide
@[simp] theorem decide_bit (b : Bool) : decide (bit b % 2 = 1) = b := by cases b <;> rfl
@[simp] theorem decide_two_mul_bit (b : Bool) : decide (2 * bit b / 2 % 2 = 1) = b := by cases b <;> rfl

/-- A type and a field above it (R188). -/
@[simp] theorem tyMod_lo (t : Ty) (hi : Nat) : tyMod t hi % 32 = t.code := by
  have := t.code_lt
  unfold tyMod; omega

theorem tyMod_hi (t : Ty) {hi : Nat} (h : hi < 8) : tyMod t hi % 256 / 32 = hi := by
  have := t.code_lt
  unfold tyMod; omega

@[simp] theorem tyMod_hi_toNat (t : Ty) (x : BitVec 3) : tyMod t x.toNat % 256 / 32 = x.toNat := tyMod_hi t x.isLt

/-- An order, a scope and what stands above them (R272, R276). -/
@[simp] theorem ordMod_order (ord : Ord) (sc : Scope) (k : Nat) : (ordMod ord sc + 64 * k) % 8 = ord.code := by
  have := ord.code_lt
  unfold ordMod; omega

@[simp] theorem ordMod_scope (ord : Ord) (sc : Scope) (k : Nat) : (ordMod ord sc + 64 * k) % 256 / 8 % 8 = sc.code := by
  have := ord.code_lt
  have := sc.code_lt
  unfold ordMod; omega

theorem ordMod_top (ord : Ord) (sc : Scope) {k : Nat} (hk : k < 4) : (ordMod ord sc + 64 * k) % 256 / 64 = k := by
  have := ord.code_lt
  have := sc.code_lt
  unfold ordMod; omega

/-- A field at the top of MOD with nothing below it (R242, R279). -/
theorem high_field {k : Nat} (hk : k < 8) : 32 * k % 256 / 32 = k := by omega
theorem top_field {k : Nat} (hk : k < 4) : 64 * k % 256 / 64 = k := by omega

/-- The two formats of a matrix instruction (R291). -/
@[simp] theorem mfmt_lo (fa fb : MFmt) : (fa.code + 16 * fb.code) % 16 = fa.code := by
  have := fa.code_lt
  omega

@[simp] theorem mfmt_hi (fa fb : MFmt) : (fa.code + 16 * fb.code) % 256 / 16 = fb.code := by
  have := fa.code_lt
  have := fb.code_lt
  omega

/-- Kind and rounding mode of acc.cvt (R305). -/
@[simp] theorem accCvt_lo (kd : CvtKind) (rm : Rm) : (kd.code + 32 * rm.code) % 4 = kd.code := by
  have := kd.code_lt
  omega

@[simp] theorem accCvt_hi (kd : CvtKind) (rm : Rm) : (kd.code + 32 * rm.code) % 256 / 32 = rm.code := by
  have := kd.code_lt
  have := rm.code_lt
  omega

/-- CHG and the format of dcx (R322). -/
@[simp] theorem dcx_chg (chg : BitVec 6) (f : DcxFmt) : (BitVec.ofNat 8 (chg.toNat + 64 * f.code)).extractLsb' 0 6 = chg :=
  extract_ofNat (by have := chg.isLt; have := f.code_lt; omega)

@[simp] theorem dcx_format (chg : BitVec 6) (f : DcxFmt) : (chg.toNat + 64 * f.code) % 256 / 64 = f.code := by
  have := chg.isLt
  have := f.code_lt
  omega

@[simp] theorem AcCtr.code_mod (x : AcCtr) : x.code % 256 = x.code := by cases x <;> rfl
@[simp] theorem Cause.code_mod (x : Cause) : x.code % 256 = x.code := by cases x <;> rfl
@[simp] theorem Ty.code_mod (x : Ty) : x.code % 32 = x.code := by cases x <;> rfl
@[simp] theorem MFmt.code_mod (x : MFmt) : x.code % 16 = x.code := by cases x <;> rfl

/-- Cause and qualifier of trap (R341). -/
@[simp] theorem trap_qual (c : Cause) (q : BitVec 8) : (BitVec.ofNat 32 (c.code + 256 * q.toNat)).extractLsb' 8 8 = q :=
  extract_ofNat (by have := c.code_lt; have := q.isLt; omega)

/-- Tile and shift of acc.cvt (R305). -/
@[simp] theorem accCvt_tile (tile : BitVec 3) (sh : BitVec 8) :
    (BitVec.ofNat 32 (tile.toNat + 256 * sh.toNat)).extractLsb' 0 3 = tile :=
  extract_ofNat (by have := tile.isLt; have := sh.isLt; omega)

@[simp] theorem accCvt_shift (tile : BitVec 3) (sh : BitVec 8) :
    (BitVec.ofNat 32 (tile.toNat + 256 * sh.toNat)).extractLsb' 8 8 = sh :=
  extract_ofNat (by have := tile.isLt; have := sh.isLt; omega)

/-- A tile and the flags Z and MX above it (R287). -/
theorem tile_z_mx : ∀ (tile : BitVec 3) (z mx : Bool),
    (BitVec.ofNat 32 (tile.toNat + 8 * bit z + 16 * bit mx)).extractLsb' 0 3 = tile ∧
    (BitVec.ofNat 32 (tile.toNat + 8 * bit z + 16 * bit mx))[3] = z ∧
    (BitVec.ofNat 32 (tile.toNat + 8 * bit z + 16 * bit mx))[4] = mx := by decide

theorem tile_z (tile : BitVec 3) (z : Bool) : (BitVec.ofNat 32 (tile.toNat + 8 * bit z)).extractLsb' 0 3 = tile ∧
    (BitVec.ofNat 32 (tile.toNat + 8 * bit z))[3] = z :=
  ⟨(tile_z_mx tile z false).1, (tile_z_mx tile z false).2.1⟩

/-- The source type and the part of a conversion (R260). -/
@[simp] theorem cvt_part (src : Ty) (q : BitVec 3) : (BitVec.ofNat 32 (src.code + 32 * q.toNat)).extractLsb' 5 3 = q :=
  extract_ofNat (by have := src.code_lt; have := q.isLt; omega)

@[simp] theorem cvt_source (src : Ty) (q : BitVec 3) : (src.code + 32 * q.toNat) % 32 = src.code := by
  have := src.code_lt
  omega

section
variable (e : BitVec 8) (kd : CollKind) (op : CollOp) (ct : CollTy) (w : BitVec 3) (sig : Bool)

/-- IMM of a collective (R328). -/
theorem collImm_toNat : (e ++ BitVec.ofNat 24 (kd.code + 8 * op.code + 64 * ct.code + 512 * w.toNat + 4096 * bit sig)).toNat =
    e.toNat * 2 ^ 24 + (kd.code + 8 * op.code + 64 * ct.code + 512 * w.toNat + 4096 * bit sig) := by
  have := kd.code_lt
  have := op.code_lt
  have := ct.code_lt
  have := w.isLt
  have := bit_lt sig
  rw [BitVec.toNat_append, BitVec.toNat_ofNat, Nat.mod_eq_of_lt (by omega), ← Nat.shiftLeft_add_eq_or_of_lt (by omega),
    Nat.shiftLeft_eq]

/-- Each field of a collective's IMM is read back (R328). -/
theorem collImm_fields {imm : BitVec 32} (himm : imm = e ++ BitVec.ofNat 24
      (kd.code + 8 * op.code + 64 * ct.code + 512 * w.toNat + 4096 * bit sig)) :
    imm.toNat % 8 = kd.code ∧ imm.toNat / 8 % 8 = op.code ∧ imm.toNat / 64 % 8 = ct.code ∧ imm.extractLsb' 9 3 = w ∧
      imm[12] = sig := by
  have := kd.code_lt
  have := op.code_lt
  have := ct.code_lt
  have := w.isLt
  have hsig : bit sig < 2 := by cases sig <;> decide
  have hval := himm ▸ collImm_toNat e kd op ct w sig
  refine ⟨by omega, by omega, by omega, BitVec.eq_of_toNat_eq ?_, ?_⟩
  · rw [BitVec.extractLsb'_toNat, Nat.shiftRight_eq_div_pow]; omega
  · have hbit : imm.toNat / 2 ^ 12 % 2 = bit sig % 2 := by omega
    rw [← BitVec.getLsbD_eq_getElem, BitVec.getLsbD, Nat.testBit_eq_decide_div_mod_eq, hbit, decide_bit]

end

/-- The E operand's field, at the top of IMM (R188). -/
@[simp] theorem eField_append (e : BitVec 8) (x : BitVec 24) : BitVec.extractLsb' (n := 32) 24 8 (e ++ x) = e :=
  BitVec.extractLsb'_append_eq_left

section
variable (o : Opr) (opc md cf : Nat) (imm : BitVec 32) (ord : Ord) (sc : Scope) (k : Nat) (p : CodePtr) (j : Option JoinPtr)

@[simp] theorem Opr.raw_mlo : (o.raw opc md imm).mlo = md % 32 := Nat.mod_mod_of_dvd md (by decide)
@[simp] theorem Opr.raw_mhi : (o.raw opc md imm).mhi = md % 256 / 32 := rfl

@[simp] theorem Opr.raw_ord_top : (o.raw opc (ordMod ord sc + 64 * k) imm).ord = some ord := by
  simp [Raw.ord]

@[simp] theorem Opr.raw_scope_top : (o.raw opc (ordMod ord sc + 64 * k) imm).scope = some sc := by
  simp [Raw.scope]

@[simp] theorem Opr.raw_ord : (o.raw opc (ordMod ord sc) imm).ord = some ord := o.raw_ord_top opc imm ord sc 0
@[simp] theorem Opr.raw_scope : (o.raw opc (ordMod ord sc) imm).scope = some sc := o.raw_scope_top opc imm ord sc 0
@[simp] theorem Opr.rawC_ord : (o.rawC opc (ordMod ord sc) cf).ord = some ord := o.raw_ord opc o.imm ord sc
@[simp] theorem Opr.rawC_scope : (o.rawC opc (ordMod ord sc) cf).scope = some sc := o.raw_scope opc o.imm ord sc

/-- A code pointer fills IMM (R188). -/
@[simp] theorem Opr.raw_ptr : (o.raw opc md (p.line ++ p.slot)).ptr = p := by
  have h1 : (p.line ++ p.slot).extractLsb' 3 29 = p.line := BitVec.extractLsb'_append_eq_left
  have h2 : (p.line ++ p.slot).extractLsb' 0 3 = p.slot := BitVec.extractLsb'_append_eq_right
  show CodePtr.mk ((p.line ++ p.slot).extractLsb' 3 29) ((p.line ++ p.slot).extractLsb' 0 3) = p
  rw [h1, h2]

@[simp] theorem Opr.rawX_ptr : (o.rawX opc j (p.line ++ p.slot)).ptr = p := o.raw_ptr opc 0 p

/-- A reconvergence pointer fills B and C; its slot is below 5, so it is not the 7 of none (R188). -/
theorem Opr.rawX_join (hj : ∀ x, j = some x → x.slot.toNat < 5) : (o.rawX opc j imm).join = j := by
  have hslot : (o.rawX opc j imm).c.extractLsb' 0 3 = (joinField j).extractLsb' 0 3 :=
    BitVec.extractLsb'_extractLsb'_of_le (by decide)
  have hline : (o.rawX opc j imm).b ++ (o.rawX opc j imm).c.extractLsb' 3 5 = (joinField j).extractLsb' 3 13 := by
    show (joinField j).extractLsb' 8 8 ++ ((joinField j).extractLsb' 0 8).extractLsb' 3 5 = _
    rw [BitVec.extractLsb'_extractLsb'_of_le (by decide)]
    exact BitVec.extractLsb'_append_extractLsb'_eq_extractLsb' rfl
  rw [Raw.join, hslot, hline]
  cases j with
  | none => rfl
  | some x =>
    have h1 : (joinField (some x)).extractLsb' 3 13 = x.line := BitVec.extractLsb'_append_eq_left
    have h2 : (joinField (some x)).extractLsb' 0 3 = x.slot := BitVec.extractLsb'_append_eq_right
    have h7 : x.slot ≠ 7 := fun h => absurd (hj x rfl) (by rw [h]; decide)
    rw [h1, h2, if_neg h7]

end

/-! ### The opcode's class -/

section
variable {r : Raw}

theorem candidate_eq0 (h : r.opc.toNat / 128 = 0) : candidate r = candidate0 r := by unfold candidate; rw [h]; rfl
theorem candidate_eq1 (h : r.opc.toNat / 128 = 1) : candidate r = candidate1 r := by unfold candidate; rw [h]; rfl
theorem candidate_eq2 (h : r.opc.toNat / 128 = 2) : candidate r = candidate2 r := by unfold candidate; rw [h]; rfl
theorem candidate_eq3 (h : r.opc.toNat / 128 = 3) : candidate r = candidate3 r := by unfold candidate; rw [h]; rfl
theorem candidate_eq4 (h : r.opc.toNat / 128 = 4) : candidate r = candidate4 r := by unfold candidate; rw [h]; rfl
theorem candidate_eq5 (h : r.opc.toNat / 128 = 5) : candidate r = candidate5 r := by unfold candidate; rw [h]; rfl
theorem candidate_eq6 (h : r.opc.toNat / 128 = 6) : candidate r = candidate6 r := by unfold candidate; rw [h]; rfl
theorem candidate_eq7 (h : r.opc.toNat / 128 = 7) : candidate r = candidate7 r := by unfold candidate; rw [h]; rfl

end

/-! ### Decoding what was encoded -/

/-- A well-formed instruction's opcode is assigned, and its entry reads back the instruction from the fields. -/
theorem assigned_candidate_enc {i : Instr} {r : Raw} (he : i.enc = some r) (hw : i.wf = true) :
    opcAssigned r.opc.toNat = true ∧ candidate r = some i := by
  cases i with
  | add o t sat | sub o t sat | mul o t sat | mulhi o t | div o t | rem o t | min o t | max o t | and o t | or o t | xor o t
  | shl o t | shr o t | sar o t | rol o t | ror o t | bfx o t | lea o t sh | cmp o t cc =>
    have hf := Instr.fits (o := o) { d := true, a := true, b := true } (rest := []) hw rfl rfl rfl (by simp [Fields.restAbsent])
    obtain rfl := Option.some.inj he
    refine ⟨rfl, (candidate_eq0 (by simp)).trans ?_⟩
    unfold candidate0
    simp [hf.raw_keep, tyMod_hi, bit_lt, Cond.code_lt]
  | pand o nb | por o nb | pxor o nb =>
    have hf := Instr.fits (o := o) { d := true, a := true, b := true } (rest := []) hw rfl rfl rfl (by simp [Fields.restAbsent])
    obtain rfl := Option.some.inj he
    refine ⟨rfl, (candidate_eq0 (by simp)).trans ?_⟩
    unfold candidate0
    simp [hf.raw_keep, high_field, bit_lt]
  | mad o t sat | bfi o t | sel o t =>
    have hf := Instr.fits (o := o) { d := true, a := true, b := true, c := true } (rest := []) hw rfl rfl (P := True) rfl
      (by simp [Fields.restAbsent])
    obtain rfl := Option.some.inj he
    refine ⟨rfl, (candidate_eq0 (by simp)).trans ?_⟩
    unfold candidate0
    simp [hf.raw_keep, tyMod_hi, bit_lt]
  | abs o t sat | neg o t sat | not o t | popc o t | clz o t | ctz o t | brev o t | mov o t | pnot o | rgrow o | rshrink o =>
    have hf := Instr.fits (o := o) { d := true, a := true } (rest := []) hw rfl rfl rfl (by simp [Fields.restAbsent])
    obtain rfl := Option.some.inj he
    refine ⟨rfl, (candidate_eq0 (by simp)).trans ?_⟩
    unfold candidate0
    simp [hf.raw_keep, tyMod_hi, bit_lt]
  | fadd o t rm | fsub o t rm | fmul o t rm | fmin o t | fmax o t | fcmp o t cc | fdiv o t rm =>
    have hf := Instr.fits (o := o) { d := true, a := true, b := true } (rest := []) hw rfl rfl rfl (by simp [Fields.restAbsent])
    obtain rfl := Option.some.inj he
    refine ⟨rfl, (candidate_eq1 (by simp)).trans ?_⟩
    unfold candidate1
    simp [hf.raw_keep, tyMod_hi, Rm.code_lt, FCond.code_lt]
  | ffma o t rm =>
    have hf := Instr.fits (o := o) { d := true, a := true, b := true, c := true } (rest := []) hw rfl rfl (P := True) rfl
      (by simp [Fields.restAbsent])
    obtain rfl := Option.some.inj he
    refine ⟨rfl, (candidate_eq1 (by simp)).trans ?_⟩
    unfold candidate1
    simp [hf.raw_keep, tyMod_hi, Rm.code_lt]
  | fabs o t | fneg o t | frnd o t rm | fclass o t | frcp o t | frsqrt o t | fsqrt o t rm | fexp2 o t | flog2 o t | fsin o t
  | fcos o t | ftanh o t =>
    have hf := Instr.fits (o := o) { d := true, a := true } (rest := []) hw rfl rfl rfl (by simp [Fields.restAbsent])
    obtain rfl := Option.some.inj he
    refine ⟨rfl, (candidate_eq1 (by simp)).trans ?_⟩
    unfold candidate1
    simp [hf.raw_keep, tyMod_hi, Rm.code_lt]
  | hadd o sat | hsub o sat | hmul o sat | hmin o | hmax o | hsar o rnd | pxunpk o w | pxpack o w | perm o t m | lred o t op
  | lpre o t op =>
    have hf := Instr.fits (o := o) { d := true, a := true, b := true } (rest := []) hw rfl rfl rfl (by simp [Fields.restAbsent])
    obtain rfl := Option.some.inj he
    refine ⟨rfl, (candidate_eq2 (by simp)).trans ?_⟩
    unfold candidate2
    simp [hf.raw_keep, tyMod_hi, bit_lt, two_mul_bit_lt, PxW.code_lt, PermMode.code_lt, LredOp.code_lt]
  | hmad o sat | hclamp o =>
    have hf := Instr.fits (o := o) { d := true, a := true, b := true, c := true } (rest := []) hw rfl rfl (P := True) rfl
      (by simp [Fields.restAbsent])
    obtain rfl := Option.some.inj he
    refine ⟨rfl, (candidate_eq2 (by simp)).trans ?_⟩
    unfold candidate2
    simp [hf.raw_keep, tyMod_hi, bit_lt]
  | lmask o m | lgrp o t m =>
    have hf := Instr.fits (o := o) { d := true, a := true } (rest := []) hw rfl rfl rfl (by simp [Fields.restAbsent])
    obtain rfl := Option.some.inj he
    refine ⟨rfl, (candidate_eq2 (by simp)).trans ?_⟩
    unfold candidate2
    simp [hf.raw_keep, tyMod_hi, LmaskMode.code_lt, LgrpMode.code_lt]
  | kaclr o =>
    have hf := Instr.fits (o := o) {} (rest := []) hw rfl rfl rfl (by simp [Fields.restAbsent])
    obtain rfl := Option.some.inj he
    refine ⟨rfl, (candidate_eq2 (by simp)).trans ?_⟩
    unfold candidate2
    simp [hf.raw_keep]
  | kaadd o =>
    have hf := Instr.fits (o := o) { a := true } (rest := []) hw rfl rfl rfl (by simp [Fields.restAbsent])
    obtain rfl := Option.some.inj he
    refine ⟨rfl, (candidate_eq2 (by simp)).trans ?_⟩
    unfold candidate2
    simp [hf.raw_keep]
  | kamad o =>
    have hf := Instr.fits (o := o) { a := true, b := true } (rest := []) hw rfl rfl rfl (by simp [Fields.restAbsent])
    obtain rfl := Option.some.inj he
    refine ⟨rfl, (candidate_eq2 (by simp)).trans ?_⟩
    unfold candidate2
    simp [hf.raw_keep]
  | karead o t rm =>
    have hf := Instr.fits (o := o) { d := true } (rest := []) hw rfl rfl rfl (by simp [Fields.restAbsent])
    obtain rfl := Option.some.inj he
    refine ⟨rfl, (candidate_eq2 (by simp)).trans ?_⟩
    unfold candidate2
    simp [hf.raw_keep, tyMod_hi, Rm.code_lt]
  | kast o ord sc | kald o ord sc | kaaddm o ord sc =>
    have hf := Instr.fits (o := o) { a := true } (rest := []) hw rfl rfl rfl (by simp [Fields.restAbsent])
    obtain rfl := Option.some.inj he
    refine ⟨rfl, (candidate_eq2 (by simp)).trans ?_⟩
    unfold candidate2
    simp [hf.raw_keep]
  | ld o t ord sc =>
    have hf := Instr.fits (o := o) { d := true, a := true } (rest := []) hw rfl rfl rfl (by simp [Fields.restAbsent])
    obtain rfl := Option.some.inj he
    refine ⟨rfl, (candidate_eq3 (by simp)).trans ?_⟩
    unfold candidate3
    simp [hf.rawC_keep _ _ rfl]
  | st o t ord sc =>
    have hf := Instr.fits (o := o) { a := true, b := true } (rest := []) hw rfl rfl rfl (by simp [Fields.restAbsent])
    obtain rfl := Option.some.inj he
    refine ⟨rfl, (candidate_eq3 (by simp)).trans ?_⟩
    unfold candidate3
    simp [hf.rawC_keep _ _ rfl]
  | atom o t op ord sc =>
    have hf := Instr.fits (o := o) { d := true, a := true, b := true } (rest := []) hw rfl rfl rfl (by simp [Fields.restAbsent])
    obtain rfl := Option.some.inj he
    refine ⟨rfl, (candidate_eq3 (by simp)).trans ?_⟩
    unfold candidate3
    simp [hf.rawC_keep _ _ rfl, tyMod_hi, AtomOp.code_lt]
  | red o t op ord sc =>
    have hf := Instr.fits (o := o) { a := true, b := true } (rest := []) hw rfl rfl rfl (by simp [Fields.restAbsent])
    obtain rfl := Option.some.inj he
    refine ⟨rfl, (candidate_eq3 (by simp)).trans ?_⟩
    unfold candidate3
    simp [hf.rawC_keep _ _ rfl, tyMod_hi, AtomOp.code_lt]
  | cas o w ord sc =>
    have hf := Instr.fits (o := o) { d := true, a := true, b := true, c := true } (rest := []) hw rfl rfl (P := True) rfl
      (by simp [Fields.restAbsent])
    obtain rfl := Option.some.inj he
    refine ⟨rfl, (candidate_eq3 (by simp)).trans ?_⟩
    unfold candidate3
    simp [hf.raw_keep, ordMod_top, CasW.code_lt]
  | fence o ord sc =>
    have hf := Instr.fits (o := o) {} (rest := []) hw rfl rfl rfl (by simp [Fields.restAbsent])
    obtain rfl := Option.some.inj he
    refine ⟨rfl, (candidate_eq3 (by simp)).trans ?_⟩
    unfold candidate3
    simp [hf.raw_keep]
  | prefetch o lv =>
    have hf := Instr.fits (o := o) { a := true } (rest := []) hw rfl rfl rfl (by simp [Fields.restAbsent])
    obtain rfl := Option.some.inj he
    refine ⟨rfl, (candidate_eq3 (by simp)).trans ?_⟩
    unfold candidate3
    simp [hf.raw_keep, top_field, PfLevel.code_lt]
  | waitAc o ac =>
    have hf := Instr.fits (o := o) { a := true } (rest := []) hw rfl rfl rfl (by simp [Fields.restAbsent])
    obtain rfl := Option.some.inj he
    refine ⟨rfl, (candidate_eq3 (by simp)).trans ?_⟩
    unfold candidate3
    simp [hf.raw_keep]
  | accLd o t rm =>
    have hf := Instr.fits (o := o) { d := true, a := true } (rest := []) hw rfl rfl rfl (by simp [Fields.restAbsent])
    obtain rfl := Option.some.inj he
    refine ⟨rfl, (candidate_eq3 (by simp)).trans ?_⟩
    unfold candidate3
    simp [hf.raw_keep, tyMod_hi, Rm.code_lt]
  | ret o | join o | exit o | nop o =>
    have hf := Instr.fits (o := o) {} (rest := []) hw rfl rfl rfl (by simp [Fields.restAbsent])
    obtain rfl := Option.some.inj he
    refine ⟨rfl, (candidate_eq4 (by simp)).trans ?_⟩
    unfold candidate4
    simp [hf.raw_keep]
  | callx o =>
    have hf := Instr.fits (o := o) { a := true } (rest := []) hw rfl rfl rfl (by simp [Fields.restAbsent])
    obtain rfl := Option.some.inj he
    refine ⟨rfl, (candidate_eq4 (by simp)).trans ?_⟩
    unfold candidate4
    simp [hf.raw_keep]
  | joinT o =>
    have hf := Instr.fits (o := o) { d := true } (rest := []) hw rfl rfl rfl (by simp [Fields.restAbsent])
    obtain rfl := Option.some.inj he
    refine ⟨rfl, (candidate_eq4 (by simp)).trans ?_⟩
    unfold candidate4
    simp [hf.raw_keep]
  | call o p =>
    have hf := Instr.fits (o := o) {} (rest := []) hw rfl rfl rfl (by simp [Fields.restAbsent])
    have h0 : o.imm = 0 := Instr.imm_eq_zero hw hf rfl rfl rfl rfl
    obtain rfl := Option.some.inj he
    refine ⟨rfl, (candidate_eq4 (by simp)).trans ?_⟩
    unfold candidate4
    simp [hf.raw_drop _ _ _ h0]
  | mma o fa fb tile z | mmx o fa fb tile z | mmas o fa fb tile z mx =>
    have hf := Instr.fits (o := o) { a := true, b := true } (rest := []) hw rfl rfl rfl (by simp [Fields.restAbsent])
    have h0 : o.imm = 0 := Instr.imm_eq_zero hw hf rfl rfl rfl rfl
    obtain rfl := Option.some.inj he
    refine ⟨rfl, (candidate_eq5 (by simp)).trans ?_⟩
    unfold candidate5
    simp [hf.raw_drop _ _ _ h0, tile_z, tile_z_mx]
  | mmt o fa fb tile z =>
    have hf := Instr.fits (o := o) { a := true } (rest := []) hw rfl rfl rfl (by simp [Fields.restAbsent])
    have h0 : o.imm = 0 := Instr.imm_eq_zero hw hf rfl rfl rfl rfl
    obtain rfl := Option.some.inj he
    refine ⟨rfl, (candidate_eq5 (by simp)).trans ?_⟩
    unfold candidate5
    simp [hf.raw_drop _ _ _ h0, tile_z]
  | accClr o m =>
    have hf := Instr.fits (o := o) {} (rest := []) hw rfl rfl rfl (by simp [Fields.restAbsent])
    have h0 : o.imm = 0 := Instr.imm_eq_zero hw hf rfl rfl rfl rfl
    obtain rfl := Option.some.inj he
    refine ⟨rfl, (candidate_eq5 (by simp)).trans ?_⟩
    unfold candidate5
    simp [hf.raw_drop _ _ _ h0, extract_setWidth]
  | accIn o t tile =>
    have hf := Instr.fits (o := o) { a := true, b := true } (rest := []) hw rfl rfl rfl (by simp [Fields.restAbsent])
    have h0 : o.imm = 0 := Instr.imm_eq_zero hw hf rfl rfl rfl rfl
    obtain rfl := Option.some.inj he
    refine ⟨rfl, (candidate_eq5 (by simp)).trans ?_⟩
    unfold candidate5
    simp [hf.raw_drop _ _ _ h0, extract_setWidth]
  | accOut o t rm tile =>
    have hf := Instr.fits (o := o) { a := true, b := true } (rest := []) hw rfl rfl rfl (by simp [Fields.restAbsent])
    have h0 : o.imm = 0 := Instr.imm_eq_zero hw hf rfl rfl rfl rfl
    obtain rfl := Option.some.inj he
    refine ⟨rfl, (candidate_eq5 (by simp)).trans ?_⟩
    unfold candidate5
    simp [hf.raw_drop _ _ _ h0, tyMod_hi, Rm.code_lt, extract_setWidth]
  | accCvt o kd rm tile sh =>
    have hf := Instr.fits (o := o) {} (rest := []) hw rfl rfl rfl (by simp [Fields.restAbsent])
    have h0 : o.imm = 0 := Instr.imm_eq_zero hw hf rfl rfl rfl rfl
    obtain rfl := Option.some.inj he
    refine ⟨rfl, (candidate_eq5 (by simp)).trans ?_⟩
    unfold candidate5
    simp [hf.raw_drop _ _ _ h0]
  | mrpRd o =>
    have hf := Instr.fits (o := o) { d := true } (rest := []) hw rfl rfl rfl (by simp [Fields.restAbsent])
    obtain rfl := Option.some.inj he
    refine ⟨rfl, (candidate_eq5 (by simp)).trans ?_⟩
    unfold candidate5
    simp [hf.raw_keep]
  | mrpWr o | rsdPin o | rsdUnpin o | rsdFree o | treeAccept o =>
    have hf := Instr.fits (o := o) { a := true } (rest := []) hw rfl rfl rfl (by simp [Fields.restAbsent])
    obtain rfl := Option.some.inj he
    refine ⟨rfl, (candidate_eq5 (by simp)).trans ?_⟩
    unfold candidate5
    simp [hf.raw_keep]
  | rsdAlloc o | treeClr o | kvDelete o | rsdLoad o sh =>
    have hf := Instr.fits (o := o) { a := true, b := true } (rest := []) hw rfl rfl rfl (by simp [Fields.restAbsent])
    obtain rfl := Option.some.inj he
    refine ⟨rfl, (candidate_eq5 (by simp)).trans ?_⟩
    unfold candidate5
    simp [hf.raw_keep]
  | rsdQuery o | treeMask o | treePos o | treePrune o | treeRd o =>
    have hf := Instr.fits (o := o) { d := true, a := true } (rest := []) hw rfl rfl rfl (by simp [Fields.restAbsent])
    obtain rfl := Option.some.inj he
    refine ⟨rfl, (candidate_eq5 (by simp)).trans ?_⟩
    unfold candidate5
    simp [hf.raw_keep]
  | treeAdd o | kvFind o =>
    have hf := Instr.fits (o := o) { d := true, a := true, b := true } (rest := []) hw rfl rfl rfl (by simp [Fields.restAbsent])
    obtain rfl := Option.some.inj he
    refine ⟨rfl, (candidate_eq5 (by simp)).trans ?_⟩
    unfold candidate5
    simp [hf.raw_keep]
  | kvInsert o =>
    have hf := Instr.fits (o := o) { a := true, b := true, c := true } (rest := []) hw rfl rfl rfl (by simp [Fields.restAbsent])
    obtain rfl := Option.some.inj he
    refine ⟨rfl, (candidate_eq5 (by simp)).trans ?_⟩
    unfold candidate5
    simp [hf.raw_keep]
  | cpy o chg | srd o chg =>
    have hf := Instr.fits (o := o) { a := true, b := true, c := true } (rest := []) hw rfl rfl rfl (by simp [Fields.restAbsent])
    obtain rfl := Option.some.inj he
    refine ⟨rfl, (candidate_eq6 (by simp)).trans ?_⟩
    unfold candidate6
    simp [hf.raw_keep, extract_setWidth]
  | cpy2d o chg e | dcx o chg f e =>
    have hf := Instr.fits (o := o) { a := true, b := true, c := true } (rest := _) hw rfl rfl rfl (by simp [Fields.restAbsent])
    have h0 : o.imm = 0 := Instr.imm_eq_zero hw hf rfl rfl rfl rfl
    obtain rfl := Option.some.inj he
    refine ⟨rfl, (candidate_eq6 (by simp)).trans ?_⟩
    unfold candidate6
    simp [hf.raw_drop _ _ _ h0, extract_setWidth]
  | launch o =>
    have hf := Instr.fits (o := o) { d := true, a := true, b := true } (rest := []) hw rfl rfl rfl (by simp [Fields.restAbsent])
    obtain rfl := Option.some.inj he
    refine ⟨rfl, (candidate_eq6 (by simp)).trans ?_⟩
    unfold candidate6
    simp [hf.raw_keep]
  | barArrive o n | gangArrive o n =>
    have hf := Instr.fits (o := o) { d := true, b := true } (rest := []) hw rfl rfl rfl (by simp [Fields.restAbsent])
    obtain rfl := Option.some.inj he
    refine ⟨rfl, (candidate_eq6 (by simp)).trans ?_⟩
    unfold candidate6
    simp [hf.raw_keep, extract_setWidth]
  | barWait o n | gangWait o n | dqPush o | tierUnpin o =>
    have hf := Instr.fits (o := o) { a := true } (rest := []) hw rfl rfl rfl (by simp [Fields.restAbsent])
    obtain rfl := Option.some.inj he
    refine ⟨rfl, (candidate_eq6 (by simp)).trans ?_⟩
    unfold candidate6
    simp [hf.raw_keep, extract_setWidth]
  | dqPop o p =>
    have hf := Instr.fits (o := o) { d := true } (rest := _) hw rfl rfl rfl (by simp [Fields.restAbsent])
    obtain rfl := Option.some.inj he
    refine ⟨rfl, (candidate_eq6 (by simp)).trans ?_⟩
    unfold candidate6
    simp [hf.raw_keep, extract_setWidth]
  | tierHint o | tierPin o =>
    have hf := Instr.fits (o := o) { a := true, b := true } (rest := []) hw rfl rfl rfl (by simp [Fields.restAbsent])
    obtain rfl := Option.some.inj he
    refine ⟨rfl, (candidate_eq6 (by simp)).trans ?_⟩
    unfold candidate6
    simp [hf.raw_keep]
  | tierQuery o =>
    have hf := Instr.fits (o := o) { d := true, a := true } (rest := []) hw rfl rfl rfl (by simp [Fields.restAbsent])
    obtain rfl := Option.some.inj he
    refine ⟨rfl, (candidate_eq6 (by simp)).trans ?_⟩
    unfold candidate6
    simp [hf.raw_keep]
  | trap o c q | svc o n | brk o n =>
    have hf := Instr.fits (o := o) {} (rest := []) hw rfl rfl rfl (by simp [Fields.restAbsent])
    have h0 : o.imm = 0 := Instr.imm_eq_zero hw hf rfl rfl rfl rfl
    obtain rfl := Option.some.inj he
    refine ⟨rfl, (candidate_eq7 (by simp)).trans ?_⟩
    unfold candidate7
    simp [hf.raw_drop _ _ _ h0, extract_setWidth]
  | wrpriv o n =>
    have hf := Instr.fits (o := o) { a := true } (rest := []) hw rfl rfl rfl (by simp [Fields.restAbsent])
    have h0 : o.imm = 0 := Instr.imm_eq_zero hw hf rfl rfl rfl rfl
    obtain rfl := Option.some.inj he
    refine ⟨rfl, (candidate_eq7 (by simp)).trans ?_⟩
    unfold candidate7
    simp [hf.raw_drop _ _ _ h0, extract_setWidth]
  | rdpriv o n | rdctr o n =>
    have hf := Instr.fits (o := o) { d := true } (rest := []) hw rfl rfl rfl (by simp [Fields.restAbsent])
    have h0 : o.imm = 0 := Instr.imm_eq_zero hw hf rfl rfl rfl rfl
    obtain rfl := Option.some.inj he
    refine ⟨rfl, (candidate_eq7 (by simp)).trans ?_⟩
    unfold candidate7
    simp [hf.raw_drop _ _ _ h0, extract_setWidth]
  | ixset o | ixinc o =>
    obtain ⟨habs, hlegal, -, -⟩ := Instr.wf_parts hw
    obtain ⟨hb, hc⟩ := of_decide_eq_true (p := o.b = .none ∧ o.c = .none) habs
    obtain ⟨m, hm⟩ := Slot.ix_of_legal (hlegal _ List.mem_cons_self) rfl
    have ha : o.a.coded = true := Slot.coded_of_legal (x := .s o.a 32) (hlegal _ (List.mem_cons_of_mem _ List.mem_cons_self)) nofun
    obtain rfl := Option.some.inj he
    refine ⟨rfl, (candidate_eq0 (by simp)).trans ?_⟩
    unfold candidate0
    simp [Opr.raw_ixD _ ha hb hc, Opr.decIx_d hm]
  | ixget o =>
    obtain ⟨habs, hlegal, -, -⟩ := Instr.wf_parts hw
    obtain ⟨hb, hc⟩ := of_decide_eq_true (p := o.b = .none ∧ o.c = .none) habs
    obtain ⟨m, hm⟩ := Slot.ix_of_legal (hlegal _ (List.mem_cons_of_mem _ List.mem_cons_self)) rfl
    have hd : o.d.coded = true := Slot.coded_of_legal (x := .d o.d 32) (hlegal _ List.mem_cons_self) nofun
    obtain rfl := Option.some.inj he
    refine ⟨rfl, (candidate_eq0 (by simp)).trans ?_⟩
    unfold candidate0
    simp [Opr.raw_ixA _ hd hb hc, Opr.decIx_a hm]
  | fcvt o t src rm q =>
    obtain ⟨-, -, -, hmod⟩ := Instr.wf_parts hw
    have himm : o.imm = 0 := of_decide_eq_true (Bool.and_eq_true_iff.mp hmod).2
    have hf := Instr.fits (o := o) { d := true, a := true } (rest := []) hw (by show [Slot.op _, _] = _; split <;> rfl)
      (by show List.all [_, _] _ = _; split <;> rfl) rfl
      (by simp [Fields.restAbsent])
    obtain rfl := Option.some.inj he
    refine ⟨rfl, (candidate_eq1 (by simp)).trans ?_⟩
    unfold candidate1
    simp [hf.raw_drop _ _ _ himm, tyMod_hi, Rm.code_lt]
  | fcvti o t src rm q =>
    obtain ⟨-, -, -, hmod⟩ := Instr.wf_parts hw
    have himm : o.imm = 0 := of_decide_eq_true (Bool.and_eq_true_iff.mp (Bool.and_eq_true_iff.mp hmod).1).2
    have hf := Instr.fits (o := o) { d := true, a := true } (rest := []) hw (rfl) (rfl) rfl
      (by simp [Fields.restAbsent])
    obtain rfl := Option.some.inj he
    refine ⟨rfl, (candidate_eq1 (by simp)).trans ?_⟩
    unfold candidate1
    simp [hf.raw_drop _ _ _ himm, tyMod_hi, Rm.code_lt]
  | icvtf o t src rm q =>
    obtain ⟨-, -, -, hmod⟩ := Instr.wf_parts hw
    have himm : o.imm = 0 := of_decide_eq_true (Bool.and_eq_true_iff.mp (Bool.and_eq_true_iff.mp hmod).1).2
    have hf := Instr.fits (o := o) { d := true, a := true } (rest := []) hw (by show [Slot.op _, _] = _; split <;> rfl)
      (by show List.all [_, _] _ = _; split <;> rfl) rfl
      (by simp [Fields.restAbsent])
    obtain rfl := Option.some.inj he
    refine ⟨rfl, (candidate_eq1 (by simp)).trans ?_⟩
    unfold candidate1
    simp [hf.raw_drop _ _ _ himm, tyMod_hi, Rm.code_lt]
  | bra o p j =>
    have hf := Instr.fits (o := o) {} (rest := []) hw rfl rfl rfl (by simp [Fields.restAbsent])
    have himm : o.imm = 0 := Instr.imm_eq_zero hw hf rfl rfl rfl rfl
    obtain ⟨-, -, -, hmod⟩ := Instr.wf_parts hw
    have hj : ∀ x, j = some x → x.slot.toNat < 5 := by
      rintro x rfl
      exact of_decide_eq_true (Bool.and_eq_true_iff.mp hmod).2
    obtain rfl := Option.some.inj he
    refine ⟨rfl, (candidate_eq4 (by simp)).trans ?_⟩
    unfold candidate4
    simp [hf.rawX_drop _ _ rfl rfl himm, Opr.rawX_join _ _ _ _ hj]
  | brx o j =>
    have hf := Instr.fits (o := o) { a := true } (rest := []) hw rfl rfl rfl (by simp [Fields.restAbsent])
    have himm : o.imm = 0 := Instr.imm_eq_zero hw hf rfl rfl rfl rfl
    obtain ⟨-, -, -, hmod⟩ := Instr.wf_parts hw
    have hj : ∀ x, j = some x → x.slot.toNat < 5 := by
      rintro x rfl
      exact of_decide_eq_true hmod
    obtain rfl := Option.some.inj he
    refine ⟨rfl, (candidate_eq4 (by simp)).trans ?_⟩
    unfold candidate4
    simp [hf.rawX_drop _ _ rfl rfl himm, Opr.rawX_join _ _ _ _ hj]
  | coll o chg kd op ct w sig e =>
    have hf := Instr.fits (o := o) { a := true, b := true, c := true } (rest := _) hw rfl (by cases sig <;> rfl) rfl
      (by simp [Fields.restAbsent])
    have himm : o.imm = 0 := Instr.imm_eq_zero hw hf rfl (by cases sig <;> rfl) rfl rfl
    obtain ⟨hkd, hop, hct, hwc, hsig⟩ := collImm_fields e kd op ct w sig rfl
    obtain rfl := Option.some.inj he
    refine ⟨rfl, (candidate_eq6 (by simp)).trans ?_⟩
    unfold candidate6
    simp [hf.raw_drop _ _ _ himm, extract_setWidth, hkd, hop, hct, hwc, hsig]
  | tresume o e =>
    have hf := Instr.fits (o := o) { d := true, a := true, b := true, c := true } (rest := _) hw rfl
      (by show List.all (_ ++ _) _ = _; split <;> rfl) (P := True) rfl (by simp [Fields.restAbsent])
    obtain ⟨-, hlegal, hi, hmod⟩ := Instr.wf_parts hw
    obtain rfl := Option.some.inj he
    refine ⟨rfl, (candidate_eq7 (by simp)).trans ?_⟩
    unfold candidate7
    by_cases hu : o.usesImm = true
    · have ha : o.a ≠ .imm := Slot.ne_imm_of_legal (x := { op := o.a, wr := false, rd := true, w := 64, cls := .laneR })
        (hlegal _ (by show _ ∈ _ :: _ :: _; simp)) nofun nofun
      have he : e = 0 := by
        have hbc : (o.b = .imm || o.c = .imm) = true := by simpa [Opr.usesImm, ha] using hu
        change (if (o.b = .imm || o.c = .imm) = true then decide (e = 0) else true) = true at hmod
        rw [if_pos hbc] at hmod
        exact of_decide_eq_true hmod
      simp [hu, hf.raw_keep, he]
    · have hu' : o.usesImm = false := by simpa using hu
      have himm := Instr.imm_eq_zero_of_unused hi rfl hu' rfl
      have hread : (o.raw 0x383 0 (e ++ 0#24)).opr { d := true, a := true, b := true, c := true } true =
          some { o with imm := e ++ 0#24 } := Opr.Fits.raw_keep (o := { o with imm := e ++ 0#24 }) ⟨hf.used, hf.rest⟩ 0x383 0
      have hkeep : Opr.usesImm { o with imm := e ++ 0#24 } = false := hu'
      have hzero : { o with imm := 0#32 } = o := congrArg (fun x => { o with imm := x }) himm.symm
      simp [hu, hread, hkeep, hzero]
  | _ => cases he

theorem decodeRaw_enc {i : Instr} {r : Raw} (he : i.enc = some r) (hw : i.wf = true) : decodeRaw r = .ok i := by
  obtain ⟨hassigned, hcandidate⟩ := assigned_candidate_enc he hw
  rw [decodeRaw, if_pos hassigned, hcandidate]
  dsimp only
  rw [if_pos he, if_pos hw]

/-- The decoder accepts fields only as the encoding of the well-formed instruction that it answers (R189). -/
theorem enc_of_decodeRaw {i : Instr} {r : Raw} (h : decodeRaw r = .ok i) : i.enc = some r ∧ i.wf = true := by
  unfold decodeRaw at h
  split at h
  · split at h
    · cases h
    · split at h
      · split at h
        · cases h; exact ⟨‹_›, ‹_›⟩
        · cases h
      · cases h
  · cases h

/-- Settles O58: packing the fields loses nothing, a well-formed instruction is read back from its fields, and the decoder answers an
instruction only for the fields that encode it. -/
theorem encodeDecode : Obligations.EncodeDecode := by
  intro i w
  constructor
  · rintro ⟨he, hw⟩
    obtain ⟨r, hr, rfl⟩ := Option.map_eq_some_iff.mp he
    rw [decodeWord, Raw.unpack_pack]
    exact decodeRaw_enc hr hw
  · intro h
    obtain ⟨he, hw⟩ := enc_of_decodeRaw h
    exact ⟨by rw [encode, he, Option.map_some, Raw.pack_unpack], hw⟩

end Sys2Proof

/-! SUPPORT. Index descriptors and register segments of class 000 (R243 to R247). -/

namespace Sys2Proof.Machine

theorem exec_ixset (s : State) (o : Opr) : exec (.ixset o) s = execIxset o s := rfl
theorem exec_ixinc (s : State) (o : Opr) : exec (.ixinc o) s = execIxinc o s := rfl
theorem exec_ixget (s : State) (o : Opr) : exec (.ixget o) s = execIxget o s := rfl
theorem exec_rgrow (s : State) (o : Opr) : exec (.rgrow o) s = execRgrow o s := rfl
theorem exec_rshrink (s : State) (o : Opr) : exec (.rshrink o) s = execRshrink o s := rfl

/-- The operands of the record are those of the instruction. -/
theorem State.opr_of_issues {s : State} {i : Instr} {x : Iss} {o : Opr} (h : s.issues i = some x) (ho : i.opr? = some o) : x.o = o := by
  obtain ⟨hm, -⟩ := State.issues_iff.mp h
  obtain ⟨ht, -⟩ := State.mayIssue_iff.mp hm
  exact Option.some.inj ((State.thread_opr ht).2.symm.trans ho)

/-- A register write changes the v, s and p registers alone. -/
theorem Ctx.applyRW_frame (c : Ctx) (w : RW) : ∃ v q p, c.applyRW w = { c with v := v, s := q, p := p } := by
  cases w with
  | v l n y => exact (ite_eq_or_eq ..).elim (fun h => ⟨_, _, _, h⟩) fun h => ⟨_, _, _, h⟩
  | s n y => exact ⟨_, _, _, rfl⟩
  | p l n y => exact (ite_eq_or_eq ..).elim (fun h => ⟨_, _, _, h⟩) fun h => ⟨_, _, _, h⟩

theorem Ctx.applyAll_frame (c : Ctx) (ws : List RW) : ∃ v q p, c.applyAll ws = { c with v := v, s := q, p := p } := by
  induction ws generalizing c with
  | nil => exact ⟨_, _, _, rfl⟩
  | cons w ws ih =>
    obtain ⟨v, q, p, hw⟩ := Ctx.applyRW_frame c w
    obtain ⟨v', q', p', hws⟩ := ih (c.applyRW w)
    exact ⟨v', q', p', hws.trans (by rw [hw])⟩

/-- An index register reads alike whatever has landed (R185). -/
theorem Iss.rd_ix {x : Iss} {op : Operand} {m : BitVec 2} (h : op.of x.o = .ix m) (s : State) (l w : Nat) (e : Ext) :
    x.rd s l w e op = (x.c.rix l m.toNat).toNat := by
  obtain ⟨v, q, p, hc⟩ := Ctx.applyAll_frame x.c ((x.olds.zipIdx.filter (fun y => Config.early s.pt op.num y.2)).map (·.1))
  rw [Iss.rd, h, Iss.rdAt, Ctx.asRead, hc]
  rfl

theorem execRgrow_issues {s : State} {o : Opr} {x : Iss} (h : s.issues (.rgrow o) = some x) (hr : x.c.rgrow = none) :
    execRgrow o s = .next (
      if x.rd s (lowest x.part) 32 .zero .a ≤ x.c.seg then s.lands x 32 false (fun _ => 1)
      else if 8 < x.rd s (lowest x.part) 32 .zero .a then s.lands x 32 false (fun _ => 0)
      else s.retire x { x.c.flagUp x.flag with
        rgrow := some { want := x.rd s (lowest x.part) 32 .zero .a, part := x.part, pred := match o.d with | .pred n => n.toNat | _ => 7,
                        flag := x.flag, since := s.pt } }) := by
  rw [execRgrow, State.issue_issues h, hr]
  rfl

theorem execRshrink_issues {s : State} {o : Opr} {x : Iss} (h : s.issues (.rshrink o) = some x) (hr : x.c.rgrow = none) :
    execRshrink o s = .next (
      if 1 ≤ x.rd s (lowest x.part) 32 .zero .a ∧ x.rd s (lowest x.part) 32 .zero .a < x.c.seg
      then s.retire x ((x.c.applyAll (x.results 32 false (fun _ => 1))).cutSegment (x.rd s (lowest x.part) 32 .zero .a))
      else s.lands x 32 false (fun _ => 0)) := by
  rw [execRshrink, State.issue_issues h, hr]
  by_cases hw : 1 ≤ x.rd s (lowest x.part) 32 .zero .a ∧ x.rd s (lowest x.part) 32 .zero .a < x.c.seg
  · rw [if_pos hw]
    dsimp only
    rw [decide_eq_true hw]
    rfl
  · rw [if_neg hw]
    dsimp only
    rw [decide_eq_false hw]
    rfl

/-- Settles O5: each instruction issues with the index register that it names, and with no earlier rgrow outstanding. -/
theorem indexAndSegments : Obligations.IndexAndSegments := by
  intro s x o m
  dsimp only
  refine ⟨fun h hd => ?_, fun h hd => ?_, fun h ha => ?_, fun h hr => (exec_rgrow ..).trans (execRgrow_issues h hr),
    fun h hr => (exec_rshrink ..).trans (execRshrink_issues h hr)⟩
  · rw [exec_ixset, execIxset, State.issue_issues h, hd]
    rfl
  · rw [exec_ixinc, execIxinc, State.issue_issues h, hd]
    rfl
  · have ho : x.o = o := State.opr_of_issues h rfl
    exact (exec_ixget ..).trans (State.lanewise_lands h fun l => congrArg (x.wr l 32 false)
      (Iss.rd_ix (op := .a) ((congrArg Opr.a ho).trans ha) s l 32 .zero))

end Sys2Proof.Machine

/-! SUPPORT. Floating point of class 001 (R256 to R262). -/

namespace Sys2Proof.Machine

theorem exec_fadd (s : State) (o : Opr) (t : Ty) (rm : Rm) : exec (.fadd o t rm) s = execFadd o t rm s := rfl
theorem exec_fsub (s : State) (o : Opr) (t : Ty) (rm : Rm) : exec (.fsub o t rm) s = execFsub o t rm s := rfl
theorem exec_fmul (s : State) (o : Opr) (t : Ty) (rm : Rm) : exec (.fmul o t rm) s = execFmul o t rm s := rfl
theorem exec_ffma (s : State) (o : Opr) (t : Ty) (rm : Rm) : exec (.ffma o t rm) s = execFfma o t rm s := rfl
theorem exec_frnd (s : State) (o : Opr) (t : Ty) (rm : Rm) : exec (.frnd o t rm) s = execFrnd o t rm s := rfl
theorem exec_fmin (s : State) (o : Opr) (t : Ty) : exec (.fmin o t) s = execFmin o t s := rfl
theorem exec_fmax (s : State) (o : Opr) (t : Ty) : exec (.fmax o t) s = execFmax o t s := rfl
theorem exec_fabs (s : State) (o : Opr) (t : Ty) : exec (.fabs o t) s = execFabs o t s := rfl
theorem exec_fneg (s : State) (o : Opr) (t : Ty) : exec (.fneg o t) s = execFneg o t s := rfl
theorem exec_fcmp (s : State) (o : Opr) (t : Ty) (cc : FCond) : exec (.fcmp o t cc) s = execFcmp o t cc s := rfl
theorem exec_fclass (s : State) (o : Opr) (t : Ty) : exec (.fclass o t) s = execFclass o t s := rfl
theorem exec_fcvt (s : State) (o : Opr) (t : Ty) (src : Ty) (rm : Rm) (q : BitVec 3) : exec (.fcvt o t src rm q) s = execFcvt o t src rm q s := rfl
theorem exec_fcvti (s : State) (o : Opr) (t : Ty) (src : Ty) (rm : Rm) (q : BitVec 3) : exec (.fcvti o t src rm q) s =
    execFcvti o t src rm q s := rfl
theorem exec_icvtf (s : State) (o : Opr) (t : Ty) (src : Ty) (rm : Rm) (q : BitVec 3) : exec (.icvtf o t src rm q) s =
    execIcvtf o t src rm q s := rfl
theorem exec_frcp (s : State) (o : Opr) (t : Ty) : exec (.frcp o t) s = execFrcp o t s := rfl
theorem exec_frsqrt (s : State) (o : Opr) (t : Ty) : exec (.frsqrt o t) s = execFrsqrt o t s := rfl
theorem exec_fexp2 (s : State) (o : Opr) (t : Ty) : exec (.fexp2 o t) s = execFexp2 o t s := rfl
theorem exec_flog2 (s : State) (o : Opr) (t : Ty) : exec (.flog2 o t) s = execFlog2 o t s := rfl
theorem exec_fsin (s : State) (o : Opr) (t : Ty) : exec (.fsin o t) s = execFsin o t s := rfl
theorem exec_fcos (s : State) (o : Opr) (t : Ty) : exec (.fcos o t) s = execFcos o t s := rfl
theorem exec_ftanh (s : State) (o : Opr) (t : Ty) : exec (.ftanh o t) s = execFtanh o t s := rfl
theorem exec_fsqrt (s : State) (o : Opr) (t : Ty) (rm : Rm) : exec (.fsqrt o t rm) s = execFsqrt o t rm s := rfl
theorem exec_fdiv (s : State) (o : Opr) (t : Ty) (rm : Rm) : exec (.fdiv o t rm) s = execFdiv o t rm s := rfl

section
variable {s : State} {i : Instr} {x : Iss} {w : Nat} {sgn : Bool} {rm : Rm} {n : Nat} {v : Nat → Nat}
  {f : State → Iss → Nat → List Nat → List RW}

/-- Rounded results that are available at once land in D, the generators having stepped (R218). -/
theorem State.rounding_lands (h : s.issues i = some x) (hf : ∀ l, f s x l (s.us x rm n l) = x.wr l w sgn (v l)) :
    s.rounding i rm n false f =
      .next (s.retire x ({ x.c with sr := s.srAfter x rm n }.applyAll (x.results w sgn v))) := by
  have hws : x.laneWrites (fun l => f s x l (s.us x rm n l)) = x.results w sgn v := congrArg (List.flatMap · _) (funext hf)
  rw [State.rounding, State.issue_issues h, hws]
  rfl

/-- Rounded results of variable latency are due in D, the generators having stepped (R218). -/
theorem State.rounding_owes (h : s.issues i = some x) (hf : ∀ l, f s x l (s.us x rm n l) = x.wr l w sgn (v l)) :
    s.rounding i rm n true f =
      .next (s.pend x { x.c with sr := s.srAfter x rm n } { writes := x.results w sgn v, flag := none }) := by
  have hws : x.laneWrites (fun l => f s x l (s.us x rm n l)) = x.results w sgn v := congrArg (List.flatMap · _) (funext hf)
  rw [State.rounding, State.issue_issues h, hws]
  rfl

end

theorem State.fpRound_lands {s : State} {i : Instr} {x : Iss} {o : Opr} {t : Ty} {rm : Rm} (h : s.issues i = some x)
    (f : Nat → Nat → Nat → Nat → Nat) : s.fpRound i o t rm f = .next (s.retire x ({ x.c with sr := s.srAfter x rm (elemsOf t) }.applyAll
      (x.results t.width false fun l => onElems t f (s.us x rm (elemsOf t) l) (x.rd s l t.width (extOf t) .a)
        (x.rd s l t.width (extOf t) .b) (x.rd s l t.width (extOf t) .c)))) :=
  State.rounding_lands h fun _ => rfl

theorem State.fpPlain_lands {s : State} {i : Instr} {x : Iss} {o : Opr} {t : Ty} (h : s.issues i = some x) (f : Nat → Nat → Nat) :
    s.fpPlain i o t f = .next (s.lands x t.width false fun l =>
      onElems t (fun a b _ _ => f a b) [] (x.rd s l t.width (extOf t) .a) (x.rd s l t.width (extOf t) .b) 0) :=
  State.lanewise_lands h fun _ => rfl

theorem State.special1_owes {s : State} {i : Instr} {x : Iss} {o : Opr} {t : Ty} (h : s.issues i = some x) (f : Nat → Nat) :
    s.special1 i o t f = .next (s.owes x t.width false fun l => f (x.rd s l t.width (extOf t) .a)) :=
  State.lanewiseVar_owes h fun _ => rfl

/-- Settles O6: element-wise operations land lane by lane, those that round with the generators stepped. -/
theorem floatArithmetic : Obligations.FloatArithmetic := by
  intro s x o t rm cc
  dsimp only
  exact ⟨fun h => (exec_fadd ..).trans (State.fpRound_lands h _),
    fun h => (exec_fsub ..).trans (State.fpRound_lands h _),
    fun h => (exec_fmul ..).trans (State.fpRound_lands h _),
    fun h => (exec_ffma ..).trans (State.fpRound_lands h _),
    fun h => (exec_frnd ..).trans (State.fpRound_lands h _),
    fun h => (exec_fmin ..).trans (State.fpPlain_lands h _),
    fun h => (exec_fmax ..).trans (State.fpPlain_lands h _),
    fun h => (exec_fabs ..).trans (State.fpPlain_lands h _),
    fun h => (exec_fneg ..).trans (State.fpPlain_lands h _),
    fun h => (exec_fcmp ..).trans (State.lanewise_lands h fun _ => rfl),
    fun h => (exec_fclass ..).trans (State.lanewise_lands h fun _ => rfl)⟩

/-- An integer that is not an int16 pair becomes one element (R261). -/
theorem execIcvtf_of_ne_h2 {s : State} {x : Iss} {o : Opr} {t src : Ty} {rm : Rm} {q : BitVec 3} {v : Nat → Nat}
    (h : s.issues (.icvtf o t src rm q) = some x) (hsrc : src ≠ .h2)
    (hv : ∀ l, (if t.fbits = 16 then putBits (x.rd s l 32 .zero .d) (16 * q.toNat) 16
        (icvtfVal t rm (intVal src src.width (x.rd s l src.width (extOf src) .a)) ((s.us x rm 1 l).getD 0 0))
      else icvtfVal t rm (intVal src src.width (x.rd s l src.width (extOf src) .a)) ((s.us x rm 1 l).getD 0 0)) = v l) :
    execIcvtf o t src rm q s =
      .next (s.retire x ({ x.c with sr := s.srAfter x rm 1 }.applyAll (x.results t.width false v))) := by
  rw [execIcvtf, if_neg hsrc]
  refine State.rounding_lands h fun l => ?_
  dsimp only
  rw [if_neg hsrc, hv]

/-- Settles O7: conversions land lane by lane with the generators stepped. -/
theorem floatConversions : Obligations.FloatConversions := by
  intro s x o t src rm q
  dsimp only
  exact ⟨fun h => (exec_fcvt ..).trans (State.rounding_lands h fun _ => rfl),
    fun h => (exec_fcvti ..).trans (State.rounding_lands h fun _ => rfl),
    fun h hsrc ht => (exec_icvtf ..).trans (execIcvtf_of_ne_h2 h hsrc fun _ => if_neg ht),
    fun h hsrc ht => (exec_icvtf ..).trans (execIcvtf_of_ne_h2 h hsrc fun _ => if_pos ht),
    fun h => (exec_icvtf ..).trans (State.rounding_lands h fun _ => rfl)⟩

/-- Settles O8: special functions are due lane by lane; fsqrt and fdiv round. -/
theorem floatSpecialFunctions : Obligations.FloatSpecialFunctions := by
  intro s x o t rm
  dsimp only
  exact ⟨fun h => (exec_frcp ..).trans (State.special1_owes h _),
    fun h => (exec_frsqrt ..).trans (State.special1_owes h _),
    fun h => (exec_fexp2 ..).trans (State.special1_owes h _),
    fun h => (exec_flog2 ..).trans (State.special1_owes h _),
    fun h => (exec_fsin ..).trans (State.special1_owes h _),
    fun h => (exec_fcos ..).trans (State.special1_owes h _),
    fun h => (exec_ftanh ..).trans (State.special1_owes h _),
    fun h => (exec_fsqrt ..).trans (State.rounding_owes h fun _ => rfl),
    fun h => (exec_fdiv ..).trans (State.rounding_owes h fun _ => rfl)⟩

end Sys2Proof.Machine

/-! SUPPORT. The packed elements, cross-lane operations and Kulisch register of class 010 (R263 to R270). -/

namespace Sys2Proof.Machine

theorem exec_hadd (s : State) (o : Opr) (sat : Bool) : exec (.hadd o sat) s = execHadd o sat s := rfl
theorem exec_hsub (s : State) (o : Opr) (sat : Bool) : exec (.hsub o sat) s = execHsub o sat s := rfl
theorem exec_hmul (s : State) (o : Opr) (sat : Bool) : exec (.hmul o sat) s = execHmul o sat s := rfl
theorem exec_hmad (s : State) (o : Opr) (sat : Bool) : exec (.hmad o sat) s = execHmad o sat s := rfl
theorem exec_hmin (s : State) (o : Opr) : exec (.hmin o) s = execHmin o s := rfl
theorem exec_hmax (s : State) (o : Opr) : exec (.hmax o) s = execHmax o s := rfl
theorem exec_hclamp (s : State) (o : Opr) : exec (.hclamp o) s = execHclamp o s := rfl
theorem exec_hsar (s : State) (o : Opr) (rnd : Bool) : exec (.hsar o rnd) s = execHsar o rnd s := rfl
theorem exec_pxunpk (s : State) (o : Opr) (w : PxW) : exec (.pxunpk o w) s = execPxunpk o w s := rfl
theorem exec_pxpack (s : State) (o : Opr) (w : PxW) : exec (.pxpack o w) s = execPxpack o w s := rfl
theorem exec_perm (s : State) (o : Opr) (t : Ty) (pm : PermMode) : exec (.perm o t pm) s = execPerm o t pm s := rfl
theorem exec_lmask (s : State) (o : Opr) (lm : LmaskMode) : exec (.lmask o lm) s = execLmask o lm s := rfl
theorem exec_lgrp (s : State) (o : Opr) (t : Ty) (gm : LgrpMode) : exec (.lgrp o t gm) s = execLgrp o t gm s := rfl
theorem exec_lred (s : State) (o : Opr) (t : Ty) (op : LredOp) : exec (.lred o t op) s = execLred o t op s := rfl
theorem exec_lpre (s : State) (o : Opr) (t : Ty) (op : LredOp) : exec (.lpre o t op) s = execLpre o t op s := rfl
theorem exec_kaclr (s : State) (o : Opr) : exec (.kaclr o) s = execKaclr o s := rfl
theorem exec_kaadd (s : State) (o : Opr) : exec (.kaadd o) s = execKaadd o s := rfl
theorem exec_kamad (s : State) (o : Opr) : exec (.kamad o) s = execKamad o s := rfl
theorem exec_karead (s : State) (o : Opr) (t : Ty) (rm : Rm) : exec (.karead o t rm) s = execKaread o t rm s := rfl

/-- A pattern is that of its signed value. -/
theorem wrap_sx {w a : Nat} (ha : a < 2 ^ w) : wrap w (sx w a) = a := by
  unfold wrap sx
  split
  · rw [Int.emod_eq_of_lt (Int.natCast_nonneg a) (by exact_mod_cast ha), Int.toNat_natCast]
  · rw [Int.sub_emod_right, Int.emod_eq_of_lt (Int.natCast_nonneg a) (by exact_mod_cast ha), Int.toNat_natCast]

theorem elemOf_lt (w i x : Nat) : elemOf w i x < 2 ^ w := Nat.mod_lt _ (Nat.two_pow_pos w)

/-- An element is the pattern of its signed value. -/
theorem wrap_sx_elemOf (i x : Nat) : wrap 16 (sx 16 (elemOf 16 i x)) = elemOf 16 i x := wrap_sx (elemOf_lt 16 i x)

/-- The signed value of a choice of patterns, back as a pattern, is the choice. -/
theorem wrap_ite_sx {p : Prop} [Decidable p] {a b : Nat} (ha : a < 2 ^ 16) (hb : b < 2 ^ 16) :
    wrap 16 (if p then sx 16 a else sx 16 b) = if p then a else b := by
  split
  · exact wrap_sx ha
  · exact wrap_sx hb

theorem State.pairs_lands_onPairs {s : State} {i : Instr} {o : Opr} {x : Iss} (h : s.issues i = some x) (f : Nat → Nat → Nat → Nat) :
    s.pairs i o f = .next (s.lands x 32 true fun l =>
      onPairs f (x.rd s l 32 .zero .a) (x.rd s l 32 .zero .b) (x.rd s l 32 .zero .c)) :=
  State.lanewise_lands h fun _ => rfl

/-- An operation on the two int16 elements lands in each lane, from what it does to their signed values (R263). -/
theorem State.pairs_lands {s : State} {i : Instr} {o : Opr} {x : Iss} {f : Nat → Nat → Nat → Nat} {g : Int → Int → Int → Nat}
    (h : s.issues i = some x) (hfg : ∀ a < 2 ^ 16, ∀ b < 2 ^ 16, ∀ c < 2 ^ 16, f a b c = g (sx 16 a) (sx 16 b) (sx 16 c)) :
    s.pairs i o f = .next (s.lands x 32 true fun l =>
      g (sx 16 (elemOf 16 0 (x.rd s l 32 .zero .a))) (sx 16 (elemOf 16 0 (x.rd s l 32 .zero .b)))
          (sx 16 (elemOf 16 0 (x.rd s l 32 .zero .c)))
        + 2 ^ 16 * g (sx 16 (elemOf 16 1 (x.rd s l 32 .zero .a))) (sx 16 (elemOf 16 1 (x.rd s l 32 .zero .b)))
          (sx 16 (elemOf 16 1 (x.rd s l 32 .zero .c)))) := by
  rw [State.pairs_lands_onPairs h]
  simp only [onPairs, hfg _ (elemOf_lt ..) _ (elemOf_lt ..) _ (elemOf_lt ..)]

/-- Settles O9: the signed values of an element's pattern determine it. -/
theorem packedElements : Obligations.PackedElements := by
  intro s x o sat rnd w
  dsimp only
  refine ⟨fun h => (exec_hadd ..).trans (State.pairs_lands (g := fun a b _ => fit16 sat (a + b)) h fun _ _ _ _ _ _ => rfl),
    fun h => (exec_hsub ..).trans (State.pairs_lands (g := fun a b _ => fit16 sat (a - b)) h fun _ _ _ _ _ _ => rfl),
    fun h => (exec_hmul ..).trans (State.pairs_lands (g := fun a b _ => fit16 sat (a * b)) h fun _ _ _ _ _ _ => rfl),
    fun h => (exec_hmad ..).trans (State.pairs_lands (g := fun a b c => fit16 sat (a * b + c)) h fun _ _ _ _ _ _ => rfl),
    fun h => (exec_hmin ..).trans (State.pairs_lands (g := fun a b _ => wrap 16 (if a ≤ b then a else b)) h
      fun _ ha _ hb _ _ => (wrap_ite_sx ha hb).symm),
    fun h => (exec_hmax ..).trans (State.pairs_lands (g := fun a b _ => wrap 16 (if b ≤ a then a else b)) h
      fun _ ha _ hb _ _ => (wrap_ite_sx ha hb).symm),
    fun h => (exec_hclamp ..).trans (State.pairs_lands
      (g := fun a b c => wrap 16 (let m := if a ≤ b then b else a; if m ≤ c then m else c)) h fun a ha b hb c hc => ?_),
    fun h => (exec_hsar ..).trans (State.pairs_lands_onPairs h _),
    fun h => (exec_pxunpk ..).trans (State.lanewise_lands h fun _ => rfl),
    fun h => (exec_pxpack ..).trans (State.lanewise_lands h fun _ => rfl)⟩
  dsimp only
  split
  · exact (wrap_ite_sx hb hc).symm
  · exact (wrap_ite_sx ha hc).symm

/-- Settles O10: each lane's result is due; perm reads its source lane if that takes part, and else its own. -/
theorem crossLane : Obligations.CrossLane := by
  intro s x o t pm lm gm op
  dsimp only
  refine ⟨fun h => (exec_perm ..).trans (State.lanewiseVar_owes h fun l => ?_),
    fun h => (exec_lmask ..).trans (State.lanewiseVar_owes h fun _ => rfl),
    fun h => (exec_lgrp ..).trans (State.lanewiseVar_owes h fun _ => rfl),
    fun h => (exec_lred ..).trans (State.lanewiseVar_owes h fun _ => rfl),
    fun h => (exec_lpre ..).trans (State.lanewiseVar_owes h fun _ => rfl)⟩
  dsimp only
  rw [apply_ite fun k => x.rd s k t.width .zero .a]

/-- With no image read incomplete a Kulisch instruction has its own effect (R269). -/
theorem State.kaIssue_issues {s : State} {i : Instr} {x : Iss} (h : s.issues i = some x) (hk : x.c.kaBusy = false)
    (body : State → Iss → State) : s.kaIssue i body = .next (body s x) := by
  rw [State.kaIssue, State.issue_issues h, hk]
  rfl

/-- Settles O11: no image read holds the four instructions. -/
theorem kulischRegister : Obligations.KulischRegister := by
  intro s x o t rm hk
  dsimp only
  exact ⟨fun h => (exec_kaclr ..).trans (State.kaIssue_issues h hk _), fun h => (exec_kaadd ..).trans (State.kaIssue_issues h hk _),
    fun h => (exec_kamad ..).trans (State.kaIssue_issues h hk _), fun h => (exec_karead ..).trans (State.kaIssue_issues h hk _)⟩

end Sys2Proof.Machine

/-! SUPPORT. The issue of accesses (R282), the KA images, fences and counters of class 011 (R271 to R281). -/

namespace Sys2Proof.Machine

theorem exec_ld (s : State) (o : Opr) (t : Ty) (ord : Ord) (sc : Scope) : exec (.ld o t ord sc) s = execLd o t ord sc s := rfl
theorem exec_st (s : State) (o : Opr) (t : Ty) (ord : Ord) (sc : Scope) : exec (.st o t ord sc) s = execSt o t ord sc s := rfl
theorem exec_atom (s : State) (o : Opr) (t : Ty) (op : AtomOp) (ord : Ord) (sc : Scope) :
    exec (.atom o t op ord sc) s = execAtom o t op ord sc s := rfl
theorem exec_red (s : State) (o : Opr) (t : Ty) (op : AtomOp) (ord : Ord) (sc : Scope) :
    exec (.red o t op ord sc) s = execRed o t op ord sc s := rfl
theorem exec_cas (s : State) (o : Opr) (w : CasW) (ord : Ord) (sc : Scope) : exec (.cas o w ord sc) s = execCas o w ord sc s := rfl
theorem exec_kast (s : State) (o : Opr) (ord : Ord) (sc : Scope) : exec (.kast o ord sc) s = execKast o ord sc s := rfl
theorem exec_kald (s : State) (o : Opr) (ord : Ord) (sc : Scope) : exec (.kald o ord sc) s = execKald o ord sc s := rfl
theorem exec_kaaddm (s : State) (o : Opr) (ord : Ord) (sc : Scope) : exec (.kaaddm o ord sc) s = execKaaddm o ord sc s := rfl
theorem exec_fence (s : State) (o : Opr) (ord : Ord) (sc : Scope) : exec (.fence o ord sc) s = execFence o ord sc s := rfl
theorem exec_prefetch (s : State) (o : Opr) (lv : PfLevel) : exec (.prefetch o lv) s = execPrefetch o lv s := rfl
theorem exec_accLd (s : State) (o : Opr) (t : Ty) (rm : Rm) : exec (.accLd o t rm) s = execAccLd o t rm s := rfl
theorem exec_waitAc (s : State) (o : Opr) (ac : AcCtr) : exec (.waitAc o ac) s = execWaitAc o ac s := rfl

/-- No access but an image's is of 80 bytes. -/
theorem Ty.size_ne_eighty (t : Ty) : t.size ≠ 80 := by cases t <;> decide

theorem CasW.bytes_ne_eighty (w : CasW) : w.bits / 8 ≠ 80 := by cases w <;> decide

/-- The state before the accesses are issued: a block that writes memory others can see is no longer discardable (R382). -/
def State.spoiledBy (s : State) (x : Iss) (wr spoils : Bool) : State := if (wr && spoils) = true then s.clearDisc x.c else s

section
variable {s : State} {x : Iss} {m : MemOp} {ls : List Nat} {pl : Nat → Place}
  (hord : s.orderWait x.c (m.kind 0 0).writes m.ord m.sc = none)
  (hpl : ∀ l ∈ ls, s.place x.c m.reg m.n m.align (x.ptr s l) = .ok (pl l))
include hord hpl

/-- An access that nothing holds and whose pointers lead somewhere goes to those places, if the counter of gang-peer writes has room. -/
theorem State.access_of_places {ps : List (Nat × Nat × Place)}
    (hps : ps = ls.flatMap fun l => if m.n = 80 then (List.range 5).map (fun i => (l, i, (pl l).shift (16 * i))) else [(l, 0, pl l)])
    (hroom : SMap.get 0 x.c.ac 4 + (if (m.kind 0 0).writes = true
      then (ps.filter (fun p => match p.2.2 with | .peer _ _ => true | _ => false)).length else 0) ≤ 65535) :
    s.access x m ls = (s.spoiledBy x (m.kind 0 0).writes (ps.any fun p => placeSpoils p.2.2)).launchAcc x
      (if m.n = 80 then { m with n := 16, image := true } else m) ps (ls.map fun l => (l, BitVec.ofNat 64 (x.ptr s l))) := by
  have hverdicts : ls.map (fun l => (l, s.place x.c m.reg m.n m.align (x.ptr s l))) =
      ls.map (fun l => (l, (.ok (pl l) : Except (Cause × Nat) Place))) :=
    List.map_congr_left fun l hl => by rw [hpl l hl]
  unfold State.access
  dsimp only
  rw [hord, hverdicts]
  dsimp only
  rw [List.filterMap_map, List.flatMap_map]
  simp only [Function.comp_def, List.filterMap_none]
  rw [← hps]
  exact if_neg (Nat.not_lt.mpr hroom)

/-- The accesses of the lanes, one each. -/
theorem State.access_lanes (hn : m.n ≠ 80)
    (hroom : SMap.get 0 x.c.ac 4 + (if (m.kind 0 0).writes = true
      then ((ls.map fun l => (l, 0, pl l)).filter (fun p => match p.2.2 with | .peer _ _ => true | _ => false)).length else 0) ≤ 65535) :
    s.access x m ls = (s.spoiledBy x (m.kind 0 0).writes (ls.any fun l => placeSpoils (pl l))).launchAcc x m
      (ls.map fun l => (l, 0, pl l)) (ls.map fun l => (l, BitVec.ofNat 64 (x.ptr s l))) := by
  have hps : ls.map (fun l => (l, 0, pl l)) =
      ls.flatMap fun l => if m.n = 80 then (List.range 5).map (fun i => (l, i, (pl l).shift (16 * i))) else [(l, 0, pl l)] := by
    simp only [if_neg hn]
    exact List.map_eq_flatMap
  rw [State.access_of_places hord hpl hps hroom, if_neg hn, List.any_map]
  rfl

end

theorem placeSpoils_shift (p : Place) (n : Nat) : placeSpoils (p.shift n) = placeSpoils p := by cases p <;> rfl

/-- The accesses of the five parts of an image at one lane's pointer. -/
theorem State.access_image {s : State} {x : Iss} {m : MemOp} {l : Nat} {p : Place}
    (hord : s.orderWait x.c (m.kind 0 0).writes m.ord m.sc = none) (hpl : s.place x.c m.reg m.n m.align (x.ptr s l) = .ok p)
    (hroom : SMap.get 0 x.c.ac 4 + (if (m.kind 0 0).writes = true then 5 else 0) ≤ 65535) (hn : m.n = 80) :
    s.access x m [l] = (s.spoiledBy x (m.kind 0 0).writes ([l].any fun _ => placeSpoils p)).launchAcc x { m with n := 16, image := true }
      ((List.range 5).map fun i => (l, i, p.shift (16 * i))) [(l, BitVec.ofNat 64 (x.ptr s l))] := by
  have hps : (List.range 5).map (fun i => (l, i, p.shift (16 * i))) =
      [l].flatMap fun l => if m.n = 80 then (List.range 5).map (fun i => (l, i, p.shift (16 * i))) else [(l, 0, p)] := by
    rw [List.flatMap_singleton, if_pos hn]
  have hfew : (((List.range 5).map fun i => (l, i, p.shift (16 * i))).filter
      (fun p => match p.2.2 with | .peer _ _ => true | _ => false)).length ≤ 5 := List.length_filter_le ..
  have hspoils : (((List.range 5).map fun i => (l, i, p.shift (16 * i))).any fun p => placeSpoils p.2.2) = [l].any fun _ => placeSpoils p := by
    rw [List.any_map]
    simp only [Function.comp_def, placeSpoils_shift]
    cases placeSpoils p <;> rfl
  rw [State.access_of_places (pl := fun _ => p) hord (by simpa using hpl) hps (by split at hroom <;> simp_all; omega), if_pos hn, hspoils]
  rfl

/-- With no image read incomplete, an image is accessed at the lowest lane's pointer (R269, R271). -/
theorem State.kaImage_issues {s : State} {i : Instr} {x : Iss} {ord : Ord} {sc : Scope} {acc : AccKind} {kind : Iss → Nat → ReqKind}
    (h : s.issues i = some x) (hk : x.c.kaBusy = false) : s.kaImage i ord sc acc kind = .next (s.access x
      { n := 80, align := 16, reg := false, kind := fun _ j => kind x j, acc := acc, ord := ord, sc := sc } [lowest x.part]) :=
  State.kaIssue_issues h hk _

/-- Settles O12: what is issued are the accesses of the lanes that take part, or the five parts of an image. -/
theorem memoryAccesses : Obligations.MemoryAccesses := by
  intro s x o t op w ord sc pl
  dsimp only
  refine ⟨fun h ⟨hord, hpl, hroom⟩ => ?_, fun h ⟨hord, hpl, hroom⟩ => ?_, fun h ⟨hord, hpl, hroom⟩ => ?_,
    fun h ⟨hord, hpl, hroom⟩ => ?_, fun h ⟨hord, hpl, hroom⟩ => ?_, fun h ⟨hka, hord, hpl, hroom, hn⟩ => ?_,
    fun h ⟨hka, hord, hpl, hroom, hn⟩ => ?_, fun h ⟨hka, hord, hpl, hroom, hn⟩ => ?_⟩
  · exact (exec_ld ..).trans ((State.issue_issues h false _).trans
      (congrArg Host.Outcome.next (State.access_lanes hord hpl (Ty.size_ne_eighty t) hroom)))
  · exact (exec_st ..).trans ((State.issue_issues h false _).trans
      (congrArg Host.Outcome.next (State.access_lanes hord hpl (Ty.size_ne_eighty t) hroom)))
  · exact (exec_atom ..).trans ((State.issue_issues h false _).trans
      (congrArg Host.Outcome.next (State.access_lanes hord hpl (Ty.size_ne_eighty t) hroom)))
  · exact (exec_red ..).trans ((State.issue_issues h false _).trans
      (congrArg Host.Outcome.next (State.access_lanes hord hpl (Ty.size_ne_eighty t) hroom)))
  · exact (exec_cas ..).trans ((State.issue_issues h false _).trans
      (congrArg Host.Outcome.next (State.access_lanes hord hpl (CasW.bytes_ne_eighty w) hroom)))
  · exact (exec_kast ..).trans ((State.kaImage_issues h hka).trans
      (congrArg Host.Outcome.next (State.access_image hord hpl hroom hn)))
  · exact (exec_kald ..).trans ((State.kaImage_issues h hka).trans
      (congrArg Host.Outcome.next (State.access_image hord hpl hroom hn)))
  · exact (exec_kaaddm ..).trans ((State.kaImage_issues h hka).trans
      (congrArg Host.Outcome.next (State.access_image hord hpl hroom hn)))

/-! ### Fences, prefetches, acc.ld and wait.ac -/

theorem execAccLd_issues {s : State} {x : Iss} {o : Opr} {t : Ty} {rm : Rm} {b : Block} (h : s.issues (.accLd o t rm) = some x)
    (hb : s.blk? x.c.blk = some b) (hgate : s.gateOf x.c false = none)
    (hoff : ∀ l ∈ lanesOf x.part, x.accOff s l < 0x80000 ∧ x.accOff s l / 0x10000 < b.acst ∧ x.accOff s l % 16 = 0) :
    execAccLd o t rm s = .next (s.pend x { x.c with sr := if t.isFloat then s.srAfter x rm 1 else x.c.sr }
      { writes := x.results t.width t.signed (fun l =>
          accLdVal t rm ((s.us x rm (if t.isFloat then 1 else 0) l).headD 0) (b.acsRd (x.accOff s l) 16)), flag := none }) := by
  have hbad : (lanesOf x.part).filter (fun l =>
      (decide (0x80000 ≤ x.accOff s l) || decide (b.acst ≤ x.accOff s l / 0x10000)) || decide (x.accOff s l % 16 ≠ 0)) = [] := by
    refine List.filter_eq_nil_iff.mpr fun l hl => ?_
    obtain ⟨hsize, hrow, halign⟩ := hoff l hl
    simp [hsize, hrow, halign]
  rw [execAccLd, State.issue_issues h, hb]
  dsimp only
  rw [hgate]
  dsimp only
  rw [hbad]
  rfl

/-- Settles O13: with nothing that holds it, each of them has its effect at issue. -/
theorem fencesAndCounters : Obligations.FencesAndCounters := by
  intro s x o t rm sc lv ac b
  dsimp only
  refine ⟨fun h => (exec_fence ..).trans (State.issue_issues h false _), fun h => (exec_fence ..).trans (State.issue_issues h false _),
    fun h => (exec_fence ..).trans (State.issue_issues h false _), fun h hrel hback => ?_, fun h hgate => ?_,
    fun h hb hgate hoff => ?_, fun h hlatch hle hnone => ?_⟩
  · rw [exec_fence, execFence, State.issue_issues h]
    dsimp only
    rw [hrel, hback]
    rfl
  · rw [exec_prefetch, execPrefetch, State.issue_issues h, hgate]
    rfl
  · obtain rfl : x.o = o := State.opr_of_issues h rfl
    exact (exec_accLd ..).trans (execAccLd_issues h hb hgate hoff)
  · rw [exec_waitAc, execWaitAc, State.issue_issues h]
    dsimp only
    rw [hlatch]
    dsimp only
    rw [State.waitAc, if_neg (Nat.not_lt.mpr hle), hnone]

end Sys2Proof.Machine

/-! SUPPORT. Branches, calls, returns, joins and ends (R165 to R169, R249 to R255). -/

namespace Sys2Proof.Machine

theorem exec_bra (s : State) (o : Opr) (tgt : CodePtr) (j : Option JoinPtr) : exec (.bra o tgt j) s = execBra o tgt j s := rfl
theorem exec_brx (s : State) (o : Opr) (j : Option JoinPtr) : exec (.brx o j) s = execBrx o j s := rfl
theorem exec_call (s : State) (o : Opr) (tgt : CodePtr) : exec (.call o tgt) s = execCall o tgt s := rfl
theorem exec_callx (s : State) (o : Opr) : exec (.callx o) s = execCallx o s := rfl
theorem exec_ret (s : State) (o : Opr) : exec (.ret o) s = execRet o s := rfl
theorem exec_join (s : State) (o : Opr) : exec (.join o) s = execJoin o s := rfl
theorem exec_joinT (s : State) (o : Opr) : exec (.joinT o) s = execJoinT o s := rfl
theorem exec_exit (s : State) (o : Opr) : exec (.exit o) s = execExit o s := rfl
theorem exec_nop (s : State) (o : Opr) : exec (.nop o) s = execNop o s := rfl

/-- Where the lanes go, by what Ctx.go says of the thread. -/
theorem State.goesTo_eq (s : State) (x : Iss) (c : Ctx) (sp : Split) (ws : List HwStore) (ts : List (Nat × BitVec 64))
    (j : Option (BitVec 64)) (due : List (BitVec 64)) :
    s.goesTo x c sp ws ts j due = (c.go x.k sp ts j due).bind fun m => match s.innerStores x.cid m.1 (ws ++ m.2) with
      | (t, .ok d) => some (t.setCtx x.cid (Ctx.settle t.pt 64 d))
      | _ => none := by
  have hroom (n : Nat) (r : Ctx × List HwStore) : (if n ≤ 136 then some r else none) = if 136 < n then none else some r := by
    rw [← ite_not]
    exact if_congr Nat.not_le rfl rfl
  unfold State.goesTo Ctx.go
  dsimp only
  generalize pathsOf (nextPc sp.pc) (sp.mask &&& ~~~ maskOf (ts.map (·.1))) ts = ps
  rcases ps with - | ⟨p, - | ⟨q, ps⟩⟩
  · dsimp only
    rw [hroom]
    split_ifs <;> rfl
  · rfl
  · dsimp only
    rw [hroom]
    split_ifs <;> rfl

theorem Ctx.sawG_zero (c : Ctx) : c.sawG 0 = c := by
  show { c with gwct := max c.gwct 0 } = c
  rw [Nat.max_zero]

section
variable {s s1 t : State} {x : Iss} {c : Ctx} {sp : Split} {ws : List HwStore} {ts : List (Nat × BitVec 64)} {j : Option (BitVec 64)}
  {due : List (BitVec 64)}

/-- A transfer sends the lanes where they go, the stack having room and hardware's stores being made (R30, R249). -/
theorem State.transfer_of_goesTo (h : s.goesTo x c sp ws ts j due = some t) : s.transfer x c sp ws ts j due = t := by
  rw [State.goesTo_eq] at h
  obtain ⟨⟨d, more⟩, hgo, hstores⟩ := Option.bind_eq_some_iff.mp h
  unfold State.transfer
  rw [hgo]
  dsimp only at hstores ⊢
  split at hstores
  · rename_i u e hinner
    rw [hinner]
    exact Option.some.inj hstores
  · cases hstores

theorem State.branch_of_goesTo (hchk : s.checkTargets x.cid x.c ts j = (s1, .ok c, due))
    (hgo : s1.goesTo x c x.sp [] ts (if c.stream = .lane then j else none) due = some t) : s.branch x x.c ts j = t := by
  unfold State.branch
  rw [hchk]
  exact State.transfer_of_goesTo hgo

/-- Where the lanes of a call meet again: at the return address, when they go more than one way (R251). -/
def Iss.meetAt (x : Iss) (ts : List (Nat × BitVec 64)) : Option (BitVec 64) :=
  if x.c.stream = .lane ∧ 1 < (pathsOf (nextPc x.sp.pc) (x.sp.mask &&& ~~~ maskOf (ts.map (·.1))) ts).length then some (nextPc x.sp.pc)
  else none

theorem State.callTo_of_goesTo (hchk : s.checkTargets x.cid x.c ts (x.meetAt ts) = (s1, .ok c, due))
    (hroom : ∀ l ∈ lanesOf x.part, c.callFull l = false)
    (hgo : s1.goesTo x (Ctx.pushRet (nextPc x.sp.pc) (lanesOf x.part) c []).1 x.sp
      (Ctx.pushRet (nextPc x.sp.pc) (lanesOf x.part) c []).2 ts (x.meetAt ts) due = some t) : s.callTo x ts = t := by
  have hmeet : (if (decide (x.c.stream = .lane) && decide (1 < (pathsOf (nextPc x.sp.pc)
      (x.sp.mask &&& ~~~ maskOf (ts.map (·.1))) ts).length)) = true then some (nextPc x.sp.pc) else none) = x.meetAt ts :=
    if_congr (by simp) rfl rfl
  have hfull : (lanesOf x.part).filter c.callFull = [] := List.filter_eq_nil_iff.mpr fun l hl => by simp [hroom l hl]
  unfold State.callTo
  dsimp only
  rw [hmeet, hchk]
  dsimp only
  rw [hfull]
  exact State.transfer_of_goesTo hgo

/-- Lanes that all go one way move together. -/
theorem State.goesTo_one_way {p : BitVec 64 × Mask} (h : pathsOf (nextPc sp.pc) (sp.mask &&& ~~~ maskOf (ts.map (·.1))) ts = [p]) :
    s.goesTo x c sp [] ts j due = some (s.setCtx x.cid (Ctx.settle s.pt 64
      (c.setSplit x.k { (sp.moved p.1 false) with tgtDue := due.contains p.1 }))) := by
  have hgo : c.go x.k sp ts j due = some (c.setSplit x.k { (sp.moved p.1 false) with tgtDue := due.contains p.1 }, []) := by
    unfold Ctx.go
    rw [h]
  rw [State.goesTo_eq, hgo]
  exact congrArg (fun d => some (s.setCtx x.cid (Ctx.settle s.pt 64 d))) (Ctx.sawG_zero _)

end

/-! ### ret -/

section
variable {s s1 s2 s3 t : State} {x : Iss} {o : Opr} {c c2 c3 : Ctx} {ts : List (Nat × BitVec 64)} {due : List (BitVec 64)}

theorem State.endSplit_of_refilled {sp : Split} (h : s.refillEnded x.cid x.k 130 (c.setSplit x.k sp) = (s1, .ok c2)) :
    s.endSplit x c sp = s1.setCtx x.cid (Ctx.settle s1.pt 64 c2) := by
  unfold State.endSplit
  rw [h]

theorem execRet_badRefill (h : s.issues (.ret o) = some x) (hpop : s.popRet x (lanesOf x.part) x.c [] = (s1, .ok c, ts))
    (hbad : x.badRefill ts ≠ 0) :
    execRet o s = .next (s1.trapAt x { cause := .space, qual := 3, lmask := x.badRefill ts }) := by
  rw [execRet, State.issue_issues h, hpop]
  exact congrArg _ (if_pos hbad)

/-- The lanes that have a return address go there, and the others end. -/
theorem execRet_issues (h : s.issues (.ret o) = some x) (hpop : s.popRet x (lanesOf x.part) x.c [] = (s1, .ok c, ts))
    (hbad : x.badRefill ts = 0) (hchk : s1.checkTargets x.cid c ts none = (s2, .ok c2, due)) :
    execRet o s = .next (
      let e := x.endLanes c2 (x.part &&& ~~~ maskOf (ts.map (·.1)))
      if e.2.mask = 0 then s2.endSplit x e.1 e.2 else s2.transfer x e.1 e.2 [] ts none due) := by
  rw [execRet, State.issue_issues h, hpop]
  dsimp only
  rw [if_neg (not_not.mpr hbad), hchk]

end

/-- Settles O14: the checks passed, the lanes go where Ctx.go sends them. -/
theorem branchesAndCalls : Obligations.BranchesAndCalls := by
  intro s s1 s2 s3 t x o tgt j c c2 c3 due ts p
  dsimp only
  refine ⟨fun h hchk hgo => ?_, fun h hchk hgo => ?_, fun h ⟨hchk, hroom, hgo⟩ => ?_, fun h ⟨hchk, hroom, hgo⟩ => ?_,
    fun h hpop hbad => (exec_ret ..).trans (execRet_badRefill h hpop hbad), fun h hpop hbad hchk hend => ?_, State.goesTo_one_way⟩
  · exact (exec_bra ..).trans ((State.issue_issues h false _).trans (congrArg _ (State.branch_of_goesTo hchk hgo)))
  · exact (exec_brx ..).trans ((State.issue_issues h false _).trans (congrArg _ (State.branch_of_goesTo hchk hgo)))
  · exact (exec_call ..).trans ((State.issue_issues h false _).trans (congrArg _ (State.callTo_of_goesTo hchk hroom hgo)))
  · exact (exec_callx ..).trans ((State.issue_issues h false _).trans (congrArg _ (State.callTo_of_goesTo hchk hroom hgo)))
  · rw [exec_ret, execRet_issues h hpop hbad hchk]
    dsimp only
    split at hend
    · rename_i hnone
      rw [if_pos hnone, State.endSplit_of_refilled hend.1, hend.2]
    · rename_i hsome
      rw [if_neg hsome, State.transfer_of_goesTo hend]

/-! ### join, join.t, exit and nop -/

/-- A split whose slot's fate is known on chip needs no refill. -/
theorem State.refillEnded_of_unspilled (s : State) (cid k n : Nat) (c : Ctx) (h : c.spilled = []) :
    s.refillEnded cid k (n + 1) c = (s, .ok c) := by
  unfold State.refillEnded
  split
  · rfl
  · exact if_pos (.inr (by simp [Ctx.endKnown, h]))

/-- The split stands at the reconvergence address of a set that holds its lanes, and has to wait there (R166). -/
def Iss.atMeeting (x : Iss) : Bool :=
  x.c.stream = .lane && !x.sp.merged && x.sp.j = some x.sp.pc && (x.c.setOf x.sp.pc x.sp.mask).isSome

/-- When the split began to wait there. -/
def State.waitSince (s : State) (x : Iss) : Nat := match x.sp.wait with | .atJoin t => t | .join t _ => t | _ => s.pt

theorem State.joinWait_of_not_atMeeting {s : State} {x : Iss} (give : Option (Nat × Nat)) (merged : List RW)
    (h : x.atMeeting = false) :
    s.joinWait x give merged = s.retire x (if x.sp.merged = true then x.c.applyAll merged else x.c) := by
  unfold Iss.atMeeting at h
  unfold State.joinWait
  dsimp only
  rw [h]
  rfl

theorem State.joinWait_of_atMeeting {s : State} {x : Iss} (give : Option (Nat × Nat)) (merged : List RW)
    (h : x.atMeeting = true) :
    s.joinWait x give merged = s.setCtx x.cid (Ctx.settle s.pt 64 (x.c.setSplit x.k { x.sp with
      wait := .join (s.waitSince x) (give.map fun p => (s.waitSince x + p.1, p.2, x.part)) })) := by
  unfold Iss.atMeeting at h
  unfold State.joinWait
  dsimp only
  rw [h]
  rfl

theorem execExit_issues {s : State} {x : Iss} {o : Opr} (h : s.issues (.exit o) = some x) :
    execExit o s = .next (if (x.endLanes x.c x.part).2.mask = 0 then s.endSplit x (x.endLanes x.c x.part).1 (x.endLanes x.c x.part).2
      else s.setCtx x.cid (((x.endLanes x.c x.part).1.setSplit x.k (x.endLanes x.c x.part).2).advance s.pt x.k)) :=
  State.issue_issues h false _

/-- Settles O15: join and join.t wait by where the split stands; exit ends its split or goes on by whether lanes remain. -/
theorem joinsAndEnds : Obligations.JoinsAndEnds := by
  intro s s1 x o c1
  dsimp only
  refine ⟨fun h hhere => ?_, fun h hhere => ?_, fun h hhere => ?_, fun h hhere => ?_, fun h hmask => ?_, fun h hmask hspill => ?_,
    fun h hmask hrefill => ?_, fun h => (exec_nop ..).trans (State.issue_mayIssue h true (.inl rfl) _)⟩
  · rw [exec_join, execJoin, State.issue_mayIssue h true (.inl rfl), State.joinWait_of_not_atMeeting none [] hhere]
    exact congrArg (fun c => Host.Outcome.next (s.retire x c)) (ite_self x.c)
  · rw [exec_join, execJoin, State.issue_mayIssue h true (.inl rfl), State.joinWait_of_atMeeting none [] hhere]
    rfl
  · rw [exec_joinT, execJoinT, State.issue_mayIssue h true (.inl rfl), State.joinWait_of_not_atMeeting _ _ hhere]
    rfl
  · rw [exec_joinT, execJoinT, State.issue_mayIssue h true (.inl rfl), State.joinWait_of_atMeeting _ _ hhere]
    rfl
  · rw [exec_exit, execExit_issues h, if_neg hmask]
  · have hnone : ((x.endLanes x.c x.part).1.setSplit x.k (x.endLanes x.c x.part).2).spilled = [] := hspill
    rw [exec_exit, execExit_issues h, if_pos hmask,
      State.endSplit_of_refilled (State.refillEnded_of_unspilled s x.cid x.k 129 _ hnone)]
  · rw [exec_exit, execExit_issues h, if_pos hmask, State.endSplit_of_refilled hrefill]

end Sys2Proof.Machine

/-! SUPPORT. What moving a thread on can change (R165 to R167, R179). -/

namespace Sys2Proof.Machine

/-- The predicates change and nothing else of the thread. -/
theorem Ctx.wp_frame (c : Ctx) (l n : Nat) (b : Bool) : ∃ p, c.wp l n b = { c with p := p } := by
  unfold Ctx.wp
  split
  · exact ⟨c.p, rfl⟩
  · exact ⟨_, rfl⟩

theorem Ctx.foldl_wp_frame (c : Ctx) (ls : List Nat) (n : Nat) (b : Bool) :
    ∃ p, ls.foldl (fun c l => c.wp l n b) c = { c with p := p } := by
  induction ls generalizing c with
  | nil => exact ⟨c.p, rfl⟩
  | cons l ls ih =>
    obtain ⟨p, hp⟩ := c.wp_frame l n b
    obtain ⟨q, hq⟩ := ih (c.wp l n b)
    exact ⟨q, hq.trans (by rw [hp])⟩

/-- A step of R166 changes the splits, the stack and, where a join.t is given up, predicates. -/
theorem Ctx.settle1_frame {pt : Nat} {c d : Ctx} (h : c.settle1 pt = some d) :
    ∃ sp st p, d = { c with splits := sp, stack := st, p := p } := by
  unfold Ctx.settle1 at h
  split at h
  · cases h
    split <;> exact ⟨_, _, _, rfl⟩
  · split at h
    · split at h
      · cases h
      · split at h <;> cases h <;> exact ⟨_, _, _, rfl⟩
    · split at h
      · dsimp only at h
        split at h
        · cases h
          exact ⟨_, _, _, rfl⟩
        · split at h
          · cases h
            unfold Ctx.giveUp
            obtain ⟨p, hp⟩ := c.foldl_wp_frame _ _ _
            rw [hp]
            exact ⟨_, _, _, rfl⟩
          · split at h
            · cases h
            · cases h
              exact ⟨_, _, _, rfl⟩
      · cases h

theorem Ctx.settle_frame (pt n : Nat) (c : Ctx) : ∃ sp st p, Ctx.settle pt n c = { c with splits := sp, stack := st, p := p } := by
  induction n generalizing c with
  | zero => exact ⟨_, _, _, rfl⟩
  | succ n ih =>
    unfold Ctx.settle
    split
    · rename_i d hd
      obtain ⟨sp, st, p, rfl⟩ := Ctx.settle1_frame hd
      obtain ⟨sp', st', p', h⟩ := ih { c with splits := sp, stack := st, p := p }
      exact ⟨sp', st', p', h⟩
    · exact ⟨_, _, _, rfl⟩

theorem Ctx.advance_frame (c : Ctx) (pt k : Nat) : ∃ sp st p, c.advance pt k = { c with splits := sp, stack := st, p := p } := by
  unfold Ctx.advance
  split
  · exact ⟨_, _, _, rfl⟩
  · dsimp only
    split
    · exact ⟨_, _, _, rfl⟩
    · obtain ⟨sp, st, p, h⟩ := Ctx.settle_frame pt 64 (c.setSplit k _)
      exact ⟨sp, st, p, h⟩

end Sys2Proof.Machine

/-! SUPPORT. Matrix instructions and accumulator loads whose operands' lines are not in the L1D (R289, R303, R345). -/

namespace Sys2Proof.Machine

/-- A result that becomes due moves no counter of R345. -/
theorem State.pend_ctr (s : State) (x : Iss) (c : Ctx) (r : Res) :
    ∃ d, (s.pend x c r).ctxs.find? x.cid = some d ∧ d.ctr = c.ctr := by
  refine ⟨_, State.retire_thread .., ?_⟩
  obtain ⟨sp, st, p, h⟩ := Ctx.advance_frame _ _ _
  rw [h]
  unfold Ctx.flagUp
  dsimp only
  split <;> rfl

/-- Counting up one counter leaves the others. -/
theorem Ctx.countUp_ctr_ne {n m : Nat} (c : Ctx) (k : Nat) (h : m ≠ n) : SMap.get 0 (c.countUp n k).ctr m = SMap.get 0 c.ctr m :=
  SMap.get_set_ne _ _ _ _ h

/-- A cox: s1 names residency 1, s3 page 1, s16 an address record of one row and one block there. -/
def missingCox : Ctx :=
  { placedCtx .cox with
    asid := 65, s := [(1, 1), (3, 0x10000), (16, 0x10000), (17, 0x0000200100000000)] }

/-- The cox alone in its block, about to issue: page 1 is mapped, no line of it is in the L1D, and residency 1 is ready. -/
def missingState : State :=
  { State.reset with
    cur := (coxKey 0, 0), blocks := [(0, placedBlock)], ctxs := [(coxKey 0, missingCox)]
    rsds := [(rsdKey 0 1, { st := .ready, cores := 0xFF, nt := 1 })]
    ms := { tlb := [(0, { asid := 65, page := 1, lvl := 4, leafPA := 0x2000, pte := 0x0000000000016077, vdev := 0, exp := 1000 })] } }

/-- mma of the record at s16 into tile 0. -/
def mmaOfRecord : Opr := { a := .s 16, b := .s 1 }

/-- acc.in from s3, all rows from one place. -/
def accInOfPage : Opr := { a := .s 3, b := .s 5 }

set_option maxRecDepth 100000 in
/-- The read of the row counts a miss for the cox. -/
theorem misses_after_mmaOfRecord {u : State} {d : Ctx} (hu : exec (.mma mmaOfRecord .e4m3 .e5m2 0 true) missingState = .next u)
    (hd : u.ctxs.find? (coxKey 0) = some d) : SMap.get 0 d.ctr 3 = 1 := by
  have h : (match exec (.mma mmaOfRecord .e4m3 .e5m2 0 true) missingState with
      | .next u => (u.ctxs.find? (coxKey 0)).all (fun d => decide (SMap.get 0 d.ctr 3 = 1)) | _ => true) = true := by decide
  rw [hu] at h
  simpa [hd] using h

set_option maxRecDepth 100000 in
/-- The read of the rows counts a miss for the cox. -/
theorem misses_after_accInOfPage {u : State} {d : Ctx} (hu : exec (.accIn accInOfPage .bf16 0) missingState = .next u)
    (hd : u.ctxs.find? (coxKey 0) = some d) : SMap.get 0 d.ctr 3 = 1 := by
  have h : (match exec (.accIn accInOfPage .bf16 0) missingState with
      | .next u => (u.ctxs.find? (coxKey 0)).all (fun d => decide (SMap.get 0 d.ctr 3 = 1)) | _ => true) = true := by decide
  rw [hu] at h
  simpa [hd] using h

/-- The rows that acc.in reads. -/
def missingRows (x : Iss) : MaRead :=
  (List.range 64).foldl (fun r i => r.span x placedBlock (x.s64 missingState .a + i * x.s64 missingState .b) (64 * Ty.bf16.size))
    { s := missingState, memo := [] }

set_option maxRecDepth 100000 in
/-- acc.in meets its conditions: nothing traps, nothing holds it, no read fails. -/
theorem issues_accInOfPage : ∃ x, missingState.issues (.accIn accInOfPage .bf16 0) = some x ∧ x.cid = coxKey 0 ∧ x.c.ctr = [] ∧
    missingState.matBlock x [0] = some placedBlock ∧
    placedBlock.accTrap (x.s64 missingState .a) (x.s64 missingState .b) Ty.bf16.size = none ∧
    missingState.gateOf x.c false = none ∧ (missingRows x).hold = false ∧ (missingRows x).faults = [] := by
  have h : (missingState.issues (.accIn accInOfPage .bf16 0)).any (fun x => decide (x.cid = coxKey 0 ∧ x.c.ctr = [] ∧
      missingState.matBlock x [0] = some placedBlock ∧
      placedBlock.accTrap (x.s64 missingState .a) (x.s64 missingState .b) Ty.bf16.size = none ∧
      missingState.gateOf x.c false = none) && (!(missingRows x).hold && (missingRows x).faults.isEmpty)) = true := by decide
  obtain ⟨x, hx, hp⟩ := (Option.any_eq_true _ _).mp h
  simp only [Bool.and_eq_true, decide_eq_true_eq, Bool.not_eq_true', List.isEmpty_iff] at hp
  obtain ⟨⟨hcid, hctr, hblk, htrap, hgate⟩, hhold, hfaults⟩ := hp
  exact ⟨x, hx, hcid, hctr, hblk, htrap, hgate, hhold, hfaults⟩

/-- Refutes O17: acc.in goes on with the thread in which its reads have counted their misses (R345), where the statement goes on with
the thread as it was at issue. -/
theorem not_accumulatorTiles : ¬ Obligations.AccumulatorTiles := by
  intro hall
  obtain ⟨x, hx, hcid, hctr, hblk, htrap, hgate, hhold, hfaults⟩ := issues_accInOfPage
  obtain ⟨-, haccIn, -⟩ := hall missingState x accInOfPage .bf16 .rne .iToF 0 0 0 placedBlock
  have hexec := haccIn hx hblk htrap hgate hhold (congrArg lowestFault hfaults)
  obtain ⟨d, hd, hsame⟩ := State.pend_ctr _ x x.c _
  have hmiss := misses_after_accInOfPage hexec (hcid ▸ hd)
  rw [hsame, hctr] at hmiss
  exact absurd hmiss (by decide)

/-- The pass of mma at s16 over the cells of its tile. -/
def missingJob (x : Iss) (cell : Nat → Byte) : MJob :=
  { k := .mma, fa := .e4m3, fb := .e5m2, tile := 0, z := true, r := arecOf x.arec, cell := cell, key := fun _ => none,
    masked := fun _ _ => false, rsd := some (rsdKey placedBlock.dev (bits (x.s64 missingState .b) 0 16)) }

/-- The cells can be read, and every step of the pass is done. -/
def missingRuns (x : Iss) : Bool :=
  match missingState.cellsOf x placedBlock (x.s64 missingState .b) with
  | .ok cell => decide (((missingJob x cell).runs missingState x placedBlock).2.2 = .done)
  | _ => false

set_option maxRecDepth 100000 in
/-- mma meets its conditions: nothing traps, nothing holds it, every step is done. -/
theorem issues_mmaOfRecord : ∃ x cell, missingState.issues (.mma mmaOfRecord .e4m3 .e5m2 0 true) = some x ∧ x.cid = coxKey 0 ∧
    x.c.ctr = [] ∧ missingState.matBlock x [0] = some placedBlock ∧ arecOk .mma .e5m2 x.arec = true ∧
    placedBlock.maPtrTrap (mPtrs .mma .e4m3 .e5m2 (arecOf x.arec)) = none ∧ missingState.gateOf x.c false = none ∧
    missingState.cellsOf x placedBlock (x.s64 missingState .b) = .ok cell ∧
    ((missingJob x cell).runs missingState x placedBlock).2.2 = .done := by
  have h : (missingState.issues (.mma mmaOfRecord .e4m3 .e5m2 0 true)).any (fun x => decide (x.cid = coxKey 0 ∧
      x.c.ctr = [] ∧ missingState.matBlock x [0] = some placedBlock ∧ arecOk .mma .e5m2 x.arec = true ∧
      placedBlock.maPtrTrap (mPtrs .mma .e4m3 .e5m2 (arecOf x.arec)) = none ∧ missingState.gateOf x.c false = none) &&
      missingRuns x) = true := by decide
  obtain ⟨x, hx, hp⟩ := (Option.any_eq_true _ _).mp h
  simp only [Bool.and_eq_true, decide_eq_true_eq] at hp
  obtain ⟨⟨hcid, hctr, hblk, hrec, hptr, hgate⟩, hruns⟩ := hp
  unfold missingRuns at hruns
  split at hruns
  · rename_i cell hcell
    exact ⟨x, cell, hx, hcid, hctr, hblk, hrec, hptr, hgate, hcell, of_decide_eq_true hruns⟩
  · cases hruns

/-- Refutes O16: mma goes on with the thread in which its reads have counted their misses (R345), where the statement goes on with the
thread as it was at issue. -/
theorem not_matrixMultiply : ¬ Obligations.MatrixMultiply := by
  intro hall
  obtain ⟨x, cell, hx, hcid, hctr, hblk, hrec, hptr, hgate, hcell, hdone⟩ := issues_mmaOfRecord
  obtain ⟨hmma, -⟩ := hall missingState ((missingJob x cell).runs missingState x placedBlock).1 missingState x mmaOfRecord .e4m3 .e5m2 0
    true false placedBlock placedBlock cell {} (fun _ => none) ((missingJob x cell).runs missingState x placedBlock).2.1
  have hexec := hmma hx ⟨hblk, hrec, hptr, hcell, hgate, Prod.ext rfl (Prod.ext rfl hdone)⟩
  obtain ⟨d, hd, hsame⟩ := State.pend_ctr _ x (x.c.countUp 4 _) _
  have hmiss := misses_after_mmaOfRecord hexec (hcid ▸ hd)
  rw [hsame, Ctx.countUp_ctr_ne _ _ (by decide), hctr] at hmiss
  exact absurd hmiss (by decide)

end Sys2Proof.Machine

/-! SUPPORT. The residency instructions (R122, R127, R307, R308). -/

namespace Sys2Proof.Machine

theorem exec_rsdAlloc (s : State) (o : Opr) : exec (.rsdAlloc o) s = execRsdAlloc o s := rfl
theorem exec_rsdLoad (s : State) (o : Opr) (shard : Bool) : exec (.rsdLoad o shard) s = execRsdLoad o shard s := rfl
theorem exec_rsdPin (s : State) (o : Opr) : exec (.rsdPin o) s = execRsdPin o s := rfl
theorem exec_rsdUnpin (s : State) (o : Opr) : exec (.rsdUnpin o) s = execRsdUnpin o s := rfl
theorem exec_rsdFree (s : State) (o : Opr) : exec (.rsdFree o) s = execRsdFree o s := rfl
theorem exec_rsdQuery (s : State) (o : Opr) : exec (.rsdQuery o) s = execRsdQuery o s := rfl

theorem Iss.handle_eq (x : Iss) (s : State) : x.handle s = x.s64 s .a := rfl

/-- A fill that starts leaves its residency as it was recorded. -/
theorem State.startFill_rsd {u : State} {key : Nat} {r : Rsd} : ((u.setRsd key r).startFill key r).rsds.find? key = some r :=
  SMap.find?_put_same u.rsds key r

/-- Recording an engine operation takes no time. -/
theorem State.addOp_pt (u : State) (o : EOp) : (u.addOp o).1.pt = u.pt := by
  refine List.foldlRecOn o.charged _ (motive := fun s : State => s.pt = u.pt) rfl fun s hs cid _ => ?_
  split
  · exact hs
  · exact hs

section
variable {s s0 : State} {x : Iss} {o : Opr} {b : Block} (hs : s.spoiled x = some (s0, b))
include hs

/-- A residency instruction has its effect in its block once that is no longer discardable (R382). -/
theorem State.rsdIssue_issues {i : Instr} (h : s.issues i = some x) (body : State → Iss → Block → State) :
    s.rsdIssue i body = .next (body s0 x b) := by
  rw [State.spoiled] at hs
  cases hblk : s.blk? x.c.blk with
  | none =>
    rw [hblk] at hs
    cases hs
  | some b' =>
    rw [hblk] at hs
    cases hclear : (s.clearDisc x.c).blk? x.c.blk with
    | none =>
      dsimp only at hs
      rw [hclear] at hs
      cases hs
    | some b'' =>
      dsimp only at hs
      rw [hclear] at hs
      obtain ⟨rfl, rfl⟩ := Prod.mk.inj (Option.some.inj hs)
      rw [State.rsdIssue, State.issue_issues h, hblk]
      dsimp only
      rw [hclear] <;> rfl

theorem execRsdAlloc_issues (h : s.issues (.rsdAlloc o) = some x) (hpos : 0 < x.s64 s0 .a) (hle : x.s64 s0 .a ≤ 0xFFFF)
    (hfree : s0.rsd? b.dev (x.s64 s0 .a) = none) (hmbz : bits (x.s64 s0 .b) 17 47 = 0) (hcores : bits (x.s64 s0 .b) 0 8 ≠ 0)
    (hnt : 0 < bits (x.s64 s0 .b) 8 9) (hmax : bits (x.s64 s0 .b) 8 9 ≤ 384)
    (hquota : coresFail (bits (x.s64 s0 .b) 0 8) (fun c => s0.fld (rsdB + 0x40 * b.dev + 8) 0 9 <
      s0.charged b.dev (s0.vcluster b.dev b.cluster) c + bits (x.s64 s0 .b) 8 9) = false)
    (hroom : coresFail (bits (x.s64 s0 .b) 0 8) (fun c => 384 < s0.held b.cluster c + bits (x.s64 s0 .b) 8 9) = false) :
    execRsdAlloc o s = .next ((s0.setRsd (rsdKey b.dev (x.s64 s0 .a))
      { st := .allocated, cores := bits (x.s64 s0 .b) 0 8, nt := bits (x.s64 s0 .b) 8 9, vcl := s0.vcluster b.dev b.cluster, eventpt := s0.pt,
        dirtyMirror := true }).retire x x.c) := by
  rw [execRsdAlloc, State.rsdIssue_issues hs h]
  rw [Iss.handle_eq]
  rw [if_neg (by omega), hfree, if_neg (by simp), if_neg (by omega), hquota, if_neg Bool.false_ne_true, hroom,
    if_neg Bool.false_ne_true]

theorem pinRsd_issues {i : Instr} {r : Rsd} {v : Bool} (h : s.issues i = some x) (hle : x.s64 s0 .a ≤ 0xFFFF)
    (hr : s0.rsd? b.dev (x.s64 s0 .a) = some r) :
    s.pinRsd i v = .next ((s0.setRsd (rsdKey b.dev (x.s64 s0 .a))
      { r with pin := v, pinAt := if v then s0.pt else r.pinAt, dirtyMirror := true }).retire x x.c) := by
  rw [State.pinRsd, State.rsdIssue_issues hs h]
  rw [Iss.handle_eq]
  rw [if_neg (Nat.not_lt.mpr hle), hr]

theorem execRsdFree_issues {r : Rsd} {c : Ctx} (h : s.issues (.rsdFree o) = some x) (hle : x.s64 s0 .a ≤ 0xFFFF)
    (hr : s0.rsd? b.dev (x.s64 s0 .a) = some r) (huse : s0.rsdInUse (rsdKey b.dev (x.s64 s0 .a)) = false)
    (hc : (s0.freeRsd (rsdKey b.dev (x.s64 s0 .a))).switchAll.ctxs.find? x.cid = some c) :
    execRsdFree o s = .next ((s0.freeRsd (rsdKey b.dev (x.s64 s0 .a))).switchAll.retire x c) := by
  rw [execRsdFree, State.rsdIssue_issues hs h]
  rw [Iss.handle_eq]
  rw [if_neg (by simp [hr, hle]), huse, if_neg Bool.false_ne_true]
  dsimp only
  rw [hc]

/-- rsd.load records the fill (R122). -/
theorem execRsdLoad_issues {shard : Bool} {r : Rsd} (h : s.issues (.rsdLoad o shard) = some x) (hle : x.s64 s0 .a ≤ 0xFFFF)
    (hr : s0.rsd? b.dev (x.s64 s0 .a) = some r) (hcl : s0.physCluster b.dev r.vcl = some b.cluster)
    (hst : r.st = .allocated ∨ r.st = .ready ∨ r.st = .stale ∨ r.st = .poisoned) (hspace : spaceFail (x.s64 s0 .b) 3 = none)
    (hmbz : bits (x.s64 s0 .b) 56 4 = 0) (halign : x.s64 s0 .b % 128 = 0)
    (hfar : globFar (x.s64 s0 .b) { r with shard := shard, asid := b.asid, src := bits (x.s64 s0 .b) 0 56 }.len = false)
    (hqueue : s0.queued b.cluster false < 64) (hctr : SMap.get 0 x.c.ac 5 ≠ 65535) (hgate : s0.gateOf x.c true = none) :
    ∃ t, execRsdLoad o shard s = .next t ∧ ∃ q : Rsd, t.rsds.find? (rsdKey b.dev (x.s64 s0 .a)) = some q ∧ q.st = .filling ∧
      q.src = bits (x.s64 s0 .b) 0 56 ∧ q.asid = b.asid ∧ q.shard = shard ∧ q.eventpt = s0.pt := by
  have hidle : ¬(r.st = .filling ∨ r.st = .rebuilding ∨ r.st = .dropped) := by
    rcases hst with h | h | h | h <;> rw [h] <;> decide
  rw [execRsdLoad, State.rsdIssue_issues hs h]
  rw [Iss.handle_eq]
  rw [if_neg (Nat.not_lt.mpr hle), hr]
  dsimp only
  rw [if_neg (not_not.mpr hcl), if_neg hidle, hspace]
  dsimp only
  rw [if_neg (not_not.mpr hmbz), if_neg (not_not.mpr halign), hfar, if_neg Bool.false_ne_true, if_neg (by omega), hgate]
  dsimp only
  refine ⟨_, rfl, ?_⟩
  split
  · exact ⟨_, State.startFill_rsd .., rfl, rfl, rfl, rfl, State.addOp_pt ..⟩
  · exact ⟨_, State.startFill_rsd .., rfl, rfl, rfl, rfl, State.addOp_pt ..⟩

end

/-- Settles O18: the conditions of each instruction are met one by one. -/
theorem residencyInstructions : Obligations.ResidencyInstructions := by
  intro s s0 x o shard b r
  dsimp only
  refine fun hs => ⟨fun h hpos hle hfree hmbz hcores hnt hmax hquota hroom => ?_,
    fun h hle hr hcl hst hspace hmbz halign hfar hqueue hctr hgate => ?_, fun h hle hr => ?_, fun h hle hr => ?_,
    fun h hle hr huse c hc => ?_, fun h => ?_⟩
  · exact (exec_rsdAlloc ..).trans (execRsdAlloc_issues hs h hpos hle hfree hmbz hcores hnt hmax hquota hroom)
  · rw [exec_rsdLoad]
    exact execRsdLoad_issues hs h hle hr hcl hst hspace hmbz halign hfar hqueue hctr hgate
  · exact (exec_rsdPin ..).trans (pinRsd_issues hs h hle hr)
  · exact (exec_rsdUnpin ..).trans (pinRsd_issues hs h hle hr)
  · exact (exec_rsdFree ..).trans (execRsdFree_issues hs h hle hr huse hc)
  · exact (exec_rsdQuery ..).trans (State.rsdIssue_issues hs h _)

end Sys2Proof.Machine

/-! SUPPORT. The tree instructions (R148 to R151, R309). -/

namespace Sys2Proof.Machine

theorem exec_treeClr (s : State) (o : Opr) : exec (.treeClr o) s = execTreeClr o s := rfl
theorem exec_treeAdd (s : State) (o : Opr) : exec (.treeAdd o) s = execTreeAdd o s := rfl
theorem exec_treeMask (s : State) (o : Opr) : exec (.treeMask o) s = execTreeMask o s := rfl
theorem exec_treePos (s : State) (o : Opr) : exec (.treePos o) s = execTreePos o s := rfl
theorem exec_treeAccept (s : State) (o : Opr) : exec (.treeAccept o) s = execTreeAccept o s := rfl
theorem exec_treePrune (s : State) (o : Opr) : exec (.treePrune o) s = execTreePrune o s := rfl
theorem exec_treeRd (s : State) (o : Opr) : exec (.treeRd o) s = execTreeRd o s := rfl

theorem at'_zero (x n : Nat) : at' x 0 n = x % 2 ^ n := Nat.mul_one _

theorem Iss.nodeIx_eq (x : Iss) (s : State) : x.nodeIx s = x.rd s 0 64 .zero .a := rfl

section
variable {s : State} {x : Iss} {o : Opr} {b : Block} {t : Tree} (hb : s.blk? x.c.blk = some b) (ht : b.tree = some t)
include hb ht

/-- A tree instruction acts on the tree of its block (R309). -/
theorem State.treeIssue_issues {i : Instr} (h : s.issues i = some x) (body : State → Iss → Block → Tree → State) :
    s.treeIssue i body = .next (body s x b t) := by
  rw [State.treeIssue, State.issue_issues h, hb]
  dsimp only
  rw [ht]

theorem execTreeAdd_issues (h : s.issues (.treeAdd o) = some x) (hmbz : bits (x.s64 s .b) 14 50 = 0) (hroom : t.nodes.length ≠ 256)
    (hpar : bits (x.s64 s .b) 0 8 < t.nodes.length) (hpos : t.base + (t.depth (bits (x.s64 s .b) 0 8) + 1) ≤ 0xFFFFFFFF) :
    execTreeAdd o s = .next ((s.setBlk x.c.blk { b with tree := some { t with nodes := t.nodes ++
      [{ parent := bits (x.s64 s .b) 0 8, accept := false, user := bits (x.s64 s .b) 8 6, token := BitVec.ofNat 32 (x.s64 s .a),
         score := BitVec.ofNat 32 (x.s64 s .a / 2 ^ 32) }] } }).retire x (x.c.applyAll (x.sWrites 1 t.nodes.length))) := by
  rw [execTreeAdd, State.treeIssue_issues hb ht h]
  dsimp only
  rw [if_neg (not_not.mpr hmbz), if_neg hroom, if_neg (Nat.not_le.mpr hpar), if_neg (Nat.not_lt.mpr hpos)]
  rfl

/-- tree.prune stores its list and then has its tree replaced, its summary due (R150, R151). -/
theorem execTreePrune_issues (h : s.issues (.treePrune o) = some x) (hnodes : t.nodes ≠ []) (hin : x.s64 s .a + 2048 ≤ b.aspBytes)
    (halign : x.s64 s .a % 8 = 0) (hopen : s.aspOpen x b (x.s64 s .a) (8 * t.prune.2.2.length) = false)
    (hgate : s.gateOf x.c true = none) :
    execTreePrune o s = .next ((s.setBlk x.c.blk { b.aspWr (x.s64 s .a) (t.prune.2.2.flatMap (leBytes 8)) with
      tree := some t.prune.1 }).pend x (x.c.passGate true) { flag := none, writes := x.sWrites 1 (t.prune.2.1 % 2 ^ 8 +
        t.prune.2.2.length % 2 ^ 8 * 2 ^ 8 + t.prune.1.nodes.length % 2 ^ 9 * 2 ^ 16) }) := by
  rw [execTreePrune, State.treeIssue_issues hb ht h]
  dsimp only
  rw [if_neg hnodes, if_neg (Nat.not_lt.mpr hin), if_neg (not_not.mpr halign), hopen, if_neg Bool.false_ne_true, hgate, at'_zero]
  rfl

end

/-- Settles O19: the block has a tree, and the operands pass the checks of each instruction. -/
theorem treeInstructions : Obligations.TreeInstructions := by
  intro s x o b t hb ht
  dsimp only
  refine ⟨fun h hpos => ?_, fun h hmbz hroom hpar hpos => ?_, fun h hix => ?_, fun h hix => ?_, fun h hix => ?_,
    fun h hnodes hin halign hopen hgate => ?_, fun h hix => ?_⟩
  · rw [exec_treeClr, execTreeClr, State.treeIssue_issues hb ht h, if_neg (Nat.not_le.mpr hpos)]
    rfl
  · exact (exec_treeAdd ..).trans (execTreeAdd_issues hb ht h hmbz hroom hpar hpos)
  · rw [exec_treeMask, execTreeMask, State.treeIssue_issues hb ht h, Iss.nodeIx_eq, if_neg (Nat.not_le.mpr hix)]
  · rw [exec_treePos, execTreePos, State.treeIssue_issues hb ht h, Iss.nodeIx_eq, if_neg (Nat.not_le.mpr hix), at'_zero]
    rfl
  · have hnodes : t.nodes ≠ [] := List.ne_nil_of_length_pos (by omega)
    rw [exec_treeAccept, execTreeAccept, State.treeIssue_issues hb ht h, Iss.nodeIx_eq, if_neg hnodes, if_neg (Nat.not_le.mpr hix)]
    rfl
  · exact (exec_treePrune ..).trans (execTreePrune_issues hb ht h hnodes hin halign hopen hgate)
  · rw [exec_treeRd, execTreeRd, State.treeIssue_issues hb ht h, Iss.nodeIx_eq, if_neg (Nat.not_le.mpr hix)]

end Sys2Proof.Machine

/-! SUPPORT. The KV-table instructions (R139, R140, R311, R312). -/

namespace Sys2Proof.Machine

theorem exec_kvFind (s : State) (o : Opr) : exec (.kvFind o) s = execKvFind o s := rfl
theorem exec_kvInsert (s : State) (o : Opr) : exec (.kvInsert o) s = execKvInsert o s := rfl
theorem exec_kvDelete (s : State) (o : Opr) : exec (.kvDelete o) s = execKvDelete o s := rfl

section
variable {s s0 s1 : State} {i : Instr} {x : Iss} {o : Opr} {b : Block}

/-- A lookup at issue acts in the block of its cox. -/
theorem State.kvIssue_find (h : s.issues i = some x) (hb : s.blk? x.c.blk = some b) (body : State → Iss → Block → State) :
    s.kvIssue i false body = .next (body s x b) := by
  rw [State.kvIssue, State.issue_issues h, hb]
  dsimp only
  rw [if_neg Bool.false_ne_true, hb]

/-- An update at issue acts in the block of its cox once that is no longer discardable (R382). -/
theorem State.kvIssue_update (h : s.issues i = some x) (hs : s.spoiled x = some (s0, b)) (body : State → Iss → Block → State) :
    s.kvIssue i true body = .next (body s0 x b) := by
  unfold State.spoiled at hs
  rw [State.kvIssue, State.issue_issues h]
  split at hs
  · rename_i b' hb'
    rw [hb']
    dsimp only
    split at hs
    · rename_i b'' hb''
      obtain ⟨rfl, rfl⟩ := Prod.mk.inj (Option.some.inj hs)
      rw [if_pos rfl, hb'']
    · cases hs
  · cases hs

/-- The word that kv.find gives (R311). -/
def kvWord : Option Nat → Nat
  | some p => 2 ^ 63 + p
  | none => 0

theorem execKvFind_issues {found : Option Nat} (h : s.issues (.kvFind o) = some x) (hb : s.blk? x.c.blk = some b)
    (htrap : kvOperandTrap (x.s64 s .a) (x.s64 s .b) = none) (hgate : s.gateOf x.c false = none)
    (hfind : s.kvFind x (x.s64 s .a) (bits (x.s64 s .b) 0 32) (bits (x.s64 s .b) 32 24) = (s1, .ok found)) :
    execKvFind o s = .next ((s1.lookDone x).pend x x.c
      { writes := x.sWrites 1 (kvWord found), flag := none }) := by
  rw [execKvFind, State.kvIssue_find h hb]
  dsimp only
  rw [htrap, hgate]
  dsimp only
  rw [hfind]
  rfl

/-- The update that the cox sends: its table by the descriptor's line (R140). -/
def State.kvUpdOf (s2 s0 : State) (x : Iss) (ins : Bool) : KvUpd :=
  { cid := x.cid, k := x.k, insert := ins, desc := BitVec.ofNat 64 (x.s64 s0 .a),
    table := match s2.paOf x.c.asid (bits (x.s64 s0 .a) 0 56) with | some (pa, _) => pa / 128 | none => 0,
    seq := bits (x.s64 s0 .b) 0 32, lblk := bits (x.s64 s0 .b) 32 24, p := if ins then x.s64 s2 .c else 0, asid := x.c.asid }

theorem State.kvUpdate_issues {ins : Bool} {v : Nat} (h : s.issues i = some x) (hs : s.spoiled x = some (s0, b))
    (htrap : kvOperandTrap (x.s64 s0 .a) (x.s64 s0 .b) = none) (hord : s0.orderWait x.c true .ar .pkg = none)
    (hrd : s0.kvRd { s0.kvCox x with core := none } (x.s64 s0 .a) 64 = (s1, .ok v)) :
    s.kvUpdate i o ins = .next (
      let s2 := s1.kvDropTable (s0.kvCox x) (kvDescOf (x.s64 s0 .a) v)
      ({ s2 with kv := { s2.kv with upds := s2.kv.upds ++ [s2.kvUpdOf s0 x ins] } }).setCtx x.cid
        ((x.c.passGate true).setSplit x.k { x.sp with wait := kvWait })) := by
  rw [State.kvUpdate, State.kvIssue_update h hs]
  dsimp only
  rw [htrap, hord]
  dsimp only
  rw [hrd]
  rfl

end

/-- Settles O20: the operands pass their checks and the descriptor has been read. -/
theorem kvInstructions : Obligations.KvInstructions := by
  intro s s0 s1 x o b found v
  dsimp only
  exact ⟨fun h hb htrap hgate hfind => (exec_kvFind ..).trans (execKvFind_issues h hb htrap hgate hfind),
    fun h ⟨hs, htrap, hord, hrd⟩ => (exec_kvInsert ..).trans (State.kvUpdate_issues h hs htrap hord hrd),
    fun h ⟨hs, htrap, hord, hrd⟩ => (exec_kvDelete ..).trans (State.kvUpdate_issues h hs htrap hord hrd)⟩

end Sys2Proof.Machine

/-! SUPPORT. What a read by an agent leaves unchanged of what an operand is read from: package time, the blocks, and the registers of the
partition block that hold a device's clusters (R66). -/

namespace Sys2Proof.Machine

/-- Time, the blocks, and the registers at the offsets where a device's slot has its table of clusters, are those of s. -/
def State.Seen (s : State) (pt : Nat) (blocks : SMap Block) (sys : SMap Word64) : Prop :=
  pt = s.pt ∧ blocks = s.blocks ∧ ∀ off, off % 0x400 < 0x30 → sys.get (sysReset off) off = s.reg off

/-- So they are in state r. -/
abbrev State.SameView (s r : State) : Prop := s.Seen r.pt r.blocks r.sys

section
variable {s r : State}

theorem State.SameView.refl (s : State) : s.SameView s := ⟨rfl, rfl, fun _ _ => rfl⟩

theorem State.sameView_foldl {α : Type} {f : State → α → State} (hf : ∀ t a, s.SameView t → s.SameView (f t a)) (l : List α) (h : s.SameView r) :
    s.SameView (l.foldl f r) := by
  induction l generalizing r with
  | nil => exact h
  | cons a l ih => exact ih (hf r a h)

theorem State.sameView_setReg (h : s.SameView r) {off : Nat} (hoff : 0x30 ≤ off % 0x400) (x) : s.SameView (r.setReg off x) := by
  obtain ⟨hpt, hblocks, hreg⟩ := h
  exact ⟨hpt, hblocks, fun o ho => (State.reg_setReg_ne r x (fun h => by omega)).trans (hreg o ho)⟩

theorem State.sameView_setFld (h : s.SameView r) {off : Nat} (hoff : 0x30 ≤ off % 0x400) (lo n v) : s.SameView (r.setFld off lo n v) :=
  State.sameView_setReg h hoff _

theorem State.sameView_withPart (h : s.SameView r) (p : Part) : s.SameView { r with part := p } := h

theorem pslot_mod (v d : Nat) : (pslot v + d) % 0x400 = d % 0x400 := by
  unfold pslot partB
  omega

theorem tslot_mod (v : Nat) {d : Nat} (h : 0x30 ≤ d) (hd : d < 0x100) : 0x30 ≤ (tslot v + d) % 0x400 := by
  unfold tslot tierB
  omega

theorem State.sameView_tell (h : s.SameView r) (dst m) : s.SameView (r.tell dst m) := by
  unfold State.tell
  grind

theorem State.sameView_putLine (h : s.SameView r) (l m bs) : s.SameView (r.putLine l m bs) := by
  unfold State.putLine
  grind

theorem State.sameView_rekeyLine (h : s.SameView r) (key l) : s.SameView (r.rekeyLine key l) := by
  unfold State.rekeyLine
  grind [State.sameView_putLine]

theorem State.sameView_wrBytes (h : s.SameView r) (key pa bs) : s.SameView (r.wrBytes key pa bs) := by
  unfold State.wrBytes
  grind [State.sameView_foldl, State.sameView_rekeyLine]

theorem State.sameView_setPoison (h : s.SameView r) (l b) : s.SameView (r.setPoison l b) := by
  unfold State.setPoison
  grind

theorem State.sameView_setDir (h : s.SameView r) (l d) : s.SameView (r.setDir l d) := by
  unfold State.setDir
  grind

theorem State.sameView_orderWrite (h : s.SameView r) (v writer l) : s.SameView (r.orderWrite v writer l).1 := by
  unfold State.orderWrite
  grind [State.sameView_setDir]

theorem State.sameView_recall (h : s.SameView r) (l) : s.SameView (r.recall l) := by
  unfold State.recall
  grind [State.sameView_setDir]

theorem State.sameView_recallRange {rc : State → Nat → State} (hrc : ∀ t l, s.SameView t → s.SameView (rc t l))
    (h : s.SameView r) (pa n) : s.SameView (r.recallRange rc pa n) := by
  unfold State.recallRange
  grind [State.sameView_foldl]

theorem State.sameView_putPiece (h : s.SameView r) (pa bs) : s.SameView (r.putPiece pa bs).1 := by
  unfold State.putPiece
  grind [State.sameView_wrBytes, State.sameView_orderWrite]

theorem State.sameView_putQuiet {rc : State → Nat → State} (hrc : ∀ t l, s.SameView t → s.SameView (rc t l)) (h : s.SameView r) (pa bs) :
    s.SameView (r.putQuiet rc pa bs).1 := by
  have hpieces (ps : List (Nat × List Byte)) (p : State × Nat) (hp : s.SameView p.1) :
      s.SameView (ps.foldl (fun r p => ((r.1.putPiece p.1 p.2).1, Nat.max r.2 (r.1.putPiece p.1 p.2).2)) p).1 := by
    induction ps generalizing p with
    | nil => exact hp
    | cons q ps ih => exact ih _ (State.sameView_putPiece hp ..)
  unfold State.putQuiet
  split
  · exact h
  · exact hpieces _ _ (State.sameView_foldl hrc _ h)

theorem State.sameView_watchNotice (h : s.SameView r) (l g) : s.SameView (r.watchNotice l g) := by
  unfold State.watchNotice
  grind [State.sameView_foldl]

theorem State.sameView_noticeRange (h : s.SameView r) (pa n g) : s.SameView (r.noticeRange pa n g) := by
  unfold State.noticeRange
  grind [State.sameView_foldl, State.sameView_watchNotice]

theorem State.sameView_ringWr (h : s.SameView r) (pa bs) : s.SameView (r.ringWr pa bs).1 := by
  unfold State.ringWr
  grind [State.sameView_putQuiet, State.sameView_recall, State.sameView_noticeRange]

theorem State.sameView_ringPut (h : s.SameView r) (bOff iOff rcd) : s.SameView (r.ringPut bOff iOff rcd).1 := by
  unfold State.ringPut
  grind [State.sameView_ringWr]

theorem State.sameView_tailUp (h : s.SameView r) {off : Nat} (hoff : 0x30 ≤ off % 0x400) : s.SameView (r.tailUp off) :=
  State.sameView_setFld h hoff ..

theorem State.sameView_tailLater (h : s.SameView r) (iOff g) : s.SameView (r.tailLater iOff g) := by
  unfold State.tailLater
  grind

theorem State.sameView_intAppend (h : s.SameView r) (v bs) : s.SameView (r.intAppend v bs) := by
  unfold State.intAppend
  dsimp only
  split
  · exact State.sameView_setFld h (by rw [pslot_mod]; decide) ..
  · exact State.sameView_tailLater (State.sameView_ringPut h ..) ..

theorem State.sameView_intSend (h : s.SameView r) (v bit a) : s.SameView (r.intSend v bit a) := by
  unfold State.intSend
  grind [State.sameView_tell, State.sameView_intAppend]

theorem State.sameView_interrupt (h : s.SameView r) (v b hthr q d f) : s.SameView (r.interrupt v b hthr q d f) := by
  have hset := State.sameView_setFld h (off := pslot v + 0x388) (by rw [pslot_mod]; decide) b 1 1
  unfold State.interrupt
  split
  · exact h
  · dsimp only
    split
    · exact State.sameView_intSend (State.sameView_withPart hset _) ..
    · exact State.sameView_withPart hset _

theorem State.sameView_pmi (h : s.SameView r) : s.SameView (r.pmi) := by
  unfold State.pmi
  grind [State.sameView_interrupt]

theorem State.sameView_errorLog (h : s.SameView r) (pa cls vdev) : s.SameView (r.errorLog pa cls vdev).1 := by
  unfold State.errorLog
  dsimp only
  refine State.sameView_setReg ?_ (by decide) _
  split
  · exact State.sameView_setReg h (by decide) _
  · exact State.sameView_tailUp (State.sameView_ringPut h ..) (by decide)

theorem State.sameView_poisonLine (h : s.SameView r) (pa cls vdev) : s.SameView (r.poisonLine pa cls vdev) := by
  unfold State.poisonLine
  grind [State.sameView_setPoison, State.sameView_errorLog, State.sameView_pmi]

theorem State.sameView_writeBack (h : s.SameView r) (l) : s.SameView (r.writeBack l) := by
  unfold State.writeBack
  grind [State.sameView_recall, State.sameView_poisonLine]

theorem State.sameView_physWrQuiet (h : s.SameView r) (pa bs) : s.SameView (r.physWrQuiet pa bs).1 := by
  unfold State.physWrQuiet
  grind [State.sameView_putQuiet, State.sameView_writeBack]

theorem State.sameView_count (h : s.SameView r) (v pa rd wr leaf) : s.SameView (r.count v pa rd wr leaf) := by
  have hctb (n) (ht : ¬ 3 ≤ region pa) := State.sameView_setFld h (off := tslot v + 0x60 + 16 * region pa)
    (by rw [Nat.add_assoc]; exact tslot_mod v (by omega) (by omega)) 0 1 n
  unfold State.count
  dsimp only
  split
  · exact h
  · next hno =>
    split
    · exact State.sameView_errorLog (hctb _ fun ht => hno (.inl ht)) ..
    · grind [State.sameView_recallRange, State.sameView_writeBack]

theorem State.sameView_setAD (h : s.SameView r) (v eA e lvl) : s.SameView (r.setAD v eA e lvl .load).1 := by
  unfold State.setAD
  grind [State.sameView_physWrQuiet]

theorem State.sameView_recallWalk (h : s.SameView r) (asid va) : s.SameView (r.recallWalk asid va) := by
  unfold State.recallWalk
  grind [State.sameView_foldl, State.sameView_recallRange, State.sameView_writeBack]

theorem State.sameView_walk (h : s.SameView r) (asid va priv) : s.SameView (r.walk asid va .load priv).1 := by
  unfold State.walk
  grind [State.sameView_recallWalk, State.sameView_setAD]

theorem State.sameView_tlbDrop (h : s.SameView r) (i) : s.SameView (r.tlbDrop i) := by
  unfold State.tlbDrop
  grind

theorem State.sameView_translate (h : s.SameView r) (asid va priv) : s.SameView (r.translate asid va .load priv).1 := by
  unfold State.translate
  grind [State.sameView_tlbDrop, State.sameView_walk]

theorem State.sameView_used (h : s.SameView r) : s.SameView (r.used) := by
  unfold State.used
  grind

theorem State.sameView_activate (h : s.SameView r) (v pa) : s.SameView (r.activate v pa) := by
  unfold State.activate
  grind

theorem State.sameView_ownFor (h : s.SameView r) (q t l) : s.SameView (r.ownFor q t l false).1 := by
  unfold State.ownFor
  grind [State.sameView_setDir, State.sameView_used, State.sameView_writeBack]

theorem State.sameView_countServed (h : s.SameView r) (by_ v pa rd wr leaf) : s.SameView (r.countServed by_ v pa rd wr leaf) := by
  unfold State.countServed
  grind [State.sameView_count]

theorem State.sameView_performData (h : s.SameView r) (q t pa by_ leaf) : s.SameView (r.performData q t pa .rd by_ leaf).1 := by
  unfold State.performData
  grind [State.sameView_poisonLine, State.sameView_countServed]

theorem State.sameView_performLine (h : s.SameView r) (q t pa) : s.SameView (r.performLine q t pa .rd).1 := by
  unfold State.performLine HaOp.writes
  grind [State.sameView_activate, State.sameView_ownFor, State.sameView_performData]

theorem State.sameView_lostLine (h : s.SameView r) (pa dev) : s.SameView (r.lostLine pa dev) := by
  unfold State.lostLine
  grind [State.sameView_poisonLine]

theorem State.sameView_performAt (h : s.SameView r) (q t) : s.SameView (r.performAt q t .rd).1 := by
  unfold State.performAt HaOp.writes
  grind [State.sameView_lostLine, State.sameView_performLine]

theorem State.sameView_perform (h : s.SameView r) (q : HaReq) (hq : q.fetch = false) : s.SameView (r.perform q .rd).1 := by
  unfold State.perform
  grind [State.sameView_performAt, State.sameView_translate, HaOp.kind]

/-- A read by an agent that no core's cache serves leaves them as they are. -/
theorem State.sameView_kvRd (h : s.SameView r) (w : KvWho) (hw : w.core = none) (ptr n) : s.SameView (r.kvRd w ptr n).1 := by
  have hperform := State.sameView_perform h
    { asid := w.asid, va := bits ptr 0 56, n := n, priv := false, who := w.who (bits ptr 0 56), atL := .ha } rfl
  unfold State.kvRd
  dsimp only
  rw [hw]
  grind

theorem State.SameView.vcluster_eq (h : s.SameView r) (v cl : Nat) : r.vcluster v cl = s.vcluster v cl := by
  obtain ⟨_, _, hreg⟩ := h
  have hfld (i : Nat) (hi : i < 40) : r.fld (pslot v + 8 + 8 * (i / 8)) (8 * (i % 8)) 8 = s.fld (pslot v + 8 + 8 * (i / 8)) (8 * (i % 8)) 8 :=
    congrArg (fun w => bits (BitVec.toNat w) _ _) (hreg _ (by rw [Nat.add_assoc, pslot_mod]; omega))
  unfold State.vcluster
  dsimp only
  refine congrArg (fun o => Option.getD o 0) (List.find?_congr fun i hi => ?_)
  exact congrArg (fun n => decide (n = cl + 128)) (hfld i (List.mem_range.mp hi))

theorem State.SameView.special_eq (h : s.SameView r) (cid : Nat) (c : Ctx) (l : Nat) (x : SReg) : r.special cid c l x = s.special cid c l x := by
  have hblk : r.blk? c.blk = s.blk? c.blk := congrArg (fun bs => SMap.find? bs c.blk) h.2.1
  unfold State.special
  rw [hblk]
  simp only [h.vcluster_eq]

/-- What an operand reads is as it was. -/
theorem State.SameView.rd_eq (h : s.SameView r) (x : Iss) (l w : Nat) (e : Ext) (op : Operand) : x.rd r l w e op = x.rd s l w e op := by
  unfold Iss.rd Iss.rdAt State.src
  simp only [h.special_eq, h.1]

end

end Sys2Proof.Machine

/-! SUPPORT. Registers that the hub's writes for software leave alone (R66, R352, R404, R405). -/

namespace Sys2Proof.Machine

theorem foldl_sys {α : Type} {f : State → α → State} (hf : ∀ s a, (f s a).sys = s.sys) (as : List α) (s : State) :
    (as.foldl f s).sys = s.sys := by
  induction as generalizing s with
  | nil => rfl
  | cons a as ih => exact (ih (f s a)).trans (hf s a)

theorem State.rekeyLine_sys (s : State) (key l : Nat) : (s.rekeyLine key l).sys = s.sys := by
  unfold State.rekeyLine
  split <;> rfl

theorem State.wrBytes_sys (s : State) (key pa : Nat) (bs : List Byte) : (s.wrBytes key pa bs).sys = s.sys :=
  foldl_sys (fun s l => State.rekeyLine_sys s key l) (linesOf pa bs.length) s

theorem State.recall_sys (s : State) (l : Nat) : (s.recall l).sys = s.sys := by
  unfold State.recall
  split
  · rfl
  · split <;> rfl

theorem State.putPiece_sys (s : State) (pa : Nat) (bs : List Byte) : (s.putPiece pa bs).1.sys = s.sys := by
  have hput := State.wrBytes_sys s 0 (s.routed pa) bs
  unfold State.putPiece
  dsimp only
  split
  · exact (State.wrBytes_sys _ 0 _ bs).trans hput
  · exact hput

theorem State.putQuiet_sys {rc : State → Nat → State} (hrc : ∀ s l, (rc s l).sys = s.sys) (s : State) (pa : Nat) (bs : List Byte) :
    (s.putQuiet rc pa bs).1.sys = s.sys := by
  have hpieces (ps : List (Nat × List Byte)) (r : State × Nat) :
      (ps.foldl (fun r p => ((r.1.putPiece p.1 p.2).1, Nat.max r.2 (r.1.putPiece p.1 p.2).2)) r).1.sys = r.1.sys := by
    induction ps generalizing r with
    | nil => rfl
    | cons p ps ih => exact (ih _).trans (State.putPiece_sys ..)
  unfold State.putQuiet
  split
  · rfl
  · exact (hpieces _ _).trans (foldl_sys hrc _ s)

theorem State.noticeRange_sys (s : State) (pa n g : Nat) : (s.noticeRange pa n g).sys = s.sys :=
  foldl_sys (f := fun s l => s.watchNotice l g) (fun _ _ => rfl) (linesOf (s.routed pa) n) s

theorem State.ringPut_sys (s : State) (b i : Nat) (bs : List Byte) : (s.ringPut b i bs).1.sys = s.sys := by
  unfold State.ringPut
  split
  · rfl
  · exact (State.noticeRange_sys ..).trans (State.putQuiet_sys State.recall_sys s _ bs)

theorem State.reg_of_sys {s t : State} (h : t.sys = s.sys) (off : Nat) : t.reg off = s.reg off := congrArg (fun m => SMap.get _ m off) h

section
variable {off : Nat} (hoff : off < partB)
include hoff

theorem State.intAppend_reg (s : State) (v : Nat) (bs : List Byte) : (s.intAppend v bs).reg off = s.reg off := by
  unfold State.intAppend
  dsimp only
  split
  · exact State.reg_setReg_ne s _ (by unfold pslot; omega)
  · exact State.reg_of_sys (State.ringPut_sys ..) off

theorem State.intSend_reg (s : State) (v b : Nat) (a : IrqAt) : (s.intSend v b a).reg off = s.reg off := by
  unfold State.intSend
  dsimp only
  split
  · exact State.reg_of_sys (State.tell_sys ..) off
  · exact State.intAppend_reg hoff s v _

/-- An interrupt writes registers of the partition block alone (R404, R405). -/
theorem State.interrupt_reg (s : State) (v b hthr q d : Nat) (f : Nat := 0) : (s.interrupt v b hthr q d f).reg off = s.reg off := by
  have hset : (s.setFld (pslot v + 0x388) b 1 1).reg off = s.reg off := State.reg_setReg_ne s _ (by unfold pslot; omega)
  have hpart (u : State) (hu : u.sys = (s.setFld (pslot v + 0x388) b 1 1).sys) : u.reg off = s.reg off := (State.reg_of_sys hu off).trans hset
  unfold State.interrupt
  split
  · rfl
  · dsimp only
    split
    · refine (State.intSend_reg hoff _ v b _).trans (hpart _ ?_)
      dsimp only
    · refine hpart _ ?_
      dsimp only

end

/-! ### The tail of a queue (R352, R354, R356) -/

theorem qreg_lt_partB {q r : Nat} (hq : q ≤ 255) (hr : r < 0x40) : qreg q r < partB := by unfold qreg schB partB; omega

theorem qreg_ne {q p r t : Nat} (hr : r < 0x40) (ht : t < 0x40) (h : r ≠ t) : qreg q r ≠ qreg p t := by unfold qreg; omega

theorem State.releaseClaims_sys (s : State) (l : Nat) (x : Launch) : (s.releaseClaims l x).sys = s.sys := by
  unfold State.releaseClaims
  dsimp only
  split
  · exact foldl_sys (fun s m => State.tell_sys s m (.rectRelease l)) _ _
  · rfl

theorem State.claimNext_sys (s : State) (l : Nat) : (s.claimNext l).sys = s.sys := by
  unfold State.claimNext
  split
  · split
    · split
      · split <;> rfl
      · rfl
    · rfl
  · rfl

section
variable {q : Nat} (hq : q ≤ 255)
include hq

theorem State.queueEvent_index (s : State) (p ev code qual index : Nat) :
    (s.queueEvent p ev code qual index).reg (qreg q 0x18) = s.reg (qreg q 0x18) := by
  unfold State.queueEvent
  dsimp only
  rw [State.interrupt_reg (qreg_lt_partB hq (by decide))]
  split <;> exact State.reg_setReg_ne s _ (qreg_ne (by decide) (by decide) (by decide))

theorem State.complete_index (s : State) (l : Nat) : (s.complete l).reg (qreg q 0x18) = s.reg (qreg q 0x18) := by
  unfold State.complete
  split
  · rfl
  · rename_i x _
    have hset (u : State) (y : Word64) (hu : u.sys = s.sys) : (u.setReg (qreg x.queue 0x30) y).reg (qreg q 0x18) = s.reg (qreg q 0x18) :=
      (State.reg_setReg_ne u y (qreg_ne (by decide) (by decide) (by decide))).trans (State.reg_of_sys hu _)
    dsimp only
    split
    · rw [State.interrupt_reg (qreg_lt_partB hq (by decide))]
      exact hset _ _ (State.releaseClaims_sys ..)
    · exact hset _ _ (State.releaseClaims_sys ..)

theorem State.signal_index (s : State) (l v : Nat) : (s.signal l v).reg (qreg q 0x18) = s.reg (qreg q 0x18) := by
  unfold State.signal
  split
  · rfl
  · split
    · exact State.complete_index hq s l
    · rfl

/-- A refusal writes the state, the event and the count of a queue, not its index register (R356). -/
theorem State.refuse_index (s : State) (l code : Nat) : (s.refuse l code).reg (qreg q 0x18) = s.reg (qreg q 0x18) := by
  unfold State.refuse
  split
  · rfl
  · dsimp only
    rw [State.signal_index hq, State.queueEvent_index hq]
    split
    · exact (State.reg_setReg_ne _ _ (qreg_ne (by decide) (by decide) (by decide))).trans (State.reg_of_sys (State.releaseClaims_sys ..) _)
    · exact State.reg_of_sys (State.releaseClaims_sys ..) _

/-- A launch that enters its queue advances HEAD and leaves TAIL (R352). -/
theorem State.take_tail (s : State) (bs : List Byte) : (s.take q bs).fld (qreg q 0x18) 32 32 = s.fld (qreg q 0x18) 32 32 := by
  have hhead (v : Nat) : (s.setFld (qreg q 0x18) 0 32 v).fld (qreg q 0x18) 32 32 = s.fld (qreg q 0x18) 32 32 := by
    have hlt : (s.reg (qreg q 0x18)).toNat < 2 ^ 64 := (s.reg (qreg q 0x18)).isLt
    rw [State.fld, State.setFld, State.reg_setReg_same, BitVec.toNat_ofNat, State.fld]
    unfold putBits bits
    omega
  have hchecked (u : State) (hu : u.sys = (s.setFld (qreg q 0x18) 0 32 ((s.fld (qreg q 0x18) 0 32 + 1) % 2 ^ 32)).sys) (l v : Nat) (r : LRec) :
      (match r.check with
        | some c => u.refuse l c
        | none => if u.asidOk r.asid v then u.claimNext l else u.refuse l 13).fld (qreg q 0x18) 32 32 = s.fld (qreg q 0x18) 32 32 := by
    refine Eq.trans ?_ (hhead ((s.fld (qreg q 0x18) 0 32 + 1) % 2 ^ 32))
    refine congrArg (fun w => bits (BitVec.toNat w) 32 32) (Eq.trans ?_ (State.reg_of_sys hu _))
    split
    · exact State.refuse_index hq u l _
    · split
      · exact State.reg_of_sys (State.claimNext_sys u l) _
      · exact State.refuse_index hq u l _
  unfold State.take
  dsimp only
  refine hchecked _ ?_ _ _ _
  rfl

end

end Sys2Proof.Machine

/-! SUPPORT. The engine instructions at issue (R314, R319, R320, R324, R328, R356). -/

namespace Sys2Proof.Machine

theorem exec_cpy (s : State) (o : Opr) (chg : BitVec 6) : exec (.cpy o chg) s = execCpy o chg s := rfl
theorem exec_cpy2d (s : State) (o : Opr) (chg : BitVec 6) (e : BitVec 8) : exec (.cpy2d o chg e) s = execCpy2d o chg e s := rfl
theorem exec_dcx (s : State) (o : Opr) (chg : BitVec 6) (f : DcxFmt) (e : BitVec 8) : exec (.dcx o chg f e) s = execDcx o chg f e s := rfl
theorem exec_srd (s : State) (o : Opr) (chg : BitVec 6) : exec (.srd o chg) s = execSrd o chg s := rfl
theorem exec_coll (s : State) (o : Opr) (chg : BitVec 6) (kd : CollKind) (op : CollOp) (ct : CollTy) (wcls : BitVec 3) (sig : Bool)
    (e : BitVec 8) : exec (.coll o chg kd op ct wcls sig e) s = execColl o chg kd op ct wcls sig e s := rfl
theorem exec_launch (s : State) (o : Opr) : exec (.launch o) s = execLaunch o s := rfl

section
variable {s s1 : State} {x : Iss} {b : Block} {c : Ctx} (hb : s.blk? x.c.blk = some b)
include hb

/-- An operation whose checks raise nothing starts when its queue and counters have room (R319, R320). -/
theorem State.engIssue_issues {i : Instr} {mk : State → Iss → EIss} (h : s.issues i = some x) (hchk : s.engCheck b (mk s x) = none)
    (hfull : s.engFull b (mk s x) = false) (hctr : s.ctrFull (mk s x) = false) (hgate : s.gateOf x.c true = none)
    (hc : ((if engSpoils (mk s x) then s.clearDisc x.c else s).engStart x.c.blk b (mk s x)).1.ctxs.find? x.cid = some c) :
    s.engIssue i mk = .next (((if engSpoils (mk s x) then s.clearDisc x.c else s).engStart x.c.blk b (mk s x)).1.retire x
      (c.passGate true)) := by
  rw [State.engIssue, State.issue_issues h, hb]
  dsimp only
  rw [hchk, hfull, hctr]
  dsimp only
  rw [if_neg (by decide), hgate]
  dsimp only
  rw [hc]

/-- A coll at issue in its block, by its fields and operand values (R319, R328, R330). -/
def State.collIssue (s : State) (x : Iss) (b : Block) (kd : CollKind) (q : EIss) : State :=
  match s.engCheck b q with
  | some t => s.trapAt x t
  | none =>
    if s.engFull b q || s.ctrFull q then s.holdAs x (.held 8)
    else match s.gateOf x.c true with
      | some w => s.holdAs x w
      | none => match s.readComm x b q.b.toNat with
        | (s, .hold) => s.holdAs x (.held 8)
        | (s, .trap t) => s.trapAt x t
        | (s, .ok m) =>
          if m.ok ∧ kd ≠ .ar ∧ q.c.toNat % m.n ≠ 0 then s.trapAt x rangeOperand
          else
            let s := (s.clearDisc x.c).collStart x.c.blk b q m
            match s.ctxs.find? x.cid with | some c => s.retire x (c.passGate true) | none => s

omit hb in
theorem State.collIssue_starts {kd : CollKind} {q : EIss} {m : Comm} (hchk : s.engCheck b q = none) (hfull : s.engFull b q = false)
    (hctr : s.ctrFull q = false) (hgate : s.gateOf x.c true = none) (hcomm : s.readComm x b q.b.toNat = (s1, .ok m))
    (hmod : m.ok = true → kd ≠ .ar → q.c.toNat % m.n = 0) (hc : ((s1.clearDisc x.c).collStart x.c.blk b q m).ctxs.find? x.cid = some c) :
    s.collIssue x b kd q = ((s1.clearDisc x.c).collStart x.c.blk b q m).retire x (c.passGate true) := by
  rw [State.collIssue, hchk, hfull, hctr]
  dsimp only
  rw [if_neg (by decide), hgate]
  dsimp only
  rw [hcomm]
  dsimp only
  rw [if_neg fun h => h.2.2 (hmod h.1 h.2.1), hc]

omit hb in
/-- The first of the checks that launch makes (R334, R356). -/
theorem firstTrap_launch {q dev ptr : Nat} {sp : Option TrapInfo} (hq : q ≤ 255) (hsp : sp = none) (halign : ptr % 256 = 0)
    (hdev : dev = b.dev) : firstTrap [if 255 < q then some rangeOperand else none, sp, engAlign ptr 256,
      if dev ≠ b.dev then some { cause := .perm, qual := qGrant } else none] = none := by
  rw [if_neg (Nat.not_lt.mpr hq), hsp, engAlign, if_neg (not_not.mpr halign), if_neg (not_not.mpr hdev)]
  rfl

/-- The status that launch gives (R334): 2 for a queue that takes no device launches or does not run, 1 for one with sixteen taken. -/
def State.launchStatus (s : State) (q : Nat) : Nat :=
  if s.fld (qreg q 0) 0 1 = 0 ∨ s.fld (qreg q 0x20) 0 2 = 2 ∨ s.fld (qreg q 0) 1 1 = 0 then 2 else if 16 ≤ s.takenOf q then 1 else 0

/-- The queue with the record taken and its tail advanced, when the status is 0 (R352, R356). -/
def State.launched (s : State) (q v : Nat) : State :=
  if s.launchStatus q = 0 then
    (s.take q (leBytes 256 v)).setFld (qreg q 0x18) 32 32 (((s.take q (leBytes 256 v)).fld (qreg q 0x18) 32 32 + 1) % 2 ^ 32)
  else s

omit hb in
/-- A second read from a run whose place is read again where the first has left off: the place is the same. -/
theorem State.readTwice_eq (s : State) (x : Iss) (w : KvWho) (hw : w.core = none) (f : State → Nat → Nat → State × Got Nat) :
    andThen (s.kvRd w (x.s64 s .a) 128) (fun t lo => andThen (t.kvRd w (x.s64 t .a + 128) 128) (fun t hi => f t lo hi))
      = andThen (s.kvRd w (x.s64 s .a) 128) (fun t lo => andThen (t.kvRd w (x.s64 s .a + 128) 128) (fun t hi => f t lo hi)) := by
  have hview := State.sameView_kvRd (State.SameView.refl s) w hw (x.s64 s .a) 128
  unfold andThen
  generalize s.kvRd w (x.s64 s .a) 128 = r at hview
  obtain ⟨t, g⟩ := r
  have hptr : x.s64 t .a = x.s64 s .a := hview.rd_eq x 0 64 .zero .a
  cases g with
  | ok lo =>
    dsimp only
    rw [hptr]
  | trap i => rfl
  | hold => rfl

/-- The record of a launch read by its cox, in two runs. -/
def State.readRecord (s : State) (x : Iss) (b : Block) (ptr : Nat) : State × Got Nat :=
  let w : KvWho := { asid := b.asid, dev := b.dev, who := threadW x.cid, core := none, die := 2, cid := some x.cid }
  andThen (s.kvRd w ptr 128) (fun s lo => andThen (s.kvRd w (ptr + 128) 128) (fun s hi => (s, Got.ok (lo + hi * 2 ^ 1024))))

theorem execLaunch_issues {o : Opr} {v : Nat} (h : s.issues (.launch o) = some x) (hq : x.s64 s .b ≤ 255)
    (hsp : b.engSpace (x.s64 s .a) 256 true false false = none) (halign : x.s64 s .a % 256 = 0) (hdev : s.qdev (x.s64 s .b) = b.dev)
    (hord : s.orderWait x.c true .rel .pkg = none) (hrd : s.readRecord x b (x.s64 s .a) = (s1, .ok v))
    (hc : ((s1.clearDisc x.c).launched (x.s64 s .b) v).ctxs.find? x.cid = some c) :
    execLaunch o s = .next (((s1.clearDisc x.c).launched (x.s64 s .b) v).retire x
      ((c.passGate true).applyAll (x.sWrites 1 ((s1.clearDisc x.c).launchStatus (x.s64 s .b))))) := by
  have htaken : (if (s1.clearDisc x.c).launchStatus (x.s64 s .b) = 0 then
      ((s1.clearDisc x.c).take (x.s64 s .b) (leBytes 256 v)).setFld (qreg (x.s64 s .b) 0x18) 32 32
        (((s1.clearDisc x.c).fld (qreg (x.s64 s .b) 0x18) 32 32 + 1) % 2 ^ 32)
      else s1.clearDisc x.c) = (s1.clearDisc x.c).launched (x.s64 s .b) v := by
    rw [State.launched, State.take_tail hq]
  unfold State.readRecord at hrd
  unfold State.launchStatus at htaken ⊢
  rw [execLaunch, State.issue_issues h, hb]
  dsimp only at hrd ⊢
  rw [firstTrap_launch hq hsp halign hdev, hord]
  dsimp only
  rw [hrd]
  dsimp only
  rw [htaken, hc]

end

/-- Settles O21: the checks raise nothing and there is room; a launch's record enters the queue behind its tail. -/
theorem engineInstructions : Obligations.EngineInstructions := by
  intro s s1 x o chg e f kd op ct wcls sig b c m v hb
  dsimp only
  refine ⟨fun h hchk hfull hctr hgate hc => ?_, fun h hchk hfull hctr hgate hc => ?_, fun h hchk hfull hctr hgate hc => ?_,
    fun h hchk hfull hctr hgate hc => ?_, fun h hchk hfull hctr hgate hcomm hmod hc => ?_, fun h hq hsp halign hdev hord hrd hc => ?_⟩
  · exact (exec_cpy ..).trans (State.engIssue_issues hb h hchk hfull hctr hgate hc)
  · exact (exec_cpy2d ..).trans (State.engIssue_issues hb h hchk hfull hctr hgate hc)
  · exact (exec_dcx ..).trans (State.engIssue_issues hb h hchk hfull hctr hgate hc)
  · exact (exec_srd ..).trans (State.engIssue_issues hb h hchk hfull hctr hgate hc)
  · rw [exec_coll, execColl, State.issue_issues h, hb]
    exact congrArg Host.Outcome.next (State.collIssue_starts hchk hfull hctr hgate hcomm hmod hc)
  · have hrecord : s.readRecord x b (x.s64 s .a) = (s1, .ok v) :=
      (State.readTwice_eq s x _ rfl fun t lo hi => (t, .ok (lo + hi * 2 ^ 1024))).symm.trans hrd
    exact (exec_launch ..).trans (execLaunch_issues hb h hq hsp halign hdev hord hrecord hc)

end Sys2Proof.Machine

/-! SUPPORT. The machine at reset (R18, R92, R163, R174, R407, R423), and words written out from the encodings (R187 to R198). -/

namespace Sys2Proof.Machine

/-- Settles O57: each word is decoded. -/
theorem decodeWords : Obligations.DecodeWords := by
  unfold Obligations.DecodeWords
  refine ⟨?_, ?_, ?_, ?_, ?_, ?_, ?_, ?_⟩ <;> rfl

/-- Cold reset leaves the keys of reset, whether host thread 0 starts or not (R407, R423). -/
theorem State.coldReset_keys (s : State) : s.coldReset.part.keys = State.reset.part.keys := by
  unfold State.coldReset
  dsimp only
  split
  · split
    · rfl
    · rfl
  · rfl

theorem State.keyMode_of_keys {s t : State} (h : s.part.keys = t.part.keys) (k : Nat) : s.keyMode k = t.keyMode k := by
  rw [State.keyMode, State.keyMode, h]

theorem State.reset_keyMode {k : Nat} (hk : k ≠ 0) : State.reset.keyMode k = 0 := by
  simp [State.keyMode, State.reset, SMap.get, SMap.find?, hk]

/-- A key without a mode has no material. -/
theorem State.keyMat_of_off {s : State} {k : Nat} (h : s.keyMode k = 0) : s.keyMat k = 0 := by
  rw [State.keyMat, h, if_neg (by decide)]

/-- Settles O55: both states have the keys of reset. -/
theorem keysAtReset : Obligations.KeysAtReset := by
  refine ⟨rfl, fun k hk => ⟨State.reset_keyMode hk, State.keyMat_of_off (State.reset_keyMode hk)⟩, fun s => ⟨s.coldReset, rfl, ?_, ?_⟩⟩
  · exact State.keyMode_of_keys s.coldReset_keys 0
  · intro k hk
    have hoff := (State.keyMode_of_keys s.coldReset_keys k).trans (State.reset_keyMode hk)
    exact ⟨hoff, State.keyMat_of_off hoff⟩

/-- Settles O59: the fields of the reset state. -/
theorem resetState : Obligations.ResetState := by
  refine ⟨rfl, rfl, reset_mem_wf, rfl, rfl, rfl, fun off => rfl, fun p hp => ?_⟩
  obtain rfl : p = _ := List.mem_singleton.mp hp
  exact ⟨rfl, rfl, rfl, rfl, rfl, rfl, rfl, rfl, fun l n => rfl⟩

end Sys2Proof.Machine

/-! SUPPORT. Barriers and the decision queue (R104, R105, R170, R171, R335 to R337). -/

namespace Sys2Proof.Machine

theorem exec_barArrive (s : State) (o : Opr) (n : BitVec 4) : exec (.barArrive o n) s = execBarArrive o n s := rfl
theorem exec_barWait (s : State) (o : Opr) (n : BitVec 4) : exec (.barWait o n) s = execBarWait o n s := rfl
theorem exec_gangArrive (s : State) (o : Opr) (g : BitVec 2) : exec (.gangArrive o g) s = execGangArrive o g s := rfl
theorem exec_gangWait (s : State) (o : Opr) (g : BitVec 2) : exec (.gangWait o g) s = execGangWait o g s := rfl
theorem exec_dqPush (s : State) (o : Opr) : exec (.dqPush o) s = execDqPush o s := rfl
theorem exec_dqPop (s : State) (o : Opr) (p : BitVec 3) : exec (.dqPop o p) s = execDqPop o p s := rfl

section
variable {s : State} {x : Iss} {o : Opr} {b l : Block}

theorem execBarArrive_issues {n : BitVec 4} (hb : s.blk? x.c.blk = some b) (h : s.issues (.barArrive o n) = some x)
    (hpos : 1 ≤ x.low32 s .b) (hle : x.low32 s .b ≤ 49) (hord : s.orderWait x.c true .rel .blk = none) :
    execBarArrive o n s = .next ((s.setBlk x.c.blk { b with bars := b.bars.put n.toNat ((b.bar n.toNat).arrive (x.low32 s .b)) }).owes
      { x with c := x.c.passGate true } 32 false fun _ => if (b.bar n.toNat).phase = true then 1 else 0) := by
  rw [execBarArrive, State.issue_issues h]
  dsimp only
  rw [if_neg (by omega), hord, hb]
  rfl

theorem execGangArrive_issues {g : BitVec 2} (hb : s.blk? x.c.blk = some b) (h : s.issues (.gangArrive o g) = some x)
    (hpos : 1 ≤ x.low32 s .b) (hle : x.low32 s .b ≤ 392) (hord : s.orderWait x.c true .rel .gang = none) (hl : s.blk? b.lead = some l) :
    execGangArrive o g s = .next ((s.setBlk b.lead { l with gbars := l.gbars.put g.toNat ((l.gbar g.toNat).arrive (x.low32 s .b)) }).lands
      { x with c := x.c.passGate true } 32 false fun _ => if (l.gbar g.toNat).phase = true then 1 else 0) := by
  rw [execGangArrive, State.issue_issues h]
  dsimp only
  rw [if_neg (by omega), hord, hb]
  dsimp only
  rw [hl]
  rfl

theorem execDqPush_issues (hb : s.blk? x.c.blk = some b) (h : s.issues (.dqPush o) = some x) (hord : s.orderWait x.c true .rel .blk = none)
    (hroom : (s.dqTrim x.c.blk b).dq.length < 16) :
    execDqPush o s = .next ((s.setBlk x.c.blk (s.dqTrim x.c.blk
      { s.dqTrim x.c.blk b with dq := (s.dqTrim x.c.blk b).dq ++ [x.w64 s .a] })).retire x (x.c.passGate true)) := by
  rw [execDqPush, State.issue_issues h]
  dsimp only
  rw [hord, hb]
  dsimp only
  rw [if_neg (Nat.not_le.mpr hroom)]

/-- The entry popped and the predicate that says so, in each lane that takes part. -/
def Iss.popWrites (x : Iss) (p : BitVec 3) (e : BitVec 64) : List RW :=
  (lanesOf x.part).flatMap (fun l => x.wr l 64 false e.toNat ++ [RW.p l p.toNat true])

theorem execDqPop_entry {p : BitVec 3} {e : BitVec 64} (hb : s.blk? x.c.blk = some b) (h : s.issues (.dqPop o p) = some x)
    (he : b.dq[x.c.dqIdx - b.dqBase]? = some e) :
    execDqPop o p s = .next ((s.pend x { x.c with dqIdx := x.c.dqIdx + 1 } { flag := none, writes := x.popWrites p e }).setBlk x.c.blk
      ((s.pend x { x.c with dqIdx := x.c.dqIdx + 1 } { flag := none, writes := x.popWrites p e }).dqTrim x.c.blk b)) := by
  rw [execDqPop, State.issue_issues h, hb]
  dsimp only
  rw [he]
  dsimp only
  rw [show ∀ c r, (s.pend x c r).blk? x.c.blk = some b from fun _ _ => hb]
  rfl

theorem execDqPop_gone {p : BitVec 3} (hb : s.blk? x.c.blk = some b) (h : s.issues (.dqPop o p) = some x)
    (he : b.dq[x.c.dqIdx - b.dqBase]? = none) (hgone : ∀ c, s.ctxs.find? (coxKey x.c.blk) = some c → c.alive = 0) :
    execDqPop o p s = .next (s.pend x x.c { flag := none, writes := (lanesOf x.part).map (fun l => RW.p l p.toNat false) }) := by
  have hwrites : x.laneWrites (fun l => [RW.p l p.toNat false]) = (lanesOf x.part).map (fun l => RW.p l p.toNat false) :=
    List.flatMap_pure_eq_map _ _
  rw [execDqPop, State.issue_issues h, hb]
  dsimp only
  rw [he, hwrites]
  dsimp only
  cases hcox : s.ctxs.find? (coxKey x.c.blk) with
  | none => rfl
  | some c => exact congrArg Host.Outcome.next (if_pos (decide_eq_true (hgone c hcox)))

end

theorem Ctx.flagUp_res (c : Ctx) (f : Option Nat) : (c.flagUp f).res = c.res := by
  cases f <;> rfl

/-- A result that is due is recorded in the thread as the instruction moves on. -/
theorem State.pend_ctx (s : State) (x : Iss) (r : Res) : (s.pend x x.c r).ctxs.find? x.cid =
    some ((Ctx.advance { (x.c.flagUp (if x.c.stream = .host then none else x.flag)) with
      res := x.c.res.put (freshKey x.c.res) { r with flag := if x.c.stream = .host then none else x.flag } } s.pt x.k)) := by
  rw [State.pend]
  dsimp only
  rw [Ctx.flagUp_res]
  exact SMap.find?_put_same ..

/-- An arrival that is not a phase's last counts; the last one changes the phase and counts anew (R171). -/
theorem Bar.arrive_of_count {v : Bar} {count n : Nat} (hn : (if v.arr = 0 then count else v.count) = n) : v.arrive count =
    if v.arr + 1 = n then { phase := !v.phase, arr := 0, count := n } else { v with arr := v.arr + 1, count := n } := by
  rw [Bar.arrive, hn]

/-- What n arrivals make of a barrier that counts none: the first sets the count, the last of n changes the phase. -/
theorem Bar.foldl_arrive {v : Bar} {n : Nat} (hv : v.arr = 0) (later : List Nat) (hle : later.length + 1 ≤ n) :
    (later.foldl Bar.arrive (v.arrive n)).count = n ∧
      (later.length + 1 < n → (later.foldl Bar.arrive (v.arrive n)).phase = v.phase ∧
        (later.foldl Bar.arrive (v.arrive n)).arr = later.length + 1) ∧
      (later.length + 1 = n → (later.foldl Bar.arrive (v.arrive n)).phase = !v.phase ∧
        (later.foldl Bar.arrive (v.arrive n)).arr = 0) := by
  induction later using List.reverseRecOn with
  | nil =>
    rw [List.foldl_nil, Bar.arrive_of_count (if_pos hv), hv, List.length_nil]
    split <;> simp [*]
  | append_singleton xs count ih =>
    rw [List.length_append, List.length_singleton] at hle ⊢
    obtain ⟨hcount, hbefore, -⟩ := ih (by omega)
    obtain ⟨hphase, harr⟩ := hbefore (by omega)
    rw [List.foldl_append, List.foldl_cons, List.foldl_nil, Bar.arrive_of_count (by rw [harr, if_neg (by omega), hcount]), harr]
    split <;> simp [*]

/-- Settles O22: arrivals are counted by `Bar.foldl_arrive`; the queue is trimmed around each push and pop. -/
theorem barriersAndQueue : Obligations.BarriersAndQueue := by
  intro s x o n g p b l hb
  dsimp only
  refine ⟨fun h hpos hle hord => ?_, fun h hne => ?_, fun h hpos hle hord hl => ?_, fun h hl hne => ?_, fun h hord hroom => ?_,
    fun h e he => ?_, fun h he hgone => ?_, State.pend_ctx s x, fun v n later hv hle => Bar.foldl_arrive hv later hle⟩
  · exact (exec_barArrive ..).trans (execBarArrive_issues hb h hpos hle hord)
  · rw [exec_barWait, execBarWait, State.issue_issues h, hb]
    exact congrArg Host.Outcome.next (if_neg (c := (b.bar n.toNat).phase = bitOf (x.low32 s .a) 0) (by rw [bitOf_eq_testBit]; exact hne))
  · exact (exec_gangArrive ..).trans (execGangArrive_issues hb h hpos hle hord hl)
  · rw [exec_gangWait, execGangWait, State.issue_issues h, hb, Option.bind_some, hl]
    exact congrArg Host.Outcome.next (if_neg (c := (l.gbar g.toNat).phase = bitOf (x.low32 s .a) 0) (by rw [bitOf_eq_testBit]; exact hne))
  · exact (exec_dqPush ..).trans (execDqPush_issues hb h hord hroom)
  · exact (exec_dqPop ..).trans (execDqPop_entry hb h he)
  · exact (exec_dqPop ..).trans (execDqPop_gone hb h he hgone)

end Sys2Proof.Machine

/-! SUPPORT. The tier instructions (R41, R42, R338, R339). -/

namespace Sys2Proof.Machine

theorem exec_tierHint (s : State) (o : Opr) : exec (.tierHint o) s = execTierHint o s := rfl
theorem exec_tierPin (s : State) (o : Opr) : exec (.tierPin o) s = s.tierAccess (.tierPin o) o true := rfl
theorem exec_tierUnpin (s : State) (o : Opr) : exec (.tierUnpin o) s = s.tierAccess (.tierUnpin o) o false := rfl
theorem exec_tierQuery (s : State) (o : Opr) : exec (.tierQuery o) s = execTierQuery o s := rfl

/-! ### The first hint of each page -/

/-- One more hint, kept when no earlier one names its page. -/
def hintOnce (l : List Hint) (h : Hint) : List Hint := if l.any (fun g => g.va = h.va) then l else l ++ [h]

theorem pageOnce_append (hs : List Hint) (h : Hint) : pageOnce (hs ++ [h]) = hintOnce (pageOnce hs) h := by
  rw [pageOnce, List.foldl_append]
  rfl

theorem any_va_iff (l : List Hint) (h : Hint) : (l.any fun g => g.va = h.va) = true ↔ ∃ g ∈ l, g.va = h.va := by
  simp

/-- The hints kept name their pages once, leave no page out, and are the first of their page. -/
theorem pageOnce_spec (hs : List Hint) : (pageOnce hs).Pairwise (fun g h => g.va ≠ h.va) ∧ (∀ h ∈ hs, ∃ g ∈ pageOnce hs, g.va = h.va) ∧
    ∀ g ∈ pageOnce hs, hs.find? (fun h => h.va = g.va) = some g := by
  induction hs using List.reverseRecOn with
  | nil => exact ⟨List.Pairwise.nil, fun _ h => absurd h List.not_mem_nil, fun _ h => absurd h List.not_mem_nil⟩
  | append_singleton hs h ih =>
    obtain ⟨hpair, hall, hfirst⟩ := ih
    have hkept : ∀ g ∈ pageOnce hs, (hs ++ [h]).find? (fun h => h.va = g.va) = some g := fun g hg => by
      rw [List.find?_append, hfirst g hg, Option.some_or]
    rw [pageOnce_append, hintOnce]
    split
    · next hseen =>
      obtain ⟨g, hg, hva⟩ := (any_va_iff _ _).mp hseen
      refine ⟨hpair, fun f hf => ?_, hkept⟩
      rcases List.mem_append.mp hf with hf | hf
      · exact hall f hf
      · exact ⟨g, hg, List.mem_singleton.mp hf ▸ hva⟩
    · next hnew =>
      have hnone : ∀ g ∈ pageOnce hs, g.va ≠ h.va := fun g hg hva => hnew ((any_va_iff _ _).mpr ⟨g, hg, hva⟩)
      refine ⟨List.pairwise_append.mpr ⟨hpair, List.pairwise_singleton _ _, fun g hg f hf => List.mem_singleton.mp hf ▸ hnone g hg⟩,
        fun f hf => ?_, fun g hg => ?_⟩
      · rcases List.mem_append.mp hf with hf | hf
        · obtain ⟨g, hg, hva⟩ := hall f hf
          exact ⟨g, List.mem_append_left _ hg, hva⟩
        · exact ⟨f, List.mem_append_right _ hf, rfl⟩
      · rcases List.mem_append.mp hg with hg | hg
        · exact hkept g hg
        · obtain rfl := List.mem_singleton.mp hg
          have hfree : hs.find? (fun h => h.va = g.va) = none := List.find?_eq_none.mpr fun f hf hva => by
            obtain ⟨k, hk, hkva⟩ := hall f hf
            exact hnone k hk (hkva.trans (of_decide_eq_true hva))
          rw [List.find?_append, hfree, Option.none_or, List.find?_cons_of_pos (by simp)]

/-! ### Requests of pins and unpins -/

/-- A request of a page is recorded under the number that is next. -/
theorem State.pinReq_id (u : State) (x : Iss) (v : Nat) (k : ReqKind) :
    (u.pinReq x v k).2 = u.ms.nextReq ∧ (u.pinReq x v k).1.ms.nextReq = u.ms.nextReq + 1 := by
  unfold State.pinReq
  split
  · exact ⟨rfl, rfl⟩
  · exact ⟨rfl, rfl⟩

/-- What a pin or an unpin asks of a page, and the work that a pin sets. -/
theorem State.pinReq_spec (u : State) (x : Iss) (v tier : Nat) (k : ReqKind) :
    (∃ q, (u.pinReq x v k).1.ms.reqs.find? (u.pinReq x v k).2 = some q ∧ q.kind = k ∧ q.va = v ∧ q.asid = x.c.asid ∧ q.dev = x.c.dev ∧
      q.priv = (decide (x.c.stream = Stream.host) && x.c.priv) ∧ q.cid = x.cid) ∧
    (k = .pin tier → (u.pinReq x v k).1.mig.hints = u.mig.hints ++
      [{ dev := x.c.dev, asid := x.c.asid, va := v, tier := tier, pinReq := some (u.pinReq x v k).2,
         priv := decide (x.c.stream = Stream.host) && x.c.priv }]) ∧
    (k = .unpin → (u.pinReq x v k).1.mig = u.mig) := by
  have hput : ∀ q : Req, (u.ms.reqs.put u.ms.nextReq q).find? u.ms.nextReq = some q := fun q => SMap.find?_put_same ..
  unfold State.pinReq
  split
  · refine ⟨⟨_, hput _, rfl, rfl, rfl, rfl, rfl, rfl⟩, fun h => ?_, fun h => nomatch h⟩
    cases h
    rfl
  · next hpin => exact ⟨⟨_, hput _, rfl, rfl, rfl, rfl, rfl, rfl⟩, fun h => absurd h (hpin tier), fun _ => rfl⟩

/-- Pages and the numbers of their requests: each page has one number, each number one page, and no number is to come. -/
structure PinsMatch (done : List (Nat × Nat)) (next : Nat) : Prop where
  below : ∀ d ∈ done, d.2 < next
  same : ∀ d ∈ done, ∀ e ∈ done, d.1 = e.1 ↔ d.2 = e.2

theorem PinsMatch.cons {done : List (Nat × Nat)} {next v : Nat} (h : PinsMatch done next) (hnew : ∀ d ∈ done, d.1 ≠ v) :
    PinsMatch ((v, next) :: done) (next + 1) where
  below := by
    rintro d (_ | ⟨_, hd⟩)
    · exact Nat.lt_succ_self _
    · exact Nat.lt_succ_of_lt (h.below d hd)
  same := by
    rintro d (_ | ⟨_, hd⟩) e (_ | ⟨_, he⟩)
    · simp
    · exact ⟨fun hv => absurd hv.symm (hnew e he), fun hn => absurd (h.below e he) (by simp only at hn; omega)⟩
    · exact ⟨fun hv => absurd hv (hnew d hd), fun hn => absurd (h.below d hd) (by simp only at hn; omega)⟩
    · exact h.same d hd e he

/-- The lanes asked for, in order, each with the number of its page's request: for the lanes dealt with and those still to come. -/
theorem State.pinReqs_spec (x : Iss) (ps : List (Nat × Nat × ReqKind)) (u : State) (done ids : List (Nat × Nat))
    (h : PinsMatch done u.ms.nextReq) : ∃ next all, PinsMatch all next ∧ done ⊆ all ∧ ∃ ns : List Nat,
      (u.pinReqs x ps done ids).2 = ids.reverse ++ (ps.map (·.1)).zip ns ∧ ns.length = ps.length ∧
      ∀ (i : Nat) p n, ps[i]? = some p → ns[i]? = some n → (p.2.1, n) ∈ all := by
  induction ps generalizing u done ids with
  | nil => exact ⟨_, done, h, List.Subset.refl _, [], by simp [State.pinReqs], rfl, fun i p n hp => by simp at hp⟩
  | cons p ps ih =>
    obtain ⟨l, v, k⟩ := p
    have step : ∀ (u' : State) (done' : List (Nat × Nat)) (n : Nat), PinsMatch done' u'.ms.nextReq → done ⊆ done' → (v, n) ∈ done' →
        u.pinReqs x ((l, v, k) :: ps) done ids = u'.pinReqs x ps done' ((l, n) :: ids) →
        ∃ next all, PinsMatch all next ∧ done ⊆ all ∧ ∃ ns : List Nat,
          (u.pinReqs x ((l, v, k) :: ps) done ids).2 = ids.reverse ++ (((l, v, k) :: ps).map (·.1)).zip ns ∧
          ns.length = ((l, v, k) :: ps).length ∧
          ∀ (i : Nat) p n, ((l, v, k) :: ps)[i]? = some p → ns[i]? = some n → (p.2.1, n) ∈ all := by
      intro u' done' n hmatch hsub hmem heq
      obtain ⟨next, all, hall, hdone, ns, hres, hlen, hin⟩ := ih u' done' ((l, n) :: ids) hmatch
      refine ⟨next, all, hall, List.Subset.trans hsub hdone, n :: ns, ?_, by simp [hlen], ?_⟩
      · rw [heq, hres]
        simp
      · rintro (_ | i) q m hq hm
        · simp only [List.getElem?_cons_zero, Option.some.injEq] at hq hm
          rw [← hq, ← hm]
          exact hdone hmem
        · exact hin i q m hq hm
    cases hfind : done.find? (fun d => d.1 = v) with
    | some d =>
      have hv : d.1 = v := of_decide_eq_true (List.find?_some hfind :)
      exact step u done d.2 h (List.Subset.refl _) (by rw [← hv]; exact List.mem_of_find?_eq_some hfind) (by rw [State.pinReqs, hfind])
    | none =>
      obtain ⟨hid, hnext⟩ := u.pinReq_id x v k
      have hnew : ∀ d ∈ done, d.1 ≠ v := fun d hd hv => List.find?_eq_none.mp hfind d hd (decide_eq_true hv)
      refine step (u.pinReq x v k).1 ((v, (u.pinReq x v k).2) :: done) (u.pinReq x v k).2 ?_ (List.subset_cons_self _ _)
        List.mem_cons_self (by rw [State.pinReqs, hfind])
      rw [hid, hnext]
      exact h.cons hnew

/-- The split that asked waits for the confirmations recorded in its thread. -/
theorem State.pinWait_spec (u : State) (x : Iss) (d : Ctx) (ids ps : List (Nat × Nat)) (hd : u.ctxs.find? x.cid = some d) :
    ∃ c sp key a, (u.pinWait x ids ps).ctxs.find? x.cid = some c ∧ c.splits.find? x.k = some sp ∧ sp.pc = x.sp.pc ∧
      sp.wait = .confirm key ∧ c.accs.find? key = some a ∧ a.reqs = ids ∧ a.part = x.part := by
  rw [State.pinWait, hd]
  exact ⟨_, _, _, _, SMap.find?_put_same .., SMap.find?_put_same .., rfl, rfl, SMap.find?_put_same .., rfl, rfl⟩

/-! ### At issue -/

section
variable {s : State} {x : Iss} {o : Opr} {va : Nat → Nat}

theorem Iss.badTier_of_le {op : Operand} (h : ∀ l ∈ lanesOf x.part, x.rd s l 32 .zero op ≤ 2) : x.badTier s op = 0 := by
  rw [Iss.badTier, List.filter_eq_nil_iff.mpr fun l hl => by simpa using h l hl]
  rfl

theorem execTierHint_issues (h : s.issues (.tierHint o) = some x) (hgate : s.gateOf x.c false = none)
    (hva : ∀ l ∈ lanesOf x.part, x.rd s l 32 .zero .b ≤ 2 ∧ s.tierVa x l = .ok (va l)) :
    execTierHint o s = .next (({ s with mig := { s.mig with hints := s.mig.hints ++ pageOnce ((lanesOf x.part).map fun l =>
      { dev := x.c.dev, asid := x.c.asid, va := va l / 65536 * 65536, tier := x.rd s l 32 .zero .b, pinReq := none,
        priv := decide (x.c.stream = Stream.host) && x.c.priv }) } }).retire x x.c) := by
  rw [execTierHint, State.issue_issues h, Iss.badTier_of_le fun l hl => (hva l hl).1]
  rw [if_neg (not_not.mpr rfl), hgate]
  dsimp only
  rw [List.filterMap_eq_map_iff_forall_eq_some.mpr fun l hl => by rw [(hva l hl).2]]

/-- A pin or an unpin whose pointers lead somewhere and whose tiers are tiers asks for its pages and waits. -/
theorem State.tierAccess_issues {i : Instr} {pin : Bool} (h : s.issues i = some x) (hgate : s.gateOf x.c false = none)
    (htier : pin = true → x.badTier s .b = 0) (hva : ∀ l ∈ lanesOf x.part, s.tierVa x l = .ok (va l)) :
    s.tierAccess i o pin = .next (((s.clearDisc x.c).pinReqs x ((lanesOf x.part).map fun l =>
        (l, va l / 65536 * 65536, if pin then ReqKind.pin (x.rd s l 32 .zero .b) else ReqKind.unpin)) [] []).1.pinWait x
      ((s.clearDisc x.c).pinReqs x ((lanesOf x.part).map fun l =>
        (l, va l / 65536 * 65536, if pin then ReqKind.pin (x.rd s l 32 .zero .b) else ReqKind.unpin)) [] []).2
      ((lanesOf x.part).map (fun l => (l, x.rd s l 64 .zero .a)))) := by
  have hwants : s.pinWants x o pin = (lanesOf x.part).map fun l =>
      (l, va l / 65536 * 65536, if pin then ReqKind.pin (x.rd s l 32 .zero .b) else ReqKind.unpin) :=
    List.filterMap_eq_map_iff_forall_eq_some.mpr fun l hl => by rw [hva l hl]
  rw [State.tierAccess, State.issue_issues h, if_neg (fun hbad => hbad.2 (htier hbad.1)), hgate]
  dsimp only
  rw [List.filterMap_eq_nil_iff.mpr fun l hl => by rw [hva l hl], hwants]

/-- The word of tier.query in a lane, or what keeps it from being read (R339). -/
def State.tierGot (s : State) (x : Iss) (l : Nat) : Got Nat :=
  match s.tierVa x l with
  | .error _ => .ok 0
  | .ok va => match s.leafNow x.c.asid va with
    | .ok (some (lvl, _, e)) => .ok (s.tierWord va lvl e)
    | .ok none => .ok 0
    | .trap t => .trap t
    | .hold => .hold

theorem execTierQuery_issues {word : Nat → Nat} (h : s.issues (.tierQuery o) = some x) (hgate : s.gateOf x.c false = none)
    (hword : ∀ l ∈ lanesOf x.part, s.tierVa x l = .ok (va l) ∧ ∃ r, s.leafNow x.c.asid (va l) = .ok r ∧
      word l = match r with | some (lvl, _, e) => s.tierWord (va l) lvl e | none => 0) :
    execTierQuery o s = .next (s.owes x 64 false word) := by
  rw [execTierQuery, State.issue_issues h, hgate]
  have hgot : ∀ l ∈ lanesOf x.part, s.tierGot x l = .ok (word l) := fun l hl => by
    obtain ⟨htva, r, hleaf, hw⟩ := hword l hl
    rw [State.tierGot, htva]
    dsimp only
    rw [hleaf, hw]
    cases r <;> rfl
  have hready : ((lanesOf x.part).any fun l => decide (s.tierGot x l = .hold)) = false := by
    rw [List.any_eq_false]
    intro l hl
    rw [hgot l hl]
    simp
  have hwrites : x.laneWrites (fun l => x.wr l 64 false (match s.tierGot x l with | .ok v => v | _ => 0)) = x.results 64 false word :=
    List.flatMap_congr fun l hl => by rw [hgot l hl]; rfl
  show Host.Outcome.next (if ((lanesOf x.part).any fun l => decide (s.tierGot x l = .hold)) = true then s.holdAs x (.held 7) else
    s.pend x x.c { writes := x.laneWrites (fun l => x.wr l 64 false (match s.tierGot x l with | .ok v => v | _ => 0)), flag := none }) = _
  rw [hready, hwrites]
  rfl

end

/-- The numbers of the requests by lane, equal exactly where the pages are. -/
theorem State.pinReqs_ids (u : State) (x : Iss) (ps : List (Nat × Nat × ReqKind)) :
    (u.pinReqs x ps [] []).2.map (·.1) = ps.map (·.1) ∧ ∀ (i j : Nat) p q (a b : Nat × Nat), ps[i]? = some p → ps[j]? = some q →
      (u.pinReqs x ps [] []).2[i]? = some a → (u.pinReqs x ps [] []).2[j]? = some b → (a.2 = b.2 ↔ p.2.1 = q.2.1) := by
  obtain ⟨_, all, hall, -, ns, hres, hlen, hin⟩ := u.pinReqs_spec x ps [] [] ⟨by simp, by simp⟩
  rw [List.reverse_nil, List.nil_append] at hres
  rw [hres]
  refine ⟨List.map_fst_zip (by simp [hlen]), fun i j p q a b hp hq ha hb => ?_⟩
  obtain ⟨-, hna⟩ := List.getElem?_zip_eq_some.mp ha
  obtain ⟨-, hnb⟩ := List.getElem?_zip_eq_some.mp hb
  exact (hall.same _ (hin i p _ hp hna) _ (hin j q _ hq hnb)).symm

/-- Settles O23: hints, pins and queries of lanes whose pointers lead somewhere. -/
theorem tierInstructions : Obligations.TierInstructions := by
  intro s x o va hgate
  dsimp only
  refine ⟨fun h hva => ?_, pageOnce_spec, fun h hva => ?_, fun h hva => ?_, fun u v tier k => u.pinReq_spec x v tier k,
    fun u ps => u.pinReqs_ids x ps, fun u d ids ps hd => u.pinWait_spec x d ids ps hd, fun word h hword => ?_⟩
  · exact (exec_tierHint ..).trans (execTierHint_issues h hgate hva)
  · exact (exec_tierPin ..).trans (State.tierAccess_issues h hgate (fun _ => Iss.badTier_of_le fun l hl => (hva l hl).1)
      fun l hl => (hva l hl).2)
  · exact (exec_tierUnpin ..).trans (State.tierAccess_issues h hgate (fun hpin => nomatch hpin) hva)
  · exact (exec_tierQuery ..).trans (execTierQuery_issues h hgate hword)

end Sys2Proof.Machine

/-! SUPPORT. The system instructions (R340 to R342, R345). -/

namespace Sys2Proof.Machine

theorem exec_trap (s : State) (o : Opr) (cs : Cause) (q : BitVec 8) : exec (.trap o cs q) s = execTrap o cs q s := rfl
theorem exec_svc (s : State) (o : Opr) (n : BitVec 24) : exec (.svc o n) s = execSvc o n s := rfl
theorem exec_brk (s : State) (o : Opr) (n : BitVec 24) : exec (.brk o n) s = execBrk o n s := rfl
theorem exec_wrpriv (s : State) (o : Opr) (num : BitVec 12) : exec (.wrpriv o num) s = execWrpriv o num s := rfl
theorem exec_rdpriv (s : State) (o : Opr) (num : BitVec 12) : exec (.rdpriv o num) s = execRdpriv o num s := rfl
theorem exec_rdctr (s : State) (o : Opr) (k : BitVec 8) : exec (.rdctr o k) s = execRdctr o k s := rfl
theorem exec_tresume (s : State) (o : Opr) (e : BitVec 8) : exec (.tresume o e) s = execTresume o e s := rfl

theorem bits_of_lt {x lo n : Nat} (h : x < 2 ^ lo) : bits x lo n = 0 := by
  rw [bits, Nat.div_eq_of_lt h, Nat.zero_mod]

/-- The word that redirects, when the mode takes one (R341). -/
def Iss.redirect (x : Iss) (s : State) (o : Opr) (e : BitVec 8) : BitVec 64 := if o.usesImm then 0 else x.eWord s (lowest x.part) e

/-- What tresume does with the token, the mode and the mask of the lowest lane that takes part (R341). -/
def Iss.resumes (x : Iss) (s : State) (o : Opr) (e : BitVec 8) : State × Nat :=
  s.tresume (BitVec.ofNat 64 (x.rd s (lowest x.part) 64 .zero .a)) (x.rd s (lowest x.part) 32 .zero .b)
    (BitVec.ofNat 32 (x.rd s (lowest x.part) 32 .zero .c)) (x.redirect s o e)

theorem execTresume_issues {s : State} {x : Iss} {o : Opr} {e : BitVec 8} {c : Ctx} (h : s.issues (.tresume o e) = some x)
    (hm : x.rd s (lowest x.part) 32 .zero .b < 4) (himm : ¬(x.rd s (lowest x.part) 32 .zero .b = 2 ∧ o.usesImm = true))
    (hord : s.orderWait x.c true .rel .pkg = none) (hc : (x.resumes s o e).1.ctxs.find? x.cid = some c) :
    execTresume o e s = .next ((x.resumes s o e).1.retire x ((c.passGate true).applyAll
      (x.wr (lowest x.part) 32 false (x.resumes s o e).2))) := by
  have hgood : ¬(bits (x.rd s (lowest x.part) 32 .zero .b) 2 30 ≠ 0 ∨ (x.rd s (lowest x.part) 32 .zero .b = 2 ∧ o.usesImm = true)) :=
    not_or.mpr ⟨not_not.mpr (bits_of_lt hm), himm⟩
  unfold Iss.resumes Iss.redirect at hc ⊢
  rw [execTresume, State.issue_issues h]
  dsimp only
  rw [if_neg hgood, hord]
  dsimp only
  rw [hc]

/-- Settles O24: each instruction's one effect at issue. -/
theorem systemInstructions : Obligations.SystemInstructions := by
  intro s x o cs q n num k e
  dsimp only
  refine ⟨fun h => ?_, fun h => ?_, fun h => ?_, fun h => ?_, fun h => ?_, fun h => ?_, fun h hm himm hord c hc => ?_⟩
  · rw [exec_trap, execTrap, State.issue_issues h]
  · rw [exec_svc, execSvc, State.issue_issues h]
  · rw [exec_brk, execBrk, State.issue_issues h]
  · rw [exec_wrpriv, execWrpriv, State.issue_issues h]
  · rw [exec_rdpriv, execRdpriv, State.issue_issues h]
    rfl
  · rw [exec_rdctr, execRdctr, State.issue_issues h]
    rfl
  · have hd : x.o = o := State.opr_of_issues h rfl
    rw [exec_tresume, execTresume_issues h hm himm hord hc, ← hd]
    rfl

end Sys2Proof.Machine

/-! SUPPORT. Results that land, accesses that are confirmed and requests that are served (R74, R90, R95, R96, R109, R185, R282, R418). -/

namespace Sys2Proof.Machine

theorem exec_variableLatencyResult (s : State) (cid i : Nat) :
    exec (.variableLatencyResult cid i) s = execVariableLatencyResult cid i s := rfl
theorem exec_accessConfirm (s : State) (w : Who) : exec (.accessConfirm w) s = execAccessConfirm w s := rfl
theorem exec_haRead (s : State) (id : Nat) : exec (.haRead id) s = execHaRead id s := rfl
theorem exec_haWrite (s : State) (id : Nat) : exec (.haWrite id) s = execHaWrite id s := rfl
theorem exec_gangPeerAccess (s : State) (id : Nat) : exec (.gangPeerAccess id) s = execGangPeerAccess id s := rfl
theorem exec_remoteWriteAck (s : State) (id : Nat) (a : FabReply) : exec (.remoteWriteAck id a) s = execRemoteWriteAck id a s := rfl
theorem exec_linkTimeout (s : State) (id : Nat) : exec (.linkTimeout id) s = execLinkTimeout id s := rfl
theorem exec_releaseWaitEnd (s : State) (w : Who) : exec (.releaseWaitEnd w) s = execReleaseWaitEnd w s := rfl
theorem exec_sideQueueRelease (s : State) (key : Nat) : exec (.sideQueueRelease key) s = execSideQueueRelease key s := rfl
theorem exec_eloglostRead (s : State) (id : Nat) : exec (.eloglostRead id) s = execEloglostRead id s := rfl
theorem exec_qevtRead (s : State) (id : Nat) : exec (.qevtRead id) s = execQevtRead id s := rfl
theorem exec_iovfRead (s : State) (id : Nat) : exec (.iovfRead id) s = execIovfRead id s := rfl
theorem exec_prestatRead (s : State) (id : Nat) : exec (.prestatRead id) s = execPrestatRead id s := rfl

/-! ### Results -/

theorem execVariableLatencyResult_whole {s : State} {cid key : Nat} {c : Ctx} {r : Res} (hc : s.ctxs.find? cid = some c)
    (hr : c.res.find? key = some r) (hfree : ∀ n ∈ r.tiles, c.tileWaits key n = false) :
    execVariableLatencyResult cid (key * 2 ^ 20) s = .next (s.landRes cid key c r) := by
  have htiles : r.tiles.any (c.tileWaits key) = false := List.any_eq_false.mpr fun n hn => by rw [hfree n hn]; exact Bool.false_ne_true
  rw [execVariableLatencyResult, Nat.mul_div_cancel _ (by decide), Nat.mul_mod_left, hc]
  dsimp only
  rw [hr]
  dsimp only
  rw [if_pos rfl, htiles, if_neg Bool.false_ne_true]

theorem execVariableLatencyResult_write {s : State} {cid key j : Nat} {c : Ctx} {r : Res} {wr : RW} (hc : s.ctxs.find? cid = some c)
    (hr : c.res.find? key = some r) (hw : r.writes[j]? = some wr) (hj : j + 1 < 2 ^ 20) :
    execVariableLatencyResult cid (key * 2 ^ 20 + (j + 1)) s = .next (s.setCtx cid
      { c.land [wr] with res := c.res.put key { r with writes := r.writes.eraseIdx j } }) := by
  obtain ⟨hlt, -⟩ := List.getElem?_eq_some_iff.mp hw
  have hkey : (key * 2 ^ 20 + (j + 1)) / 2 ^ 20 = key := by omega
  have hslot : (key * 2 ^ 20 + (j + 1)) % 2 ^ 20 = j + 1 := by omega
  rw [execVariableLatencyResult, hkey, hslot, hc]
  dsimp only
  rw [hr]
  dsimp only
  rw [if_neg (Nat.succ_ne_zero j), Nat.add_sub_cancel, if_pos hlt, hw]

/-! ### Confirmation of an access (R282) -/

theorem State.forgetReqs_nil (s : State) : s.forgetReqs [] = s := by
  have hall : s.ms.reqs.filter (fun p => !(([] : List (Nat × Nat)).any fun q => q.2 = p.1)) = s.ms.reqs :=
    List.filter_eq_self.mpr fun _ _ => rfl
  unfold State.forgetReqs
  rw [hall]

/-- Nothing is masked: no request goes. -/
theorem Acc.goneReqs_zero (a : Acc) : a.goneReqs 0 = [] := List.filter_eq_nil_iff.mpr fun p _ => by simp

/-- The first of two faults: that of the lower lane, and in one lane that of the lower rank. -/
def faultFirst (m : Option (Nat × Cause × Nat × Nat × BitVec 64)) (p : Nat × Cause × Nat × Nat × BitVec 64) :
    Option (Nat × Cause × Nat × Nat × BitVec 64) :=
  match m with
  | none => some p
  | some q => if p.1 < q.1 ∨ (p.1 = q.1 ∧ faultRank p.2.1 < faultRank q.2.1) then some p else some q

theorem firstFault_append (bad : List (Nat × Cause × Nat × Nat × BitVec 64)) (p : Nat × Cause × Nat × Nat × BitVec 64) :
    firstFault (bad ++ [p]) = faultFirst (firstFault bad) p := by
  rw [firstFault, List.foldl_append]
  rfl

/-- The fault that counts is one of the list, of the lowest lane that faults. -/
theorem firstFault_spec (bad : List (Nat × Cause × Nat × Nat × BitVec 64)) :
    (firstFault bad = none → bad = []) ∧ ∀ f, firstFault bad = some f → f ∈ bad ∧ ∀ p ∈ bad, f.1 ≤ p.1 := by
  induction bad using List.reverseRecOn with
  | nil => exact ⟨fun _ => rfl, fun f h => (nomatch h)⟩
  | append_singleton bad p ih =>
    obtain ⟨hnone, hsome⟩ := ih
    have hp : p ∈ bad ++ [p] := List.mem_append_right _ List.mem_cons_self
    rw [firstFault_append]
    cases hq : firstFault bad with
    | none =>
      obtain rfl := hnone hq
      refine ⟨fun h => (nomatch h), fun f h => ?_⟩
      obtain rfl : p = f := Option.some.inj h
      exact ⟨hp, fun g hg => by rw [List.mem_singleton.mp hg]⟩
    | some q =>
      obtain ⟨hmem, hmin⟩ := hsome q hq
      have hle : ∀ n, n ≤ q.1 → n ≤ p.1 → ∀ g ∈ bad ++ [p], n ≤ g.1 := fun n hnq hnp g hg => by
        rcases List.mem_append.mp hg with hg | hg
        · exact Nat.le_trans hnq (hmin g hg)
        · rwa [List.mem_singleton.mp hg]
      unfold faultFirst
      dsimp only
      split
      · refine ⟨fun h => (nomatch h), fun f h => ?_⟩
        obtain rfl : p = f := Option.some.inj h
        exact ⟨hp, hle _ (by omega) (Nat.le_refl _)⟩
      · refine ⟨fun h => (nomatch h), fun f h => ?_⟩
        obtain rfl : q = f := Option.some.inj h
        exact ⟨List.mem_append_left _ hmem, hle _ (Nat.le_refl _) (by omega)⟩

section
variable {y : State} {cid k key : Nat} {c : Ctx} {sp : Split} {a : Acc} (hc : y.ctxs.find? cid = some c) (hsp : c.splits.find? k = some sp)
  (hwait : sp.wait = .confirm key) (ha : c.accs.find? key = some a)
  (hsure : ∀ p ∈ a.reqs, ∀ q, y.ms.reqs.find? p.2 = some q → q.sure = true)
include hc hsp hwait ha hsure

/-- The requests of the access are sure to go through: the split moves on, or it traps for the lowest lane that faults. -/
theorem State.confirm_of_sure : y.confirm cid k =
    (let mask := maskOf ((y.badOf a).map (·.1))
     let c' : Ctx := { c with accs := c.accs.put key { a with
       freed := true, part := a.part &&& ~~~ mask, reqs := a.reqs.filter (fun p => !mask.getLsbD p.1) } }
     let u := y.forgetReqs (a.goneReqs mask)
     match firstFault (y.badOf a) with
     | none =>
       let c' := match a.sr with | some x => { c' with sr := c'.sr.put 0 x } | none => c'
       some ((u.setCtx cid (c'.advance u.pt k)).settleAcc cid key)
     | some (l, cs, q, lv, aux) => some (((u.setCtx cid c').settleAcc cid key).takeTrap cid k
         { cause := cs, qual := q, level := lv, aux := aux, lmask := mask, pmask := a.part, lanes := true,
           addr := if a.kind = .accOut then y.badStore a else ((a.ptrs.find? (fun p => p.1 = l)).map (·.2)).getD 0 })) := by
  have hall : (a.reqs.all fun p => match y.ms.reqs.find? p.2 with | some r => r.sure | none => true) = true :=
    List.all_eq_true.mpr fun p hp => by
      cases hq : y.ms.reqs.find? p.2 with
      | none => rfl
      | some q => exact hsure p hp q hq
  rw [State.confirm, hc]
  dsimp only
  rw [hsp]
  dsimp only
  rw [hwait]
  dsimp only
  rw [ha]
  dsimp only
  exact (if_neg fun h => Bool.noConfusion (hall.symm.trans (Bool.not_eq_true' _ |>.mp h))).trans rfl

theorem State.confirm_of_good (hbad : y.badOf a = []) : y.confirm cid k = some ((y.setCtx cid (Ctx.advance { c with
    accs := c.accs.put key { a with freed := true }, sr := match a.sr with | some g => c.sr.put 0 g | none => c.sr } y.pt k)).settleAcc
      cid key) := by
  have hkeep : a.reqs.filter (fun p => !(0 : Mask).getLsbD p.1) = a.reqs := List.filter_eq_self.mpr fun p _ => by simp
  have hpart : a.part &&& ~~~ (0 : Mask) = a.part := BitVec.and_allOnes
  rw [State.confirm_of_sure hc hsp hwait ha hsure, hbad, List.map_nil, show maskOf [] = 0 from rfl]
  dsimp only
  rw [Acc.goneReqs_zero, State.forgetReqs_nil, hkeep, hpart]
  cases a.sr <;> rfl

end

/-! ### A request that is over -/

theorem State.noteG_reqs (s : State) (r : Req) (g : Nat) : (s.noteG r g).ms.reqs = s.ms.reqs := by
  unfold State.noteG
  split
  · split
    · rfl
    · rfl
  · rfl

theorem State.fall8_reqs (s : State) (r : Req) : (s.fall8 r).ms.reqs = s.ms.reqs := by
  unfold State.fall8
  split
  · split
    · rfl
    · rfl
  · rfl

theorem State.fallRmt_reqs (s : State) (cid : Nat) : (s.fallRmt cid).ms.reqs = s.ms.reqs := by
  unfold State.fallRmt
  split
  · rfl
  · rfl

/-- A map without the keys of a list holds what it held at the others. -/
theorem find?_filter_key {α : Type} (m : SMap α) (f : Nat → Bool) (k : Nat) :
    SMap.find? (m.filter fun p => f p.1) k = if f k then m.find? k else none := by
  induction m with
  | nil => simp
  | cons p m ih =>
    obtain ⟨j, v⟩ := p
    rw [List.filter_cons]
    by_cases hk : k = j
    · subst hk
      by_cases hf : f k = true
      · rw [if_pos hf, if_pos hf, SMap.find?_cons, SMap.find?_cons, if_pos rfl, if_pos rfl]
      · rw [if_neg hf, ih, if_neg hf, if_neg hf]
    · by_cases hf : f j = true
      · rw [if_pos hf, SMap.find?_cons, SMap.find?_cons, if_neg hk, if_neg hk, ih]
      · rw [if_neg hf, SMap.find?_cons, if_neg hk, ih]

/-- An access that settles forgets its own requests and no others. -/
theorem State.settleAcc_req {s : State} {cid key id : Nat} {q : Req} (h : (s.settleAcc cid key).ms.reqs.find? id = some q) :
    s.ms.reqs.find? id = some q := by
  unfold State.settleAcc at h
  split at h
  · exact h
  · split at h
    · exact h
    · next a _ =>
      split at h
      · exact h
      · have hreqs := (find?_filter_key s.ms.reqs (fun n => !(a.reqs.any (fun q => q.2 = n))) id).symm.trans h
        split at hreqs
        · exact hreqs
        · cases hreqs

/-- The request that is over stands, if at all, as it ended. -/
theorem State.endReq_req {s : State} {id : Nat} {r q : Req} {v g : Nat} (h : (s.endReq id r (.done v g)).ms.reqs.find? id = some q) :
    q = { r with st := .done v g } := by
  have hset : ((s.setReq id { r with st := .done v g }).noteG r g |>.fall8 r).ms.reqs.find? id = some { r with st := .done v g } := by
    rw [State.fall8_reqs, State.noteG_reqs]
    exact SMap.find?_put_same ..
  have hbefore : (if r.space = 5 ∧ r.kind.writes then ((s.setReq id { r with st := .done v g }).noteG r g |>.fall8 r).fallRmt r.cid
      else (s.setReq id { r with st := .done v g }).noteG r g |>.fall8 r).ms.reqs.find? id = some { r with st := .done v g } := by
    split
    · rw [State.fallRmt_reqs]
      exact hset
    · exact hset
  unfold State.endReq at h
  dsimp only at h
  split at h
  · exact Option.some.inj ((State.settleAcc_req h).symm.trans hbefore)
  · exact Option.some.inj (h.symm.trans hbefore)

/-! ### A request served at its performing point -/

section
variable {s s' u : State} {id : Nat} {q : Req} {c : Ctx} {pace : Pace} {v g : Nat}

/-- Nothing stands before the access of a thread through spaces 0x0 to 0x3, and no other names its bytes through its pointer. -/
theorem State.servePtr_of_performed (hspace : q.space ≤ 3) (hc : s.ctxs.find? q.cid = some c) (hbehind : s.behind c id q = false)
    (htwins : s.twins id q = []) (halias : s.aliasHold c id q = (s', false)) (hdone : s'.performReq c q pace = (u, .ok v g)) :
    s.servePtr id q pace = some (u.endReq id q (.done v g)) := by
  have hreg : q.isReg = false := by rw [Req.isReg, decide_eq_false (by omega), Bool.false_and]
  have hthread : s.serveThread id q pace = some (u.endReq id q (.done v g)) := by
    rw [State.serveThread, hc]
    dsimp only
    rw [hbehind, if_neg (by simp; omega), hreg, if_neg Bool.false_ne_true, if_neg (by omega), if_neg (by omega), halias]
    dsimp only
    rw [if_neg Bool.false_ne_true, if_neg (by omega), hdone]
    rfl
  rw [State.servePtr, hthread, htwins]

/-- A load does not wait for lanes that reach its bytes through other pointers. -/
theorem State.aliasHold_load (hk : q.kind = .load) : s.aliasHold c id q = (s, false) := by
  rw [State.aliasHold, hk, if_pos (.inl rfl)]

theorem State.serveRead_load (hq : s.ms.reqs.find? id = some q) (hdue : s.dueReq q = true) (hk : q.kind = .load) :
    s.serveRead id pace = if q.space = farSpace then s.serveFar id q pace else s.servePtr id q pace := by
  rw [State.serveRead, hq]
  dsimp only
  rw [hdue, if_neg (by decide), hk]

theorem State.serveWrite_writes (hq : s.ms.reqs.find? id = some q) (hdue : s.dueReq q = true) (hk : q.kind.writes = true) :
    s.serveWrite id pace = if q.space = sigSpace then
        (match s.sigStep q with
         | (t, .ok _ _) => some { t with ms := { t.ms with reqs := t.ms.reqs.erase id } }
         | (t, x) => t.landReq id q x)
      else if q.space = farSpace then s.serveFar id q pace
      else if q.space = kvuSpace then s.serveKvu id
      else s.servePtr id q pace := by
  rw [State.serveWrite, hq]
  dsimp only
  rw [hdue, if_neg (by decide)]
  unfold ReqKind.writes at hk
  split at hk
  · next h => rw [h] <;> rfl
  · next h => rw [h] <;> rfl
  · next h => rw [h] <;> rfl
  · cases hk

theorem State.serveWrite_unpin (hq : s.ms.reqs.find? id = some q) (hdue : s.dueReq q = true) (hk : q.kind = .unpin)
    (hdone : s.unpinStep q = (u, .ok v g)) : s.serveWrite id pace = some (u.endReq id q (.done v g)) := by
  rw [State.serveWrite, hq]
  dsimp only
  rw [hdue, if_neg (by decide), hk]
  dsimp only
  rw [hdone]
  rfl

/-- A register that clears when it is read (R5). -/
theorem State.serveRc_of_due {name : String} {ok : Nat → Bool} (hq : s.ms.reqs.find? id = some q) (hreg : q.isReg = true)
    (hk : q.kind = .load) (hdue : s.dueReq q = true) (hbehind : s.behind (s.ctx q.cid) id q = false) (hblock : inBlock (sysOff q.va) = true)
    (hok : ok (sysOff q.va) = true) : s.serveRc name id ok =
      .next ((s.rcClear q.dev (sysOff q.va)).endReq id q (.done (s.regRead q.dev (sysOff q.va)) 0)) := by
  rw [State.serveRc, hq]
  dsimp only
  rw [hreg, decide_eq_true hk, hdue, hblock, hok, hbehind]
  exact if_pos rfl

end

/-! ### The side queue of a throttled bank (R60) -/

/-- The side queue of a bank without its head. -/
def State.sideRest (s : State) (key : Nat) (l : List Nat) : State := { s with ms := { s.ms with side := SMap.set [] s.ms.side key l } }

section
variable {s u : State} {key id : Nat} {l : List Nat} {q : Req} {c : Ctx} {v g : Nat}

theorem execSideQueueRelease_head (hside : SMap.get [] s.ms.side key = id :: l)
    (hopen : s.ms.throttle.find? key = none ∨ s.sideOpen key = true) : execSideQueueRelease key s =
      match s.ms.reqs.find? id with
      | none => .next (s.sideRest key l)
      | some r => (match (s.sideRest key l).serveSide id r with
        | some u => .next u
        | none => .refused (.notEnabled "SIDE_QUEUE_RELEASE")) := by
  have hgo : ((s.ms.throttle.find? key).isSome && !s.sideOpen key) = false := by
    rcases hopen with h | h
    · rw [h]; rfl
    · rw [h]; simp
  rw [execSideQueueRelease, hside]
  dsimp only
  rw [hgo, if_neg Bool.false_ne_true]
  rfl

theorem execSideQueueRelease_closed (hside : SMap.get [] s.ms.side key = id :: l)
    (hclosed : ¬(s.ms.throttle.find? key = none ∨ s.sideOpen key = true)) :
    execSideQueueRelease key s = .refused (.notEnabled "SIDE_QUEUE_RELEASE") := by
  obtain ⟨hthrottle, hside'⟩ := not_or.mp hclosed
  rw [execSideQueueRelease, hside]
  dsimp only
  rw [Option.isSome_iff_ne_none.mpr hthrottle, Bool.eq_false_iff.mpr hside']
  exact if_pos rfl

/-- A load at the head, with nothing before it, is performed past the throttle. -/
theorem State.serveSide_load (hk : q.kind = .load) (hspace : q.space ≤ 3)
    (hserve : (s.setReq id { q with st := .waiting }).servePtr id { q with st := .waiting } .through =
      some (u.endReq id { q with st := .waiting } (.done v g))) :
    s.serveSide id q = some (u.endReq id { q with st := .waiting } (.done v g)) := by
  have hread : (s.setReq id { q with st := .waiting }).serveRead id .through = some (u.endReq id { q with st := .waiting } (.done v g)) := by
    rw [State.serveRead_load (q := { q with st := .waiting }) (SMap.find?_put_same ..) rfl hk,
      if_neg (by show q.space ≠ 95; omega), hserve]
  unfold State.serveSide
  generalize ({ q with st := .waiting } : Req) = r at *
  dsimp only
  rw [hk]
  dsimp only
  rw [hread]
  dsimp only
  split
  · next y hy => rw [State.endReq_req hy]
  · rfl

end

/-! ### Peers, other packages, links and waits -/

section
variable {s : State} {id : Nat} {q : Req}

theorem execGangPeerAccess_first {k v : Nat} {b b' : Block} (hq : s.ms.reqs.find? id = some q) (hspace : q.space = 5) (hfin : q.fin = false)
    (hfirst : ∀ p ∈ s.ms.reqs, p.1 < id → p.2.fin = true ∨ p.2.space ≠ 5 ∨ blkOf p.2.cid ≠ blkOf q.cid ∨ p.2.rank ≠ q.rank)
    (hown : ∀ z, s.blk? (blkOf q.cid) = some z → s.ownBankBehind z id q = false)
    (hpeer : ((s.blk? (blkOf q.cid)).bind fun b => s.peerOf b q.rank) = some (k, b)) (hdo : b.aspDo q.va q.size q.kind = some (b', v)) :
    execGangPeerAccess id s = .next ((s.setBlk k b').endReq id q (.done v s.pt)) := by
  have hall : (s.ms.reqs.all fun p => decide (id ≤ p.1) || p.2.fin || decide (p.2.space ≠ 5) || decide (blkOf p.2.cid ≠ blkOf q.cid)
      || decide (p.2.rank ≠ q.rank)) = true := List.all_eq_true.mpr fun p hp => by
    rcases Nat.lt_or_ge p.1 id with h | h
    · simpa [Nat.not_le.mpr h, or_assoc] using hfirst p hp h
    · simp [h]
  have hforce : b.aspForce q.va q.size q.kind = (b', v) := by rw [Block.aspForce, hdo]
  obtain ⟨z, hz, hzpeer⟩ := Option.bind_eq_some_iff.mp hpeer
  rw [execGangPeerAccess, hq]
  dsimp only
  rw [hfin, hall, if_neg (by simp [hspace]), hpeer]
  refine (if_neg ?_).trans ?_
  · rw [hz]
    exact ne_true_of_eq_false (hown z hz)
  dsimp only
  rw [hforce]

theorem execRemoteWriteAck_confirmed {a : FabReply} {v g : Nat} (hq : s.ms.reqs.find? id = some q) (hk : q.kind.writes = true)
    (hst : q.st = .confirmed v g) (hg : s.ownMesh q.va = true → g ≤ s.pt) :
    execRemoteWriteAck id a s = .next (s.endReq id q (.done v g)) := by
  rw [execRemoteWriteAck, hq]
  dsimp only
  rw [hst]
  cases hkind : q.kind with
  | store | atomic | cas => exact if_pos ⟨rfl, hg⟩
  | _ => rw [hkind] at hk; cases hk

theorem execLinkTimeout_far (hq : s.ms.reqs.find? id = some q) (hlate : q.since + s.fld (fabB + 8) 0 32 * 1024 ≤ s.pt) (hst : q.st = .waiting)
    (hk : q.kind = .load ∨ q.kind.writes = true) (hspace : q.space = 8) (hown : s.ownMesh q.va = false)
    (hpath : s.pathUp (s.farOf q).1 (s.farOf q).2 = false) :
    execLinkTimeout id s = .next (s.endReq id q (.failed .page (remote qAbsent) 0 0)) := by
  have hfar : q.space = 8 ∧ (!s.ownMesh q.va) = true := ⟨hspace, by rw [hown]; rfl⟩
  rw [execLinkTimeout, hq]
  dsimp only
  rw [hst]
  dsimp only
  rw [decide_eq_true hlate, if_neg (by decide)]
  cases hkind : q.kind with
  | load | store | atomic | cas =>
    dsimp only
    rw [if_pos hfar, hpath, if_neg Bool.false_ne_true]
  | _ => rw [hkind] at hk; rcases hk with hk | hk <;> cases hk

theorem execReleaseWaitEnd_ready {w : Who} {c : Ctx} {sp : Split} {sc : Scope} (hc : s.ctxs.find? w.cid = some c)
    (hsp : c.splits.find? w.k = some sp) (hready : sp.wait = .release sc ∧ s.released c sc = true ∨ sp.wait = .gate ∧ s.gateOf c false = none) :
    execReleaseWaitEnd w s = .next (s.setCtx w.cid (c.setSplit w.k { sp with wait := .none })) := by
  rw [execReleaseWaitEnd, hc]
  dsimp only
  rw [hsp]
  dsimp only
  rcases hready with ⟨hwait, hgo⟩ | ⟨hwait, hgo⟩
  · rw [hwait]
    exact if_pos hgo
  · rw [hwait]
    exact if_pos hgo

end

theorem inBlock_of_mem {b n off : Nat} (h : (b, n) ∈ sysBlocks) (hle : b ≤ off) (hlt : off < b + n) : inBlock off = true :=
  List.any_eq_true.mpr ⟨(b, n), h, decide_eq_true ⟨hle, hlt⟩⟩

/-- Settles O25: each event finds what it is due for, and its one branch is taken. -/
theorem resultsAndRequests : Obligations.ResultsAndRequests := by
  intro s s' u w cid id key j c r q wr v g l
  dsimp only
  refine ⟨fun hc hr hfree => execVariableLatencyResult_whole hc hr hfree,
    fun hc hr hw hj => execVariableLatencyResult_write hc hr hw hj, fun sp a hc hsp hwait ha hsure => ⟨fun hbad => ?_, fun f hf => ?_⟩,
    fun hq hdue hk ⟨hspace, hc, hbehind, htwins⟩ hdone => ?_, fun hq hdue hk hptr hfar => ?_,
    fun hq hdue hk ⟨hspace, hc, hbehind, htwins⟩ halias hdone => ?_, fun hq hdue hk hsig hfar hkvu hptr => ?_,
    fun hq hdue hk hsig hdone => ?_, fun hq hdue hk hdone => ?_,
    fun k b b' hq hspace hfin hfirst hown hpeer hdo => execGangPeerAccess_first hq hspace hfin hfirst hown hpeer hdo,
    fun a hq hk hst hg => execRemoteWriteAck_confirmed hq hk hst hg,
    fun hq hlate hst hk hspace hown hpath => execLinkTimeout_far hq hlate hst hk hspace hown hpath,
    fun sp sc hc hsp hready => execReleaseWaitEnd_ready hc hsp hready,
    fun hside hopen hq hk ⟨hspace, hc, hbehind, htwins⟩ hdone => ?_, fun hside hopen hq hserve => ?_, fun hside hopen hq => ?_,
    fun hside hclosed => execSideQueueRelease_closed hside hclosed,
    fun ⟨hq, hreg, hk, hdue, hbehind⟩ hoff => ?_, fun n hn ⟨hq, hreg, hk, hdue, hbehind⟩ hoff => ?_,
    fun n hn ⟨hq, hreg, hk, hdue, hbehind⟩ hoff => ?_, fun n hn ⟨hq, hreg, hk, hdue, hbehind⟩ hoff => ?_⟩
  · rw [exec_accessConfirm, execAccessConfirm, State.confirm_of_good hc hsp hwait ha hsure hbad] <;> rfl
  · obtain ⟨hmem, hmin⟩ := (firstFault_spec _).2 f hf
    refine ⟨hmem, hmin, ?_⟩
    rw [exec_accessConfirm, execAccessConfirm, State.confirm_of_sure hc hsp hwait ha hsure, hf]
  · rw [exec_haRead, execHaRead, State.serveRead_load hq hdue hk, if_neg (by show q.space ≠ 95; omega),
      State.servePtr_of_performed hspace hc hbehind htwins (State.aliasHold_load hk) hdone]
  · rw [exec_haRead, execHaRead, State.serveRead_load hq hdue hk]
    by_cases h : q.space = farSpace
    · rw [if_pos h, hfar h]
    · rw [if_neg h, hptr h]
  · rw [exec_haWrite, execHaWrite, State.serveWrite_writes hq hdue hk, if_neg (by show q.space ≠ 96; omega),
      if_neg (by show q.space ≠ 95; omega), if_neg (by show q.space ≠ 94; omega),
      State.servePtr_of_performed hspace hc hbehind htwins halias hdone]
  · rw [exec_haWrite, execHaWrite, State.serveWrite_writes hq hdue hk, if_neg hsig]
    by_cases h : q.space = farSpace
    · rw [if_pos h, hfar h]
    · rw [if_neg h]
      by_cases h' : q.space = kvuSpace
      · rw [if_pos h', hkvu h']
      · rw [if_neg h', hptr h h']
  · rw [exec_haWrite, execHaWrite, State.serveWrite_writes hq hdue hk, if_pos hsig, hdone]
  · rw [exec_haWrite, execHaWrite, State.serveWrite_unpin hq hdue hk hdone]
  · have hserve : ((s.sideRest key l).setReq id { q with st := .waiting }).servePtr id { q with st := .waiting } .through =
        some (u.endReq id { q with st := .waiting } (.done v g)) := State.servePtr_of_performed hspace hc hbehind htwins (State.aliasHold_load hk) hdone
    rw [exec_sideQueueRelease, execSideQueueRelease_head hside hopen, hq]
    dsimp only
    rw [State.serveSide_load hk hspace hserve]
  · rw [exec_sideQueueRelease, execSideQueueRelease_head hside hopen, hq]
    have hserved : (s.sideRest key l).serveSide id q = some u := hserve
    dsimp only
    rw [hserved]
  · rw [exec_sideQueueRelease, execSideQueueRelease_head hside hopen, hq]
    rfl
  · exact (exec_eloglostRead ..).trans (State.serveRc_of_due hq hreg hk hdue hbehind (by rw [hoff]; decide) (decide_eq_true hoff))
  · have hblock : inBlock (sysOff q.va) = true := by
      rw [hoff]
      exact inBlock_of_mem (b := schB) (n := 0x8000) (by decide) (by omega) (by omega)
    refine (exec_qevtRead ..).trans (State.serveRc_of_due hq hreg hk hdue hbehind hblock ?_)
    simp only [hoff, schB, Bool.and_eq_true, decide_eq_true_eq]
    omega
  · have hblock : inBlock (sysOff q.va) = true := by
      rw [hoff]
      exact inBlock_of_mem (b := partB) (n := 0x20000) (by decide) (by omega) (by omega)
    refine (exec_iovfRead ..).trans (State.serveRc_of_due hq hreg hk hdue hbehind hblock ?_)
    simp only [hoff, partB, Bool.and_eq_true, decide_eq_true_eq]
    omega
  · have hblock : inBlock (sysOff q.va) = true := by
      rw [hoff]
      exact inBlock_of_mem (b := trapB) (n := 0x110000) (by decide) (by omega) (by omega)
    refine (exec_prestatRead ..).trans (State.serveRc_of_due hq hreg hk hdue hbehind hblock ?_)
    simp only [hoff, trapB, Bool.and_eq_true, decide_eq_true_eq]
    omega

end Sys2Proof.Machine

/-! SUPPORT. Leases, ownership, directory entries and counters (R37, R40, R69, R72, R75 to R79, R96). -/

namespace Sys2Proof.Machine

theorem exec_translationLeaseExpiry (s : State) (key : Nat) :
    exec (.translationLeaseExpiry key) s = execTranslationLeaseExpiry key s := rfl
theorem exec_leaseExpiry (s : State) (key : Nat) : exec (.leaseExpiry key) s = execLeaseExpiry key s := rfl
theorem exec_leaseRenewal (s : State) (key : Nat) : exec (.leaseRenewal key) s = execLeaseRenewal key s := rfl
theorem exec_ownershipRequest (s : State) (die asid va vdev : Nat) :
    exec (.ownershipRequest die asid va vdev) s = execOwnershipRequest die asid va vdev s := rfl
theorem exec_ownershipRecall (s : State) (line : Nat) : exec (.ownershipRecall line) s = execOwnershipRecall line s := rfl
theorem exec_l2Eviction (s : State) (line : Nat) : exec (.l2Eviction line) s = execL2Eviction line s := rfl
theorem exec_ownershipExpiry (s : State) (line : Nat) : exec (.ownershipExpiry line) s = execOwnershipExpiry line s := rfl
theorem exec_directoryDrop (s : State) (line : Nat) : exec (.directoryDrop line) s = execDirectoryDrop line s := rfl
theorem exec_counterWriteback (s : State) (key : Nat) : exec (.counterWriteback key) s = execCounterWriteback key s := rfl

section
variable {s : State} {key line : Nat} {c : Copy} {d : Dir}

/-- A copy may be renewed: it has expired, or it is one of L2 or L3, which renew before that (R75). -/
def State.renewable (s : State) (c : Copy) : Prop := c.exp ≤ s.pt ∨ c.lvl = .l2 ∨ c.lvl = .l3

/-- The address space of a copy is live: its descriptor is present and well formed. -/
def State.liveSpace (s : State) (c : Copy) : Prop := s.asDesc c.asid % 2 = 1 ∧ descOk (s.asDesc c.asid) = true

theorem execLeaseRenewal_refused (hc : s.ms.copies.find? key = some c) (hno : ¬s.renewable c ∨ ¬s.liveSpace c) :
    execLeaseRenewal key s = .refused (.notEnabled "LEASE_RENEWAL") := by
  rw [execLeaseRenewal, hc]
  refine if_pos ?_
  rcases hno with h | h
  · obtain ⟨hexp, hl2, hl3⟩ : ¬c.exp ≤ s.pt ∧ ¬c.lvl = .l2 ∧ ¬c.lvl = .l3 := by
      rw [← not_or, ← not_or]
      exact h
    exact .inl ⟨Nat.not_le.mp hexp, hl2, hl3⟩
  · by_cases hpres : s.asDesc c.asid % 2 = 0
    · exact .inr (.inl hpres)
    · refine .inr (.inr ?_)
      rw [Bool.eq_false_iff.mpr fun hok => h ⟨Nat.mod_two_ne_zero.mp hpres, hok⟩]
      rfl

/-- A renewal that may go on asks the next cache outwards that has the line, else the home agent. -/
theorem execLeaseRenewal_goes (hc : s.ms.copies.find? key = some c) (hrenew : s.renewable c) (hlive : s.liveSpace c) :
    execLeaseRenewal key s = match s.outerCopy c with
      | some (i, g) =>
        if g.upd.any (fun p => s.pt < p.1) then .refused (.notEnabled "LEASE_RENEWAL")
        else
          let v := bits (s.asDesc c.asid) 8 6
          let (s, g) := s.stretch v i g
          let (t, x) := s.passDown i g v
          .next (t.renewed key c x (lineSlice g.data c.va c.lvl) g.bad)
      | none => (match s.renewAtHA key c with
        | some t => .next t
        | none => .refused (.notEnabled "LEASE_RENEWAL")) := by
  obtain ⟨hpres, hok⟩ := hlive
  rw [execLeaseRenewal, hc]
  refine (if_neg ?_).trans rfl
  rintro (⟨hexp, hl2, hl3⟩ | hpres' | hbad)
  · rcases hrenew with h | h | h
    · exact absurd hexp (Nat.not_lt.mpr h)
    · exact hl2 h
    · exact hl3 h
  · rw [hpres] at hpres'
    cases hpres'
  · rw [hok] at hbad
    cases hbad

/-- No update of a copy is still on its way. -/
theorem upd_over {α : Type} {pt : Nat} {l : List (Nat × α)} (h : ∀ p ∈ l, p.1 ≤ pt) : (l.any fun p => pt < p.1) = false :=
  List.any_eq_false.mpr fun p hp => by simpa using h p hp

/-- Ownership that is granted stands in the line's directory entry until the translation expires. -/
theorem State.grantOwn_owner (s : State) (q : HaReq) (t : Trans) (l die : Nat) :
    ∃ d, (s.grantOwn q t l die).1.ms.dir.find? l = some d ∧ d.owner = some (die, q.asid, q.va / 128 * 128, t.exp) :=
  ⟨_, SMap.find?_put_same .., rfl⟩

theorem execOwnershipRequest_grants {t : State} {tr : Trans} {die asid va : Nat} (hdie : die < 3)
    (htrans : s.translate asid va .store true = (t, .ok tr)) (hpool : t.poolSays tr.pa = .serve)
    (hmove : t.moving (t.routed tr.pa / 65536) = false) :
    ∃ (u : State) (q : HaReq), execOwnershipRequest die asid va tr.vdev s = .next (u.grantOwn q tr (t.routed tr.pa / 128) die).1 ∧
      q.asid = asid ∧ q.va = va := by
  have hgo : ¬(t.poolSays tr.pa ≠ .serve ∨ t.moving (t.routed tr.pa / 0x10000) = true) :=
    not_or.mpr ⟨not_not.mpr hpool, ne_true_of_eq_false hmove⟩
  rw [execOwnershipRequest, if_neg (Nat.not_le.mpr hdie), htrans]
  dsimp only
  rw [if_neg (not_not.mpr rfl), if_neg hgo]
  exact ⟨_, _, rfl, rfl, rfl⟩

/-- A directory entry whose hidden writes are complete goes, and the floor of its tier keeps its times (R96). -/
theorem execDirectoryDrop_over (hd : s.ms.dir.find? line = some d) (hpend : ∀ p ∈ d.pend, p.1 ≤ s.pt) :
    ∃ t, execDirectoryDrop line s = .next t ∧ t.ms.dir.find? line = none ∧ d.exp ≤ SMap.get 0 t.ms.floors (region (line * 128)) ∧
      d.gprev ≤ SMap.get 0 t.ms.floors (region (line * 128)) := by
  rw [execDirectoryDrop, hd]
  dsimp only
  rw [upd_over hpend, if_neg Bool.false_ne_true]
  refine ⟨_, rfl, SMap.find?_erase_same .., ?_, ?_⟩
  · dsimp only
    rw [SMap.get_set_same]
    exact Nat.le_trans (Nat.le_max_left ..) (Nat.le_max_right ..)
  · dsimp only
    rw [SMap.get_set_same]
    exact Nat.le_trans (Nat.le_max_right ..) (Nat.le_max_right ..)

end

/-- Settles O26: each ending tests its time alone. -/
theorem cacheEvents : Obligations.CacheEvents := by
  intro s key line e c d die asid va x
  dsimp only
  refine ⟨fun he hexp => ?_, fun he hexp => ?_, fun hc hexp => ?_, fun hc hexp => ⟨?_, fun hl2 hl3 => ?_⟩,
    fun i o s' o' t exp hc hrenew hlive houter hupd hstretch hpass => ?_, fun t hc hrenew hlive houter hha => ?_, fun hc hdead => ?_,
    fun t tr hdie htrans hpool hmove => ?_, fun hown => ⟨?_, ?_⟩, fun hd hown hexp => ?_, fun hd hpend => ?_, fun p hp => ?_⟩
  · rw [exec_translationLeaseExpiry, execTranslationLeaseExpiry, he]
    exact if_neg (Nat.not_lt.mpr hexp)
  · rw [exec_translationLeaseExpiry, execTranslationLeaseExpiry, he]
    exact if_pos hexp
  · rw [exec_leaseExpiry, execLeaseExpiry, hc]
    exact if_neg (Nat.not_lt.mpr hexp)
  · rw [exec_leaseExpiry, execLeaseExpiry, hc]
    exact if_pos hexp
  · exact (exec_leaseRenewal ..).trans (execLeaseRenewal_refused hc (.inl (not_or.mpr ⟨Nat.not_le.mpr hexp, not_or.mpr ⟨hl2, hl3⟩⟩)))
  · rw [exec_leaseRenewal, execLeaseRenewal_goes hc hrenew hlive, houter]
    dsimp only
    rw [upd_over hupd, if_neg Bool.false_ne_true, hstretch]
    dsimp only
    rw [hpass]
  · rw [exec_leaseRenewal, execLeaseRenewal_goes hc hrenew hlive, houter]
    dsimp only
    rw [hha]
  · exact (exec_leaseRenewal ..).trans (execLeaseRenewal_refused hc (.inr hdead))
  · obtain ⟨u, q, hnext, rfl, rfl⟩ := execOwnershipRequest_grants hdie htrans hpool hmove
    obtain ⟨d, hd, howner⟩ := u.grantOwn_owner q tr (t.routed tr.pa / 128) die
    exact ⟨_, (exec_ownershipRequest ..).trans hnext, d, hd, howner⟩
  · rw [exec_ownershipRecall, execOwnershipRecall, if_pos hown]
  · rw [exec_l2Eviction, execL2Eviction, if_pos hown]
  · rw [exec_ownershipExpiry, execOwnershipExpiry, hd]
    dsimp only
    rw [hown]
    exact if_neg (Nat.not_lt.mpr hexp)
  · rw [exec_directoryDrop]
    exact execDirectoryDrop_over hd hpend
  · rw [exec_counterWriteback, execCounterWriteback, hp]

end Sys2Proof.Machine

/-! SUPPORT. Migration (R41, R42, R46 to R52). -/

namespace Sys2Proof.Machine

theorem exec_migAccept (s : State) : exec .migAccept s = execMigAccept s := rfl
theorem exec_pinRetry (s : State) : exec .pinRetry s = execPinRetry s := rfl
theorem exec_chunkCopy (s : State) (f : Nat) : exec (.chunkCopy f) s = execChunkCopy f s := rfl
theorem exec_catchSwap (s : State) (f : Nat) : exec (.catchSwap f) s = execCatchSwap f s := rfl
theorem exec_catchTimeout (s : State) (f : Nat) : exec (.catchTimeout f) s = execCatchTimeout f s := rfl
theorem exec_catchRetry (s : State) (f : Nat) : exec (.catchRetry f) s = execCatchRetry f s := rfl
theorem exec_migRetire (s : State) (f : Nat) : exec (.migRetire f) s = execMigRetire f s := rfl

/-! ### Fields of a number that are replaced -/

theorem putBits_eq (x lo n v : Nat) : putBits x lo n v = 2 ^ lo * (2 ^ n * (x / 2 ^ lo / 2 ^ n) + v % 2 ^ n) + x % 2 ^ lo := by
  have hx : x = 2 ^ lo * (2 ^ n * (x / 2 ^ lo / 2 ^ n)) + x % 2 ^ lo + x / 2 ^ lo % 2 ^ n * 2 ^ lo := by
    calc x = 2 ^ lo * (x / 2 ^ lo) + x % 2 ^ lo := (Nat.div_add_mod ..).symm
      _ = 2 ^ lo * (2 ^ n * (x / 2 ^ lo / 2 ^ n) + x / 2 ^ lo % 2 ^ n) + x % 2 ^ lo := by rw [Nat.div_add_mod (x / 2 ^ lo)]
      _ = _ := by ring
  unfold putBits
  rw [Nat.sub_eq_of_eq_add hx]
  ring

/-- A replaced field reads as written, and the bits outside it as before. -/
theorem testBit_putBits (x lo n v i : Nat) :
    (putBits x lo n v).testBit i = if lo ≤ i ∧ i < lo + n then v.testBit (i - lo) else x.testBit i := by
  have hlow : x % 2 ^ lo < 2 ^ lo := Nat.mod_lt _ (Nat.two_pow_pos _)
  have hfield : v % 2 ^ n < 2 ^ n := Nat.mod_lt _ (Nat.two_pow_pos _)
  rw [putBits_eq, Nat.testBit_two_pow_mul_add _ hlow]
  by_cases h : i < lo
  · rw [if_pos h, if_neg (by omega), Nat.testBit_mod_two_pow, decide_eq_true h, Bool.true_and]
  · rw [if_neg h, Nat.testBit_two_pow_mul_add _ hfield]
    by_cases hn : i - lo < n
    · rw [if_pos hn, if_pos (by omega), Nat.testBit_mod_two_pow, decide_eq_true hn, Bool.true_and]
    · rw [if_neg hn, if_neg (by omega), Nat.testBit_div_two_pow, Nat.testBit_div_two_pow]
      congr 1
      omega

/-- A field that holds a value bit by bit is that value. -/
theorem bits_eq_of_testBit {x lo n v : Nat} (hv : v < 2 ^ n) (h : ∀ i < n, x.testBit (lo + i) = v.testBit i) : bits x lo n = v := by
  refine Nat.eq_of_testBit_eq fun i => ?_
  rw [testBit_bits]
  by_cases hi : i < n
  · rw [decide_eq_true hi, Bool.true_and, h i hi]
  · rw [decide_eq_false hi, Bool.false_and, Nat.testBit_lt_two_pow (Nat.lt_of_lt_of_le hv (Nat.pow_le_pow_right (by decide) (by omega)))]

/-- The leaf entry after the swap, bit by bit (R51): the page, the tier, MIG cleared and the pin; the rest as before. -/
theorem Fwd.testBit_newLeaf (e : Fwd) (old i : Nat) : (e.newLeaf old).testBit i =
    if i = 7 then e.pin
    else if i = 8 then false
    else if 9 ≤ i ∧ i < 11 then e.dstTier.testBit (i - 9)
    else if 16 ≤ i ∧ i < 52 then e.dst.testBit (i - 16)
    else old.testBit i := by
  have hpin : ∀ b : Bool, (bit b).testBit 0 = b := by decide
  unfold Fwd.newLeaf
  rw [testBit_putBits, testBit_putBits, testBit_putBits, testBit_putBits]
  by_cases h7 : i = 7
  · subst h7
    rw [if_pos (by omega), if_pos rfl, Nat.sub_self, hpin]
  · rw [if_neg (by omega), if_neg h7]
    by_cases h8 : i = 8
    · subst h8
      rw [if_pos (by omega), if_pos rfl, Nat.zero_testBit]
    · rw [if_neg (by omega), if_neg h8]

theorem Fwd.newLeaf_spec (e : Fwd) (old : Nat) (hdst : e.dst < 2 ^ 36) (htier : e.dstTier < 4) :
    bits (e.newLeaf old) 16 36 = e.dst ∧ bits (e.newLeaf old) 9 2 = e.dstTier ∧ (e.newLeaf old).testBit 8 = false ∧
      (e.newLeaf old).testBit 7 = e.pin ∧ ∀ i, (i < 7 ∨ 11 ≤ i ∧ i < 16 ∨ 52 ≤ i) → (e.newLeaf old).testBit i = old.testBit i := by
  refine ⟨bits_eq_of_testBit hdst fun i hi => ?_, bits_eq_of_testBit htier fun i hi => ?_, ?_, ?_, fun i hi => ?_⟩
  · rw [Fwd.testBit_newLeaf, if_neg (by omega), if_neg (by omega), if_neg (by omega), if_pos (by omega), Nat.add_sub_cancel_left]
  · rw [Fwd.testBit_newLeaf, if_neg (by omega), if_neg (by omega), if_pos (by omega), Nat.add_sub_cancel_left]
  · rw [Fwd.testBit_newLeaf, if_neg (by decide), if_pos rfl]
  · rw [Fwd.testBit_newLeaf, if_pos rfl]
  · rw [Fwd.testBit_newLeaf, if_neg (by omega), if_neg (by omega), if_neg (by omega), if_neg (by omega)]

/-! ### The events -/

section
variable {s t : State} {f : Nat} {e : Fwd} {h : Hint} {rest : List Hint}

/-- The first pin that waits is looked at first (R42). -/
theorem State.pinRetry_head (hw : s.mig.waiting = h :: rest)
    (hl : { s with mig := { s.mig with waiting := rest } }.migLook h = .over t) : s.pinRetry [] s.mig.waiting = some t := by
  rw [hw, State.pinRetry, List.nil_append, hl]

/-- What a chunk copied leaves of its entry: the last chunk begins the catch (R47). -/
theorem Fwd.chunkDone (pt : Nat) (hst : e.st = .copying) :
    (if e.copied + 1 = 16 then { e with copied := e.copied + 1, st := .catching, catchAt := pt } else { e with copied := e.copied + 1 }) =
      { e with
        copied := e.copied + 1, st := if e.copied = 15 then .catching else .copying,
        catchAt := if e.copied = 15 then pt else e.catchAt } := by
  by_cases hlast : e.copied = 15
  · rw [if_pos (by omega), if_pos hlast, if_pos hlast]
  · rw [if_neg (by omega), if_neg hlast, if_neg hlast, ← hst]

theorem execChunkCopy_copies (he : s.mig.fwd.find? f = some e) (hst : e.st = .copying) (hmore : e.copied < 16)
    (hsrc : s.poolSays (e.src * 65536 + e.copied * 4096) = .serve) (hdst : s.poolSays (e.dst * 65536 + e.copied * 4096) = .serve) {u : State}
    (hu : (if s.keyMode (s.fwdKey e) = 0 then (s.poisonOff e.dev ((e.src * 65536 + e.copied * 4096) / 128) 32).poisonOff e.dev
        ((e.dst * 65536 + e.copied * 4096) / 128) 32
      else (s.wrBytes (s.fwdKey e) (e.dst * 65536 + e.copied * 4096) (s.rdBytes (s.fwdKey e) (e.src * 65536 + e.copied * 4096) 4096)).carryPoison
        ((e.src * 65536 + e.copied * 4096) / 128) ((e.dst * 65536 + e.copied * 4096) / 128) 32) = u) :
    execChunkCopy f s = .next (u.setFwd f { e with
      copied := e.copied + 1, st := if e.copied = 15 then .catching else .copying,
      catchAt := if e.copied = 15 then u.pt else e.catchAt }) := by
  have hgo : ¬(e.st ≠ .copying ∨ 16 ≤ e.copied ∨ s.poolSays (e.src * 0x10000 + e.copied * 4096) ≠ .serve ∨
      s.poolSays (e.dst * 0x10000 + e.copied * 4096) ≠ .serve) :=
    not_or.mpr ⟨not_not.mpr hst, not_or.mpr ⟨Nat.not_le.mpr hmore, not_or.mpr ⟨not_not.mpr hsrc, not_not.mpr hdst⟩⟩⟩
  rw [execChunkCopy, he]
  dsimp only
  rw [if_neg hgo, hu, ← Fwd.chunkDone u.pt hst]

theorem execCatchTimeout_late (he : s.mig.fwd.find? f = some e) (hst : e.st = .catching) (hlate : e.catchAt + 6000 ≤ s.pt) {u : State}
    (hu : (s.setFwd f { e with st := .copying, window := [], fails := e.fails + 1, retryAt := s.pt + 30000, status := 0 }).releaseWindow e = u) :
    execCatchTimeout f s = .next (if e.fails + 1 = 3 then u.abandon f 1 else u) := by
  rw [execCatchTimeout, he]
  dsimp only
  rw [if_neg (not_or.mpr ⟨not_not.mpr hst, Nat.not_lt.mpr hlate⟩), hu]

end

/-- Settles O27: the entry's stage and times decide each event. -/
theorem migrationEvents : Obligations.MigrationEvents := by
  intro s t f e h rest
  dsimp only
  refine ⟨fun hh hl => ?_, fun hh hl => ?_, fun hw hl => ?_, fun he hst hmore hsrc hdst => ⟨fun hkey => ?_, fun hkey => ?_⟩,
    fun he hst hpt => ?_, fun old hdst htier => e.newLeaf_spec old hdst htier, fun he hst hlate => ⟨?_, ?_⟩, fun he hpt => ?_,
    fun he hst hall hpt => ?_, fun he hst hpt hring hposts => ?_⟩
  · rw [exec_migAccept, execMigAccept, hh]
    dsimp only
    rw [hl]
  · rw [exec_migAccept, execMigAccept, hh]
    dsimp only
    rw [hl]
  · rw [exec_pinRetry, execPinRetry, State.pinRetry_head hw hl]
  · exact (exec_chunkCopy ..).trans (execChunkCopy_copies he hst hmore hsrc hdst (if_neg hkey))
  · exact (exec_chunkCopy ..).trans (execChunkCopy_copies he hst hmore hsrc hdst (if_pos hkey))
  · rw [exec_catchSwap, execCatchSwap, he]
    exact if_neg (not_or.mpr ⟨not_not.mpr hst, Nat.not_le.mpr hpt⟩)
  · rw [exec_catchSwap, execCatchSwap, he]
    exact if_pos (.inr hlate)
  · exact (exec_catchTimeout ..).trans (execCatchTimeout_late he hst hlate rfl)
  · rw [exec_catchTimeout, execCatchTimeout, he]
    exact if_pos (.inr hpt)
  · rw [exec_catchRetry, execCatchRetry, he]
    exact if_neg (not_or.mpr ⟨not_not.mpr hst, not_or.mpr ⟨not_not.mpr hall, Nat.not_lt.mpr hpt⟩⟩)
  · have hpost : ¬(s.mig.posts.any fun p => p.1 = e.dev) = true := fun h => by
      obtain ⟨p, hp, hdev⟩ := List.any_eq_true.mp h
      exact hposts p hp (of_decide_eq_true hdev)
    rw [exec_migRetire, execMigRetire, he]
    exact if_neg (not_or.mpr ⟨not_not.mpr hst, not_or.mpr ⟨Nat.not_lt.mpr hpt, not_or.mpr ⟨ne_true_of_eq_false hring, hpost⟩⟩⟩)

end Sys2Proof.Machine

/-! SUPPORT. Pool pages between packages and memory errors (R53 to R65). -/

namespace Sys2Proof.Machine

theorem exec_potcmdRequest (s : State) (w : RegW) : exec (.potcmdRequest w) s = execPotcmdRequest w s := rfl
theorem exec_potcmdForce (s : State) (w : RegW) : exec (.potcmdForce w) s = execPotcmdForce w s := rfl
theorem exec_potcmdBadcmd (s : State) (w : RegW) : exec (.potcmdBadcmd w) s = execPotcmdBadcmd w s := rfl
theorem exec_handoverRequest (s : State) (ppn frm : Nat) : exec (.handoverRequest ppn frm) s = execHandoverRequest ppn frm s := rfl
theorem exec_handoverCommit (s : State) (ppn : Nat) : exec (.handoverCommit ppn) s = execHandoverCommit ppn s := rfl
theorem exec_handoverReply (s : State) (ppn : Nat) (refused : Option Nat) (owner seq : Nat) :
    exec (.handoverReply ppn refused owner seq) s = execHandoverReply ppn refused owner seq s := rfl
theorem exec_handoverTimeout (s : State) : exec .handoverTimeout s = execHandoverTimeout s := rfl
theorem exec_refreshWindowEnd (s : State) (ctl : Nat) : exec (.refreshWindowEnd ctl) s = execRefreshWindowEnd ctl s := rfl
theorem exec_correctableError (s : State) (ctl pa : Nat) : exec (.correctableError ctl pa) s = execCorrectableError ctl pa s := rfl
theorem exec_patrolScrub (s : State) (pa : Nat) (bad : Bool) : exec (.patrolScrub pa bad) s = execPatrolScrub pa bad s := rfl
theorem exec_uncorrectableError (s : State) (pa vdev cls : Nat) :
    exec (.uncorrectableError pa vdev cls) s = execUncorrectableError pa vdev cls s := rfl

section
variable {s : State} {w : RegW}

/-- A command while POTSTAT reads BUSY is ignored (R66). -/
theorem potcmd_busy (h : s.potBusy = true) :
    execPotcmdRequest w s = .next s ∧ execPotcmdForce w s = .next s ∧ execPotcmdBadcmd w s = .next s :=
  ⟨if_pos h, if_pos h, if_pos h⟩

theorem execPotcmdRequest_idle (h : s.potBusy = false) : execPotcmdRequest w s = .next (s.potCmd.potTake false (potPpn w)) :=
  if_neg (ne_true_of_eq_false h)

theorem execPotcmdForce_idle (h : s.potBusy = false) : execPotcmdForce w s = .next (s.potCmd.potTake true (potPpn w)) :=
  if_neg (ne_true_of_eq_false h)

/-- A pool page and no CXL port: the command waits (R418). -/
theorem State.potTake_waits {force : Bool} {ppn : Nat} (hpool : (s.poolPage ppn).isSome = true) (hcxl : s.cxlUp = false) :
    s.potTake force ppn = { s with mig := { s.mig with potWait := some (force, ppn, s.pt) } }.setPot 1 0 none :=
  if_pos (by rw [hpool, hcxl]; rfl)

theorem State.potTake_goes {force : Bool} {ppn : Nat} (h : (s.poolPage ppn).isSome = true → s.cxlUp = true) :
    s.potTake force ppn = match s.potTarget ppn with
      | none => s.setPot 3 1 none
      | some (n, e) => if force then s.potForce n e else s.potAsk n e := by
  refine (if_neg fun hwait => ?_).trans rfl
  obtain ⟨hpool, hcxl⟩ := (Bool.and_eq_true ..).mp hwait
  rw [h hpool] at hcxl
  cases hcxl

theorem State.potTake_none {force : Bool} {ppn : Nat} (h : (s.poolPage ppn).isSome = true → s.cxlUp = true) (hn : s.potTarget ppn = none) :
    s.potTake force ppn = s.setPot 3 1 none := by
  rw [State.potTake_goes h, hn]

theorem State.potTake_page {force : Bool} {ppn n e : Nat} (hcxl : s.cxlUp = true) (hn : s.potTarget ppn = some (n, e)) :
    s.potTake force ppn = if force then s.potForce n e else s.potAsk n e := by
  rw [State.potTake_goes fun _ => hcxl, hn]

/-! ### Handover at the owner and at the one that asks -/

section
variable {ppn frm seq p : Nat} {f : PoolFact} (hp : s.poolPage ppn = some p)
include hp

theorem execHandoverRequest_down (hcxl : s.cxlUp = false) : execHandoverRequest ppn frm s = .refused (.notEnabled "HANDOVER_REQUEST") :=
  if_pos (by rw [hp, hcxl]; rfl)

theorem execHandoverRequest_up (hcxl : s.cxlUp = true) : execHandoverRequest ppn frm s =
    match (s.mig.facts.find? p).map (fun f => (p, f)) with
    | none => .next (s.potReply 1 0)
    | some (n, f) =>
      if !f.owned ∨ !potOk (s.potEntry n) then .next (s.potReply 1 0)
      else if f.handover.isSome ∨ s.mig.fwd.any (fun x => x.2.src = ppn || x.2.dst = ppn) then .next (s.potReply 2 0)
      else .next ((List.range 512).foldl (fun s i => s.writeBack (ppn * 512 + i))
        ((s.putPot n (putBits (putBits (s.potEntry n) 4 2 2) 6 4 frm)).setFact n { f with handover := some (frm % 16) })) := by
  rw [execHandoverRequest, hcxl, hp]
  rfl

/-- The owner begins the handover of a page that does not move (R55). -/
theorem execHandoverRequest_begins (hcxl : s.cxlUp = true) (hf : s.mig.facts.find? p = some f) (howned : f.owned = true)
    (hok : potOk (s.potEntry p) = true) (hfree : f.handover = none) (hstill : ∀ x ∈ s.mig.fwd, x.2.src ≠ ppn ∧ x.2.dst ≠ ppn) :
    execHandoverRequest ppn frm s = .next ((List.range 512).foldl (fun s i => s.writeBack (ppn * 512 + i))
      ((s.putPot p (putBits (putBits (s.potEntry p) 4 2 2) 6 4 frm)).setFact p { f with handover := some (frm % 16) })) := by
  have hmove : s.mig.fwd.any (fun x => x.2.src = ppn || x.2.dst = ppn) = false := List.any_eq_false.mpr fun x hx => by
    simpa using hstill x hx
  rw [execHandoverRequest_up hp hcxl, hf]
  dsimp only [Option.map]
  rw [if_neg (by simp [howned, hok]), if_neg (by simp [hfree, hmove])]

/-- The owner writes the new owner once every lease of the page has expired (R55). -/
theorem execHandoverCommit_over {r : Nat} (hf : s.mig.facts.find? p = some f) (hr : f.handover = some r) (hexp : s.pageExp ppn < s.pt)
    (hcxl : s.cxlUp = true) {e q : Nat} (he : (if potOk (s.potEntry p) then s.potEntry p else f.seq * 2 ^ 16) = e)
    (hq : (bits e 16 48 + 1) % 2 ^ 48 = q) : execHandoverCommit ppn s =
      .next (((s.putPot p (putBits (putBits (putBits e 0 4 r) 4 2 1) 16 48 q)).setFact p
        { owned := false, handover := none, seq := q }).potReply 0 q) := by
  rw [execHandoverCommit, hp, Option.bind_some, hf, Option.bind_some, hr]
  dsimp only [Option.map]
  rw [if_neg (by simp [hexp, hcxl]), he, hq]

/-- A reply within its time gives the outcome of the request (R56). -/
theorem execHandoverReply_timely {t qr qc owner : Nat} {refused : Option Nat} (hreq : s.mig.potReq = some (p, t, qr, qc)) :
    execHandoverReply ppn refused owner seq s =
      match refused with
      | some c => .next ({ s with mig := { s.mig with potReq := none } }.setPot 3 c none)
      | none => if owner = s.member && s.newerSeq p seq then
          .next (({ s with mig := { s.mig with potReq := none } }.setFact p { owned := true, handover := none, seq := seq }).setPot 2 0 (some seq))
        else .next s := by
  rw [execHandoverReply, hp, hreq]
  exact if_pos (decide_eq_true rfl)

/-- A reply after the timeout gives ownership, and the status of the last command where that asked for it (R56). -/
theorem execHandoverReply_late {k : Nat} (hreq : s.mig.potReq = none) (hlate : s.mig.late.find? (fun x => x.1 = p) = some (p, k))
    (hnew : s.newerSeq p seq = true) {u : State} (hu : { s.setFact p { owned := true, handover := none, seq := seq } with
      mig := { (s.setFact p { owned := true, handover := none, seq := seq }).mig with
        late := (s.setFact p { owned := true, handover := none, seq := seq }).mig.late.filter (fun y => y.1 ≠ p) } } = u) :
    execHandoverReply ppn none s.member seq s = .next (if k = s.mig.potCmds then u.setPot 2 0 (some seq) else u) := by
  rw [execHandoverReply, hp]
  dsimp only
  rw [hreq, if_neg Bool.false_ne_true, hlate]
  dsimp only
  rw [hnew, if_neg (by simp), ← hu]

end

theorem execHandoverTimeout_asked {n t qr qc : Nat} (hwait : s.mig.potWait = none) (hreq : s.mig.potReq = some (n, t, qr, qc)) :
    execHandoverTimeout s = if s.pt < t + 3000000 then .refused (.notEnabled "HANDOVER_TIMEOUT")
      else .next ({ s with mig := { s.mig with
        potReq := none, late := s.mig.late.filter (fun y : Nat × Nat => y.1 ≠ n) ++ [(n, s.mig.potCmds)] } }.setPot 3 3 none) := by
  rw [execHandoverTimeout, hwait, hreq]

/-- A command that has waited for a CXL port for LTMO meets an error of its POT line (R418). -/
theorem execHandoverTimeout_waited {force : Bool} {ppn t : Nat} (hwait : s.mig.potWait = some (force, ppn, t)) (hcxl : s.cxlUp = false)
    (hlate : t + s.fld (fabB + 8) 0 32 * 1024 ≤ s.pt) {u : State}
    (hu : (if s.poisoned ((s.fld (tierB + 8) 16 36 * 2 ^ 16 + 8 * (ppn - 2 ^ 33)) / 128) = true then s
      else s.poisonLine (s.fld (tierB + 8) 16 36 * 2 ^ 16 + 8 * (ppn - 2 ^ 33)) 0 0x7F) = u) :
    execHandoverTimeout s = .next ({ u with mig := { u.mig with potWait := none } }.setPot 3 3 none) := by
  rw [execHandoverTimeout, hwait]
  dsimp only
  rw [if_neg (by rw [hcxl]; simpa using hlate), hu]

/-! ### Memory controllers (R60, R62 to R64) -/

/-- A core's counter is no controller's. -/
theorem isCoreCtl_of_isCtl {ctl : Nat} (h : isCtl ctl = true) : isCoreCtl ctl = false := by
  simp only [isCtl, Bool.or_eq_true, Bool.and_eq_true, decide_eq_true_eq] at h
  exact decide_eq_false (by omega)

theorem execCorrectableError_ctl {ctl pa : Nat} (hctl : isCtl ctl = true) (hline : s.dramLine pa = true) :
    execCorrectableError ctl pa s = .next (if SMap.get 0 s.ms.corr ctl + 1 = 256 then
        ({ s with ms := { s.ms with corr := SMap.set 0 s.ms.corr ctl 0 } }.errorLog pa 3 0x7F).1
      else { s with ms := { s.ms with corr := SMap.set 0 s.ms.corr ctl (SMap.get 0 s.ms.corr ctl + 1) } }) := by
  rw [execCorrectableError, isCoreCtl_of_isCtl hctl, if_neg Bool.false_ne_true, if_neg (by simp [hctl, hline])]

theorem execRefreshWindowEnd_lifts {ctl : Nat} (h : isCtl ctl = true) :
    ∃ t, execRefreshWindowEnd ctl s = .next t ∧ ∀ x ∈ t.ms.throttle, x.1 / 64 / 2 ^ 32 ≠ ctl := by
  rw [execRefreshWindowEnd, if_neg (by simp [h])]
  refine ⟨_, rfl, fun x hx => ?_⟩
  simpa using (List.mem_filter.mp hx).2

end

/-- Settles O28: the page's entry, the port and the times decide each event. -/
theorem poolAndErrorEvents : Obligations.PoolAndErrorEvents := by
  intro s w ppn frm n t seq ctl pa vdev cls e p qr qc k f bad
  dsimp only
  refine ⟨fun hbusy => potcmd_busy hbusy, fun hidle hn hup => ⟨?_, ?_⟩, fun hidle hpool hcxl => ⟨?_, ?_⟩,
    fun hidle ⟨hn, hcxl⟩ hmine hst => ?_, fun hidle ⟨hn, hcxl⟩ hother => ?_, fun hidle ⟨hn, hcxl⟩ => ?_, fun hidle => if_neg (ne_true_of_eq_false hidle),
    fun hp hcxl => execHandoverRequest_down hp hcxl, fun hp hcxl hf => ?_,
    fun ⟨hp, hcxl, hf, howned, hok⟩ hfree hstill => execHandoverRequest_begins hp hcxl hf howned hok hfree hstill,
    fun r hp hf hr hexp hcxl => execHandoverCommit_over hp hf hr hexp hcxl rfl rfl, fun ⟨hp, hreq⟩ code => execHandoverReply_timely hp hreq,
    fun ⟨hp, hreq⟩ hnew => ?_, fun hp hreq hlate hnew => execHandoverReply_late hp hreq hlate hnew rfl, fun hwait hreq hlate => ?_,
    fun hwait hreq hpt => ?_, fun force hwait hcxl hlate => execHandoverTimeout_waited hwait hcxl hlate rfl,
    fun hctl => execRefreshWindowEnd_lifts hctl, fun hctl hline hmore => ?_, fun hctl hline hlast => ?_, fun hcore => if_pos hcore,
    fun hline => ?_, fun hpop hpoison hcls hdev => ?_⟩
  · rw [exec_potcmdRequest, execPotcmdRequest_idle hidle, State.potTake_none (s := s.potCmd) hup hn]
  · rw [exec_potcmdForce, execPotcmdForce_idle hidle, State.potTake_none (s := s.potCmd) hup hn]
  · rw [exec_potcmdRequest, execPotcmdRequest_idle hidle, State.potTake_waits (s := s.potCmd) hpool hcxl]
    rfl
  · rw [exec_potcmdForce, execPotcmdForce_idle hidle, State.potTake_waits (s := s.potCmd) hpool hcxl]
    rfl
  · rw [exec_potcmdRequest, execPotcmdRequest_idle hidle, State.potTake_page (s := s.potCmd) hcxl hn]
    exact congrArg Host.Outcome.next (if_pos (c := bits e 0 4 = s.member ∧ bits e 4 2 = 1) ⟨hmine, hst⟩)
  · rw [exec_potcmdRequest, execPotcmdRequest_idle hidle, State.potTake_page (s := s.potCmd) hcxl hn]
    exact congrArg Host.Outcome.next (if_neg (c := bits e 0 4 = s.member ∧ bits e 4 2 = 1) fun ⟨hmine, hst⟩ => hother.elim (· hmine) (· hst))
  · rw [exec_potcmdForce, execPotcmdForce_idle hidle, State.potTake_page (s := s.potCmd) hcxl hn]
    rfl
  · rw [exec_handoverRequest, execHandoverRequest_up hp hcxl, hf]
    rfl
  · exact (exec_handoverReply ..).trans ((execHandoverReply_timely hp hreq).trans (if_pos (by rw [hnew]; simp)))
  · exact (exec_handoverTimeout ..).trans ((execHandoverTimeout_asked hwait hreq).trans (if_neg (Nat.not_lt.mpr hlate)))
  · exact (exec_handoverTimeout ..).trans ((execHandoverTimeout_asked hwait hreq).trans (if_pos hpt))
  · rw [exec_correctableError, execCorrectableError_ctl hctl hline, if_neg hmore]
  · rw [exec_correctableError, execCorrectableError_ctl hctl hline, if_pos hlast]
  · rw [exec_patrolScrub, execPatrolScrub, hline]
    rfl
  · have hfits : (if region pa = 2 then decide (cls = 0) || decide (cls = 2) else decide (cls = 0)) = true := by
      rcases hcls with h | ⟨h, hregion⟩
      · simp [h]
      · simp [h, hregion]
    have hdev' : (decide (vdev < 64) || decide (vdev = 0x7F)) = true := by simpa using hdev
    rw [exec_uncorrectableError, execUncorrectableError, hpop, hpoison]
    rw [hfits, hdev']
    rfl

end Sys2Proof.Machine

/-! SUPPORT. Fills, the mirror, revocation, table updates and the quarantine (R119 to R133, R139 to R143). -/

namespace Sys2Proof.Machine

theorem exec_fillComplete (s : State) (v h : Nat) : exec (.fillComplete v h) s = execFillComplete v h s := rfl
theorem exec_rebuildComplete (s : State) (v h : Nat) : exec (.rebuildComplete v h) s = execRebuildComplete v h s := rfl
theorem exec_rdtMirrorWrite (s : State) (v h : Nat) : exec (.rdtMirrorWrite v h) s = execRdtMirrorWrite v h s := rfl
theorem exec_cellError (s : State) (v h : Nat) : exec (.cellError v h) s = execCellError v h s := rfl
theorem exec_rcmdRevoke (s : State) (w : RegW) : exec (.rcmdRevoke w) s = execRcmdRevoke w s := rfl
theorem exec_rcmdRevokeAll (s : State) (w : RegW) : exec (.rcmdRevokeAll w) s = execRcmdRevokeAll w s := rfl
theorem exec_rcmdBadcmd (s : State) (w : RegW) : exec (.rcmdBadcmd w) s = execRcmdBadcmd w s := rfl
theorem exec_rquotaWrite (s : State) (w : RegW) : exec (.rquotaWrite w) s = execRquotaWrite w s := rfl
theorem exec_kvUpdate (s : State) (w : Who) : exec (.kvUpdate w) s = execKvUpdate w s := rfl
theorem exec_kvLookupRestart (s : State) (w : Who) : exec (.kvLookupRestart w) s = execKvLookupRestart w s := rfl
theorem exec_quarantineRelease (s : State) (i : Nat) : exec (.quarantineRelease i) s = execQuarantineRelease i s := rfl

section
variable {s : State} {v h : Nat} {r : Rsd}

/-- A residency whose last line has been read: poisoned, stale or ready (R122). -/
theorem Rsd.ended_eq (r : Rsd) (pt : Nat) : r.ended pt =
    if r.badLine.isSome = true then
      { r with eventpt := pt, dirtyMirror := true, filled := false, op := none, st := .poisoned, cause := .sourcePoison, fillpt := pt }
    else if r.wrote = true then
      { r with eventpt := r.wroteG, dirtyMirror := true, filled := false, op := none, st := .stale, cause := .write, fillpt := pt }
    else { r with eventpt := pt, dirtyMirror := true, filled := false, op := none, st := .ready, cause := .none, fillpt := pt } := rfl

/-- The residency recorded and the fill's operation counted out. -/
def State.fillLeaves (s : State) (key : Nat) (r r' : Rsd) (f : Option (Cause × Nat × Nat × BitVec 64)) : State :=
  match r.op with
  | some op => (s.setRsd key r').countOut op f 0
  | none => s.setRsd key r'

section
variable {key : Nat} (hr : s.rsds.find? key = some r)
include hr

theorem State.fillEnd_whole (hst : r.st = .filling) (hfilled : r.filled = true) (hf : r.fault = none) :
    s.fillEnd key = some (s.fillLeaves key r (r.ended s.pt) none) := by
  rw [State.fillEnd, hr]
  dsimp only
  rw [if_neg (by simp [hst, hfilled]), hf]
  rfl

theorem State.fillEnd_fault {c : Cause} {ql lv va : Nat} (hst : r.st = .filling) (hfilled : r.filled = true)
    (hf : r.fault = some (c, ql, lv, va)) : s.fillEnd key = some (s.fillLeaves key r
      { r with eventpt := s.pt, dirtyMirror := true, filled := false, op := none, st := .allocated, cause := .none, fault := none }
      (some (c, ql, lv, BitVec.ofNat 64 va))) := by
  rw [State.fillEnd, hr]
  dsimp only
  rw [if_neg (by simp [hst, hfilled]), hf]
  rfl

theorem State.fillEnd_open (hfilled : r.filled = false) : s.fillEnd key = none := by
  rw [State.fillEnd, hr]
  exact if_pos (.inr (by rw [hfilled]; rfl))

theorem State.rebuildEnd_whole (hst : r.st = .rebuilding) (hfilled : r.filled = true) (hf : r.fault = none) :
    s.rebuildEnd key = some (s.setRsd key (r.ended s.pt)) := by
  rw [State.rebuildEnd, hr]
  dsimp only
  rw [if_neg (by simp [hst, hfilled]), hf]

theorem State.rebuildEnd_fault {z : Cause × Nat × Nat × Nat} (hst : r.st = .rebuilding) (hfilled : r.filled = true)
    (hf : r.fault = some z) : s.rebuildEnd key = some (s.setRsd key
      { r with eventpt := s.pt, dirtyMirror := true, filled := false, op := none, st := .stale,
               cause := if z.1 = .stale then .remap else .rebuildFault, fault := none }) := by
  rw [State.rebuildEnd, hr]
  dsimp only
  rw [if_neg (by simp [hst, hfilled]), hf]
  rfl

theorem State.rebuildEnd_open (hfilled : r.filled = false) : s.rebuildEnd key = none := by
  rw [State.rebuildEnd, hr]
  exact if_pos (.inr (by rw [hfilled]; rfl))

theorem State.revokeRsd_free (huse : s.rsdInUse key = false) : s.revokeRsd key = s.freeRsd key := by
  rw [State.revokeRsd, hr]
  exact if_neg (ne_true_of_eq_false huse)

theorem State.revokeRsd_used (huse : s.rsdInUse key = true) : s.revokeRsd key = s.setRsd key { r with revoke := true } := by
  rw [State.revokeRsd, hr]
  exact if_pos huse

end

/-- A rebuild that ends counts its operation out (R131). -/
theorem execRebuildComplete_ends {r' : Rsd} (hr : s.rsds.find? (rsdKey v h) = some r)
    (hend : s.rebuildEnd (rsdKey v h) = some (s.setRsd (rsdKey v h) r')) :
    execRebuildComplete v h s = .next (s.fillLeaves (rsdKey v h) r r' none).switchAll := by
  rw [execRebuildComplete, hend]
  dsimp only
  rw [hr]
  rfl

theorem execRdtMirrorWrite_dirty (hr : s.rsds.find? (rsdKey v h) = some r) (hdirty : r.dirtyMirror = true) :
    execRdtMirrorWrite v h s = .next (
      let u := if r.st = .free then { s with rsds := s.rsds.erase (rsdKey v h) } else s.setRsd (rsdKey v h) { r with dirtyMirror := false }
      if s.fld (rsdB + 0x40 * v) 0 1 = 1 then (u.physWr (s.fld (rsdB + 0x40 * v) 21 31 * 2 ^ 21 + 32 * h) (leBytes 32 r.desc)).1 else u) := by
  have hfld : ∀ a b c, (if r.st = .free then { s with rsds := s.rsds.erase (rsdKey v h) }
      else s.setRsd (rsdKey v h) { r with dirtyMirror := false }).fld a b c = s.fld a b c := fun a b c => by split <;> rfl
  rw [execRdtMirrorWrite, hr]
  dsimp only
  rw [hdirty, if_neg (by decide), hfld, hfld]
  split
  · rfl
  · rfl

section
variable {w : RegW}

/-- A command while RSTAT reads BUSY is ignored (R133). -/
theorem rcmd_busy (hbusy : s.fld (rsdB + 0x40 * rsdSlotOf w.off + 0x18) 0 2 = 1) :
    execRcmdRevoke w s = .next s ∧ execRcmdRevokeAll w s = .next s ∧ execRcmdBadcmd w s = .next s :=
  ⟨if_pos hbusy, if_pos hbusy, if_pos hbusy⟩

theorem execRcmdRevoke_idle (hidle : s.fld (rsdB + 0x40 * rsdSlotOf w.off + 0x18) 0 2 ≠ 1) : execRcmdRevoke w s =
    if (s.rsd? (rsdSlotOf w.off) (bits w.val.toNat 0 16)).isNone then .next (s.setRstat (rsdSlotOf w.off) 3 1)
    else .next ((s.revokeRsd (rsdKey (rsdSlotOf w.off) (bits w.val.toNat 0 16))).rstatDone (rsdSlotOf w.off)).switchAll :=
  if_neg hidle

end

end

/-- Settles O29: the state of the residency, the register or the entry decides each event. -/
theorem residencyAndTableEvents : Obligations.ResidencyAndTableEvents := by
  intro s t v h i t0 r w who u q
  dsimp only
  refine ⟨fun hr hst hfilled => ⟨fun hf => ?_, fun c ql lv va hf => ?_⟩, fun hr hst hfilled => ⟨fun hf => ?_, fun z hf => ?_⟩,
    fun hr hfilled => ⟨?_, ?_⟩, fun hr hdirty hst hoff => ?_, fun hr hdirty hst hoff => ?_, fun hr hdirty hon => ?_, fun hr hst => ?_,
    fun hidle hr => ?_, fun hidle hr => ?_, fun hidle => if_neg hidle, fun k hr huse => State.revokeRsd_free hr huse,
    fun k hr huse => State.revokeRsd_used hr huse, fun hidle => if_neg hidle, fun hbusy => rcmd_busy (not_not.mp hbusy),
    fun hbig => if_pos hbig, fun hsmall => if_neg (Nat.not_lt.mpr hsmall), fun hu ht => ?_, fun hlook hlate => ?_, fun hq ht => ?_,
    fun hq hpt => ?_⟩
  · rw [exec_fillComplete, execFillComplete, State.fillEnd_whole hr hst hfilled hf]
    rfl
  · rw [exec_fillComplete, execFillComplete, State.fillEnd_fault hr hst hfilled hf]
    rfl
  · exact (exec_rebuildComplete ..).trans (execRebuildComplete_ends hr (State.rebuildEnd_whole hr hst hfilled hf))
  · exact (exec_rebuildComplete ..).trans (execRebuildComplete_ends hr (State.rebuildEnd_fault hr hst hfilled hf))
  · rw [exec_fillComplete, execFillComplete, State.fillEnd_open hr hfilled]
  · rw [exec_rebuildComplete, execRebuildComplete, State.rebuildEnd_open hr hfilled]
  · rw [exec_rdtMirrorWrite, execRdtMirrorWrite_dirty hr hdirty, if_neg hst, hoff]
    exact congrArg Host.Outcome.next (if_neg Nat.zero_ne_one)
  · rw [exec_rdtMirrorWrite, execRdtMirrorWrite_dirty hr hdirty, if_pos hst, hoff]
    exact congrArg Host.Outcome.next (if_neg Nat.zero_ne_one)
  · rw [exec_rdtMirrorWrite, execRdtMirrorWrite_dirty hr hdirty, hon]
    exact congrArg Host.Outcome.next (if_pos rfl)
  · rw [exec_cellError, execCellError, hr]
    exact if_pos hst
  · rw [exec_rcmdRevoke, execRcmdRevoke_idle hidle, hr]
    rfl
  · rw [exec_rcmdRevoke, execRcmdRevoke_idle hidle, hr]
    rfl
  · rw [exec_kvUpdate, execKvUpdate, hu]
    dsimp only
    rw [ht]
  · rw [exec_kvLookupRestart, execKvLookupRestart, hlook]
    exact if_pos hlate
  · rw [exec_quarantineRelease, execQuarantineRelease, hq]
    dsimp only
    rw [ht]
  · have hwait : s.quarStep i q = none := by
      rw [State.quarStep]
      exact if_pos (.inl hpt)
    rw [exec_quarantineRelease, execQuarantineRelease, hq]
    dsimp only
    rw [hwait]

end Sys2Proof.Machine

/-! SUPPORT. Engine operations that count out, storage commands and channels (R315 to R317, R325, R326). -/

namespace Sys2Proof.Machine

theorem exec_engineCountOut (s : State) (id : Nat) : exec (.engineCountOut id) s = execEngineCountOut id s := rfl
theorem exec_nvmeCompletion (s : State) (id cmd st : Nat) (data : List Byte) :
    exec (.nvmeCompletion id cmd st data) s = execNvmeCompletion id cmd st data s := rfl
theorem exec_nvmeTimeout (s : State) (id cmd : Nat) : exec (.nvmeTimeout id cmd) s = execNvmeTimeout id cmd s := rfl
theorem exec_chcfgWrite (s : State) (w : RegW) : exec (.chcfgWrite w) s = execChcfgWrite w s := rfl

section
variable {s : State} {id cmd st g : Nat} {data : List Byte} {o : EOp} {c : NvCmd} {f : Option (Cause × Nat × Nat × BitVec 64)}

/-! ### Operations that count out (R316) -/

theorem execEngineCountOut_written (ho : s.eng.ops.find? id = some o) (hst : o.st = .written g f) : execEngineCountOut id s =
    if o.spoiled then .next ((s.collSpoiled id o).engReq id o 1)
    else if g ≤ s.pt then .next (s.countOut id f o.wrote) else .refused (.notEnabled "ENGINE_COUNT_OUT") := by
  rw [execEngineCountOut, ho]
  dsimp only
  rw [hst]

/-- The first fault of a counter is latched; a counter that has one counts the further ones. -/
theorem Ctx.latchFault_frame (c : Ctx) (o : EOp) (z : Cause × Nat × Nat × BitVec 64) : ∃ m, c.latchFault o z = { c with latch := m } ∧
    (c.latch.find? o.ctr = none → ∃ y, m.find? o.ctr = some y ∧ y.cause = z.1 ∧ y.qual = z.2.1) := by
  unfold Ctx.latchFault
  split
  · next h => exact ⟨_, rfl, fun hnone => nomatch hnone.symm.trans h⟩
  · exact ⟨_, rfl, fun _ => ⟨_, SMap.find?_put_same .., rfl, rfl⟩⟩

/-- The thread charged with an operation that is over: its fault latched and its bytes counted. -/
def Ctx.tookFault (d : Ctx) (o : EOp) (f : Option (Cause × Nat × Nat × BitVec 64)) (n : Nat) : Ctx :=
  (match f with | some z => d.latchFault o z | none => d).countUp 5 n

theorem Ctx.tookFault_eng (d : Ctx) (o : EOp) (f : Option (Cause × Nat × Nat × BitVec 64)) (n : Nat) : (d.tookFault o f n).eng = d.eng := by
  cases f with
  | none => rfl
  | some z =>
    obtain ⟨m, hm, -⟩ := d.latchFault_frame o z
    show ((d.latchFault o z).countUp 5 n).eng = d.eng
    rw [hm]
    rfl

theorem Ctx.tookFault_latch (d : Ctx) (o : EOp) (z : Cause × Nat × Nat × BitVec 64) (n : Nat) (h : d.latch.find? o.ctr = none) :
    ∃ y, (d.tookFault o (some z) n).latch.find? o.ctr = some y ∧ y.cause = z.1 ∧ y.qual = z.2.1 := by
  obtain ⟨m, hm, hlatch⟩ := d.latchFault_frame o z
  show ∃ y, ((d.latchFault o z).countUp 5 n).latch.find? o.ctr = some y ∧ y.cause = z.1 ∧ y.qual = z.2.1
  rw [hm]
  exact hlatch h

theorem State.chanSettle_ctxs (s : State) (ch : Nat) : (s.chanSettle ch).ctxs = s.ctxs := by
  unfold State.chanSettle
  split
  · rfl
  · split
    · rfl
    · rfl

/-- The operations of a counter that are still under way, from the oldest of them (R316). -/
theorem State.dropWhile_opOut {u : State} {l : List Nat} (hid : u.opOut id = true) (hrest : ∀ k, l.head? = some k → u.opOut k = false) :
    (id :: l).dropWhile u.opOut = l := by
  rw [List.dropWhile_cons_of_pos hid]
  cases l with
  | nil => rfl
  | cons k l => exact List.dropWhile_cons_of_neg (ne_true_of_eq_false (hrest k rfl))

/-- The operation recorded as counted. -/
def State.opCounted (s : State) (id : Nat) (o : EOp) (f : Option (Cause × Nat × Nat × BitVec 64)) : State :=
  { s with eng := { s.eng with ops := s.eng.ops.put id { o with st := .counted f } } }

/-- The counters fall and the operation goes; what threads hold is not touched after that. -/
theorem State.countOut_ctxs {cid n : Nat} {d : Ctx} (ho : s.eng.ops.find? id = some o) (hcid : o.charged = [cid])
    (hd : s.ctxs.find? cid = some d) : (s.countOut id f n).ctxs =
      (((s.opCounted id o f).setCtx cid (d.tookFault o f n)).fallCtr cid o.ctr).ctxs := by
  have htook : (s.opCounted id o f).ctxs.find? cid = some d := hd
  have hfold : ∀ (F : State → Nat → State) (u : State), o.charged.foldl F u = F u cid := fun F u => by
    rw [hcid, List.foldl_cons, List.foldl_nil]
  rw [State.countOut, ho]
  dsimp only
  rw [State.chanSettle_ctxs, hfold, hfold]
  unfold State.opCounted at htook ⊢
  rw [htook]
  rfl

theorem State.countOut_charged {cid n : Nat} {d : Ctx} {l : List Nat} (ho : s.eng.ops.find? id = some o) (hcid : o.charged = [cid])
    (hd : s.ctxs.find? cid = some d) (hl : SMap.get [] d.eng o.ctr = id :: l) (hrest : ∀ k, l.head? = some k → k ≠ id ∧ s.opOut k = false) :
    ∃ d', (s.countOut id f n).ctxs.find? cid = some d' ∧ SMap.get [] d'.eng o.ctr = l ∧ SMap.get 0 d'.ac o.ctr = l.length ∧
      ∀ z, f = some z → d.latch.find? o.ctr = none → ∃ y, d'.latch.find? o.ctr = some y ∧ y.cause = z.1 ∧ y.qual = z.2.1 := by
  have hout : ∀ u : State, u.eng.ops = s.eng.ops.put id { o with st := .counted f } →
      (SMap.get [] (d.tookFault o f n).eng o.ctr).dropWhile u.opOut = l := fun u hu => by
    rw [Ctx.tookFault_eng, hl]
    refine State.dropWhile_opOut ?_ fun k hk => ?_
    · rw [State.opOut, hu, SMap.find?_put_same]
    · obtain ⟨hne, hk⟩ := hrest k hk
      rw [State.opOut, hu, SMap.find?_put_ne _ _ hne]
      exact hk
  rw [State.countOut_ctxs ho hcid hd, State.fallCtr, State.setCtx, SMap.find?_put_same]
  dsimp only
  refine ⟨_, SMap.find?_put_same .., ?_, ?_, fun z hz hlatch => ?_⟩
  · dsimp only
    rw [SMap.get_set_same, hout _ rfl]
  · dsimp only
    rw [SMap.get_set_same, hout _ rfl]
  · subst hz
    exact Ctx.tookFault_latch d o z n hlatch

/-! ### Storage commands (R326) -/

section
variable (ho : s.eng.ops.find? id = some o) (hk : o.kind = .srd) (hc : o.cmds[cmd]? = some c)
include ho hk hc

theorem execNvmeCompletion_good (hfly : c.flying = true) (hst : st % 2 ^ 15 = 0) (hlen : data.length = o.cmdBytes c) :
    execNvmeCompletion id cmd st data s = .next ((s.nvTake o.chan c 0).nvOver id cmd o c data none) := by
  rw [execNvmeCompletion, ho]
  dsimp only
  rw [hc]
  dsimp only
  rw [hfly, if_neg (by simp [hk]), if_neg (not_not.mpr hst), if_neg (not_not.mpr hlen)]

theorem execNvmeCompletion_bad (hfly : c.flying = true) (hst : st % 2 ^ 15 ≠ 0) :
    execNvmeCompletion id cmd st data s =
      .next ((s.nvTake o.chan c st).nvOver id cmd o c (List.replicate (o.cmdBytes c) 0) (some st)) := by
  rw [execNvmeCompletion, ho]
  dsimp only
  rw [hc]
  dsimp only
  rw [hfly, if_neg (by simp [hk]), if_pos hst]

theorem execNvmeTimeout_late (hopen : c.done = false) (hsub : c.sub = some g)
    (hlate : g + s.fld (chanReg o.chan 0x38) 0 32 * 1024 ≤ s.pt) :
    execNvmeTimeout id cmd s = .next (s.nvOver id cmd o c (List.replicate (o.cmdBytes c) 0) (some 0x7FFF)) := by
  rw [execNvmeTimeout, ho]
  dsimp only
  rw [hc]
  dsimp only
  rw [hsub]
  dsimp only
  rw [hopen, decide_eq_false (Nat.not_lt.mpr hlate), if_neg (by simp [hk])]

end

end

/-! ### Channels (R325) -/

/-- The channel that a write of CHCFG names, and what the register keeps of it. -/
def chanOf (w : RegW) : Nat := (w.off - chanReg 0 0) / 0x40
def chanKeep (w : RegW) : BitVec 64 :=
  BitVec.ofNat 64 (bits w.val.toNat 0 1 + bits w.val.toNat 8 12 % 2 ^ 12 * 2 ^ 8 + bits w.val.toNat 32 32 % 2 ^ 32 * 2 ^ 32)

theorem execChcfgWrite_eq (s : State) (w : RegW) : execChcfgWrite w s =
    if s.fld (chanReg (chanOf w) 0) 0 1 = 1 then
      if bitOf w.val.toNat 0 then .next s
      else .next (({ s with eng := { s.eng with chOff := s.eng.chOff.put (chanOf w) (chanKeep w) } }).chanSettle (chanOf w))
    else if bitOf w.val.toNat 0 then
      if s.chanOk (chanOf w) w.val.toNat then
        .next (({ s with eng := { s.eng with chq := s.eng.chq.erase (chanOf w) } }).setReg (chanReg (chanOf w) 0) (chanKeep w))
      else .next s
    else .next (s.setReg (chanReg (chanOf w) 0) (chanKeep w)) := rfl

/-- Settles O30: the operation's state, the command's status and the channel's enable bits decide each event. -/
theorem engineEvents : Obligations.EngineEvents := by
  intro s w id cmd st g data o c f
  dsimp only
  refine ⟨fun ho hst hspoiled hg => ?_, fun ho hst hspoiled => ?_,
    fun cid d l fl n ho hcid hd hl hrest => State.countOut_charged ho hcid hd hl hrest, fun ho hst hspoiled hg => ?_,
    fun ⟨ho, hk, hc, _, hfly⟩ _ hst hlen => execNvmeCompletion_good ho hk hc hfly hst hlen,
    fun ⟨ho, hk, hc, _, hfly⟩ _ hst => execNvmeCompletion_bad ho hk hc hfly hst,
    fun ⟨ho, hk, hc, hopen, _⟩ hsub hlate => execNvmeTimeout_late ho hk hc hopen hsub hlate,
    fun hoff hdis => ?_, fun hoff hen hok => ?_, fun hoff hen hok => ?_, fun hon hen => ?_, fun hon hdis => ?_⟩
  · rw [exec_engineCountOut, execEngineCountOut_written ho hst, hspoiled, if_neg Bool.false_ne_true, if_pos hg]
  · rw [exec_engineCountOut, execEngineCountOut_written ho hst, hspoiled, if_pos rfl]
  · rw [exec_engineCountOut, execEngineCountOut_written ho hst, hspoiled, if_neg Bool.false_ne_true, if_neg (Nat.not_le.mpr hg)]
  · exact (execChcfgWrite_eq s w).trans ((if_neg hoff).trans (if_neg (ne_true_of_eq_false hdis)))
  · exact (execChcfgWrite_eq s w).trans ((if_neg hoff).trans ((if_pos hen).trans (if_pos hok)))
  · exact (execChcfgWrite_eq s w).trans ((if_neg hoff).trans ((if_pos hen).trans (if_neg (ne_true_of_eq_false hok))))
  · exact (execChcfgWrite_eq s w).trans ((if_pos hon).trans (if_pos hen))
  · exact (execChcfgWrite_eq s w).trans ((if_pos hon).trans (if_neg (ne_true_of_eq_false hdis)))

end Sys2Proof.Machine

/-! SUPPORT. Collectives in progress (R327 to R333). -/

namespace Sys2Proof.Machine

theorem exec_collData (s : State) (c : CollId) (rank : Nat) (m : CollMsg) : exec (.collData c rank m) s = execCollData c rank m s := rfl
theorem exec_collReady (s : State) (c : CollId) (rank : Nat) : exec (.collReady c rank) s = execCollReady c rank s := rfl
theorem exec_collCommit (s : State) (c : CollId) : exec (.collCommit c) s = execCollCommit c s := rfl
theorem exec_collAbortDecision (s : State) (c : CollId) (q : Nat) : exec (.collAbortDecision c q) s = execCollAbortDecision c q s := rfl
theorem exec_collAbortRequest (s : State) (c : CollId) (q : Nat) : exec (.collAbortRequest c q) s = execCollAbortRequest c q s := rfl
theorem exec_collDeadline (s : State) (c : CollId) : exec (.collDeadline c) s = execCollDeadline c s := rfl
theorem exec_collNodecision (s : State) (c : CollId) : exec (.collNodecision c) s = execCollNodecision c s := rfl

section
variable {s : State} {c d : CollId} {x : Coll} {id rank qual q : Nat}

/-- A decision reaches the collective that it names: rank 0's own, or the member's that the windows give. -/
def State.ledTo (s : State) (c d : CollId) : Prop :=
  s.collLeads c = true ∧ c = d ∨ s.collLeads c = false ∧ s.collHere c (s.memberAt 0) = .ok d

theorem execCollCommit_led (h : s.ledTo c d) : execCollCommit c s = s.collCommitAt d := by
  rcases h with ⟨hlead, rfl⟩ | ⟨hlead, hhere⟩
  · exact if_pos hlead
  · rw [execCollCommit, hlead, if_neg Bool.false_ne_true, hhere]

theorem execCollAbortDecision_led (h : s.ledTo c d) : execCollAbortDecision c qual s = s.collAbortAt d qual := by
  rcases h with ⟨hlead, rfl⟩ | ⟨hlead, hhere⟩
  · exact if_pos hlead
  · rw [execCollAbortDecision, hlead, if_neg Bool.false_ne_true, hhere]

/-- A decision that no window admits is refused, and its sender told (R420). -/
theorem collDecision_refused (hlead : s.collLeads c = false) (hhere : s.collHere c (s.memberAt 0) = .error q) :
    execCollCommit c s = .next (s.collRefuse c (s.memberAt 0 c) q) ∧
      execCollAbortDecision c qual s = .next (s.collRefuse c (s.memberAt 0 c) q) := by
  constructor
  · rw [execCollCommit, hlead, if_neg Bool.false_ne_true, hhere]
  · rw [execCollAbortDecision, hlead, if_neg Bool.false_ne_true, hhere]

/-- Rank 0 may commit: nothing aborts the collective, its deadline has not come, and every report is in (R331). -/
def Coll.mayCommit (x : Coll) (pt : Nat) : Prop := x.abort = none ∧ pt < x.issue + x.deadline ∧ ∀ i < x.members.length, i ∈ x.ready

theorem Coll.mayCommit_iff (x : Coll) (pt : Nat) : (x.abort.isNone && decide (pt < x.issue + x.deadline)
    && (List.range x.members.length).all fun i => x.ready.contains i) = true ↔ x.mayCommit pt := by
  simp [Coll.mayCommit, and_assoc]

theorem Coll.blame_first (h : x.abort = none) : x.blame qual = { x with abort := some qual } := by
  rw [Coll.blame, h]

section
variable (hx : s.coll? d = some x)
include hx

theorem execCollData_held {p : CollPar} {data : List Byte} (hop : x.op = some id) (hlt : rank < x.members.length) (hne : rank ≠ x.rank)
    (hhere : s.collHere c (fun _ => p.members[rank]?) = .ok d) (hopen : x.decided = none) : execCollData c rank ⟨p, data⟩ s =
      .next (s.collReport { x with data := x.data.put rank data, pars := x.pars.put rank p }) := by
  rw [execCollData, hhere]
  dsimp only
  rw [hx]
  dsimp only
  rw [if_neg (by simp [hopen]), if_pos (by simp [hop]), if_neg (by omega)]

theorem State.collReadyAt_new (hop : x.op = some id) (hzero : x.rank = 0) (hpos : rank ≠ 0) (hlt : rank < x.members.length)
    (hopen : x.decided = none) (hnew : rank ∉ x.ready) : s.collReadyAt d rank = .next (s.setColl { x with ready := x.ready ++ [rank] }) := by
  rw [State.collReadyAt, hx]
  dsimp only
  rw [if_neg (by simp [hop, hzero, hpos, hlt]), if_neg (by simp [hopen, hnew])]

theorem State.collCommitAt_can (hopen : s.collOpen x = true) (hsaid : x.said = true) (hop : x.op = some id)
    (hcan : x.rank = 0 → x.mayCommit s.pt) : s.collCommitAt d =
      .next (((if x.rank = 0 then s.tellAll x (.collDecision d none) else s).setColl { x with decided := some none }).collResults id x) := by
  have hgo : (decide (x.rank ≠ 0) || (x.abort.isNone && decide (s.pt < x.issue + x.deadline)
      && (List.range x.members.length).all fun i => x.ready.contains i)) = true := by
    by_cases hzero : x.rank = 0
    · rw [(x.mayCommit_iff s.pt).mpr (hcan hzero), Bool.or_true]
    · rw [decide_eq_true hzero, Bool.true_or]
  rw [State.collCommitAt, hx]
  dsimp only
  refine (if_pos ?_).trans (by rw [hop])
  rw [hopen, hsaid]
  exact hgo

theorem State.collCommitAt_cannot (hzero : x.rank = 0) (hno : ¬x.mayCommit s.pt) : s.collCommitAt d = .refused (.notEnabled "COLL_COMMIT") := by
  rw [State.collCommitAt, hx]
  refine if_neg fun hgo => hno ?_
  obtain ⟨-, hcan⟩ := (Bool.and_eq_true ..).mp hgo
  rw [decide_eq_false (not_not.mpr hzero), Bool.false_or] at hcan
  exact (x.mayCommit_iff s.pt).mp hcan

theorem State.collAbortAt_open (hopen : x.decided = none) (hq : qual ≤ 4) (hfirst : x.op ≠ none → x.rank = 0 → x.abort = some qual) :
    s.collAbortAt d qual = .next (s.collDecide x qual) := by
  rw [State.collAbortAt, hx]
  dsimp only
  rw [if_neg (by simp [hopen, hq]), if_neg]
  rintro ⟨hop, hzero, habort⟩
  exact habort (hfirst (Option.isSome_iff_ne_none.mp hop) hzero)

theorem execCollAbortRequest_first (hhere : s.collHere c (fun _ => none) = .ok d) (hop : x.op = some id) (hzero : x.rank = 0)
    (hopen : x.decided = none) (hfirst : x.abort = none) (hq : qual ≤ 4) :
    execCollAbortRequest c qual s = .next (s.setColl { x with abort := some qual }) := by
  rw [execCollAbortRequest, if_neg (Nat.not_lt.mpr hq), hhere]
  dsimp only
  rw [hx]
  dsimp only
  rw [if_neg (by simp [hopen]), if_neg (by simp [hop]), if_neg (not_not.mpr hzero), Coll.blame_first hfirst]

theorem execCollDeadline_over (hopen : s.collOpen x = true) (hlate : x.issue + x.deadline ≤ s.pt) (hasked : x.asked = false)
    (habort : x.abort = none) : execCollDeadline d s = .next (if x.rank = 0 then s.setColl { x with abort := some 0 }
      else (s.setColl { x with asked := true }).tellRank x 0 (.collRequest d 0)) := by
  rw [execCollDeadline, hx]
  dsimp only
  rw [if_neg (by simp [hopen, hasked, habort, hlate]), Coll.blame_first habort]
  split
  · rfl
  · rfl

theorem execCollNodecision_over (hopen : s.collOpen x = true) (hpos : x.rank ≠ 0) (hlate : x.issue + 2 * x.deadline ≤ s.pt) :
    execCollNodecision d s = .next (s.collDecide x 5) := by
  rw [execCollNodecision, hx]
  refine if_neg ?_
  rw [hopen]
  simp [hpos, hlate]

theorem execCollNodecision_lead (hzero : x.rank = 0) : execCollNodecision d s = .refused (.notEnabled "COLL_NODECISION") := by
  rw [execCollNodecision, hx]
  refine if_pos ?_
  rw [decide_eq_true hzero, Bool.or_true, Bool.true_or]

end

end

/-- Settles O31: the record of the collective decides each event. -/
theorem collectiveEvents : Obligations.CollectiveEvents := by
  intro s c d x id rank qual q p data hx
  dsimp only
  refine ⟨fun hop hlt hne hhere hopen => execCollData_held hx hop hlt hne hhere hopen, fun hhere => ?_,
    fun hop hzero hpos hlt hopen hnew hhere => ?_, fun hhere => ?_, fun hled hopen hsaid hop hcan => ?_, fun hled hzero hno => ?_,
    fun hled hopen hq hfirst => ?_, fun hlead hhere => collDecision_refused hlead hhere,
    fun hhere hop hzero hopen hfirst hq => execCollAbortRequest_first hx hhere hop hzero hopen hfirst hq, fun hhere hq => ?_,
    fun hopen hlate hasked habort => execCollDeadline_over hx hopen hlate hasked habort,
    fun hopen hpos hlate => execCollNodecision_over hx hopen hpos hlate, fun hzero => execCollNodecision_lead hx hzero⟩
  · rw [exec_collData, execCollData, hhere]
  · rw [exec_collReady, execCollReady, hhere]
    exact State.collReadyAt_new hx hop hzero hpos hlt hopen hnew
  · rw [exec_collReady, execCollReady, hhere]
  · exact (exec_collCommit ..).trans ((execCollCommit_led hled).trans (State.collCommitAt_can hx hopen hsaid hop hcan))
  · refine (exec_collCommit ..).trans ((execCollCommit_led hled).trans (State.collCommitAt_cannot hx hzero ?_))
    rintro ⟨habort, hpt, hready⟩
    rcases hno with h | h | ⟨i, hi, hmiss⟩
    · exact h habort
    · exact Nat.not_lt.mpr h hpt
    · exact hmiss (hready i hi)
  · exact (exec_collAbortDecision ..).trans ((execCollAbortDecision_led hled).trans (State.collAbortAt_open hx hopen hq hfirst))
  · rw [exec_collAbortRequest, execCollAbortRequest, if_neg (Nat.not_lt.mpr hq), hhere]

end Sys2Proof.Machine

/-! SUPPORT. What a register reads after a write (R155, R185, R192, R195). -/

namespace Sys2Proof.Machine

/-! ### Predicates -/

theorem getLsbD_laneBit {k : Nat} (hk : k < 32) (l : Nat) : (laneBit l).getLsbD k = decide (k = l) := by
  rw [laneBit, BitVec.getLsbD_ofNat, decide_eq_true hk, Bool.true_and, Nat.testBit_two_pow]
  exact decide_eq_decide.mpr eq_comm

theorem Ctx.wp_seven (c : Ctx) (l : Nat) (x : Bool) : c.wp l 7 x = c := if_pos rfl

/-- A predicate written reads back in its lane; the others are as before (R195). -/
theorem Ctx.rp_wp (c : Ctx) {l n k : Nat} (x : Bool) (j : Nat) (hn : n ≠ 7) (hk : k < 32) :
    (c.wp l n x).rp k j = if k = l ∧ j = n then x else c.rp k j := by
  rw [Ctx.wp, if_neg hn, Ctx.rp, Ctx.rp]
  by_cases hseven : j = 7
  · rw [if_pos hseven, if_pos hseven, if_neg (fun h => hn (h.2.symm.trans hseven))]
  · rw [if_neg hseven, if_neg hseven]
    by_cases hj : j = n
    · subst hj
      dsimp only
      rw [SMap.get_set_same]
      cases x with
      | true => rw [if_pos rfl, BitVec.getLsbD_or, getLsbD_laneBit hk]; by_cases h : k = l <;> simp [h]
      | false => rw [if_neg Bool.false_ne_true, BitVec.getLsbD_and, BitVec.getLsbD_not, getLsbD_laneBit hk]; by_cases h : k = l <;> simp [h, hk]
    · dsimp only
      rw [SMap.get_set_ne _ _ _ _ hj, if_neg (fun h => hj h.2)]

theorem mem_lanesOf {m : Mask} {l : Nat} : l ∈ lanesOf m ↔ m.getLsbD l = true := by
  rw [lanesOf, List.mem_filter, List.mem_range, and_iff_right_iff_imp]
  exact fun h => BitVec.lt_of_getLsbD h

/-- One predicate given the same value in a list of lanes. -/
theorem Ctx.rp_foldl_wp (c : Ctx) (ls : List Nat) {n k : Nat} (x : Bool) (hn : n ≠ 7) (hk : k < 32) :
    (ls.foldl (fun c l => c.wp l n x) c).rp k n = if k ∈ ls then x else c.rp k n := by
  induction ls using List.reverseRecOn with
  | nil => rfl
  | append_singleton ls l ih =>
    rw [List.foldl_append, List.foldl_cons, List.foldl_nil, Ctx.rp_wp _ _ _ hn hk, ih]
    by_cases hkl : k = l <;> simp [hkl]

/-! ### Lane registers -/

theorem Ctx.lim_le (c : Ctx) : 32 * Nat.min c.seg 8 ≤ 256 := Nat.mul_le_mul_left 32 (Nat.min_le_right c.seg 8)

/-- A lane register written reads back, if it lies in the segment; the others are as before. -/
theorem Ctx.rv_applyRW (c : Ctx) (l n k j : Nat) (x : Word32) (hj : j < 256) :
    (c.applyRW (.v l n x)).rv k j = if k = l ∧ j = n ∧ n < 32 * Nat.min c.seg 8 then x else c.rv k j := by
  have hlim := c.lim_le
  rw [Ctx.applyRW]
  split
  · next hn =>
    rw [Ctx.wv, Ctx.rv, Ctx.rv]
    dsimp only
    by_cases h : k = l ∧ j = n
    · obtain ⟨rfl, rfl⟩ := h
      rw [SMap.get_set_same, if_pos ⟨rfl, rfl, hn⟩]
    · rw [SMap.get_set_ne _ _ _ _ (by omega), if_neg (fun h' => h ⟨h'.1, h'.2.1⟩)]
  · next hn => rw [if_neg (fun h' => hn h'.2.2)]

theorem Ctx.applyAll_append (c : Ctx) (ws : List RW) (w : RW) : c.applyAll (ws ++ [w]) = (c.applyAll ws).applyRW w := by
  rw [Ctx.applyAll, List.foldl_append]
  rfl

theorem Ctx.applyAll_seg (c : Ctx) (ws : List RW) : (c.applyAll ws).seg = c.seg := by
  obtain ⟨_, _, _, h⟩ := c.applyAll_frame ws
  rw [h]

/-- A run of lane registers written. -/
theorem Ctx.rv_applyAll_run (c : Ctx) (l n m k j : Nat) (f : Nat → Word32) (hj : j < 256) :
    (c.applyAll ((List.range m).map fun i => .v l (n + i) (f i))).rv k j =
      if k = l ∧ n ≤ j ∧ j < n + m ∧ j < 32 * Nat.min c.seg 8 then f (j - n) else c.rv k j := by
  induction m with
  | zero => rw [if_neg (by omega)]; rfl
  | succ m ih =>
    rw [List.range_succ, List.map_append, List.map_singleton, Ctx.applyAll_append, Ctx.rv_applyRW _ _ _ _ _ _ hj, Ctx.applyAll_seg, ih]
    by_cases hlast : j = n + m
    · subst hlast
      rw [if_neg (show ¬(k = l ∧ n ≤ n + m ∧ n + m < n + m ∧ _) by omega), Nat.add_sub_cancel_left]
      by_cases hin : k = l ∧ n + m < 32 * Nat.min c.seg 8
      · rw [if_pos ⟨hin.1, rfl, hin.2⟩, if_pos ⟨hin.1, by omega, by omega, hin.2⟩]
      · rw [if_neg (fun h => hin ⟨h.1, h.2.2⟩), if_neg (fun h => hin ⟨h.1, h.2.2.2⟩)]
    · rw [if_neg (fun h => hlast h.2.1)]
      by_cases hin : k = l ∧ n ≤ j ∧ j < n + m ∧ j < 32 * Nat.min c.seg 8
      · rw [if_pos hin, if_pos ⟨hin.1, hin.2.1, by omega, hin.2.2.2⟩]
      · rw [if_neg hin, if_neg (fun h => hin ⟨h.1, h.2.1, by omega, h.2.2.2⟩)]

theorem Ctx.applyAll_run_frame (c : Ctx) (l n m : Nat) (f : Nat → Word32) :
    ∃ v, c.applyAll ((List.range m).map fun i => .v l (n + i) (f i)) = { c with v := v } := by
  induction m with
  | zero => exact ⟨c.v, rfl⟩
  | succ m ih =>
    obtain ⟨v, h⟩ := ih
    rw [List.range_succ, List.map_append, List.map_singleton, Ctx.applyAll_append, h, Ctx.applyRW]
    split
    · exact ⟨_, rfl⟩
    · exact ⟨_, rfl⟩

/-- A run of registers that hold the words of a value reads as the value. -/
theorem Ctx.wide_of_words (c : Ctx) {l k : Nat} : ∀ {n x : Nat}, (∀ i < k, c.rv l (n + i) = BitVec.ofNat 32 (x / 2 ^ (32 * i))) →
    c.wide l n k = x % 2 ^ (32 * k) := by
  induction k with
  | zero => exact fun _ => (Nat.mod_one _).symm
  | succ k ih =>
    intro n x h
    have hfirst : (c.rv l n).toNat = x % 2 ^ 32 := by
      have := congrArg BitVec.toNat (h 0 (Nat.succ_pos k))
      simpa using this
    have hrest : c.wide l (n + 1) k = x / 2 ^ 32 % 2 ^ (32 * k) := ih fun i hi => by
      rw [Nat.add_assoc, Nat.add_comm 1 i, h (i + 1) (by omega), Nat.div_div_eq_div_mul, ← Nat.pow_add, Nat.mul_succ, Nat.add_comm 32]
    rw [Ctx.wide, hfirst, hrest, Nat.mul_succ, Nat.add_comm (32 * k), Nat.pow_add, Nat.mod_mul]

/-! ### What the writes of a list can leave in a register -/

theorem Ctx.rv_applyAll_mem (c : Ctx) (ws : List RW) (l : Nat) {j : Nat} (hj : j < 256) :
    (c.applyAll ws).rv l j = c.rv l j ∨ RW.v l j ((c.applyAll ws).rv l j) ∈ ws := by
  induction ws using List.reverseRecOn with
  | nil => exact .inl rfl
  | append_singleton ws w ih =>
    rw [Ctx.applyAll_append]
    have hkeep : ((c.applyAll ws).applyRW w).rv l j = (c.applyAll ws).rv l j →
        ((c.applyAll ws).applyRW w).rv l j = c.rv l j ∨ RW.v l j (((c.applyAll ws).applyRW w).rv l j) ∈ ws ++ [w] := fun h => by
      rw [h]
      exact ih.imp_right (List.mem_append_left _)
    cases w with
    | v k n x =>
      by_cases hin : l = k ∧ j = n ∧ n < 32 * Nat.min (c.applyAll ws).seg 8
      · obtain ⟨rfl, rfl, hn⟩ := hin
        rw [Ctx.rv_applyRW _ _ _ _ _ _ hj, if_pos ⟨rfl, rfl, hn⟩]
        exact .inr (List.mem_append_right _ List.mem_cons_self)
      · exact hkeep (by rw [Ctx.rv_applyRW _ _ _ _ _ _ hj, if_neg hin])
    | s n x => exact hkeep rfl
    | p k n x => exact hkeep (by rw [Ctx.applyRW, Ctx.wp]; split <;> rfl)

theorem Ctx.rs_applyAll_mem (c : Ctx) (ws : List RW) (j : Nat) :
    (c.applyAll ws).rs j = c.rs j ∨ RW.s j ((c.applyAll ws).rs j) ∈ ws := by
  induction ws using List.reverseRecOn with
  | nil => exact .inl rfl
  | append_singleton ws w ih =>
    rw [Ctx.applyAll_append]
    have hkeep : ((c.applyAll ws).applyRW w).rs j = (c.applyAll ws).rs j →
        ((c.applyAll ws).applyRW w).rs j = c.rs j ∨ RW.s j (((c.applyAll ws).applyRW w).rs j) ∈ ws ++ [w] := fun h => by
      rw [h]
      exact ih.imp_right (List.mem_append_left _)
    cases w with
    | v k n x => exact hkeep (by rw [Ctx.applyRW]; split <;> rfl)
    | s n x =>
      by_cases hj : j = n
      · subst hj
        have hset : ((c.applyAll ws).applyRW (.s j x)).rs j = x := SMap.get_set_same ..
        rw [hset]
        exact .inr (List.mem_append_right _ List.mem_cons_self)
      · exact hkeep (SMap.get_set_ne _ _ _ _ hj)
    | p k n x => exact hkeep (by rw [Ctx.applyRW, Ctx.wp]; split <;> rfl)

theorem Ctx.rp_applyAll_mem (c : Ctx) (ws : List RW) {l : Nat} (j : Nat) (hl : l < 32) :
    (c.applyAll ws).rp l j = c.rp l j ∨ RW.p l j ((c.applyAll ws).rp l j) ∈ ws := by
  induction ws using List.reverseRecOn with
  | nil => exact .inl rfl
  | append_singleton ws w ih =>
    rw [Ctx.applyAll_append]
    have hkeep : ((c.applyAll ws).applyRW w).rp l j = (c.applyAll ws).rp l j →
        ((c.applyAll ws).applyRW w).rp l j = c.rp l j ∨ RW.p l j (((c.applyAll ws).applyRW w).rp l j) ∈ ws ++ [w] := fun h => by
      rw [h]
      exact ih.imp_right (List.mem_append_left _)
    cases w with
    | v k n x => exact hkeep (by rw [Ctx.applyRW]; split <;> rfl)
    | s n x => exact hkeep rfl
    | p k n x =>
      rw [Ctx.applyRW] at hkeep ⊢
      by_cases hseven : n = 7
      · exact hkeep (by rw [hseven, Ctx.wp_seven])
      · by_cases hin : l = k ∧ j = n
        · obtain ⟨rfl, rfl⟩ := hin
          rw [Ctx.rp_wp _ _ _ hseven hl, if_pos ⟨rfl, rfl⟩]
          exact .inr (List.mem_append_right _ List.mem_cons_self)
        · exact hkeep (by rw [Ctx.rp_wp _ _ _ hseven hl, if_neg hin])

/-- An operand read at an issue sees in each register what it holds, or what it held before a write of the list (R185). -/
theorem Ctx.asRead_spec (c : Ctx) (olds : List RW) (pt op : Nat) {l j : Nat} (hl : l < 32) (hj : j < 256) :
    ((c.asRead olds pt op).rv l j = c.rv l j ∨ RW.v l j ((c.asRead olds pt op).rv l j) ∈ olds) ∧
    ((c.asRead olds pt op).rs j = c.rs j ∨ RW.s j ((c.asRead olds pt op).rs j) ∈ olds) ∧
    ((c.asRead olds pt op).rp l j = c.rp l j ∨ RW.p l j ((c.asRead olds pt op).rp l j) ∈ olds) ∧
    (olds = [] → c.asRead olds pt op = c) ∧
    { c.asRead olds pt op with v := c.v, s := c.s, p := c.p } = c := by
  have hsub : ∀ w ∈ (olds.zipIdx.filter fun p => Config.early pt op p.2).map (·.1), w ∈ olds := fun w hw => by
    obtain ⟨p, hp, rfl⟩ := List.mem_map.mp hw
    exact List.fst_mem_of_mem_zipIdx (List.mem_filter.mp hp).1
  refine ⟨(c.rv_applyAll_mem _ l hj).imp_right (hsub _), (c.rs_applyAll_mem _ j).imp_right (hsub _),
    (c.rp_applyAll_mem _ j hl).imp_right (hsub _), fun h => by rw [h]; rfl, ?_⟩
  obtain ⟨v, q, p, h⟩ := c.applyAll_frame ((olds.zipIdx.filter fun p => Config.early pt op p.2).map (·.1))
  rw [Ctx.asRead, h]

/-! ### A value written to a destination -/

theorem wrap_sx_eq {x : Nat} (hx : x < 2 ^ 32) : wrap 64 (sx 32 x) = if 2 ^ 31 ≤ x then 2 ^ 64 - 2 ^ 32 + x else x := by
  unfold wrap sx
  split <;> split <;> omega

/-- Settles O39: each kind of destination is written and read back, and asRead puts back values of its list alone. -/
theorem registerWriteReadsBack : Obligations.RegisterWriteReadsBack := by
  intro c l w sgn n m p x hl hw hx
  dsimp only
  have hwide : 32 * (w / 32) = w := by omega
  have hrun : ∀ k j, j < 256 → (c.applyAll (c.dst l w sgn (.v n) x)).rv k j =
      if k = l ∧ n.toNat ≤ j ∧ j < n.toNat + w / 32 ∧ j < 32 * Nat.min c.seg 8 then BitVec.ofNat 32 (x / 2 ^ (32 * (j - n.toNat)))
      else c.rv k j :=
    fun k j hj => c.rv_applyAll_run l n.toNat (w / 32) k j (fun i => BitVec.ofNat 32 (x / 2 ^ (32 * i))) hj
  refine ⟨fun hin => ?_, fun k j hj hout => ?_, ?_, fun hw64 => ?_, fun hw32 => ?_, fun j hj => SMap.get_set_ne _ _ _ _ hj, rfl, fun hp => ?_,
    fun k j hk hother => ?_, ?_, fun hp => ?_, rfl, fun olds pt op j hj => c.asRead_spec olds pt op hl hj⟩
  · have hlim := c.lim_le
    rw [Ctx.wide_of_words (x := x) _ fun i hi => by
      rw [hrun l _ (by omega), if_pos ⟨rfl, by omega, by omega, by omega⟩, Nat.add_sub_cancel_left], hwide, Nat.mod_eq_of_lt hx]
  · exact (hrun k j hj).trans (if_neg (by omega))
  · obtain ⟨v, h⟩ := c.applyAll_run_frame l n.toNat (w / 32) fun i => BitVec.ofNat 32 (x / 2 ^ (32 * i))
    have hcv : c.applyAll (c.dst l w sgn (.v n) x) = { c with v := v } := h
    rw [hcv]
  · have hset : (c.applyAll (c.dst l w sgn (.s m) x)).rs m.toNat = BitVec.ofNat 64 (if w ≤ 32 ∧ sgn then wrap 64 (sx 32 x) else x) :=
      SMap.get_set_same ..
    rw [hset, if_neg (by omega), BitVec.toNat_ofNat, Nat.mod_eq_of_lt (by rwa [hw64] at hx)]
  · have hset : (c.applyAll (c.dst l w sgn (.s m) x)).rs m.toNat = BitVec.ofNat 64 (if w ≤ 32 ∧ sgn then wrap 64 (sx 32 x) else x) :=
      SMap.get_set_same ..
    rw [hw32] at hx
    rw [hset, BitVec.toNat_ofNat, wrap_sx_eq hx, hw32]
    by_cases hneg : sgn = true ∧ 2 ^ 31 ≤ x
    · rw [if_pos ⟨by decide, hneg.1⟩, if_pos hneg.2, if_pos hneg]
      omega
    · rw [if_neg hneg]
      split
      · next hs =>
        rw [if_neg (fun h => hneg ⟨hs.2, h⟩)]
        omega
      · omega
  · have hseven : p.toNat ≠ 7 := fun h => hp (BitVec.eq_of_toNat_eq h)
    exact (c.rp_wp _ _ hseven hl).trans (if_pos ⟨rfl, rfl⟩)
  · by_cases hseven : p.toNat = 7
    · exact congrArg (fun d : Ctx => d.rp k j) (if_pos hseven)
    · exact (c.rp_wp _ _ hseven hk).trans (if_neg (by omega))
  · obtain ⟨y, h⟩ := c.wp_frame l p.toNat (decide (x ≠ 0))
    have hcp : c.applyAll (c.dst l w sgn (.pred p) x) = { c with p := y } := h
    rw [hcp]
  · subst hp
    exact c.wp_seven l (decide (x ≠ 0))

end Sys2Proof.Machine

/-! SUPPORT. The hub: launches, tails, blocks, segments, rgrow, queues and multi-package launches (R153 to R186, R246, R353 to R366). -/

namespace Sys2Proof.Machine

theorem exec_launchTake (s : State) (q : Nat) : exec (.launchTake q) s = execLaunchTake q s := rfl
theorem exec_tailWatch (s : State) (q : Nat) : exec (.tailWatch q) s = execTailWatch q s := rfl
theorem exec_blockStart (s : State) (l : Nat) : exec (.blockStart l) s = execBlockStart l s := rfl
theorem exec_blockRetire (s : State) (b : Nat) : exec (.blockRetire b) s = execBlockRetire b s := rfl
theorem exec_segmentRelocation (s : State) (core : Nat) : exec (.segmentRelocation core) s = execSegmentRelocation core s := rfl
theorem exec_rgrowGrant (s : State) (cid : Nat) : exec (.rgrowGrant cid) s = execRgrowGrant cid s := rfl
theorem exec_rgrowDeny (s : State) (core : Nat) : exec (.rgrowDeny core) s = execRgrowDeny core s := rfl
theorem exec_oppStable (s : State) (die : Nat) : exec (.oppStable die) s = execOppStable die s := rfl
theorem exec_qcfgWrite (s : State) (w : RegW) : exec (.qcfgWrite w) s = execQcfgWrite w s := rfl
theorem exec_rectClaim (s : State) (r : RectReq) : exec (.rectClaim r) s = execRectClaim r s := rfl
theorem exec_rectClaimTimeout (s : State) (l m : Nat) : exec (.rectClaimTimeout l m) s = execRectClaimTimeout l m s := rfl
theorem exec_rectRouteReport (s : State) (l m : Nat) (good : Bool) :
    exec (.rectRouteReport l m good) s = execRectRouteReport l m good s := rfl
theorem exec_rectStart (s : State) (l : Nat) : exec (.rectStart l) s = execRectStart l s := rfl
theorem exec_rectMemberRetire (s : State) (l m : Nat) : exec (.rectMemberRetire l m) s = execRectMemberRetire l m s := rfl
theorem exec_joinTimeout (s : State) (w : Who) : exec (.joinTimeout w) s = execJoinTimeout w s := rfl
theorem exec_lineFetch (s : State) (w : Who) : exec (.lineFetch w) s = execLineFetch w s := rfl

/-! ### Queues (R353 to R356) -/

section
variable {s t u : State} {q lo hi g : Nat}

/-- The address of the record at a queue's head (R354). -/
def State.headVa (s : State) (q : Nat) : Nat :=
  (s.fld (qreg q 8) 8 48 * 256 + 256 * (s.fld (qreg q 0x18) 0 32 % 2 ^ s.fld (qreg q 0) 24 5)) % 2 ^ 56

section
variable (hq : q < 256) (hruns : s.hostRuns q = true) (htail : (s.sch.tails.find? q).isSome = true)
  (hmore : s.fld (qreg q 0x18) 0 32 ≠ s.fld (qreg q 0x18) 32 32) (hroom : s.takenOf q < 16)
include hq hruns htail hmore hroom

/-- The guard of LAUNCH_TAKE lets this queue through. -/
theorem State.mayTake : ¬(256 ≤ q ∨ (!s.hostRuns q) = true ∨ (s.sch.tails.find? q).isNone = true ∨
    s.fld (qreg q 0x18) 0 32 = s.fld (qreg q 0x18) 32 32 ∨ 16 ≤ s.takenOf q) := by
  rw [hruns, Option.isNone_iff_eq_none, ← Option.not_isSome_iff_eq_none, htail]
  simp [hmore]
  omega

theorem execLaunchTake_taken {n v m : Nat} {k z : State} (hlo : s.qread q (s.headVa q) 128 = (t, .ok lo g))
    (hhi : t.qread q (s.headVa q + 128) 128 = (u, .ok hi n)) (hk : u.take q (leBytes 128 lo ++ leBytes 128 hi) = k)
    (hwr : k.perform
      { asid := k.fld (qreg q 0) 32 16, va := (k.fld (qreg q 0x10) 4 52 * 16 + 8) % 2 ^ 56, n := 4, priv := false, who := hubW,
        atL := .ha } (.wr (leBytes 4 ((s.fld (qreg q 0x18) 0 32 + 1) % 2 ^ 32))) = (z, .ok v m)) :
    execLaunchTake q s = .next z := by
  unfold State.headVa at hlo hhi
  rw [execLaunchTake, if_neg (State.mayTake hq hruns htail hmore hroom)]
  dsimp only
  rw [hlo]
  dsimp only
  rw [hhi]
  dsimp only
  rw [hk, hwr]

theorem execLaunchTake_fault {cs : Cause} {ql lv : Nat} {aux : BitVec 64}
    (hlo : s.qread q (s.headVa q) 128 = (t, .fault cs ql lv aux)) :
    execLaunchTake q s = .next (t.ringFault q cs ql (s.fld (qreg q 0x18) 0 32)) := by
  unfold State.headVa at hlo
  rw [execLaunchTake, if_neg (State.mayTake hq hruns htail hmore hroom)]
  dsimp only
  rw [hlo]

end

/-- A queue whose tail word has been read: the line of the word is noted. -/
def State.tailNoted (t : State) (q va : Nat) : State :=
  match t.paOf (t.fld (qreg q 0) 32 16) va with
  | some p => { t with sch := { t.sch with tails := t.sch.tails.put q (p.1 / 128, none) } }
  | none => t

theorem execTailWatch_read (hq : q < 256) (hruns : s.hostRuns q = true) (hdue : s.tailDue q = true)
    (hrd : s.qread q (s.fld (qreg q 0x10) 4 52 * 16) 4 = (t, .ok lo g)) {noted : State}
    (hnoted : t.tailNoted q (s.fld (qreg q 0x10) 4 52 * 16) = noted) : execTailWatch q s = .next (
      if tailBad (s.fld (qreg q 0x18) 0 32) (if (s.sch.tails.find? q).isSome = true then some (s.fld (qreg q 0x18) 32 32) else none)
          lo (noted.fld (qreg q 0) 24 5) = true
        then ((noted.setFld (qreg q 0x18) 32 32 lo).queueStop q).queueEvent q 3 0 0 (s.fld (qreg q 0x18) 0 32)
        else noted.setFld (qreg q 0x18) 32 32 lo) := by
  rw [execTailWatch, if_neg (by simp [hq, hruns, hdue])]
  dsimp only
  rw [hrd, ← hnoted, State.tailNoted]
  dsimp only
  cases t.paOf (t.fld (qreg q 0) 32 16) (s.fld (qreg q 0x10) 4 52 * 16) with
  | none => rfl
  | some p => rfl

theorem tailBad_some (head o n sz : Nat) :
    tailBad head (some o) n sz = true ↔ 2 ^ sz < (n + 2 ^ 32 - head) % 2 ^ 32 ∨ 2 ^ 31 ≤ (n + 2 ^ 32 - o) % 2 ^ 32 := by
  rw [tailBad, Bool.or_eq_true, decide_eq_true_iff, decide_eq_true_iff]

theorem tailBad_none (head n sz : Nat) : tailBad head none n sz = true ↔ 2 ^ sz < (n + 2 ^ 32 - head) % 2 ^ 32 := by
  rw [tailBad, Bool.or_false, decide_eq_true_iff]

end

/-! ### Blocks (R159 to R164, R175) -/

section
variable {s : State} {l b : Nat} {x : Launch} {y : Block}

section
variable (hx : s.sch.launches.find? l = some x) (hready : s.ready l x = true) (hwait : x.waiting = true)
  (hsaved : ∀ p ∈ s.blocks, p.2.dev = x.dev → ∀ n, p.2.st ≠ .saved n)
include hx hready hwait hsaved

/-- A launch that may start its next gang: what becomes of it depends on whether there is a place. -/
theorem execBlockStart_may : execBlockStart l s =
    match s.nextPlace x (fun _ _ => true) with
    | none =>
      if s.splitsNow x ∧ !s.behindOwn l x then .next (s.setLaunch l { x with fall := x.record.gangExt })
      else if (s.sch.frag.find? l).isSome ∨ s.fragCores x = [] then .refused (.notEnabled "BLOCK_START")
      else .next { s with sch := { s.sch with frag := s.sch.frag.put l s.pt } }
    | some (b, n, cl, ks) =>
      if s.outranked l x cl ks || (match s.sch.lastStart.find? cl with | some t => decide (s.pt < t + 8 * n) | none => false)
          || ks.any (s.rgrowDue cl) then .refused (.notEnabled "BLOCK_START")
      else if s.oppCur (dieOfCl cl) < s.oppWant x (dieOfCl cl) then
        .next ((s.setLaunch l { x with chosen := x.chosen.put (dieOfCl cl) true }).retune)
      else .next ((((s.startGang l x b n cl ks).setLaunch l (x.startedGang b n cl)).noteStart l (x.startedGang b n cl) cl).retune) := by
  have hblocks : (s.blocks.any fun p => p.2.dev = x.dev && match p.2.st with | .saved _ => true | _ => false) = false :=
    List.any_eq_false.mpr fun p hp hbad => by
      obtain ⟨hdev, hst⟩ := (Bool.and_eq_true ..).mp hbad
      split at hst
      · next n h => exact hsaved p hp (of_decide_eq_true hdev) n h
      · cases hst
  have hgo : (!s.ready l x || !x.waiting
      || s.blocks.any fun p => p.2.dev = x.dev && match p.2.st with | .saved _ => true | _ => false) = false := by
    rw [hready, hwait, hblocks]
    rfl
  rw [execBlockStart, hx]
  exact (if_neg fun h => Bool.false_ne_true (hgo.symm.trans h)).trans rfl

theorem execBlockStart_splits (hplace : s.nextPlace x (fun _ _ => true) = none) (hsplit : s.splitsNow x = true)
    (hfirst : s.behindOwn l x = false) : execBlockStart l s = .next (s.setLaunch l { x with fall := x.record.gangExt }) := by
  rw [execBlockStart_may hx hready hwait hsaved, hplace]
  exact if_pos ⟨hsplit, by rw [hfirst]; rfl⟩

theorem execBlockStart_searches (hplace : s.nextPlace x (fun _ _ => true) = none) (hno : s.splitsNow x = false ∨ s.behindOwn l x = true)
    (hfrag : s.sch.frag.find? l = none) (hcores : s.fragCores x ≠ []) :
    execBlockStart l s = .next { s with sch := { s.sch with frag := s.sch.frag.put l s.pt } } := by
  rw [execBlockStart_may hx hready hwait hsaved, hplace]
  refine (if_neg ?_).trans (if_neg ?_)
  · rintro ⟨hsplit, hfirst⟩
    rcases hno with h | h
    · exact Bool.false_ne_true (h.symm.trans hsplit)
    · rw [h] at hfirst
      cases hfirst
  · rw [hfrag]
    exact fun h => h.elim (fun h => nomatch h) hcores

theorem execBlockStart_placed {b n cl : Nat} {ks : List Nat} (hplace : s.nextPlace x (fun _ _ => true) = some (b, n, cl, ks))
    (hrank : s.outranked l x cl ks = false) (hlate : ∀ t, s.sch.lastStart.find? cl = some t → t + 8 * n ≤ s.pt)
    (hgrow : ∀ k ∈ ks, s.rgrowDue cl k = false) : execBlockStart l s =
      if s.oppCur (dieOfCl cl) < s.oppWant x (dieOfCl cl) then
        .next ((s.setLaunch l { x with chosen := x.chosen.put (dieOfCl cl) true }).retune)
      else .next ((((s.startGang l x b n cl ks).setLaunch l (x.startedGang b n cl)).noteStart l (x.startedGang b n cl) cl).retune) := by
  have hlate' : (match s.sch.lastStart.find? cl with | some t => decide (s.pt < t + 8 * n) | none => false) = false := by
    cases ht : s.sch.lastStart.find? cl with
    | none => rfl
    | some t => exact decide_eq_false (Nat.not_lt.mpr (hlate t ht))
  have hgrow' : ks.any (s.rgrowDue cl) = false := List.any_eq_false.mpr fun k hk => ne_true_of_eq_false (hgrow k hk)
  rw [execBlockStart_may hx hready hwait hsaved, hplace]
  dsimp only
  rw [hrank, hlate', hgrow', if_neg (by decide)]

end

theorem execBlockRetire_ends (hy : s.blk? b = some y) (hst : y.st = .resident) (hcan : s.canRetire b = true) :
    execBlockRetire b s = .next ((((s.freeBlock b y).countRetired y).trySwitch y.cluster).retune) := by
  rw [execBlockRetire, hy]
  exact if_neg (by simp [hst, hcan])

/-- A block that is freed leaves no thread. -/
theorem State.freeBlock_thread (s : State) (y : Block) {k : Nat} (hk : 128 ≤ k) (hb : blkOf k = b) : (s.freeBlock b y).ctxs.find? k = none := by
  have hdrop : ∀ u : State, (u.dropThreads b).ctxs.find? k = none := fun u => by
    rw [State.dropThreads]
    exact (find?_filter_key u.ctxs (fun n => !(decide (128 ≤ n) && decide (blkOf n = b))) k).trans (if_neg (by simp [hk, hb]))
  unfold State.freeBlock
  dsimp only
  split
  · exact hdrop _
  · exact hdrop _

/-- A launch that has one more block retired: the count and the running mean of residency (R378). -/
theorem State.countRetired_launch {z : Launch} (hz : s.sch.launches.find? y.launch = some z) {u : State}
    (hu : s.setLaunch y.launch { z with
      retired := z.retired + 1, mean := some (meanStep z.mean (s.pt - y.start)) } = u) :
    s.countRetired y = if z.retired + 1 = z.total then u.launchDone y.launch else u := by
  rw [State.countRetired, hz, ← hu]

end

/-! ### Segments packed (R175, R176) -/

section
variable {s : State} {cl k l core : Nat} {grown : Nat × Nat} {x : Launch}

/-- The launch whose gang has waited long enough for a place, with a core that packing would help (R176). -/
def State.fragFound (s : State) (core : Nat) : Option (Nat × Launch) :=
  List.find? (fun p => (match s.sch.frag.find? p.1 with | some t => decide (t + 12000 ≤ s.pt) | none => false)
    && s.ready p.1 p.2 && p.2.waiting && (s.nextPlace p.2 (fun _ _ => true)).isNone && (s.fragCores p.2).contains core) s.sch.launches

theorem execSegmentRelocation_eq (s : State) (core : Nat) : execSegmentRelocation core s = match s.fragFound core with
    | none => .refused (.notEnabled "SEGMENT_RELOCATION")
    | some (l, _) => .next (({ s with sch := { s.sch with frag := s.sch.frag.erase l } }).pack (core / 8) (core % 8) (0, 0)) := rfl

theorem execSegmentRelocation_due (h : s.fragFound core = some (l, x)) : execSegmentRelocation core s = .next
      (({ s with sch := { s.sch with frag := s.sch.frag.erase l } }).pack (core / 8) (core % 8) (0, 0)) := by
  rw [execSegmentRelocation_eq, h]

theorem State.fragFound_early (h : ∀ p ∈ s.sch.launches, ∀ t, s.sch.frag.find? p.1 = some t → s.pt < t + 12000) :
    s.fragFound core = none := by
  refine List.find?_eq_none.mpr fun p hp => ?_
  cases ht : s.sch.frag.find? p.1 with
  | none => simp
  | some t => simp [Nat.not_le.mpr (h p hp t ht)]

/-- The size that packing gives a segment. -/
def sizeIn (grown : Nat × Nat) (h : Nat × Ctx) : Nat := if h.1 = grown.1 then grown.2 else h.2.seg

/-- A segment's sizes and place as packing lists them. -/
def segRow (grown : Nat × Nat) (h : Nat × Ctx) : Nat × Nat × Nat := (h.1, sizeIn grown h, h.2.segAt)

/-- One segment moved to where the segments before it end. -/
def packStep (at0 : Nat × Nat × Nat → Nat) (s : State) (g : Nat × Nat × Nat) : State :=
  match s.ctxs.find? g.1 with
  | some c => s.setCtx g.1 { c with seg := g.2.1, segAt := at0 g }
  | none => s

theorem packStep_other (at0 : Nat × Nat × Nat → Nat) (s : State) {g : Nat × Nat × Nat} {j : Nat} (h : g.1 ≠ j) :
    (packStep at0 s g).ctxs.find? j = s.ctxs.find? j := by
  unfold packStep
  split
  · exact SMap.find?_put_ne _ _ h.symm
  · rfl

theorem foldl_packStep_other (at0 : Nat × Nat × Nat → Nat) {j : Nat} (gs : List (Nat × Nat × Nat)) :
    ∀ {s : State}, (∀ g ∈ gs, g.1 ≠ j) → (gs.foldl (packStep at0) s).ctxs.find? j = s.ctxs.find? j := by
  induction gs with
  | nil => exact fun _ => rfl
  | cons g gs ih =>
    intro s h
    rw [List.foldl_cons, ih fun g' hg' => h g' (List.mem_cons_of_mem _ hg'), packStep_other at0 s (h g List.mem_cons_self)]

theorem foldl_packStep_mem (at0 : Nat × Nat × Nat → Nat) {c : Ctx} {g : Nat × Nat × Nat} (gs : List (Nat × Nat × Nat)) :
    ∀ {s : State}, (gs.map (·.1)).Nodup → g ∈ gs → s.ctxs.find? g.1 = some c →
      (gs.foldl (packStep at0) s).ctxs.find? g.1 = some { c with seg := g.2.1, segAt := at0 g } := by
  induction gs with
  | nil => exact fun _ hg => absurd hg List.not_mem_nil
  | cons a gs ih =>
    intro s hnd hg hc
    rw [List.map_cons, List.nodup_cons] at hnd
    rw [List.foldl_cons]
    rcases List.mem_cons.mp hg with heq | hg
    · subst heq
      rw [foldl_packStep_other at0 gs fun g' hg' heq => hnd.1 (List.mem_map.mpr ⟨g', hg', heq⟩), packStep, hc]
      exact SMap.find?_put_same ..
    · refine ih hnd.2 hg ?_
      rw [packStep_other at0 s fun heq => hnd.1 (List.mem_map.mpr ⟨g, hg, heq.symm⟩)]
      exact hc

theorem State.pack_eq (s : State) (cl k : Nat) (grown : Nat × Nat) : s.pack cl k grown =
    ((s.segsOn cl k).map (segRow grown)).foldl (packStep fun g =>
      (((s.segsOn cl k).map (segRow grown)).filter (fun h => decide (h.2.2 < g.2.2))).foldl (fun n h => n + h.2.1) 0) s := rfl

theorem State.pack_other {j : Nat} (h : ∀ p ∈ s.segsOn cl k, p.1 ≠ j) : (s.pack cl k grown).ctxs.find? j = s.ctxs.find? j := by
  rw [State.pack_eq]
  refine foldl_packStep_other _ _ fun g hg => ?_
  obtain ⟨p, hp, rfl⟩ := List.mem_map.mp hg
  exact h p hp

theorem State.pack_mem {p : Nat × Ctx} (hp : p ∈ s.segsOn cl k) (hnd : ((s.segsOn cl k).map (·.1)).Nodup) (hc : s.ctxs.find? p.1 = some p.2) :
    (s.pack cl k grown).ctxs.find? p.1 = some { p.2 with
      seg := sizeIn grown p
      segAt := ((s.segsOn cl k).filter (fun h => decide (h.2.segAt < p.2.segAt))).foldl (fun n h => n + sizeIn grown h) 0 } := by
  have hkeys : ((s.segsOn cl k).map (segRow grown)).map (·.1) = (s.segsOn cl k).map (·.1) := by rw [List.map_map]; rfl
  rw [State.pack_eq]
  refine (foldl_packStep_mem _ _ (hkeys ▸ hnd) (List.mem_map_of_mem hp) hc).trans ?_
  rw [List.filter_map, List.foldl_map]
  rfl

end

/-! ### rgrow (R175, R176, R246) -/

section
variable {s : State} {cid core : Nat} {c : Ctx} {r : RGrow} {y : Block}

section
variable (hc : s.ctxs.find? cid = some c) (hr : c.rgrow = some r) (hy : s.blk? (blkOf cid) = some y) (hst : y.st = .resident)
  (hroom : r.want - c.seg ≤ s.freeGranules (s.coreAt cid).1 (s.coreAt cid).2)
  (hold : ∀ p ∈ s.groupsOn (s.coreAt cid).1 (s.coreAt cid).2, ∀ q, p.2.rgrow = some q → r.since ≤ q.since)
include hc hr hy hst hroom hold

/-- Whether the granules next to a segment are free to let it grow by some. -/
def State.adjoins (s : State) (cid : Nat) (c : Ctx) (r : RGrow) : Bool :=
  decide (c.segAt + c.seg + (r.want - c.seg) ≤ 256) && (s.segsOn (s.coreAt cid).1 (s.coreAt cid).2).all (fun g => g.1 = cid
    || decide (g.2.segAt + g.2.seg ≤ c.segAt + c.seg) || decide (c.segAt + c.seg + (r.want - c.seg) ≤ g.2.segAt))

omit hc hr hy hst hroom hold in
theorem State.adjoins_iff : s.adjoins cid c r = true ↔ c.segAt + c.seg + (r.want - c.seg) ≤ 256 ∧
    ∀ p ∈ s.segsOn (s.coreAt cid).1 (s.coreAt cid).2, p.1 = cid ∨ p.2.segAt + p.2.seg ≤ c.segAt + c.seg ∨
      c.segAt + c.seg + (r.want - c.seg) ≤ p.2.segAt := by
  simp only [State.adjoins, Bool.and_eq_true, List.all_eq_true, Bool.or_eq_true, decide_eq_true_iff, or_assoc]

theorem execRgrowGrant_may : execRgrowGrant cid s =
    match (if s.adjoins cid c r = true then s.setCtx cid { c with seg := r.want }
      else s.pack (s.coreAt cid).1 (s.coreAt cid).2 (cid, r.want)).ctxs.find? cid with
    | some d => .next ((if s.adjoins cid c r = true then s.setCtx cid { c with seg := r.want }
        else s.pack (s.coreAt cid).1 (s.coreAt cid).2 (cid, r.want)).setCtx cid (d.rgrowEnd r true))
    | none => .next (if s.adjoins cid c r = true then s.setCtx cid { c with seg := r.want }
        else s.pack (s.coreAt cid).1 (s.coreAt cid).2 (cid, r.want)) := by
  have holder : ((s.groupsOn (s.coreAt cid).1 (s.coreAt cid).2).any fun g => match g.2.rgrow with
      | some q => decide (q.want - g.2.seg ≤ s.freeGranules (s.coreAt cid).1 (s.coreAt cid).2) && decide (q.since < r.since)
      | none => false) = false := List.any_eq_false.mpr fun p hp => by
    cases hq : p.2.rgrow with
    | none => exact Bool.false_ne_true
    | some q => simp [Nat.not_lt.mpr (hold p hp q hq)]
  rw [execRgrowGrant, hc]
  dsimp only
  rw [hr]
  dsimp only
  rw [hy]
  refine (if_neg fun h => ?_).trans rfl
  have hgo : (!decide (y.st = .resident) || !decide (r.want - c.seg ≤ s.freeGranules (s.coreAt cid).1 (s.coreAt cid).2)
      || (s.groupsOn (s.coreAt cid).1 (s.coreAt cid).2).any fun g => match g.2.rgrow with
        | some q => decide (q.want - g.2.seg ≤ s.freeGranules (s.coreAt cid).1 (s.coreAt cid).2) && decide (q.since < r.since)
        | none => false) = false := by
    rw [holder, decide_eq_true hst, decide_eq_true hroom]
    rfl
  exact Bool.false_ne_true (hgo.symm.trans h)

theorem execRgrowGrant_inPlace (ha : s.adjoins cid c r = true) : execRgrowGrant cid s = .next ((s.setCtx cid { c with seg := r.want }).setCtx cid
    (Ctx.rgrowEnd { c with seg := r.want } r true)) := by
  rw [execRgrowGrant_may hc hr hy hst hroom hold, if_pos ha]
  rw [State.setCtx, SMap.find?_put_same]

theorem execRgrowGrant_moved {d : Ctx} (ha : ¬s.adjoins cid c r = true)
    (hd : (s.pack (s.coreAt cid).1 (s.coreAt cid).2 (cid, r.want)).ctxs.find? cid = some d) : execRgrowGrant cid s =
      .next ((s.pack (s.coreAt cid).1 (s.coreAt cid).2 (cid, r.want)).setCtx cid (d.rgrowEnd r true)) := by
  rw [execRgrowGrant_may hc hr hy hst hroom hold, if_neg ha, hd]

end

theorem foldl_pWrites (c : Ctx) (ls : List Nat) (n : Nat) (x : Bool) :
    c.applyAll (ls.map fun l => .p l n x) = ls.foldl (fun c l => c.wp l n x) c := by
  rw [Ctx.applyAll, List.foldl_map]
  rfl

theorem Ctx.flagDown_res (c : Ctx) (f : Option Nat) : ∃ m, c.flagDown f = { c with flags := m } := by
  cases f with
  | none => exact ⟨_, rfl⟩
  | some n => exact ⟨_, rfl⟩

theorem Ctx.rgrowEnd_eq (ok : Bool) : ∃ m os, c.rgrowEnd r ok =
    { Ctx.applyAll { c with rgrow := none } ((lanesOf r.part).map fun l => .p l r.pred ok) with flags := m, olds := os } := by
  rw [Ctx.rgrowEnd]
  obtain ⟨m, h⟩ := (Ctx.land { c with rgrow := none } ((lanesOf r.part).map fun l => .p l r.pred ok)).flagDown_res r.flag
  exact ⟨m, _, h⟩

theorem Ctx.rgrowEnd_rgrow (ok : Bool) : (c.rgrowEnd r ok).rgrow = none := by
  obtain ⟨_, _, _, h⟩ := Ctx.applyAll_frame { c with rgrow := none } ((lanesOf r.part).map fun l => .p l r.pred ok)
  obtain ⟨m, os, hend⟩ := Ctx.rgrowEnd_eq (c := c) (r := r) ok
  rw [hend, h]

theorem Ctx.rgrowEnd_rp (ok : Bool) {l : Nat} (hl : r.part.getLsbD l = true) (hp : r.pred < 7) : (c.rgrowEnd r ok).rp l r.pred = ok := by
  have hland : (c.rgrowEnd r ok).rp l r.pred = ((lanesOf r.part).foldl (fun d l => Ctx.wp d l r.pred ok) { c with rgrow := none }).rp l r.pred := by
    obtain ⟨m, os, hend⟩ := Ctx.rgrowEnd_eq (c := c) (r := r) ok
    rw [hend, ← foldl_pWrites]
    rfl
  rw [hland, Ctx.rp_foldl_wp _ _ _ (by omega) (BitVec.lt_of_getLsbD hl), if_pos (mem_lanesOf.mpr hl)]

theorem execRgrowDeny_stuck {cl k : Nat} (hcore : core = 8 * cl + k) (hk : k < 8) (hdue : s.rgrowDue cl k = false)
    (hleast : leastBy (fun g => 48 - g.2.gslot) ((s.groupsOn cl k).filter (fun g => s.inRgrow g.1 g.2)) = some (cid, c))
    (hr : c.rgrow = some r) (hgs : ∀ p ∈ s.groupsOn cl k, s.stuck p.1 p.2 = true)
    (hcox : ∀ p ∈ s.blocksOn cl k, p.2.onCore = true → ∀ d, s.ctxs.find? (coxKey p.1) = some d → s.stuck (coxKey p.1) d = true) :
    execRgrowDeny core s = .next (s.setCtx cid (c.rgrowEnd r false)) := by
  obtain rfl : core / 8 = cl := by omega
  obtain rfl : core % 8 = k := by omega
  have hsome : (s.groupsOn (core / 8) (core % 8)).filter (fun g => s.inRgrow g.1 g.2) ≠ [] := fun h => by rw [h] at hleast; cases hleast
  have hall : ((s.groupsOn (core / 8) (core % 8)) ++ ((s.blocksOn (core / 8) (core % 8)).filter (·.2.onCore)).filterMap
      (fun p => (s.ctxs.find? (coxKey p.1)).map (fun c => (coxKey p.1, c)))).all (fun g => s.stuck g.1 g.2) = true := by
    refine List.all_eq_true.mpr fun g hg => (List.mem_append.mp hg).elim (hgs g) fun hg => ?_
    obtain ⟨p, hp, hg⟩ := List.mem_filterMap.mp hg
    obtain ⟨hp, hon⟩ := List.mem_filter.mp hp
    obtain ⟨d, hd, rfl⟩ := Option.map_eq_some_iff.mp hg
    exact hcox p hp hon d hd
  rw [execRgrowDeny]
  refine (if_neg ?_).trans ?_
  · rw [hdue, hall]
    exact fun h => h.elim hsome fun h => h.elim Bool.false_ne_true Bool.false_ne_true
  · rw [hleast]
    dsimp only
    rw [hr]

end

/-! ### Operating points and queue registers (R181, R353) -/

section
variable {s : State} {die : Nat} {w : RegW}

theorem execOppStable_changing (hd : die < 2) (hch : s.fld (oppReg die) 6 1 ≠ 0) : execOppStable die s = .next
    ((s.setFld (oppReg die) 0 3 (s.fld (oppReg die) 3 3)).setFld (oppReg die) 6 1 0) := by
  rw [execOppStable, if_neg (by omega)]

theorem execQcfgWrite_disable (hen : s.fld (qreg ((w.off - schB) / 0x40) 0) 0 1 = 1) (hreg : (w.off - schB) % 0x40 = 0)
    (hbit : w.val.toNat.testBit 0 = false) : execQcfgWrite w s = .next
      ((s.setFld (qreg ((w.off - schB) / 0x40) 0) 0 1 0).setFld (qreg ((w.off - schB) / 0x40) 0x20) 0 2 0) := by
  rw [execQcfgWrite]
  refine (if_pos hen).trans (congrArg Host.Outcome.next (if_pos ⟨hreg, ?_⟩))
  rw [bitOf_eq_testBit, hbit]
  rfl

theorem execQcfgWrite_base (hen : s.fld (qreg ((w.off - schB) / 0x40) 0) 0 1 ≠ 1) (hreg : (w.off - schB) % 0x40 = 8) :
    execQcfgWrite w s = .next (s.setReg w.off (BitVec.ofNat 64 (bits w.val.toNat 8 48 * 2 ^ 8))) := by
  rw [execQcfgWrite]
  exact (if_neg hen).trans ((if_neg (by omega)).trans (if_pos hreg))

end

/-! ### Launches of several packages (R357 to R366) -/

section
variable {s : State} {rq : RectReq} {l member : Nat} {x : Launch} {gr : Rect} {good : Bool}

section
variable (hroom : s.sch.claims.length < 4) (hnew : ∀ z ∈ s.sch.claims, ¬(z.row = rq.row ∧ z.col = rq.col ∧ z.id = rq.id))
include hroom hnew

theorem execRectClaim_new (hself : (rq.row, rq.col) = s.meshPos → s.claimsSelf rq.id = true) : execRectClaim rq s =
    if (rq.row, rq.col) = s.meshPos then
      .next ((if (s.rectCode rq).isNone = true then { s with sch := { s.sch with claims := s.sch.claims ++ [rq] } } else s).rectAnswer
        rq.id (s.rectCode rq))
    else .next (if (s.rectCode rq).isNone = true then
      ((if (s.rectCode rq).isNone = true then { s with sch := { s.sch with claims := s.sch.claims ++ [rq] } } else s).tell (rq.row, rq.col)
        (.rectAnswer rq.id (s.rectCode rq))).takeRect rq
      else (if (s.rectCode rq).isNone = true then { s with sch := { s.sch with claims := s.sch.claims ++ [rq] } } else s).tell (rq.row, rq.col)
        (.rectAnswer rq.id (s.rectCode rq))) := by
  have hfresh : ¬(s.sch.claims.any fun c => c.row = rq.row && c.col = rq.col && c.id = rq.id) = true := by
    rw [List.any_eq_true]
    rintro ⟨z, hz, hsame⟩
    simp only [Bool.and_eq_true, decide_eq_true_iff, and_assoc] at hsame
    exact hnew z hz hsame
  rw [execRectClaim]
  refine (if_neg ?_).trans ((if_neg hfresh).trans ?_)
  · rintro (h | ⟨hown, hno⟩)
    · omega
    · rw [hself (of_decide_eq_true hown)] at hno
      cases hno
  · by_cases hown : (rq.row, rq.col) = s.meshPos
    · rw [if_pos hown]
      exact if_pos (decide_eq_true hown)
    · rw [if_neg hown]
      exact if_neg (fun h => hown (of_decide_eq_true h))

theorem execRectClaim_other (hother : (rq.row, rq.col) ≠ s.meshPos) : execRectClaim rq s = .next (match s.rectCode rq with
    | none => (({ s with sch := { s.sch with claims := s.sch.claims ++ [rq] } } : State).tell (rq.row, rq.col)
        (.rectAnswer rq.id none)).takeRect rq
    | some n => s.tell (rq.row, rq.col) (.rectAnswer rq.id (some n))) := by
  rw [execRectClaim_new hroom hnew (fun h => absurd h hother), if_neg hother]
  cases s.rectCode rq with
  | none => rfl
  | some n => rfl

theorem execRectClaim_own (hown : (rq.row, rq.col) = s.meshPos) (hself : s.claimsSelf rq.id = true) :
    execRectClaim rq s = .next (match s.rectCode rq with
      | none => ({ s with sch := { s.sch with claims := s.sch.claims ++ [rq] } } : State).rectAnswer rq.id none
      | some n => s.rectAnswer rq.id (some n)) := by
  rw [execRectClaim_new hroom hnew (fun _ => hself), if_pos hown]
  cases s.rectCode rq with
  | none => rfl
  | some n => rfl

end

theorem execRectClaim_full (h : 4 ≤ s.sch.claims.length) : execRectClaim rq s = .refused (.notEnabled "RECT_CLAIM") := by
  rw [execRectClaim]
  exact if_pos (.inl h)

theorem State.takeRect_launch : ∃ z, (s.takeRect rq).sch.launches.find? s.sch.nextLaunch = some z ∧
    z.home = some (rq.row * 32 + rq.col, rq.id) ∧ z.dev = rq.vdev ∧ z.record = lrecOf (leNat rq.record) ∧ z.prio = rq.prio :=
  ⟨_, SMap.find?_put_same .., rfl, rfl, rfl, rfl⟩

section
variable (hx : s.sch.launches.find? l = some x) (hg : x.rect = some gr) (hend : x.ended = false) (hhome : x.home = none)
include hx hg hend hhome

theorem execRectClaimTimeout_late (hm : member = gr.granted) (hlen : member < gr.members.length) (hlate : gr.since + 3000000 ≤ s.pt) :
    execRectClaimTimeout l member s = .next (s.refuse l 14) := by
  rw [execRectClaimTimeout, hx]
  dsimp only
  rw [hg]
  refine if_neg ?_
  rw [hend, hhome, decide_eq_false (not_not.mpr hm), decide_eq_false (Nat.not_le.mpr hlen), decide_eq_false (Nat.not_lt.mpr hlate)]
  exact Bool.false_ne_true

theorem execRectRouteReport_of_other (hload : gr.loaded = true) (hlen : member < gr.members.length) (hnew : member ∉ gr.routed)
    (hst : gr.started = false) (hother : gr.members[member]? ≠ some s.meshPos) : execRectRouteReport l member good s = .next
      (if good = true then s.setLaunch l { x with rect := some { gr with routed := gr.routed ++ [member] } } else s.refuse l 15) := by
  have hmine : decide (gr.members[member]? = some s.meshPos) = false := decide_eq_false hother
  rw [execRectRouteReport, hx]
  dsimp only
  rw [hg]
  refine (if_neg ?_).trans ?_
  · rw [hmine, hend, hhome, hload, hst, List.contains_eq_mem, decide_eq_false hnew, decide_eq_false (Nat.not_le.mpr hlen)]
    exact Bool.false_ne_true
  · rw [hhome] <;> rfl

theorem execRectStart_home (hst : gr.started = false) (hload : gr.loaded = true) (hheld : s.heldLaunch l x = false)
    (hall : gr.routed.length = gr.members.length) {u told : State}
    (hu : s.setLaunch l { x with rect := some { gr with started := true } } = u)
    (htold : (gr.members.filter (· ≠ u.meshPos)).foldl (fun s m => s.tell m (.rectStart l)) u = told) :
    execRectStart l s = .next (if x.total = 0 then told.launchDone l else told) := by
  have hno : ¬(x.ended || gr.started || !gr.loaded || s.heldLaunch l x
      || (if x.home.isNone = true then decide (gr.routed.length ≠ gr.members.length) else decide (gr.routed = []))) = true := by
    rw [hend, hst, hload, hheld, hhome]
    simp [hall]
  rw [execRectStart, hx, ← htold, ← hu]
  dsimp only
  rw [hg]
  refine (if_neg fun h => hno ?_).trans ?_
  · simpa using h
  · rw [hhome] <;> rfl

theorem execRectStart_held (hheld : s.heldLaunch l x = true) : execRectStart l s = .refused (.notEnabled "RECT_START") := by
  rw [execRectStart, hx]
  dsimp only
  rw [hg]
  exact if_pos (by simp [hheld])

theorem execRectMemberRetire_other (hst : gr.started = true) (hnew : member ∉ gr.done) (hlen : member < gr.members.length)
    (hother : gr.members[member]? ≠ some s.meshPos) {u : State}
    (hu : s.setLaunch l { x with rect := some { gr with done := gr.done ++ [member] } } = u) : execRectMemberRetire l member s = .next
      (if (List.range gr.members.length).all (fun i => (gr.done ++ [member]).contains i) = true then u.signal l x.record.compval.toNat
       else u) := by
  rw [execRectMemberRetire, hx, ← hu]
  dsimp only
  rw [hg]
  refine (if_neg ?_).trans rfl
  rw [hend, hhome, hst, List.contains_eq_mem, decide_eq_false hnew, decide_eq_false (Nat.not_le.mpr hlen), decide_eq_false hother]
  exact Bool.false_ne_true

end

theorem all_done_iff (n : Nat) (ds : List Nat) (m : Nat) : (List.range n).all (fun i => (ds ++ [m]).contains i) = true ↔
    ∀ i < n, i ∈ ds ∨ i = m := by
  simp [List.all_eq_true]

end

/-! ### Joins given up and lines fetched (R153, R186) -/

section
variable {s t u : State} {wh : Who} {c : Ctx} {sp : Split} {e : SEnt}

theorem execJoinTimeout_late {since gv pd : Nat} {pt : Mask} (hc : s.ctxs.find? wh.cid = some c) (hsp : c.splits.find? wh.k = some sp)
    (hw : sp.wait = .join since (some (gv, pd, pt))) (he : c.setOf sp.pc sp.mask = some e) (hlate : gv ≤ s.pt) (hon : s.onCore c = true)
    (hopen : ¬(c.complete e = true ∧ c.lastIn e ≤ gv)) :
    execJoinTimeout wh s = .next (s.setCtx wh.cid (Ctx.settle s.pt 64 (c.giveUp wh.k sp e pd pt))) := by
  have hgo : s.joinTimeout wh.cid wh.k = some (s.setCtx wh.cid (Ctx.settle s.pt 64 (c.giveUp wh.k sp e pd pt))) := by
    rw [State.joinTimeout, hc]
    dsimp only
    rw [hsp]
    dsimp only
    rw [hw, he]
    refine if_neg ?_
    simp only [hon, Bool.or_eq_true, Bool.and_eq_true, decide_eq_true_iff, Bool.not_true, Bool.false_eq_true, or_false, not_or]
    exact ⟨Nat.not_lt.mpr hlate, hopen⟩
  rw [execJoinTimeout, hgo]

theorem Ctx.giveUp_rp {k pd : Nat} {pt : Mask} {l : Nat} (hl : pt.getLsbD l = true) (hp : pd < 7) : (c.giveUp k sp e pd pt).rp l pd = false := by
  rw [Ctx.giveUp]
  exact (Ctx.rp_foldl_wp c _ _ (by omega) (BitVec.lt_of_getLsbD hl)).trans (if_pos (mem_lanesOf.mpr hl))

theorem Ctx.giveUp_split {k pd : Nat} {pt : Mask} :
    (c.giveUp k sp e pd pt).splits.find? k = some { (sp.moved (nextPc sp.pc) true) with j := e.join } := SMap.find?_put_same ..

section
variable (hc : s.ctxs.find? wh.cid = some c) (hon : s.onCore c = true) (hsp : c.splits.find? wh.k = some sp)
  (hpark : sp.parked = none) (hline : sp.line = none)
include hc hon hsp hpark hline

theorem execLineFetch_of {z : State} (h : s.lineFetch wh.cid wh.k = some z) : execLineFetch wh s = .next z := by
  rw [execLineFetch, hc, h, Option.filter_some, if_pos hon]

theorem execLineFetch_good {v n : Nat} (hf : s.fetchLine wh.cid c sp.pc false = (t, .ok v n)) (hgood : badQuarters (leBytes 64 v) = 0) :
    execLineFetch wh s = .next (t.loadLine wh.cid wh.k (leBytes 64 v)) := by
  refine execLineFetch_of hc hon hsp hpark hline ?_
  rw [State.lineFetch, hc]
  dsimp only
  rw [hsp]
  dsimp only
  rw [if_neg (by simp [hpark, hline]), hf]
  exact congrArg some (if_pos hgood)

theorem execLineFetch_fault {cs : Cause} {ql lv : Nat} {aux : BitVec 64} (hf : s.fetchLine wh.cid c sp.pc false = (t, .fault cs ql lv aux)) :
    execLineFetch wh s = .next (t.fetchTrap wh.cid wh.k sp { cause := cs, qual := ql, level := lv, aux := aux }) := by
  refine execLineFetch_of hc hon hsp hpark hline ?_
  rw [State.lineFetch, hc]
  dsimp only
  rw [hsp]
  dsimp only
  rw [if_neg (by simp [hpark, hline]), hf]

theorem execLineFetch_again {v n v' m : Nat} (hf : s.fetchLine wh.cid c sp.pc false = (t, .ok v n)) (hbad : badQuarters (leBytes 64 v) ≠ 0)
    (hf' : (t.dropLine wh.cid c sp.pc).fetchLine wh.cid c sp.pc true = (u, .ok v' m)) : execLineFetch wh s = .next
      (if badQuarters (leBytes 64 v') = 0 then u.loadLine wh.cid wh.k (leBytes 64 v')
       else u.fetchTrap wh.cid wh.k sp { cause := .line, qual := badQuarters (leBytes 64 v') }) := by
  refine execLineFetch_of hc hon hsp hpark hline ?_
  rw [State.lineFetch, hc]
  dsimp only
  rw [hsp]
  dsimp only
  rw [if_neg (by simp [hpark, hline]), hf]
  refine congrArg some ((if_neg hbad).trans ?_)
  rw [hf']

end
end

/-- Settles O32: the hub's events one by one, each from the equation of its step function under the conditions that the statement
names. Packing rests on the segments' keys being distinct, so that each is moved once. -/
theorem launchEvents : Obligations.LaunchEvents := by
  unfold Obligations.LaunchEvents
  intro s t u q l b cid core die member lo hi g x y c r gr w wh rq good
  dsimp only
  refine ⟨fun hq hruns htail hmore hroom => ⟨fun n z v m hlo hhi hwr => ?_, fun cs ql lv aux hlo => ?_⟩, fun hq hruns hdue hrd => ?_,
    fun o n sz => ⟨tailBad_some .., tailBad_none ..⟩, fun hx hready hwait hsaved hplace => ⟨?_, ?_⟩,
    fun b n cl ks hx hready hwait hsaved hplace hrank hlate hgrow => ⟨fun h => ?_, fun h _ => ?_⟩, ?_, fun k => s.freeBlock_thread y,
    fun z hz => ?_, fun hy hcan => ?_, ?_, ?_, fun cl k grown p hp hnd hc => ?_, fun cl k grown j => State.pack_other,
    fun hc hr hy hst hroom hold => ⟨fun h => ?_, fun h d hd => ?_⟩, fun ok => ⟨Ctx.rgrowEnd_rgrow ok, fun l hl hp => Ctx.rgrowEnd_rp ok hl hp⟩,
    fun cl k hcore hk hdue hleast hr hgs hcox => ?_, fun hd hch => ?_, fun hen hreg hbit => ?_, fun hen hreg => ?_,
    fun hroom hother hnew => ?_, fun hroom hown hself hnew => ?_, fun h => ?_, State.takeRect_launch, ?_, ?_, ?_, ?_, ?_, ?_,
    fun k sp e pd pt => ⟨fun l hl hp => Ctx.giveUp_rp hl hp, Ctx.giveUp_split⟩, fun sp v n hc hon hsp hpark hline => ⟨?_, ?_, ?_⟩⟩
  · rw [exec_launchTake]
    exact execLaunchTake_taken hq hruns htail hmore hroom hlo hhi rfl hwr
  · rw [exec_launchTake]
    exact execLaunchTake_fault hq hruns htail hmore hroom hlo
  · rw [exec_tailWatch]
    exact execTailWatch_read hq hruns hdue hrd rfl
  · rw [exec_blockStart]
    exact execBlockStart_splits hx hready hwait hsaved hplace
  · rw [exec_blockStart]
    exact execBlockStart_searches hx hready hwait hsaved hplace
  · rw [exec_blockStart, execBlockStart_placed hx hready hwait hsaved hplace hrank hlate hgrow, if_neg (Nat.not_lt.mpr h)]
  · rw [exec_blockStart, execBlockStart_placed hx hready hwait hsaved hplace hrank hlate hgrow, if_pos h]
  · rw [exec_blockRetire]
    exact execBlockRetire_ends
  · exact State.countRetired_launch hz rfl
  · rw [exec_blockRetire, execBlockRetire, hy]
    exact if_pos (.inr (by rw [hcan]; rfl))
  · rw [exec_segmentRelocation]
    exact execSegmentRelocation_due
  · rw [exec_segmentRelocation]
    exact fun h => by rw [execSegmentRelocation_eq, State.fragFound_early h]
  · exact State.pack_mem hp hnd hc
  · rw [exec_rgrowGrant]
    exact execRgrowGrant_inPlace hc hr hy hst hroom hold (State.adjoins_iff.mpr h)
  · rw [exec_rgrowGrant]
    exact execRgrowGrant_moved hc hr hy hst hroom hold (fun ha => h (State.adjoins_iff.mp ha)) hd
  · rw [exec_rgrowDeny]
    exact execRgrowDeny_stuck hcore hk hdue hleast hr hgs hcox
  · rw [exec_oppStable]
    exact execOppStable_changing hd hch
  · rw [exec_qcfgWrite]
    exact execQcfgWrite_disable hen hreg hbit
  · rw [exec_qcfgWrite]
    exact execQcfgWrite_base hen hreg
  · rw [exec_rectClaim]
    exact execRectClaim_other hroom hnew hother
  · rw [exec_rectClaim]
    exact execRectClaim_own hroom hnew hown hself
  · rw [exec_rectClaim]
    exact execRectClaim_full h
  · rintro ⟨hx, hg, hend, hhome⟩ hm hlen hlate
    rw [exec_rectClaimTimeout]
    exact execRectClaimTimeout_late hx hg hend hhome hm hlen hlate
  · rintro ⟨hx, hg, hend, hhome⟩ hload hlen hnew hst hother
    rw [exec_rectRouteReport]
    exact execRectRouteReport_of_other hx hg hend hhome hload hlen hnew hst hother
  · rintro ⟨hx, hg, hend, hhome⟩ hst hload hheld hall
    rw [exec_rectStart]
    exact execRectStart_home hx hg hend hhome hst hload hheld hall rfl rfl
  · rintro ⟨hx, hg, hend, hhome⟩ hheld
    rw [exec_rectStart]
    exact execRectStart_held hx hg hend hhome hheld
  · rintro ⟨hx, hg, hend, hhome⟩ hst hnew hlen hother
    rw [exec_rectMemberRetire, execRectMemberRetire_other hx hg hend hhome hst hnew hlen hother rfl]
    refine ⟨fun hall => ?_, fun ⟨i, hi, hno, hne⟩ => ?_⟩
    · rw [if_pos ((all_done_iff ..).mpr hall)]
    · rw [if_neg fun hall => ((all_done_iff ..).mp hall i hi).elim hno hne]
  · intro sp since gv pd pt e hc hsp hw he hlate hon hopen
    rw [exec_joinTimeout]
    exact execJoinTimeout_late hc hsp hw he hlate hon hopen
  · rw [exec_lineFetch]
    exact execLineFetch_good hc hon hsp hpark hline
  · rw [exec_lineFetch]
    exact fun cs ql lv aux => execLineFetch_fault hc hon hsp hpark hline
  · rw [exec_lineFetch]
    exact fun v' m hf hbad hf' => execLineFetch_again hc hon hsp hpark hline hf hbad hf'

end Sys2Proof.Machine

/-! SUPPORT. Time sharing: slices, saved blocks, late preemptions, thermal steps and alarms (R342, R378 to R398, R404, R429). -/

namespace Sys2Proof.Machine

theorem exec_sliceEnd (s : State) (cl : Nat) : exec (.sliceEnd cl) s = execSliceEnd cl s := rfl
theorem exec_saveComplete (s : State) (b : Nat) : exec (.saveComplete b) s = execSaveComplete b s := rfl
theorem exec_blockResume (s : State) (b : Nat) : exec (.blockResume b) s = execBlockResume b s := rfl
theorem exec_preemptDeadline (s : State) (cl : Nat) : exec (.preemptDeadline cl) s = execPreemptDeadline cl s := rfl
theorem exec_thermalStep (s : State) (die : Nat) : exec (.thermalStep die) s = execThermalStep die s := rfl
theorem exec_halarmExpiry (s : State) (n : Nat) : exec (.halarmExpiry n) s = execHalarmExpiry n s := rfl

section
variable {s : State} {cl b i die n : Nat} {x : Block} {p : Preempt} {c : Ctx}

/-- The device whose window a cluster is in, or 64. -/
def State.windowDev (s : State) (cl : Nat) : Nat := match s.windowOwner cl with | some (d, _) => d | none => 64

theorem execSliceEnd_eq : execSliceEnd cl s =
    if 40 ≤ cl ∨ s.windowDev cl = s.holderOf cl ∨ (s.sch.pre.find? cl).isSome then .refused (.notEnabled "SLICE_END")
    else .next ((State.applyMode { s with
      sch := { s.sch with
        given := s.givenOn cl
        pre := s.sch.pre.put cl
          { dev := s.holderOf cl, mode := s.choose (s.holderOf cl) cl (s.windowDev cl), since := s.sliceOver cl (s.holderOf cl) } } }
        (s.holderOf cl) cl (s.choose (s.holderOf cl) cl (s.windowDev cl))).trySwitch cl).retune := rfl

theorem execSliceEnd_other (hcl : cl < 40) (howner : s.windowDev cl ≠ s.holderOf cl) (hpre : s.sch.pre.find? cl = none) :
    execSliceEnd cl s = .next ((State.applyMode { s with
      sch := { s.sch with
        given := s.givenOn cl
        pre := s.sch.pre.put cl
          { dev := s.holderOf cl, mode := s.choose (s.holderOf cl) cl (s.windowDev cl), since := s.sliceOver cl (s.holderOf cl) } } }
        (s.holderOf cl) cl (s.choose (s.holderOf cl) cl (s.windowDev cl))).trySwitch cl).retune := by
  rw [execSliceEnd_eq, if_neg (by simp [howner, hpre, hcl])]

theorem execSaveComplete_quiet (hx : s.blk? b = some x) (hst : x.st = .saving i) (hq : s.quiet b = true) :
    execSaveComplete b s = .next (((s.saveBlock b i x).trySwitch x.cluster).retune) := by
  rw [execSaveComplete, hx]
  dsimp only
  rw [hst]
  exact if_neg (by simp [hq])

theorem execSaveComplete_busy (hx : s.blk? b = some x) (hst : x.st = .saving i) (hq : s.quiet b = false) :
    execSaveComplete b s = .refused (.notEnabled "SAVE_COMPLETE") := by
  rw [execSaveComplete, hx]
  dsimp only
  rw [hst]
  exact if_pos (by simp [hq])

/-- A saved block's image is written from the block as it stands, with the time of saving in it. -/
theorem State.saveBlock_eq : ∃ (u : State) (y : Block), s.saveBlock b i x = (u.writeImage b).setBlk b { y with st := .saved i } ∧
    u.blk? b = some y ∧ y.savePt = u.pt :=
  ⟨_, _, rfl, SMap.find?_put_same .., rfl⟩

theorem execBlockResume_oldest {k : Nat} {y : Block} {ks : List (Nat × Nat)} (hx : s.blk? b = some x)
    (hwhole : ∀ p ∈ s.gangOf x, ∃ n, p.2.st = .saved n) (hold : s.oldestSaved x.dev = some (k, y)) (hl : y.launch = x.launch)
    (hlead : y.lead = x.lead) (hplace : s.resumePlace x = some (cl, ks)) :
    execBlockResume b s = .next ((ks.foldl (fun s p => s.resumeBlock p.1 cl p.2) s).saveMore).retune := by
  have hall : ((s.gangOf x).all fun p => match p.2.st with | .saved _ => true | _ => false) = true :=
    List.all_eq_true.mpr fun p hp => by
      obtain ⟨m, hm⟩ := hwhole p hp
      rw [hm]
  have hfirst : (y.launch = x.launch && y.lead = x.lead) = true := by simp [hl, hlead]
  rw [execBlockResume, hx]
  dsimp only
  rw [hold]
  refine (if_neg fun h => ?_).trans ?_
  · have hgo : (!((s.gangOf x).all fun p => match p.2.st with | .saved _ => true | _ => false)
        || !(y.launch = x.launch && y.lead = x.lead)) = false := by
      rw [hall, hfirst]
      rfl
    exact Bool.false_ne_true (hgo.symm.trans h)
  · rw [hplace]

theorem execPreemptDeadline_late (hp : s.sch.pre.find? cl = some p)
    (hsome : ∃ y ∈ s.blocks, y.2.dev = p.dev ∧ y.2.cluster = cl ∧ y.2.standing = true) (hlate : p.since + s.preDeadline p.dev ≤ s.pt) :
    execPreemptDeadline cl s = .next (s.killLaunches
      ((s.blocks.filter (fun b => b.2.dev = p.dev && b.2.cluster = cl && b.2.standing)).map (·.2.launch)).dedup).blocksGone := by
  obtain ⟨y, hy, hdev, hcl, hst⟩ := hsome
  have hmem : y ∈ s.blocks.filter (fun b => b.2.dev = p.dev && b.2.cluster = cl && b.2.standing) :=
    List.mem_filter.mpr ⟨hy, by simp [hdev, hcl, hst]⟩
  rw [execPreemptDeadline, hp]
  exact if_neg fun h => h.elim (List.ne_nil_of_mem hmem) (Nat.not_lt.mpr hlate)

theorem execPreemptDeadline_early (hp : s.sch.pre.find? cl = some p) (h : s.pt < p.since + s.preDeadline p.dev) :
    execPreemptDeadline cl s = .refused (.notEnabled "PREEMPT_DEADLINE") := by
  rw [execPreemptDeadline, hp]
  exact if_pos (.inr h)

theorem State.killLaunches_one {l : Nat} {z : Launch} (hz : s.sch.launches.find? l = some z) :
    s.killLaunches [l] = if z.home = none then s.killQueue z.queue else s.killLaunch l := by
  cases hh : z.home with
  | none => simp [State.killLaunches, hz, hh]
  | some h => simp [State.killLaunches, hz, hh]

theorem execThermalStep_due (hd : die < 2) (hrun : s.pwr = .run) (hdue : ∀ u, s.sch.heat.find? die = some u → u + 45000 ≤ s.pt) :
    execThermalStep die s = .next (State.retune
      { s with sch := { s.sch with ceil := s.sch.ceil.put die (SMap.get 7 s.sch.ceil die - 1), heat := s.sch.heat.put die s.pt } }) := by
  rw [execThermalStep]
  refine if_neg ?_
  cases hu : s.sch.heat.find? die with
  | none => simp [hrun, hd]
  | some u => simp [hrun, hd, hdue u hu]

theorem execThermalStep_soon {u : Nat} (hu : s.sch.heat.find? die = some u) (h : s.pt < u + 45000) :
    execThermalStep die s = .refused (.notEnabled "THERMAL_STEP") := by
  rw [execThermalStep, hu]
  exact if_pos (.inr (.inr (decide_eq_true h)))

theorem execHalarmExpiry_due (hn : n < 96) (hc : s.ctxs.find? n = some c) (hst : c.stream = .host) (hset : c.halarm ≠ 0)
    (hdue : c.halarm ≤ s.pt) (hen : c.hien = true) (hnew : c.alarmed = false) :
    execHalarmExpiry n s = .next ((s.setCtx n { c with alarmed := true }).interrupt c.dev 4 n 0 0) := by
  rw [execHalarmExpiry, hc]
  refine if_neg ?_
  simp [hst, hset, hen, hnew, hn, hdue]

theorem execHalarmExpiry_early (hc : s.ctxs.find? n = some c) (h : s.pt < c.halarm) :
    execHalarmExpiry n s = .refused (.notEnabled "HALARM_EXPIRY") := by
  rw [execHalarmExpiry, hc]
  exact if_pos (.inr (.inr (.inr (.inl h))))

end

/-- Settles O33: the events of time sharing one by one, each under the condition that its step function tests. -/
theorem preemptionEvents : Obligations.PreemptionEvents := by
  unfold Obligations.PreemptionEvents
  intro s cl b i die n x ks p c
  refine ⟨fun hcl howner hpre => ?_, fun hx hst hq => ?_, State.saveBlock_eq, fun hx hst hq => ?_,
    fun k y hx hwhole hold hl hlead hplace => ?_, fun hp hsome hlate => ?_, fun l z => State.killLaunches_one, fun hp h => ?_,
    fun hd hrun hdue => ?_, fun u hu h => ?_, fun hn hc hst hset hdue hen hnew => ?_, fun _ hc h => ?_⟩
  · rw [exec_sliceEnd]
    exact execSliceEnd_other hcl howner hpre
  · rw [exec_saveComplete]
    exact execSaveComplete_quiet hx hst hq
  · rw [exec_saveComplete]
    exact execSaveComplete_busy hx hst hq
  · rw [exec_blockResume]
    exact execBlockResume_oldest hx hwhole hold hl hlead hplace
  · rw [exec_preemptDeadline]
    exact execPreemptDeadline_late hp hsome hlate
  · rw [exec_preemptDeadline]
    exact execPreemptDeadline_early hp h
  · rw [exec_thermalStep]
    exact execThermalStep_due hd hrun hdue
  · rw [exec_thermalStep]
    exact execThermalStep_soon hu h
  · rw [exec_halarmExpiry]
    exact execHalarmExpiry_due hn hc hst hset hdue hen hnew
  · rw [exec_halarmExpiry]
    exact execHalarmExpiry_early hc h

end Sys2Proof.Machine

/-! SUPPORT. Commands: devices, keys, host threads, trap windows and register writes (R6, R343, R344, R371 to R377, R396 to R408). -/

namespace Sys2Proof.Machine

theorem exec_reconfigCommand (s : State) (w : RegW) : exec (.reconfigCommand w) s = execReconfigCommand w s := rfl
theorem exec_reconfigDone (s : State) (v : Nat) : exec (.reconfigDone v) s = execReconfigDone v s := rfl
theorem exec_qkill (s : State) (w : RegW) : exec (.qkill w) s = execQkill w s := rfl
theorem exec_rreset (s : State) (w : RegW) : exec (.rreset w) s = execRreset w s := rfl
theorem exec_ipendWrite (s : State) (w : RegW) : exec (.ipendWrite w) s = execIpendWrite w s := rfl
theorem exec_keyOff (s : State) (w : RegW) : exec (.keyOff w) s = execKeyOff w s := rfl
theorem exec_keyXts (s : State) (w : RegW) : exec (.keyXts w) s = execKeyXts w s := rfl
theorem exec_keyPlain (s : State) (w : RegW) : exec (.keyPlain w) s = execKeyPlain w s := rfl
theorem exec_keyBadcmd (s : State) (w : RegW) : exec (.keyBadcmd w) s = execKeyBadcmd w s := rfl
theorem exec_htcmdStart (s : State) (w : RegW) : exec (.htcmdStart w) s = execHtcmdStart w s := rfl
theorem exec_htcmdStop (s : State) (w : RegW) : exec (.htcmdStop w) s = execHtcmdStop w s := rfl
theorem exec_htcmdSwap (s : State) (w : RegW) : exec (.htcmdSwap w) s = execHtcmdSwap w s := rfl
theorem exec_htcmdBadcmd (s : State) (w : RegW) : exec (.htcmdBadcmd w) s = execHtcmdBadcmd w s := rfl
theorem exec_htcmdStopDone (s : State) (n : Nat) : exec (.htcmdStopDone n) s = execHtcmdStopDone n s := rfl
theorem exec_heldRecordEnter (s : State) (n : Nat) : exec (.heldRecordEnter n) s = execHeldRecordEnter n s := rfl
theorem exec_twselWrite (s : State) (w : RegW) : exec (.twselWrite w) s = execTwselWrite w s := rfl
theorem exec_twBindComplete (s : State) (n : Nat) : exec (.twBindComplete n) s = execTwBindComplete n s := rfl
theorem exec_twWrite (s : State) (w : RegW) : exec (.twWrite w) s = execTwWrite w s := rfl
theorem exec_registerWrite (s : State) (w : RegW) : exec (.registerWrite w) s = execRegisterWrite w s := rfl

theorem State.blk?_setCtx (s : State) (cid : Nat) (c : Ctx) (b : Nat) : (s.setCtx cid c).blk? b = s.blk? b := rfl

theorem State.blk?_setBlk (s : State) (b : Nat) (x : Block) : (s.setBlk b x).blk? b = some x := SMap.find?_put_same ..

/-! ### Commands of a device (R396 to R404) -/

section
variable {s t : State} {w : RegW}

section
variable (hidle : s.rcBusyNow (partSlotOf w.off) = false)
include hidle

theorem execReconfigCommand_count (hn : bits w.val.toNat 0 7 = 0 ∨ 64 < bits w.val.toNat 0 7) :
    execReconfigCommand w s = .next (s.rcFail (partSlotOf w.off) 1 0) := by
  rw [execReconfigCommand]
  exact (if_neg (by simp [hidle])).trans (if_pos hn)

theorem execReconfigCommand_bad {i reason : Nat} (h0 : 0 < bits w.val.toNat 0 7) (hmax : bits w.val.toNat 0 7 ≤ 64)
    (hrun : s.rcRun (partSlotOf w.off) (s.fld (pslot (partSlotOf w.off) + 0x3C0) 5 47 * 32) (bits w.val.toNat 0 7) 0 = .error (i, reason)) :
    execReconfigCommand w s = .next (s.rcFail (partSlotOf w.off) reason i) := by
  rw [execReconfigCommand]
  refine (if_neg (by simp [hidle])).trans ((if_neg (by omega)).trans ?_)
  rw [hrun]

theorem execReconfigCommand_good (h0 : 0 < bits w.val.toNat 0 7) (hmax : bits w.val.toNat 0 7 ≤ 64)
    (hrun : s.rcRun (partSlotOf w.off) (s.fld (pslot (partSlotOf w.off) + 0x3C0) 5 47 * 32) (bits w.val.toNat 0 7) 0 = .ok t) :
    execReconfigCommand w s = .next ((((((t.keepWindows s).moveRsds s).switchAll).setReg (pslot (partSlotOf w.off) + 0x3E0)
      (BitVec.ofNat 64 s.pt)).rcStart (partSlotOf w.off) { at_ := s.pt + 65536 }).retune) := by
  rw [execReconfigCommand]
  refine (if_neg (by simp [hidle])).trans ((if_neg (by omega)).trans ?_)
  rw [hrun]

theorem execQkill_foreign (hd : s.qdev (bits w.val.toNat 0 8) ≠ partSlotOf w.off)
    (hdesc : s.descends (s.qdev (bits w.val.toNat 0 8)) (partSlotOf w.off) = false) :
    execQkill w s = .next (s.rcFail (partSlotOf w.off) 2 0) := by
  rw [execQkill]
  exact (if_neg (by simp [hidle])).trans (if_pos ⟨hd, by simp [hdesc]⟩)

theorem execQkill_own (hd : s.qdev (bits w.val.toNat 0 8) = partSlotOf w.off ∨
    s.descends (s.qdev (bits w.val.toNat 0 8)) (partSlotOf w.off) = true) : execQkill w s = .next
      ((s.killQueue (bits w.val.toNat 0 8)).rcStart (partSlotOf w.off)
        { at_ := s.pt, launches := s.launchesOf (bits w.val.toNat 0 8) }).blocksGone := by
  rw [execQkill]
  refine (if_neg (by simp [hidle])).trans (if_neg fun h => hd.elim h.1 fun hd => ?_)
  rw [hd] at h
  exact Bool.false_ne_true h.2

theorem execRreset_foreign (hdesc : s.descends (bits w.val.toNat 0 6) (partSlotOf w.off) = false) :
    execRreset w s = .next (s.rcFail (partSlotOf w.off) 2 0) := by
  rw [execRreset]
  exact (if_neg (by simp [hidle])).trans (if_pos (by simp [hdesc]))

theorem execRreset_own (hdesc : s.descends (bits w.val.toNat 0 6) (partSlotOf w.off) = true) {ds qs ts : List Nat} {u y : State}
    (hds : (List.range 64).filter (fun d => d = bits w.val.toNat 0 6 || s.descends d (bits w.val.toNat 0 6)) = ds)
    (hqs : (List.range 256).filter (fun q => ds.contains (s.qdev q)) = qs) (hu : qs.foldl State.killQueue s = u)
    (hts : (u.ctxs.filter (fun p => p.1 < 96 && ds.contains p.2.dev)).map (·.1) = ts) (hy : ts.foldl State.resetThread u = y) :
    execRreset w s = .next
      (y.rcStart (partSlotOf w.off) { at_ := y.pt, launches := qs.flatMap s.launchesOf, threads := ts, resets := ds }).blocksGone := by
  subst hds hqs hu hts hy
  rw [execRreset]
  exact (if_neg (by simp [hidle])).trans (if_neg (by simp [hdesc]))

end

theorem execReconfigDone_over {v : Nat} {j : RcJob} {u : State} (hj : s.part.rc.find? v = some j) (hover : s.jobOver j = true)
    (hu : { s with part := { s.part with rc := s.part.rc.erase v } } = u) : execReconfigDone v s = .next
      (((if j.resets = [] then u else u.resetRest j.resets).setRc v 2 0 0).interrupt v 6 0x7F 0 0) := by
  subst hu
  rw [execReconfigDone, hj]
  exact if_neg (by simp [hover])

theorem execReconfigDone_going {v : Nat} {j : RcJob} (hj : s.part.rc.find? v = some j) (hover : s.jobOver j = false) :
    execReconfigDone v s = .refused (.notEnabled "RECONFIG_DONE") := by
  rw [execReconfigDone, hj]
  exact if_pos (by simp [hover])

/-! ### Keys (R406, R407) -/

theorem State.kprog_denied (f : State → Nat → Nat → State)
    (h : (s.clearKdata (keySlotOf w.off)).keyOwned (keySlotOf w.off) (bits w.val.toNat 0 12) = false) :
    s.kprog w f = (s.clearKdata (keySlotOf w.off)).setKstat (keySlotOf w.off) 3 1 := by
  rw [State.kprog]
  exact if_pos (by simp [h])

section
variable (hown : (s.clearKdata (keySlotOf w.off)).keyOwned (keySlotOf w.off) (bits w.val.toNat 0 12) = true)
include hown

theorem State.kprog_malformed (f : State → Nat → Nat → State) (h : bits w.val.toNat 12 2 = 3 ∨ bits w.val.toNat 14 50 ≠ 0) :
    s.kprog w f = (s.clearKdata (keySlotOf w.off)).setKstat (keySlotOf w.off) 3 2 := by
  rw [State.kprog]
  exact (if_neg (by simp [hown])).trans (if_pos h)

theorem State.kprog_weak (f : State → Nat → Nat → State) (hres : bits w.val.toNat 14 50 = 0) (hm : bits w.val.toNat 12 2 = 1)
    (hsame : s.kdataOf (keySlotOf w.off) % 2 ^ 256 = s.kdataOf (keySlotOf w.off) / 2 ^ 256) :
    s.kprog w f = (s.clearKdata (keySlotOf w.off)).setKstat (keySlotOf w.off) 3 3 := by
  rw [State.kprog]
  exact (if_neg (by simp [hown])).trans ((if_neg (by omega)).trans (if_pos ⟨hm, hsame⟩))

theorem State.kprog_done (f : State → Nat → Nat → State) (hres : bits w.val.toNat 14 50 = 0) (hm : bits w.val.toNat 12 2 ≠ 3)
    (hdiff : bits w.val.toNat 12 2 = 1 → s.kdataOf (keySlotOf w.off) % 2 ^ 256 ≠ s.kdataOf (keySlotOf w.off) / 2 ^ 256) :
    s.kprog w f = (f (s.clearKdata (keySlotOf w.off)) (bits w.val.toNat 0 12) (s.kdataOf (keySlotOf w.off))).setKstat
      (keySlotOf w.off) 2 0 := by
  rw [State.kprog]
  exact (if_neg (by simp [hown])).trans ((if_neg (by omega)).trans (if_neg fun h => hdiff h.1 h.2))

end

/-! ### Host threads (R343, R344) -/

section
variable (hfree : s.htBusy (htOf w.off) = false)
include hfree

theorem execHtcmdStart_running (hrun : s.fld (htslot (htOf w.off) + 0x18) 0 1 = 1) : execHtcmdStart w s = .next (s.htStat (htOf w.off) 3 3) := by
  rw [execHtcmdStart]
  exact (if_neg (by simp [hfree])).trans (if_pos hrun)

theorem execHtcmdStart_loads (hrun : ¬s.fld (htslot (htOf w.off) + 0x18) 0 1 = 1)
    (hload : s.loadThread (htOf w.off) (s.fld (htslot (htOf w.off)) 12 40 * 4096) = .ok t) :
    execHtcmdStart w s = .next (t.htStat (htOf w.off) 2 0) := by
  rw [execHtcmdStart]
  refine (if_neg (by simp [hfree])).trans ((if_neg hrun).trans ?_)
  rw [hload]

theorem execHtcmdStop_free : execHtcmdStop w s =
    if s.fld (htslot (htOf w.off) + 0x18) 0 1 = 0 then .next (s.htStat (htOf w.off) 3 4) else .next (s.htHalt (htOf w.off) 2) := by
  rw [execHtcmdStop]
  exact if_neg (by simp [hfree])

theorem execHtcmdSwap_free : execHtcmdSwap w s =
    if s.fld (htslot (htOf w.off) + 0x18) 0 1 = 0 then .next (s.htStat (htOf w.off) 3 4) else .next (s.htHalt (htOf w.off) 3) := by
  rw [execHtcmdSwap]
  exact if_neg (by simp [hfree])

theorem execHtcmdBadcmd_free : execHtcmdBadcmd w s = .next (s.htStat (htOf w.off) 3 2) := by
  rw [execHtcmdBadcmd]
  exact if_neg (by simp [hfree])

end

/-- A command thread by thread that finds one in progress is turned away. -/
theorem htcmd_busy (h : s.htBusy (htOf w.off) = true) : execHtcmdStart w s = .next s ∧ execHtcmdStop w s = .next s ∧
    execHtcmdSwap w s = .next s ∧ execHtcmdBadcmd w s = .next s := by
  rw [execHtcmdStart, execHtcmdStop, execHtcmdSwap, execHtcmdBadcmd]
  exact ⟨if_pos h, if_pos h, if_pos h, if_pos h⟩

section
variable {n g : Nat} {c : Ctx}

/-- A stop that has been confirmed is no longer waited for. -/
def State.htDoneGone (s : State) (n : Nat) : State := { s with part := { s.part with htDone := s.part.htDone.erase n } }

theorem execHtcmdStopDone_stop (h : s.part.htDone.find? n = some (g, false)) (hg : g ≤ s.pt) :
    execHtcmdStopDone n s = .next ((s.htDoneGone n).htStat n 2 0) := by
  rw [execHtcmdStopDone, h]
  exact if_neg (Nat.not_lt.mpr hg)

theorem execHtcmdStopDone_swap (h : s.part.htDone.find? n = some (g, true)) (hg : g ≤ s.pt) : execHtcmdStopDone n s =
    match (s.htDoneGone n).loadThread n ((s.htDoneGone n).fld (htslot n + 0x10) 12 40 * 4096) with
    | .error r => .next ((s.htDoneGone n).htStat n 3 r)
    | .ok t => .next ((t.setFld (htslot n) 12 40 ((s.htDoneGone n).fld (htslot n + 0x10) 12 40)).htStat n 2 0) := by
  rw [execHtcmdStopDone, h]
  exact (if_neg (Nat.not_lt.mpr hg)).trans rfl

section
variable (hnone : s.part.htDone.find? n = none) (hn : n < 96) (hc : s.ctxs.find? n = some c) (hdrain : s.htDrained c = true)
include hnone hn hc hdrain

theorem execHtcmdStopDone_saves (h0 : c.halt ≠ 0) (h4 : c.halt ≠ 4) (halive : c.alive ≠ 0) {u : State × Nat}
    (hu : s.physWr (s.fld (htslot n) 12 40 * 4096) (s.recOfCtx c) = u) : execHtcmdStopDone n s = .next { u.1.htGone n with
      part := { (u.1.htGone n).part with htDone := (u.1.htGone n).part.htDone.put n (u.2, decide (c.halt = 3)) } } := by
  subst hu
  rw [execHtcmdStopDone, hnone]
  refine (if_neg (Nat.not_le.mpr hn)).trans ?_
  rw [hc]
  exact (if_neg (by simp [h0, hdrain])).trans (if_neg (fun h => h.elim h4 halive))

theorem execHtcmdStopDone_ended (h : c.halt = 4 ∨ c.alive = 0) : execHtcmdStopDone n s = .next
    (if (s.htGone n).htBusy n = true then (s.htGone n).htStat n 3 4 else s.htGone n) := by
  have hgo : ¬((c.halt = 0 ∧ c.alive ≠ 0) ∨ (!s.htDrained c) = true) := by
    rw [hdrain]
    rintro (⟨h0, hne⟩ | h')
    · exact h.elim (fun h => by omega) hne
    · exact Bool.false_ne_true h'
  rw [execHtcmdStopDone, hnone]
  refine (if_neg (Nat.not_le.mpr hn)).trans ?_
  rw [hc]
  exact (if_neg hgo).trans (if_pos h)

end

/-! ### Held records and trap windows (R371 to R375) -/

theorem execHeldRecordEnter_room {h : Held} (hf : s.trp.held.find? (fun h => h.slot = n && s.heldReady h) = some h)
    (hroom : s.ringFull (fslot n) (fslot n + 8) = false) {u : State × Nat}
    (hu : { s with trp := { s.trp with held := s.trp.held.erase h } }.ringPut (fslot n) (fslot n + 8) h.bytes = u) :
    execHeldRecordEnter n s = .next (u.1.tailLater (fslot n + 8) u.2) := by
  subst hu
  rw [execHeldRecordEnter, hf]
  exact if_neg (by simp [hroom])

theorem State.winLetGo_none {tok : BitVec 64} (h : s.tokAway (s.win n).token = none) : s.winLetGo n tok = s := by
  rw [State.winLetGo, h]

/-- Letting a window go sends at most a message. -/
theorem State.winLetGo_sys (tok : BitVec 64) : (s.winLetGo n tok).sys = s.sys := by
  rw [State.winLetGo]
  split
  · split
    · rfl
    · rfl
  · rfl

theorem State.winLetGo_tokAway (tok k : BitVec 64) : (s.winLetGo n tok).tokAway k = s.tokAway k := by
  have hfld : (s.winLetGo n tok).fld fabB 0 10 = s.fld fabB 0 10 := by
    rw [State.fld, State.fld, State.reg, State.reg, State.winLetGo_sys]
  rw [State.tokAway, State.tokAway, hfld]

theorem State.twsel_zero : s.twsel n 0 = (s.winLetGo n 0).setWin n {} := by
  rw [State.twsel]
  exact if_pos rfl

theorem State.twsel_here {tok : BitVec 64} (h0 : tok ≠ 0) (haway : s.tokAway tok = none) : s.twsel n tok =
    (s.winLetGo n tok).setWin n { token := tok, stat := if ((s.winLetGo n tok).liveTok tok).isSome = true then 1 else 3 } := by
  rw [State.twsel]
  refine (if_neg h0).trans ?_
  rw [State.winLetGo_tokAway, haway]

theorem State.twsel_away {tok : BitVec 64} {dst : Nat × Nat} (h0 : tok ≠ 0) (haway : s.tokAway tok = some dst) :
    s.twsel n tok = ((s.winLetGo n tok).setWin n { token := tok, stat := 1 }).tell dst (.twBind n tok) := by
  rw [State.twsel]
  refine (if_neg h0).trans ?_
  rw [State.winLetGo_tokAway, haway]

theorem execTwBindComplete_ready {i : Nat} {k : Tok} {sp : Split} (hst : (s.win n).stat = 1)
    (hlive : s.liveTok (s.win n).token = some (i, k, sp)) (hc : s.ctxs.find? k.cid = some c) (hres : c.res = []) (hacc : c.accs = [])
    (hgrow : c.rgrow = none) : execTwBindComplete n s = .next
      ({ s with trp := { s.trp with wins := s.trp.wins.put n { s.win n with stat := 2 } } }.tellWin n 2) := by
  rw [execTwBindComplete]
  dsimp only
  rw [hlive]
  dsimp only
  rw [hc]
  exact if_neg (by simp [hst, hres, hacc, hgrow])

theorem Block.twMrp_st (b : Block) (r v : Nat) : (b.twMrp r v).st = b.st := by
  rw [Block.twMrp]
  exact (apply_ite Block.st ..).trans (ite_self _)

/-- A saved block's image written again, any other block's not. -/
def State.imageIf (u : State) (b : Nat) (st : BState) : State :=
  match st with
  | .saved _ => u.writeImage b
  | _ => u

/-- What a window write does about the image of the thread's block. -/
theorem State.imageIf_of_blk? {u : State} {b : Nat} {y : Block} {z : BState} (hy : u.blk? b = some y) (hz : y.st = z) :
    (match u.blk? b with
      | some b' => (match b'.st with | .saved _ => u.writeImage b | _ => u)
      | none => u) = u.imageIf b z := by
  rw [hy, ← hz] <;> rfl

theorem State.twWrite_notReady {r : Nat} {v : BitVec 64} (h : (s.win n).stat ≠ 2) : s.twWrite n r v = s := if_pos h

section
variable {r : Nat} {v : BitVec 64} (hst : (s.win n).stat = 2)
include hst

theorem State.twWrite_away {dst : Nat × Nat} (haway : s.tokAway (s.win n).token = some dst) : s.twWrite n r v = s.tell dst (.twWrite n r v) := by
  rw [State.twWrite]
  refine (if_neg (not_not.mpr hst)).trans ?_
  rw [haway]

variable {i : Nat} {k : Tok} {sp : Split} (haway : s.tokAway (s.win n).token = none)
  (hlive : s.liveTok (s.win n).token = some (i, k, sp)) (hc : s.ctxs.find? k.cid = some c)
include haway hlive hc

theorem State.twWrite_host (hs : c.stream = .host) : s.twWrite n r v = s.setCtx k.cid (c.twPut sp r v.toNat) := by
  rw [State.twWrite]
  refine (if_neg (not_not.mpr hst)).trans ?_
  rw [haway, hlive]
  dsimp only
  rw [hc]
  refine (if_pos hs).trans (if_neg ?_)
  rw [hs]
  exact fun h => nomatch h.2

theorem State.twWrite_lane {b : Block} (hs : c.stream = .lane) (hb : s.blk? c.blk = some b) :
    s.twWrite n r v = (s.setCtx k.cid (c.twPut sp r v.toNat)).imageIf c.blk b.st := by
  have hno : ¬((r = 0x1900 ∨ r = 0x1908) ∧ c.stream = .cox) := by
    rw [hs]
    exact fun h => nomatch h.2
  rw [State.twWrite]
  refine (if_neg (not_not.mpr hst)).trans ?_
  rw [haway, hlive]
  dsimp only
  rw [hc]
  refine (if_neg (by rw [hs]; exact fun h => nomatch h)).trans ?_
  rw [if_neg hno]
  exact State.imageIf_of_blk? hb rfl

theorem State.twWrite_cox {b : Block} (hs : c.stream = .cox) (hb : s.blk? c.blk = some b) {u : State}
    (hu : (if r = 0x1900 ∨ r = 0x1908 then (s.setCtx k.cid (c.twPut sp r v.toNat)).setBlk c.blk (b.twMrp r v.toNat)
      else s.setCtx k.cid (c.twPut sp r v.toNat)) = u) : s.twWrite n r v = u.imageIf c.blk b.st := by
  subst hu
  rw [State.twWrite]
  refine (if_neg (not_not.mpr hst)).trans ?_
  rw [haway, hlive]
  dsimp only
  rw [hc]
  refine (if_neg (by rw [hs]; exact fun h => nomatch h)).trans ?_
  by_cases hm : r = 0x1900 ∨ r = 0x1908
  · rw [if_pos ⟨hm, hs⟩, if_pos hm, State.blk?_setCtx, hb]
    exact State.imageIf_of_blk? (State.blk?_setBlk ..) (b.twMrp_st r v.toNat)
  · rw [if_neg (fun h => hm h.1), if_neg hm]
    exact State.imageIf_of_blk? hb rfl

end

/-! ### Register writes (R6) -/

theorem execRegisterWrite_denied (h : s.mayWrite w = false) : execRegisterWrite w s = .next s := by
  rw [execRegisterWrite]
  exact if_pos (by simp [h])

theorem execRegisterWrite_plain (h : s.mayWrite w = true) (hb : (blockAt w.off).1 ≠ partB ∨ 0x2000 ≤ (blockAt w.off).2) (hm : w.off ≠ mbB)
    {u : State} (hu : s.budgetPart w = u) : execRegisterWrite w s = .next
      ((u.setReg w.off (BitVec.ofNat 64 (u.rwValue w.off w.val.toNat))).afterWrite w.off (u.reg w.off).toNat
        (u.rwValue w.off w.val.toNat)) := by
  subst hu
  rw [execRegisterWrite]
  refine (if_neg (by simp [h])).trans ((if_neg ?_).trans (if_neg hm))
  exact fun h' => hb.elim (fun hb => hb h'.1) (fun hb => absurd h'.2 (Nat.not_lt.mpr hb))

end
end

/-- Settles O34: each command from the equation of its step function under the conditions that the statement names. A KPROG write is
judged once (`State.kprog`), a window write by the stream of its thread. -/
theorem commandEvents : Obligations.CommandEvents := by
  unfold Obligations.CommandEvents
  intro s t w v n i reason g j h c k sp
  dsimp only
  refine ⟨fun hb => ?_, fun hidle hn => ?_, fun hidle h0 hmax hrun => ?_, fun hidle h0 hmax hrun => ?_, fun hj hover => ?_,
    fun hj hover => ?_, fun hidle hd hdesc => ?_, fun hidle hd => ?_, fun hidle hdesc => ?_, fun hidle hdesc => ?_, ?_,
    fun ⟨hown, hres, _⟩ hm => ?_, fun ⟨hown, hres, _⟩ hm hdiff => ?_, fun ⟨hown, hres, _⟩ hm => ?_, fun hown hbad => ?_,
    fun ⟨hown, hres, _⟩ hm hsame => ?_, fun hden => ?_, fun hb => ?_, fun hfree hrun => ?_, fun hfree hrun hload => ?_,
    fun hfree hrun => ?_, fun hfree hrun => ?_, fun hfree => ?_, fun hd hg => ?_, fun hd hg => ⟨fun e hload => ?_, fun hload => ?_⟩,
    fun hnone hn hc h0 h4 halive hdrain => ?_, fun hnone hn hc hend hdrain => ?_, fun hf hroom => ?_, fun h0 => ?_, fun h0 haway => ?_,
    fun dst h0 haway => ?_, State.winLetGo_none, fun hst hlive hc hres hacc hgrow => ?_, fun hst => ?_, fun dst hst haway => ?_,
    fun hst haway hlive hc => ⟨fun hs => ?_, fun b hs hb => ?_, fun b hs hb => ?_⟩, fun hmay => ?_, fun hmay hb hm => ?_⟩
  · rw [exec_reconfigCommand, exec_qkill, exec_rreset, execReconfigCommand, execQkill, execRreset]
    exact ⟨if_pos hb, if_pos hb, if_pos hb⟩
  · rw [exec_reconfigCommand]
    exact execReconfigCommand_count hidle hn
  · rw [exec_reconfigCommand]
    exact execReconfigCommand_bad hidle h0 hmax hrun
  · rw [exec_reconfigCommand]
    exact execReconfigCommand_good hidle h0 hmax hrun
  · rw [exec_reconfigDone]
    exact execReconfigDone_over hj hover rfl
  · rw [exec_reconfigDone]
    exact execReconfigDone_going hj hover
  · rw [exec_qkill]
    exact execQkill_foreign hidle hd hdesc
  · rw [exec_qkill]
    exact execQkill_own hidle hd
  · rw [exec_rreset]
    exact execRreset_foreign hidle hdesc
  · rw [exec_rreset]
    exact execRreset_own hidle hdesc rfl rfl rfl rfl rfl
  · rw [exec_ipendWrite]
    rfl
  · rw [exec_keyOff, execKeyOff, State.kprog_done hown _ hres (by omega) (by omega)]
  · rw [exec_keyXts, execKeyXts, State.kprog_done hown _ hres (by omega) (fun _ => hdiff)]
  · rw [exec_keyPlain, execKeyPlain, State.kprog_done hown _ hres (by omega) (by omega)]
  · rw [exec_keyBadcmd, execKeyBadcmd, State.kprog_malformed hown _ hbad]
  · rw [exec_keyXts, execKeyXts, State.kprog_weak hown _ hres hm hsame]
  · rw [exec_keyOff, exec_keyXts, exec_keyPlain, exec_keyBadcmd, execKeyOff, execKeyXts, execKeyPlain, execKeyBadcmd]
    simp only [State.kprog_denied _ hden, and_self]
  · rw [exec_htcmdStart, exec_htcmdStop, exec_htcmdSwap, exec_htcmdBadcmd]
    exact htcmd_busy hb
  · rw [exec_htcmdStart]
    exact execHtcmdStart_running hfree hrun
  · rw [exec_htcmdStart]
    exact execHtcmdStart_loads hfree hrun hload
  · rw [exec_htcmdStop, exec_htcmdSwap, execHtcmdStop_free hfree, execHtcmdSwap_free hfree, if_neg (by omega), if_neg (by omega)]
    exact ⟨rfl, rfl⟩
  · rw [exec_htcmdStop, exec_htcmdSwap, execHtcmdStop_free hfree, execHtcmdSwap_free hfree, if_pos hrun, if_pos hrun]
    exact ⟨rfl, rfl⟩
  · rw [exec_htcmdBadcmd]
    exact execHtcmdBadcmd_free hfree
  · rw [exec_htcmdStopDone]
    exact execHtcmdStopDone_stop hd hg
  · rw [exec_htcmdStopDone, execHtcmdStopDone_swap hd hg]
    unfold State.htDoneGone
    rw [hload] <;> rfl
  · rw [exec_htcmdStopDone, execHtcmdStopDone_swap hd hg]
    unfold State.htDoneGone
    rw [hload] <;> rfl
  · rw [exec_htcmdStopDone]
    exact execHtcmdStopDone_saves hnone hn hc hdrain h0 h4 halive rfl
  · rw [exec_htcmdStopDone]
    exact execHtcmdStopDone_ended hnone hn hc hdrain hend
  · rw [exec_heldRecordEnter]
    exact execHeldRecordEnter_room hf hroom rfl
  · rw [exec_twselWrite, execTwselWrite, h0, State.twsel_zero]
  · rw [exec_twselWrite, execTwselWrite, State.twsel_here h0 haway]
  · rw [exec_twselWrite, execTwselWrite, State.twsel_away h0 haway]
  · rw [exec_twBindComplete]
    exact execTwBindComplete_ready hst hlive hc hres hacc hgrow
  · rw [exec_twWrite, execTwWrite, State.twWrite_notReady hst]
  · rw [exec_twWrite, execTwWrite, State.twWrite_away hst haway]
  · rw [exec_twWrite, execTwWrite, State.twWrite_host hst haway hlive hc hs]
  · rw [exec_twWrite, execTwWrite, State.twWrite_lane hst haway hlive hc hs hb]
    rfl
  · rw [exec_twWrite, execTwWrite, State.twWrite_cox hst haway hlive hc hs hb rfl]
    rfl
  · rw [exec_registerWrite]
    exact execRegisterWrite_denied hmay
  · rw [exec_registerWrite]
    exact execRegisterWrite_plain hmay hb hm rfl

end Sys2Proof.Machine

/-! SUPPORT. Links: windows, flow control, link states and accesses from other packages (R16, R108, R109, R414 to R424). -/

namespace Sys2Proof.Machine

theorem exec_fwinWrite (s : State) (w : RegW) : exec (.fwinWrite w) s = execFwinWrite w s := rfl
theorem exec_flowStop (s : State) (p c : Nat) : exec (.flowStop p c) s = execFlowStop p c s := rfl
theorem exec_flowGo (s : State) (p c : Nat) : exec (.flowGo p c) s = execFlowGo p c s := rfl
theorem exec_linkStateChange (s : State) (p w v : Nat) : exec (.linkStateChange p w v) s = execLinkStateChange p w v s := rfl
theorem exec_laneMarginRemove (s : State) (p : Nat) : exec (.laneMarginRemove p) s = execLaneMarginRemove p s := rfl
theorem exec_fabricAccessArrive (s : State) (f : FabAcc) : exec (.fabricAccessArrive f) s = execFabricAccessArrive f s := rfl

section
variable {s t : State} {w : RegW} {port tc width speed g : Nat} {f : FabAcc}

/-! ### Windows (R418 to R420) -/

/-- Whether an entry that a write of its first word would enable is bad (R418). -/
def State.fwinBad (s : State) (w : RegW) : Bool :=
  w.val.toNat &&& fwinMask 0 ≠ w.val.toNat || bits (s.fwinW ((w.off - fabB - 0x1000) / 32) 1) 0 56 % 0x10000 ≠ 0
    || decide (2 ^ 56 < bits (s.fwinW ((w.off - fabB - 0x1000) / 32) 1) 0 56 + bits (s.fwinW ((w.off - fabB - 0x1000) / 32) 2) 0 50)
    || s.asDesc (bits w.val.toNat 48 16) % 2 = 0 || !descOk (s.asDesc (bits w.val.toNat 48 16))
    || bits (s.asDesc (bits w.val.toNat 48 16)) 8 6 ≠ bits w.val.toNat 32 6

theorem State.fwinBad_iff : s.fwinBad w = true ↔ w.val.toNat &&& fwinMask 0 ≠ w.val.toNat ∨
    bits (s.fwinW ((w.off - fabB - 0x1000) / 32) 1) 0 56 % 0x10000 ≠ 0 ∨
    2 ^ 56 < bits (s.fwinW ((w.off - fabB - 0x1000) / 32) 1) 0 56 + bits (s.fwinW ((w.off - fabB - 0x1000) / 32) 2) 0 50 ∨
    s.asDesc (bits w.val.toNat 48 16) % 2 = 0 ∨ descOk (s.asDesc (bits w.val.toNat 48 16)) = false ∨
    bits (s.asDesc (bits w.val.toNat 48 16)) 8 6 ≠ bits w.val.toNat 32 6 := by
  simp only [State.fwinBad, Bool.or_eq_true, decide_eq_true_iff, Bool.not_eq_true', or_assoc]

section
variable (hlo : fabB + 0x1000 ≤ w.off) (hhi : w.off < fabB + 0x3000) (hal : w.off % 8 = 0)
include hlo hhi hal

theorem execFwinWrite_word : execFwinWrite w s = if w.dev ≠ 0 then .next s
    else if (w.off - fabB - 0x1000) % 32 / 8 = 0 ∧ bitOf w.val.toNat 0 ∧ s.fwinBad w then .next s
    else .next (s.setReg w.off (BitVec.ofNat 64 (w.val.toNat &&& fwinMask ((w.off - fabB - 0x1000) % 32 / 8)))) := by
  rw [execFwinWrite]
  exact if_neg fun h => h.elim (Nat.not_lt.mpr hlo) fun h => h.elim (Nat.not_le.mpr hhi) fun h => h hal

theorem execFwinWrite_foreign (hd : w.dev ≠ 0) : execFwinWrite w s = .next s := by
  rw [execFwinWrite_word hlo hhi hal, if_pos hd]

theorem execFwinWrite_kept (hd : w.dev = 0) (h : bitOf w.val.toNat 0 = false ∨ (w.off - fabB - 0x1000) % 32 / 8 ≠ 0 ∨ s.fwinBad w = false) :
    execFwinWrite w s = .next (s.setReg w.off (BitVec.ofNat 64 (w.val.toNat &&& fwinMask ((w.off - fabB - 0x1000) % 32 / 8)))) := by
  rw [execFwinWrite_word hlo hhi hal, if_neg (not_not.mpr hd), if_neg]
  rintro ⟨hi, hb, hbad⟩
  rcases h with h | h | h
  · exact Bool.false_ne_true (h.symm.trans hb)
  · exact h hi
  · exact Bool.false_ne_true (h.symm.trans hbad)

theorem execFwinWrite_bad (hd : w.dev = 0) (hi : (w.off - fabB - 0x1000) % 32 / 8 = 0) (hb : bitOf w.val.toNat 0 = true)
    (hbad : s.fwinBad w = true) : execFwinWrite w s = .next s := by
  rw [execFwinWrite_word hlo hhi hal, if_neg (not_not.mpr hd), if_pos ⟨hi, hb, hbad⟩]

end

/-! ### Flow control and link states (R108, R109, R414 to R417) -/

section
variable (hp : port < 32) (htc : tc < 4)
include hp htc

theorem execFlowStop_going (h : SMap.get false s.lnk.stopped (8 * port + tc) = false) : ∃ t, execFlowStop port tc s = .next t ∧
    SMap.get false t.lnk.stopped (8 * port + tc) = true := by
  rw [execFlowStop, if_neg (by simp [h]; omega)]
  exact ⟨_, rfl, by dsimp only; exact SMap.get_set_same ..⟩

theorem execFlowGo_stopped (h : SMap.get false s.lnk.stopped (8 * port + tc) = true) : ∃ t, execFlowGo port tc s = .next t ∧
    SMap.get false t.lnk.stopped (8 * port + tc) = false := by
  rw [execFlowGo, if_neg (by simp [h]; omega)]
  exact ⟨_, rfl, by dsimp only; exact SMap.get_set_same ..⟩

end

theorem execLinkStateChange_down (hp : port < 32) : execLinkStateChange port width 0 s = .next (s.setLink port 0 0) := by
  rw [execLinkStateChange]
  exact (if_neg (Nat.not_le.mpr hp)).trans (if_pos rfl)

theorem execLinkStateChange_up (hp : port < 32) (hs : speed ≠ 0) (ht : trains port width speed = true)
    (hpos : port < 24 ∨ s.meshPos.1 < 24 ∧ s.meshPos.2 < 24) :
    execLinkStateChange port width speed s = .next (s.setLink port width speed).potGo := by
  rw [execLinkStateChange]
  refine (if_neg (Nat.not_le.mpr hp)).trans ((if_neg hs).trans (if_pos ?_))
  simpa [ht] using hpos

theorem execLaneMarginRemove_low (hlo : 16 ≤ port) (hhi : port < 32) (hm : s.marginLow port = true) {n : Nat}
    (hn : (if s.fld (lstat port) 1 5 ≤ 1 then 0 else 1 + Config.choice s.fresh % (s.fld (lstat port) 1 5 - 1)) = n) :
    execLaneMarginRemove port s = .next (if 24 ≤ port ∧ n ≤ 4 then State.setLink { s with fresh := s.fresh + 1 } port 0 0
      else State.setLink { s with fresh := s.fresh + 1 } port n (s.fld (lstat port) 6 3)) := by
  subst hn
  rw [execLaneMarginRemove]
  exact if_neg (by simp [hm]; omega)

theorem execLaneMarginRemove_good (h : port < 16 ∨ s.marginLow port = false) :
    execLaneMarginRemove port s = .refused (.notEnabled "LANE_MARGIN_REMOVE") := by
  rw [execLaneMarginRemove]
  exact if_pos (h.imp id fun h => .inr (by simp [h]))

/-! ### Accesses from other packages (R418 to R424) -/

/-- The request of an access that waits as it arrives. -/
def farReq (s : State) (f : FabAcc) (asid va : Nat) : Req :=
  { cid := noThreadId, lane := 0, kind := fabReqKind f, space := farSpace, va := va, size := f.size, asid := asid, dev := f.svdev,
    priv := false, die := 2, core := 0, rank := f.srow * 2 ^ 16 + f.scol * 2 ^ 8 + f.svdev, arrived := some (asid, va), since := s.pt }

theorem farDone_ok (t : State) (f : FabAcc) (v g : Nat) : t.farDone (fabReqKind f) f.size (.ok v g) =
    some { t with lnk := { t.lnk with
      sent := some (.done (match f.kind with | .store _ => [] | _ => leBytes f.size v), Nat.max g t.pt) } } := by
  obtain ⟨_, _, _, _, _, kind⟩ := f
  cases kind with
  | load => rfl
  | store d => rfl
  | atomic op ty d => rfl
  | cas a b => rfl

theorem execFabricAccessArrive_done {x : HaRes} {u : State}
    (hserve : s.fabServe f.srow f.scol f.svdev f.off (fabReq f) (fabOp f) = (t, x)) (hu : t.farDone (fabReqKind f) f.size x = some u) :
    execFabricAccessArrive f s = .next u := by
  rw [execFabricAccessArrive, hserve]
  dsimp only
  rw [hu]

theorem execFabricAccessArrive_held {asid va : Nat} (hmatch : s.fabMatch f.srow f.scol f.svdev f.off (fabOp f).writes = .ok (asid, va))
    (hserve : s.fabServe f.srow f.scol f.svdev f.off (fabReq f) (fabOp f) = (t, .hold g)) : execFabricAccessArrive f s = .next
      (((s.addReq (farReq s f asid va)).1.landReq s.ms.nextReq (farReq s f asid va) (.hold g)).getD (s.addReq (farReq s f asid va)).1) := by
  rw [execFabricAccessArrive, hserve]
  dsimp only
  have hfar : t.farDone (fabReqKind f) f.size (.hold g) = none := rfl
  rw [hfar, hmatch] <;> rfl

/-- A request that is held stands open under its number. -/
theorem State.landReq_hold_find {r : Req} {id : Nat} (hr : s.ms.reqs.find? id = some r) (ho : r.open_ = true) :
    ∃ q, ((s.landReq id r (.hold g)).getD s).ms.reqs.find? id = some q ∧ q.space = r.space ∧ q.kind = r.kind ∧ q.asid = r.asid ∧
      q.va = r.va ∧ q.open_ = true := by
  rw [State.landReq]
  split
  · exact ⟨r, hr, rfl, rfl, rfl, rfl, ho⟩
  · exact ⟨_, SMap.find?_put_same .., rfl, rfl, rfl, rfl, rfl⟩

end

/-- Settles O35: windows by their guard, flow and link states by their ports, and an arriving access by what its serving gives. -/
theorem linkEvents : Obligations.LinkEvents := by
  unfold Obligations.LinkEvents
  intro s t w port tc width speed v g f
  dsimp only
  refine ⟨fun ⟨hlo, hhi, hal⟩ hd => ?_, fun ⟨hlo, hhi, hal⟩ hd h => ?_, fun ⟨hlo, hhi, hal⟩ hd hi hb hbad => ?_,
    fun ⟨hlo, hhi, hal⟩ hd hi hb hmask hbase hend hpres hok hdev => ?_, fun hp htc h => ?_, fun hp htc h => ?_, fun hp => ?_,
    fun hp hs ht hpos => ?_, fun h => ?_, fun hlo hhi hm => ⟨?_, fun h => ?_⟩, fun h => ?_, fun hserve => ?_, fun c q l a hserve => ?_,
    fun asid va hmatch hserve => ?_⟩
  · rw [exec_fwinWrite]
    exact execFwinWrite_foreign hlo hhi hal hd
  · rw [exec_fwinWrite]
    exact execFwinWrite_kept hlo hhi hal hd (h.imp_right .inl)
  · rw [exec_fwinWrite]
    exact execFwinWrite_bad hlo hhi hal hd hi hb (State.fwinBad_iff.mpr hbad)
  · have hgood : s.fwinBad w = false := Bool.eq_false_iff.mpr fun hbad => by
      rcases State.fwinBad_iff.mp hbad with h | h | h | h | h | h
      · exact h hmask
      · exact h hbase
      · exact absurd hend (Nat.not_le.mpr h)
      · rw [hpres] at h
        cases h
      · rw [hok] at h
        cases h
      · exact h hdev
    rw [exec_fwinWrite]
    exact execFwinWrite_kept hlo hhi hal hd (.inr (.inr hgood))
  · rw [exec_flowStop]
    exact execFlowStop_going hp htc h
  · rw [exec_flowGo]
    exact execFlowGo_stopped hp htc h
  · rw [exec_linkStateChange]
    exact execLinkStateChange_down hp
  · rw [exec_linkStateChange]
    exact execLinkStateChange_up hp hs ht hpos
  · rw [State.potGo, h]
  · rw [exec_laneMarginRemove]
    exact execLaneMarginRemove_low hlo hhi hm rfl
  · rw [if_neg (Nat.not_le.mpr h)]
    have := Nat.mod_lt (Config.choice s.fresh) (show 0 < s.fld (lstat port) 1 5 - 1 by omega)
    omega
  · rw [exec_laneMarginRemove]
    exact execLaneMarginRemove_good h
  · rw [exec_fabricAccessArrive]
    exact execFabricAccessArrive_done hserve (farDone_ok t f v g)
  · rw [exec_fabricAccessArrive]
    exact execFabricAccessArrive_done hserve rfl
  · obtain ⟨q, hq, hsp, hk, has, hva, ho⟩ := State.landReq_hold_find (g := g) (s := (s.addReq (farReq s f asid va)).1)
      (SMap.find?_put_same s.ms.reqs s.ms.nextReq (farReq s f asid va)) rfl
    rw [exec_fabricAccessArrive, execFabricAccessArrive_held hmatch hserve]
    exact ⟨_, s.ms.nextReq, q, rfl, hq, hsp, hk, has, hva, ho⟩

end Sys2Proof.Machine

/-! SUPPORT. Management: requests, commands, resets, power and boot (R384, R385, R407, R408, R422 to R429). -/

namespace Sys2Proof.Machine

theorem exec_mgmtRequest (s : State) (r : MgmtReq) : exec (.mgmtRequest r) s = execMgmtRequest r s := rfl
theorem exec_identity (s : State) (n : List (BitVec 8)) : exec (.identity n) s = execIdentity n s := rfl
theorem exec_cert (s : State) (i : Nat) : exec (.cert i) s = execCert i s := rfl
theorem exec_freeze (s : State) : exec .freeze s = execFreeze s := rfl
theorem exec_thaw (s : State) : exec .thaw s = execThaw s := rfl
theorem exec_scan (s : State) (c w : Nat) : exec (.scan c w) s = execScan c w s := rfl
theorem exec_coldresetCmd (s : State) : exec .coldresetCmd s = execColdresetCmd s := rfl
theorem exec_update (s : State) (i : Option Image) : exec (.update i) s = execUpdate i s := rfl
theorem exec_commit (s : State) : exec .commit s = execCommit s := rfl
theorem exec_key0 (s : State) (m : Nat) : exec (.key0 m) s = execKey0 m s := rfl
theorem exec_setcfg (s : State) (r : List (BitVec 8)) : exec (.setcfg r) s = execSetcfg r s := rfl
theorem exec_tftpRetry (s : State) (i : Option Image) : exec (.tftpRetry i) s = execTftpRetry i s := rfl
theorem exec_thermtrip (s : State) : exec .thermtrip s = execThermtrip s := rfl
theorem exec_powerLoss (s : State) : exec .powerLoss s = execPowerLoss s := rfl

section
variable {s : State} {r : MgmtReq}

/-! ### Requests judged in order (R425) -/

section
variable (hon : s.pwr ≠ .off)
include hon

theorem execMgmtRequest_version (hv : r.ver ≠ 1) : execMgmtRequest r s = .next s :=
  (if_neg hon).trans (if_pos hv)

variable (hv : r.ver = 1)
include hv

theorem execMgmtRequest_malformed (h : r.reserved ≠ 0 ∨ 512 < r.payload.length) : execMgmtRequest r s = .next (s.answer r 1) :=
  (if_neg hon).trans ((if_neg (not_not.mpr hv)).trans (if_pos h))

variable (hres : r.reserved = 0) (hlen : r.payload.length ≤ 512)
include hres hlen

/-- A well-formed request is judged by its signature and its number. -/
theorem execMgmtRequest_formed : execMgmtRequest r s =
    if !r.signed then .next (if r.code = 1 ∨ r.code = 2 then s.accept r else s.answer r 3)
    else if !s.operator r then .next (s.answer r 3)
    else if s.mgmt.mseq < r.mseq then .next (({ s with mgmt := { s.mgmt with mseq := r.mseq, reply := none } }).accept r)
    else if r.mseq = s.mgmt.mseq ∧ r.mseq ≠ 0 then
      .next (match s.mgmt.reply with
        | some p => { s with mgmt := { s.mgmt with sent := some p } }
        | none => s.answer r 2)
    else .next (s.answer r 3) :=
  (if_neg hon).trans ((if_neg (not_not.mpr hv)).trans ((if_neg (by omega)).trans rfl))

theorem execMgmtRequest_unsigned (hs : r.signed = false) : execMgmtRequest r s = .next
    (if r.code = 1 ∨ r.code = 2 then s.accept r else s.answer r 3) := by
  rw [execMgmtRequest_formed hon hv hres hlen, if_pos (by rw [hs]; rfl)]

variable (hs : r.signed = true)
include hs

theorem execMgmtRequest_forged (ho : s.operator r = false) : execMgmtRequest r s = .next (s.answer r 3) := by
  rw [execMgmtRequest_formed hon hv hres hlen, if_neg (by simp [hs]), if_pos (by rw [ho]; rfl)]

variable (ho : s.operator r = true)
include ho

theorem execMgmtRequest_new (h : s.mgmt.mseq < r.mseq) : execMgmtRequest r s = .next
    (({ s with mgmt := { s.mgmt with mseq := r.mseq, reply := none } }).accept r) := by
  rw [execMgmtRequest_formed hon hv hres hlen, if_neg (by simp [hs]), if_neg (by simp [ho]), if_pos h]

theorem execMgmtRequest_again (h : r.mseq = s.mgmt.mseq) (h0 : r.mseq ≠ 0) : execMgmtRequest r s = .next (match s.mgmt.reply with
    | some p => { s with mgmt := { s.mgmt with sent := some p } }
    | none => s.answer r 2) := by
  rw [execMgmtRequest_formed hon hv hres hlen, if_neg (by simp [hs]), if_neg (by simp [ho]), if_neg (by omega), if_pos ⟨h, h0⟩]

theorem execMgmtRequest_old (h : r.mseq < s.mgmt.mseq ∨ r.mseq = 0) : execMgmtRequest r s = .next (s.answer r 3) := by
  rw [execMgmtRequest_formed hon hv hres hlen, if_neg (by simp [hs]), if_neg (by simp [ho]), if_neg (by omega), if_neg (by omega)]

end

theorem State.accept_idle {e : Instr} (hb : s.mgmt.busy = none) (h7 : r.code ≠ 7)
    (he : mgmtEvent r.code r.arg0 r.arg1 r.payload = some e) : s.accept r =
      { s with mgmt := { s.mgmt with busy := some (r.code, some r.mseq), signed := r.signed }, todo := s.todo ++ [e] } := by
  rw [State.accept]
  refine (if_neg (by rw [hb]; exact Bool.false_ne_true)).trans ((if_neg h7).trans ?_)
  rw [he]

theorem State.accept_busy {x : Nat × Option Nat} (hb : s.mgmt.busy = some x) (h3 : r.code ≠ 3) :
    (s.accept r).mgmt.sent = some { code := r.code, status := 1, mseq := r.mseq } ∧ (s.accept r).mgmt.busy = some x := by
  have hfail : s.accept r = if r.signed = true then { s.answer r 1 with mgmt := { (s.answer r 1).mgmt with reply := (s.answer r 1).mgmt.sent } }
      else s.answer r 1 := by
    rw [State.accept]
    exact (if_pos (by rw [hb]; rfl)).trans (if_neg h3)
  rw [hfail]
  split
  · exact ⟨rfl, hb⟩
  · exact ⟨rfl, hb⟩

theorem State.mgmtEnd_reply {k q st : Nat} {res : BitVec 64} {pay : List Byte} (hb : s.mgmt.busy = some (k, some q)) :
    (s.mgmtEnd st res pay).mgmt.sent = some { code := k, status := st, mseq := q, res := res, pay := pay } ∧
      (s.mgmt.freezeNext = [] → (s.mgmtEnd st res pay).mgmt.busy = none) := by
  rw [State.mgmtEnd, hb]
  dsimp only
  cases hf : s.mgmt.freezeNext with
  | nil => exact ⟨rfl, fun _ => rfl⟩
  | cons q' rest => exact ⟨rfl, fun h => nomatch h⟩

/-! ### Commands in progress (R384, R385, R407, R426 to R429) -/

section
variable {a : Option Nat}

theorem State.mgmtRun_busy {k : Nat} {name : String} {f : State → State} (hb : s.mgmt.busy = some (k, a)) (hon : s.pwr ≠ .off) :
    s.mgmtRun k name f = .next (f s) := by
  rw [State.mgmtRun, hb]
  exact if_pos ⟨rfl, hon⟩

theorem execScan_running {c w : Nat} (hb : s.mgmt.busy = some (5, a)) (hon : s.pwr ≠ .off) : execScan c w s = .next
    (if s.pwr ≠ .frozen ∨ (!(match scanWords c with | some n => decide (w < n) | none => false)) = true then s.mgmtEnd 1 0 []
     else s.mgmtEnd 0 (s.scanArray c w) []) := by
  rw [execScan, State.mgmtRun_busy hb hon] <;> rfl

theorem execScan_listed {c w z : Nat} (hb : s.mgmt.busy = some (5, a)) (hon : s.pwr ≠ .off) (hfr : s.pwr = .frozen)
    (hz : scanWords c = some z) : execScan c w s = .next (if w < z then s.mgmtEnd 0 (s.scanArray c w) [] else s.mgmtEnd 1 0 []) := by
  rw [execScan_running hb hon, hz]
  by_cases hw : w < z
  · rw [if_pos hw, if_neg (by simp [hfr, hw])]
  · rw [if_neg hw, if_pos (.inr (by simp [hw]))]

theorem execScan_unlisted {c w : Nat} (hb : s.mgmt.busy = some (5, a)) (hon : s.pwr ≠ .off) (hz : scanWords c = none) :
    execScan c w s = .next (s.mgmtEnd 1 0 []) := by
  rw [execScan_running hb hon, hz]
  exact congrArg Host.Outcome.next (if_pos (.inr rfl))

/-- An image given by a request, or by a mailbox command in its buffer. -/
def State.givenImage (s : State) (a : Option Nat) (img : Option Image) : Option Image := if a = none then s.mailImage else img

theorem execUpdate_running {img : Option Image} (hb : s.mgmt.busy = some (7, a)) (hon : s.pwr ≠ .off) : execUpdate img s = .next
    (match s.givenImage a img with
     | some i => if verifies s.mgmt.bootmin i then ({ s with mgmt := { s.mgmt with flash := some i } }).mgmtEnd 0 0 [] else s.mgmtEnd 1 0 []
     | none => s.mgmtEnd 1 0 []) := by
  rw [execUpdate, State.mgmtRun_busy hb hon]
  dsimp only
  rw [hb]
  cases a with
  | none => rfl
  | some q => rfl

theorem execUpdate_good {img : Option Image} {im : Image} (hb : s.mgmt.busy = some (7, a)) (hon : s.pwr ≠ .off)
    (hi : s.givenImage a img = some im) (hv : verifies s.mgmt.bootmin im = true) : execUpdate img s = .next
      (({ s with mgmt := { s.mgmt with flash := some im } }).mgmtEnd 0 0 []) := by
  rw [execUpdate_running hb hon, hi]
  exact congrArg Host.Outcome.next (if_pos hv)

theorem execUpdate_bad {img : Option Image} (hb : s.mgmt.busy = some (7, a)) (hon : s.pwr ≠ .off)
    (hv : ∀ im, s.givenImage a img = some im → verifies s.mgmt.bootmin im = false) : execUpdate img s = .next (s.mgmtEnd 1 0 []) := by
  rw [execUpdate_running hb hon]
  cases hi : s.givenImage a img with
  | none => rfl
  | some im => exact congrArg Host.Outcome.next (if_neg (ne_true_of_eq_false (hv im hi)))

section
variable {mode : Nat} (hb : s.mgmt.busy = some (9, a)) (hon : s.pwr ≠ .off)
include hb hon

theorem execKey0_other (h1 : mode ≠ 1) (h2 : mode ≠ 2) : execKey0 mode s = .next (s.mgmtEnd 1 0 []) := by
  rw [execKey0, State.mgmtRun_busy hb hon]
  exact congrArg Host.Outcome.next (if_pos ⟨h1, h2⟩)

theorem execKey0_known (h : mode = 1 ∨ mode = 2) {u : State} (hu : (s.ownedUnder 0).foldl State.writeBack s = u) : execKey0 mode s = .next
    ((State.setKey { u with fresh := u.fresh + 1 } 0
      (if mode = 1 then { mode := 1, mat := (Config.drawnKey u.fresh).toNat + 1 } else { mode := 2 })).mgmtEnd 0 0 []) := by
  subst hu
  rw [execKey0, State.mgmtRun_busy hb hon]
  exact congrArg Host.Outcome.next (if_neg (by omega))

end

section
variable {rcd : List (BitVec 8)} (hb : s.mgmt.busy = some (10, a)) (hon : s.pwr ≠ .off)
include hb hon

theorem execSetcfg_newer (hok : cfgOk rcd = true) (hseq : cfgSeq s.mgmt.cfg < cfgSeq rcd) : execSetcfg rcd s = .next
    ((State.retune { s with mgmt := { s.mgmt with cfg := rcd, cfgFlash := rcd } }).mgmtEnd 0 0 []) := by
  rw [execSetcfg, State.mgmtRun_busy hb hon]
  exact congrArg Host.Outcome.next (if_pos (by simp [hok, hseq]))

theorem execSetcfg_old (h : cfgOk rcd = false ∨ cfgSeq rcd ≤ cfgSeq s.mgmt.cfg) : execSetcfg rcd s = .next (s.mgmtEnd 1 0 []) := by
  rw [execSetcfg, State.mgmtRun_busy hb hon]
  refine congrArg Host.Outcome.next (if_neg ?_)
  rw [Bool.and_eq_true, decide_eq_true_iff]
  rintro ⟨hok, hseq⟩
  exact h.elim (fun h => Bool.false_ne_true (h.symm.trans hok)) (Nat.not_le.mpr hseq)

end
end

/-! ### Boot and power (R385, R422, R423, R429) -/

theorem execTftpRetry_none (hon : s.pwr ≠ .off) (hboot : s.mgmt.booted = false) (hdue : s.mgmt.retryAt ≤ s.pt) :
    execTftpRetry none s = .next { s with mgmt := { s.mgmt with retryAt := s.pt + 2 ^ 35 } } :=
  if_neg (by simp [hon, hboot, hdue])

theorem execTftpRetry_some {im : Image} (hon : s.pwr ≠ .off) (hboot : s.mgmt.booted = false) (hdue : s.mgmt.retryAt ≤ s.pt) :
    execTftpRetry (some im) s = .next
      (if verifies s.mgmt.bootmin im = true then { s with mgmt := { s.mgmt with flash := some im } }.bootRun im
       else { s with mgmt := { s.mgmt with retryAt := s.pt + 2 ^ 35 } }) :=
  (if_neg (by simp [hon, hboot, hdue])).trans (apply_ite Host.Outcome.next ..).symm

section
variable {t : State} (hon : s.pwr ≠ .off) (ht : { s.blank .off with fresh := s.fresh + 1 } = t)
include hon ht

theorem execPowerLoss_idle (hb : ∀ q, s.mgmt.busy ≠ some (7, q)) : execPowerLoss s = .next t := by
  subst ht
  rw [execPowerLoss, if_neg hon]
  refine if_neg ?_
  cases hc : s.mgmt.busy with
  | none => exact Bool.false_ne_true
  | some x =>
    obtain ⟨c, q⟩ := x
    have hne : c ≠ 7 := fun h => hb q (h ▸ hc)
    simp [hne]

theorem execPowerLoss_writing {q : Option Nat} (hb : s.mgmt.busy = some (7, q)) : execPowerLoss s = .next
    (if Config.choice s.fresh % 2 = 1 then { t with mgmt := { t.mgmt with flash := none } } else t) := by
  subst ht
  rw [execPowerLoss, if_neg hon, hb]
  by_cases hch : Config.choice s.fresh % 2 = 1
  · rw [if_pos hch]
    exact if_pos (by simp [hch])
  · rw [if_neg hch]
    exact if_neg (by simp [hch])

end
end

/-- Settles O36: requests by the order of their checks, each command from `State.mgmtRun`, boot and power from their guards. -/
theorem managementEvents : Obligations.ManagementEvents := by
  unfold Obligations.ManagementEvents
  intro s r bsy a nonce img i c w mode rcd hbsy
  dsimp only
  refine ⟨fun hon hv => ?_, fun hon hv h => ?_, fun ⟨hon, hv, hres, hlen⟩ hs => ?_, fun ⟨hon, hv, hres, hlen⟩ hs ho => ?_,
    fun ⟨hon, hv, hres, hlen⟩ hs ho => ⟨fun h => ?_, fun h h0 => ?_, fun h => ?_⟩, fun e => State.accept_idle, fun x => State.accept_busy,
    fun k q st res pay => State.mgmtEnd_reply, fun hb => ?_, fun hb => ?_, fun hb => ?_, fun hb => ?_, fun hb hfr => ?_,
    fun z hb hfr hz => ?_, fun hb hz => ?_, fun hb => ?_, fun hb => ⟨fun im hi hv => ?_, fun hv => ?_⟩, fun hb => ?_,
    fun hb h1 h2 => ?_, fun hb h => ?_, fun hb h => ?_, fun hb hok hseq => ?_, fun hb h => ?_, rfl, fun hon hboot hdue => ?_,
    fun im hon hboot hdue => ?_, fun hon => ?_, fun hon => ⟨fun hb => ?_, fun q hb => ?_⟩, fun hoff => ?_⟩
  · rw [exec_mgmtRequest]
    exact execMgmtRequest_version hon hv
  · rw [exec_mgmtRequest]
    exact execMgmtRequest_malformed hon hv h
  · rw [exec_mgmtRequest]
    exact execMgmtRequest_unsigned hon hv hres hlen hs
  · rw [exec_mgmtRequest]
    exact execMgmtRequest_forged hon hv hres hlen hs ho
  · rw [exec_mgmtRequest]
    exact execMgmtRequest_new hon hv hres hlen hs ho h
  · rw [exec_mgmtRequest, execMgmtRequest_again hon hv hres hlen hs ho h h0] <;> rfl
  · rw [exec_mgmtRequest]
    exact execMgmtRequest_old hon hv hres hlen hs ho h
  · obtain ⟨hb, hon⟩ := (hbsy 1).mp hb
    rw [exec_identity, execIdentity, State.mgmtRun_busy hb hon]
  · obtain ⟨hb, hon⟩ := (hbsy 2).mp hb
    rw [exec_cert, execCert, State.mgmtRun_busy hb hon]
  · obtain ⟨hb, hon⟩ := (hbsy 3).mp hb
    rw [exec_freeze, execFreeze, State.mgmtRun_busy hb hon]
  · obtain ⟨hb, hon⟩ := (hbsy 4).mp hb
    rw [exec_thaw, execThaw, State.mgmtRun_busy hb hon]
  · obtain ⟨hb, hon⟩ := (hbsy 5).mp hb
    rw [exec_scan, execScan_running hb hon, if_pos (.inl hfr)]
  · obtain ⟨hb, hon⟩ := (hbsy 5).mp hb
    rw [exec_scan]
    exact execScan_listed hb hon hfr hz
  · obtain ⟨hb, hon⟩ := (hbsy 5).mp hb
    rw [exec_scan]
    exact execScan_unlisted hb hon hz
  · obtain ⟨hb, hon⟩ := (hbsy 6).mp hb
    rw [exec_coldresetCmd, execColdresetCmd, State.mgmtRun_busy hb hon]
  · obtain ⟨hb, hon⟩ := (hbsy 7).mp hb
    rw [exec_update]
    exact execUpdate_good hb hon hi hv
  · obtain ⟨hb, hon⟩ := (hbsy 7).mp hb
    rw [exec_update]
    exact execUpdate_bad hb hon hv
  · obtain ⟨hb, hon⟩ := (hbsy 8).mp hb
    rw [exec_commit, execCommit, State.mgmtRun_busy hb hon]
  · obtain ⟨hb, hon⟩ := (hbsy 9).mp hb
    rw [exec_key0]
    exact execKey0_other hb hon h1 h2
  · obtain ⟨hb, hon⟩ := (hbsy 9).mp hb
    rw [exec_key0, execKey0_known hb hon (.inr h) rfl, if_neg (by omega)]
  · obtain ⟨hb, hon⟩ := (hbsy 9).mp hb
    rw [exec_key0, execKey0_known hb hon (.inl h) rfl, if_pos h]
  · obtain ⟨hb, hon⟩ := (hbsy 10).mp hb
    rw [exec_setcfg]
    exact execSetcfg_newer hb hon hok hseq
  · obtain ⟨hb, hon⟩ := (hbsy 10).mp hb
    rw [exec_setcfg]
    exact execSetcfg_old hb hon h
  · rw [exec_tftpRetry]
    exact execTftpRetry_none hon hboot hdue
  · rw [exec_tftpRetry]
    exact execTftpRetry_some hon hboot hdue
  · rw [exec_thermtrip]
    exact if_neg hon
  · rw [exec_powerLoss]
    exact execPowerLoss_idle hon rfl hb
  · rw [exec_powerLoss]
    exact execPowerLoss_writing hon rfl hb
  · rw [exec_powerLoss]
    exact if_pos hoff

end Sys2Proof.Machine

/-! SUPPORT. Fit, quotient and remainder in the ranges of the integer types (R210, R220, R232, R233). -/

namespace Sys2Proof.Machine

section
variable {t : Ty} {a b i : Int}

theorem fit_lt (t : Ty) (sat : Bool) (i : Int) : fit t sat i < 2 ^ t.width := wrap_lt ..

/-- Fit keeps what lies in the type's range. -/
theorem intVal_fit_of_mem (sat : Bool) (hlo : minOf t.signed t.width ≤ i) (hhi : i ≤ maxOf t.signed t.width) :
    intVal t t.width (fit t sat i) = i := by
  cases sat with
  | false => exact intVal_wrap (Ty.width_pos t) hlo hhi
  | true =>
    rw [intVal_fit_sat]
    omega

/-- Reading W bits back adds a multiple of 2^W to what they were taken from. -/
theorem intVal_wrap_congr (t : Ty) (w : Nat) (i : Int) : ∃ k : Int, i = intVal t w (wrap w i) + k * 2 ^ w := by
  have hmod : ((wrap w i : Nat) : Int) = i % 2 ^ w := wrap_cast w i
  have hdiv := Int.emod_add_mul_ediv i (2 ^ w)
  have hread : ∃ k : Int, ((wrap w i : Nat) : Int) = intVal t w (wrap w i) + k * 2 ^ w := by
    rw [intVal, sx]
    split
    · split
      · exact ⟨0, by omega⟩
      · exact ⟨1, by push_cast; omega⟩
    · exact ⟨0, by omega⟩
  obtain ⟨k, hk⟩ := hread
  refine ⟨k + i / 2 ^ w, ?_⟩
  rw [add_mul, ← add_assoc, ← hk, hmod, mul_comm (i / _)]
  exact hdiv.symm

theorem remVal_eq_tmod (hb : b ≠ 0) : remVal a b = a.tmod b := by
  rw [remVal, if_neg hb, Int.tmod_def, mul_comm]

theorem divVal_eq_tdiv (t : Ty) (hb : b ≠ 0) : divVal t a b = a.tdiv b := by
  rw [divVal, if_neg hb]

/-- The remainder lies in the range of its operands. -/
theorem tmod_mem (ha : minOf t.signed t.width ≤ a) (hlo : minOf t.signed t.width ≤ b) (hhi : b ≤ maxOf t.signed t.width) (hb : b ≠ 0) :
    minOf t.signed t.width ≤ a.tmod b ∧ a.tmod b ≤ maxOf t.signed t.width := by
  have hlt : (a.tmod b).natAbs < b.natAbs := by
    rw [Int.natAbs_tmod]
    exact Nat.mod_lt _ (Int.natAbs_pos.mpr hb)
  cases hs : t.signed with
  | true =>
    rw [hs, minOf_true] at hlo
    rw [hs, maxOf_true] at hhi
    rw [minOf_true, maxOf_true]
    omega
  | false =>
    rw [hs, minOf_false] at ha hlo
    rw [hs] at hhi
    have := Int.tmod_nonneg b ha
    rw [minOf_false]
    omega

/-- The quotient lies in the range of its operands but for the least value divided by −1. -/
theorem tdiv_mem (hlo : minOf t.signed t.width ≤ a) (hhi : a ≤ maxOf t.signed t.width) (hblo : minOf t.signed t.width ≤ b) (hb : b ≠ 0) :
    (minOf t.signed t.width ≤ a.tdiv b ∧ a.tdiv b ≤ maxOf t.signed t.width) ∨
      (t.signed = true ∧ a = minOf t.signed t.width ∧ b = -1) := by
  have habs : (a.tdiv b).natAbs = a.natAbs / b.natAbs := Int.natAbs_tdiv a b
  have hle : a.natAbs / b.natAbs ≤ a.natAbs := Nat.div_le_self ..
  cases hs : t.signed with
  | true =>
    rw [hs, minOf_true] at hlo
    rw [hs, maxOf_true] at hhi
    rw [minOf_true, maxOf_true, eq_self_iff_true, true_and]
    by_cases hneg : b = -1
    · subst hneg
      rw [Int.tdiv_neg, Int.tdiv_one]
      omega
    · by_cases hone : b = 1
      · subst hone
        rw [Int.tdiv_one]
        omega
      · have hhalf : a.natAbs / b.natAbs ≤ a.natAbs / 2 := Nat.div_le_div_left (by omega) (by omega)
        omega
  | false =>
    rw [hs, minOf_false] at hlo hblo
    rw [hs] at hhi
    have := Int.tdiv_nonneg hlo hblo
    rw [minOf_false]
    exact .inl ⟨this, by omega⟩

end

/-- Settles O37: Fit's cases are `intVal_fit_sat` and `intVal_wrap`; quotient and remainder are those of division towards zero, whose
sizes and signs the library gives. -/
theorem integerRanges : Obligations.IntegerRanges := by
  unfold Obligations.IntegerRanges
  intro t sat i a b _
  have hrange := minOf_le_maxOf t.signed t.width
  refine ⟨fit_lt t sat i, intVal_fit_of_mem sat, fun hs hi => ?_, fun hs hi => ?_, fun hs => ?_, fun halo hahi hblo hbhi hb => ?_⟩
  · rw [hs, intVal_fit_sat]
    omega
  · rw [hs, intVal_fit_sat]
    omega
  · rw [hs]
    exact intVal_wrap_congr t t.width i
  · rw [divVal_eq_tdiv t hb, remVal_eq_tmod hb]
    obtain ⟨hrlo, hrhi⟩ := tmod_mem halo hblo hbhi hb
    refine ⟨?_, ?_, fun h => Int.tmod_nonneg b h, fun h => tmod_nonpos b h, intVal_wrap (Ty.width_pos t) hrlo hrhi, ?_⟩
    · rw [mul_comm]
      exact Int.mul_tdiv_add_tmod a b
    · rw [Int.natAbs_tmod]
      exact Nat.mod_lt _ (Int.natAbs_pos.mpr hb)
    · rcases tdiv_mem halo hahi hblo hb with ⟨hlo, hhi⟩ | ⟨hs, ha, hb1⟩
      · exact .inl (intVal_wrap (Ty.width_pos t) hlo hhi)
      · refine .inr ⟨hs, ha, hb1, ?_⟩
        rw [hb1, Int.tdiv_neg, Int.tdiv_one, ha, hs]
        exact intVal_wrap_neg_least (Ty.width_pos t) hs

end Sys2Proof.Machine

/-! SUPPORT. The shape of token trees (R147 to R151). -/

namespace Sys2Proof.Machine

/-! ### Paths and depths in a tree of that shape -/

section
variable {t : Tree} (h : t.shape)
include h

theorem Tree.parent_lt {i : Nat} (hi : i < t.nodes.length) (h0 : 0 < i) : (t.node i).parent < i := (h.2 i hi h0).1

/-- Fuel that reaches a node's index reaches the root: more of it gives the same path. -/
theorem Tree.path_fuel {i : Nat} (hi : i < t.nodes.length) : ∀ n m : Nat, i ≤ n → i ≤ m → t.path n i = t.path m i := by
  induction i using Nat.strong_induction_on with
  | h i ih =>
    intro n m hn hm
    by_cases h0 : i = 0
    · subst h0
      cases n <;> cases m <;> rfl
    · obtain ⟨n, rfl⟩ : ∃ k, n = k + 1 := ⟨n - 1, by omega⟩
      obtain ⟨m, rfl⟩ : ∃ k, m = k + 1 := ⟨m - 1, by omega⟩
      have hp := t.parent_lt h hi (by omega)
      rw [Tree.path, Tree.path, if_neg h0, if_neg h0, ih _ hp (hp.trans hi) n m (by omega) (by omega)]

theorem Tree.depthF_fuel {i : Nat} (hi : i < t.nodes.length) : ∀ n m : Nat, i ≤ n → i ≤ m → t.depthF n i = t.depthF m i := by
  induction i using Nat.strong_induction_on with
  | h i ih =>
    intro n m hn hm
    by_cases h0 : i = 0
    · subst h0
      cases n <;> cases m <;> rfl
    · obtain ⟨n, rfl⟩ : ∃ k, n = k + 1 := ⟨n - 1, by omega⟩
      obtain ⟨m, rfl⟩ : ∃ k, m = k + 1 := ⟨m - 1, by omega⟩
      have hp := t.parent_lt h hi (by omega)
      rw [Tree.depthF, Tree.depthF, if_neg h0, if_neg h0, ih _ hp (hp.trans hi) n m (by omega) (by omega)]

/-- Below the root a path is the node and then its parent's path. -/
theorem Tree.path_cons {i : Nat} (hi : i < t.nodes.length) (h0 : 0 < i) : t.path 257 i = i :: t.path 257 (t.node i).parent := by
  have hlen := h.1
  have hp := t.parent_lt h hi h0
  rw [Tree.path, if_neg (Nat.pos_iff_ne_zero.mp h0), t.path_fuel h (by omega) 256 257 (by omega) (by omega)]

theorem Tree.depth_succ {i : Nat} (hi : i < t.nodes.length) (h0 : 0 < i) : t.depth i = t.depth (t.node i).parent + 1 := by
  have hlen := h.1
  have hp := t.parent_lt h hi h0
  rw [Tree.depth, Tree.depthF, if_neg (Nat.pos_iff_ne_zero.mp h0), t.depthF_fuel h (by omega) 256 257 (by omega) (by omega),
    Tree.depth]

end

theorem Tree.path_zero (t : Tree) (n : Nat) : t.path n 0 = [0] := by
  cases n <;> rfl

theorem Tree.mem_path_self (t : Tree) (i : Nat) : i ∈ t.path 257 i := by
  rw [Tree.path]
  split
  · next h0 => rw [h0]; exact List.mem_singleton_self 0
  · exact List.mem_cons_self

/-- A path holds the parent of each of its nodes. -/
theorem Tree.parent_mem_path {t : Tree} (h : t.shape) {i j : Nat} (hi : i < t.nodes.length) (hj : j ∈ t.path 257 i) (h0 : 0 < j) :
    (t.node j).parent ∈ t.path 257 i := by
  induction i using Nat.strong_induction_on with
  | h i ih =>
    by_cases hi0 : i = 0
    · subst hi0
      rw [Tree.path_zero, List.mem_singleton] at hj
      omega
    · have hp := t.parent_lt h hi (by omega)
      rw [t.path_cons h hi (by omega), List.mem_cons] at hj ⊢
      rcases hj with rfl | hj
      · exact .inr (t.mem_path_self _)
      · exact .inr (ih _ hp (by omega) hj)

theorem testBit_foldl_or (l : List Nat) (m j : Nat) : (l.foldl (fun m j => m ||| 2 ^ j) m).testBit j = (m.testBit j || decide (j ∈ l)) := by
  induction l generalizing m with
  | nil => simp
  | cons a l ih =>
    rw [List.foldl_cons, ih, Nat.testBit_or, Nat.testBit_two_pow, Bool.or_assoc]
    simp [eq_comm]

theorem Tree.testBit_mask (t : Tree) (i j : Nat) : (t.mask i).testBit j = decide (j ∈ t.path 257 i) := by
  rw [Tree.mask, testBit_foldl_or, Nat.zero_testBit, Bool.false_or]
  simp only [List.mem_dedup]

/-! ### Adding, accepting and pruning -/

section
variable {t : Tree} {n : TNode} {i : Nat}

theorem Tree.node_append_lt (hi : i < t.nodes.length) : Tree.node { t with nodes := t.nodes ++ [n] } i = t.node i := by
  rw [Tree.node, Tree.node, List.getElem?_append_left hi]

theorem Tree.node_append_new : Tree.node { t with nodes := t.nodes ++ [n] } t.nodes.length = n := by
  rw [Tree.node, List.getElem?_concat_length]
  rfl

theorem Tree.shape_append (h : t.shape) (hp : n.parent < t.nodes.length) (ha : n.accept = false) (hroom : t.nodes.length < 256) :
    ({ t with nodes := t.nodes ++ [n] } : Tree).shape := by
  refine ⟨by simp; omega, fun i hi h0 => ?_⟩
  rw [List.length_append, List.length_singleton] at hi
  by_cases hlast : i = t.nodes.length
  · subst hlast
    rw [Tree.node_append_new, ha]
    exact ⟨hp, fun h => nomatch h⟩
  · have hi' : i < t.nodes.length := by omega
    obtain ⟨hlt, hacc⟩ := h.2 i hi' h0
    rw [Tree.node_append_lt hi', Tree.node_append_lt (hlt.trans hi')]
    exact ⟨hlt, hacc⟩

/-- Accepting a node marks the nodes of its path and nothing else. -/
theorem Tree.node_acceptNode {j : Nat} (hj : j < t.nodes.length) :
    (t.acceptNode i).node j = if j ∈ t.path 257 i then { t.node j with accept := true } else t.node j := by
  have hget : (t.acceptNode i).nodes[j]? = some (if j ∈ t.path 257 i then { t.nodes[j] with accept := true } else t.nodes[j]) := by
    rw [Tree.acceptNode, List.getElem?_map, List.getElem?_zipIdx, List.getElem?_eq_getElem hj]
    simp
  have hnode : t.node j = t.nodes[j] := by rw [Tree.node, List.getElem?_eq_getElem hj]; rfl
  rw [Tree.node, hget, hnode]
  rfl

theorem Tree.acceptNode_length : (t.acceptNode i).nodes.length = t.nodes.length := by
  rw [Tree.acceptNode, List.length_map, List.length_zipIdx]

theorem Tree.acceptNode_parent {j : Nat} (hj : j < t.nodes.length) : ((t.acceptNode i).node j).parent = (t.node j).parent := by
  rw [Tree.node_acceptNode hj]
  split
  · rfl
  · rfl

theorem Tree.acceptNode_accept {j : Nat} (hj : j < t.nodes.length) :
    ((t.acceptNode i).node j).accept = true ↔ j ∈ t.path 257 i ∨ (t.node j).accept = true := by
  rw [Tree.node_acceptNode hj]
  split
  · next hmem => exact ⟨fun _ => .inl hmem, fun _ => rfl⟩
  · next hmem => exact ⟨.inr, fun h => h.resolve_left hmem⟩

theorem Tree.shape_acceptNode (h : t.shape) (hi : i < t.nodes.length) : (t.acceptNode i).shape := by
  refine ⟨Tree.acceptNode_length.trans_le h.1, fun j hj h0 => ?_⟩
  rw [Tree.acceptNode_length] at hj
  obtain ⟨hlt, hacc⟩ := h.2 j hj h0
  rw [Tree.acceptNode_parent hj, Tree.acceptNode_accept hj, Tree.acceptNode_accept (hlt.trans hj)]
  exact ⟨hlt, Or.imp (fun hmem => Tree.parent_mem_path h hi hmem h0) hacc⟩

/-! Pruning keeps the committed node and the accepted nodes below it, in their order. -/

/-- The nodes that pruning to a committed node keeps. -/
def Tree.keepOf (t : Tree) (c : Nat) : List Nat :=
  (List.range t.nodes.length).filter (fun i => i = c || (i ≠ c && (t.path 257 i).contains c && (t.node i).accept))

/-- A kept node as it stands in the pruned tree. -/
def Tree.kept (t : Tree) (c i : Nat) : TNode :=
  { t.node i with accept := false, parent := if i = c then 0 else (t.keepOf c).idxOf (t.node i).parent }

theorem Tree.prune_eq (t : Tree) : t.prune.1 = {
    base := t.base + (t.committed 256 0).length
    nodes := (t.keepOf ((t.committed 256 0).getLastD 0)).map (t.kept ((t.committed 256 0).getLastD 0)) } := rfl

theorem Tree.mem_keepOf {c : Nat} : i ∈ t.keepOf c ↔ i < t.nodes.length ∧ (i = c ∨ c ∈ t.path 257 i ∧ (t.node i).accept = true) := by
  simp only [Tree.keepOf, List.mem_filter, List.mem_range, Bool.or_eq_true, Bool.and_eq_true, decide_eq_true_iff, List.contains_iff_mem]
  constructor
  · rintro ⟨hi, rfl | ⟨⟨_, hc⟩, ha⟩⟩
    · exact ⟨hi, .inl rfl⟩
    · exact ⟨hi, .inr ⟨hc, ha⟩⟩
  · rintro ⟨hi, hor⟩
    refine ⟨hi, ?_⟩
    by_cases hic : i = c
    · exact .inl hic
    · obtain ⟨hc, ha⟩ := hor.resolve_left hic
      exact .inr ⟨⟨hic, hc⟩, ha⟩

/-- The parent of a kept node other than the committed one is kept. -/
theorem Tree.parent_mem_keepOf (h : t.shape) {c : Nat} (hi : i ∈ t.keepOf c) (hne : i ≠ c) :
    (t.node i).parent ∈ t.keepOf c ∧ (t.node i).parent < i := by
  obtain ⟨hlen, hor⟩ := Tree.mem_keepOf.mp hi
  obtain ⟨hc, ha⟩ := hor.resolve_left hne
  have h0 : 0 < i := by
    by_contra hz
    obtain rfl : i = 0 := by omega
    rw [Tree.path_zero, List.mem_singleton] at hc
    exact hne hc.symm
  obtain ⟨hlt, hacc⟩ := h.2 i hlen h0
  rw [t.path_cons h hlen h0, List.mem_cons] at hc
  exact ⟨Tree.mem_keepOf.mpr ⟨hlt.trans hlen, .inr ⟨hc.resolve_left (Ne.symm hne), hacc ha⟩⟩, hlt⟩

theorem Tree.keepOf_sorted (t : Tree) (c : Nat) : (t.keepOf c).Pairwise (· < ·) := List.pairwise_lt_range.filter _

theorem idxOf_lt_of_sorted {l : List Nat} (hs : l.Pairwise (· < ·)) {k p : Nat} (hk : k < l.length) (hp : p ∈ l) (hlt : p < l[k]) :
    l.idxOf p < k := by
  by_contra hge
  have hlen : l.idxOf p < l.length := List.idxOf_lt_length_of_mem hp
  have hget : l[l.idxOf p] = p := List.getElem_idxOf hlen
  rcases Nat.lt_or_ge k (l.idxOf p) with hkp | hkp
  · have := List.pairwise_iff_getElem.mp hs k (l.idxOf p) hk hlen hkp
    omega
  · have heq : l.idxOf p = k := by omega
    simp only [heq] at hget
    omega

theorem Tree.shape_pruned (h : t.shape) (b c : Nat) : ({ base := b, nodes := (t.keepOf c).map (t.kept c) } : Tree).shape := by
  have hlen : (t.keepOf c).length ≤ t.nodes.length := (List.length_filter_le ..).trans_eq List.length_range
  refine ⟨by rw [List.length_map]; exact hlen.trans h.1, fun k hk h0 => ?_⟩
  rw [List.length_map] at hk
  have hnode : Tree.node { base := b, nodes := (t.keepOf c).map (t.kept c) } k = t.kept c (t.keepOf c)[k] := by
    rw [Tree.node, List.getElem?_map, List.getElem?_eq_getElem hk]
    rfl
  rw [hnode]
  refine ⟨?_, fun ha => nomatch ha⟩
  rw [Tree.kept]
  by_cases hc : (t.keepOf c)[k] = c
  · rw [if_pos hc]
    exact h0
  · rw [if_neg hc]
    obtain ⟨hmem, hlt⟩ := Tree.parent_mem_keepOf h (List.getElem_mem hk) hc
    exact idxOf_lt_of_sorted (t.keepOf_sorted c) hk hmem hlt

theorem Tree.prune_length : t.prune.1.nodes.length ≤ t.nodes.length := by
  rw [Tree.prune_eq, List.length_map]
  exact (List.length_filter_le ..).trans_eq List.length_range

end

/-- Settles O53: appending, accepting and pruning node by node; depths and masks follow from a node's path being the node and then its
parent's path. -/
theorem treeShape : Obligations.TreeShape := by
  unfold Obligations.TreeShape
  intro t n i h
  refine ⟨Tree.shape_append h, fun hi => ⟨Tree.shape_acceptNode h hi, ?_⟩, fun _ => ⟨?_, rfl, Tree.prune_length⟩, fun h0 hi => ⟨?_, ?_, ?_⟩,
    rfl, rfl⟩
  · exact (Tree.acceptNode_accept hi).mpr (.inl (t.mem_path_self i))
  · rw [Tree.prune_eq]
    exact Tree.shape_pruned h ..
  · exact t.depth_succ h hi h0
  · rw [Tree.pos, Tree.pos, t.depth_succ h hi h0, Nat.add_assoc]
  · intro j
    rw [Tree.testBit_mask, Tree.testBit_mask, t.path_cons h hi h0]
    simp only [List.mem_cons, Bool.decide_or]

end Sys2Proof.Machine

/-! SUPPORT. A join.t given up as another split moves on: the predicate that it names is written (R167), outside of what the frames of
O40 to O43 and O48 allow. -/

namespace Sys2Proof.Machine

/-- Lane 0 is about to reach its reconvergence address 12, where lane 1 waits since PT 0 at a join.t into p1 whose time is over; p1 of lane 1
is still 1. -/
def lateJoinGroup : Ctx :=
  { stream := .lane, alive := 3, seg := 8, p := [(1, 2)], stack := [{ isSet := true, pc := 12, join := none, mask := 3 }],
    splits := [(0, { pc := 0, mask := 1, j := some 12 }), (1, { pc := 12, mask := 2, j := some 12, wait := .join 0 (some (0, 1, 2)) })] }

/-- The group of block 0 at PT 1, split 0 about to issue; its v10 pair leads to the start of its block's ASP. -/
def lateJoinState : State :=
  { State.reset with
    pt := 1, cur := (ctxKey 0 0, 0), blocks := [(0, placedBlock)], ctxs := [(ctxKey 0 0, lateJoinGroup.wv 0 11 0x40000000)] }

/-- Whether the instruction issues in lane 0 alone, goes on without a trap, and leaves 0 in p1 of lane 1, where it found 1. -/
def givesUp (i : Instr) : Bool :=
  (lateJoinState.issues i).any fun x => decide (x.cid = ctxKey 0 0 ∧ x.k = 0 ∧ x.part = (1 : Mask)) && x.c.rp 1 1 && !x.c.kaBusy &&
    match exec i lateJoinState with
    | .next t => (t.ctxs.find? (ctxKey 0 0)).any fun c => !c.rp 1 1 && (c.splits.find? 0).all (·.parked.isNone)
    | _ => false

/-- What an instruction that passes that test shows. -/
theorem exists_of_givesUp {i : Instr} (h : givesUp i = true) : ∃ x t c, lateJoinState.issues i = some x ∧ x.k = 0 ∧ x.part = 1 ∧
    exec i lateJoinState = .next t ∧ t.ctxs.find? x.cid = some c ∧ c.p ≠ x.c.p ∧ c.rp 1 1 ≠ x.c.rp 1 1 ∧
    ∀ sp, c.splits.find? 0 = some sp → sp.parked = none := by
  obtain ⟨x, hx, hp⟩ := (Option.any_eq_true _ _).mp h
  simp only [Bool.and_eq_true, decide_eq_true_iff, Bool.not_eq_true'] at hp
  obtain ⟨⟨⟨⟨hcid, hk, hpart⟩, hone⟩, -⟩, hgo⟩ := hp
  split at hgo
  · next t ht =>
    obtain ⟨c, hc, hzero⟩ := (Option.any_eq_true _ _).mp hgo
    simp only [Bool.and_eq_true, Bool.not_eq_true', Option.all_eq_true, Option.isNone_iff_eq_none] at hzero
    have hne : c.rp 1 1 ≠ x.c.rp 1 1 := by
      rw [hzero.1, hone]
      exact Bool.false_ne_true
    exact ⟨x, t, c, hx, hk, hpart, ht, hcid ▸ hc, fun heq => hne (by rw [Ctx.rp, Ctx.rp, heq]), hne, hzero.2⟩
  · exact absurd hgo Bool.false_ne_true

/-- 1 into p0. -/
def oneIntoP0 : Opr := { gn := false, gp := 7, fs := 0, d := .pred 0, a := .imm, b := .zero, c := .pred 7, imm := 1 }
/-- v8 of v10 and v12. -/
def v8OfV10 : Opr := { gn := false, gp := 7, fs := 0, d := .v 8, a := .v 10, b := .v 12, c := .none, imm := 0 }
/-- The immediate into x0. -/
def ix0OfImm : Opr := { gn := false, gp := 7, fs := 0, d := .ix 0, a := .imm, b := .none, c := .none, imm := 0 }

set_option maxRecDepth 100000 in
theorem givesUp_sel : givesUp (.sel oneIntoP0 .b32) = true := by decide
set_option maxRecDepth 100000 in
theorem givesUp_div : givesUp (.div { v8OfV10 with fs := 1 } .s32) = true := by decide
set_option maxRecDepth 100000 in
theorem givesUp_fadd : givesUp (.fadd { v8OfV10 with fs := 1 } .f32 .rne) = true := by decide
set_option maxRecDepth 100000 in
theorem givesUp_ixset : givesUp (.ixset ix0OfImm) = true := by decide
set_option maxRecDepth 100000 in
theorem givesUp_ld : givesUp (.ld { v8OfV10 with b := .none, fs := 1 } .n32 .rlx .grp) = true := by decide

/-- Refutes O40: sel into p0 moves lane 0 on to its reconvergence address, and the join.t of lane 1, whose time is over, writes 0 to p1 of
lane 1, which the destination does not cover. -/
theorem not_registerResultsFrame : ¬ Obligations.RegisterResultsFrame := by
  intro hall
  obtain ⟨x, t, c, hx, -, hpart, ht, hc, -, hne, -⟩ := exists_of_givesUp givesUp_sel
  obtain ⟨-, -, -, d, hd, -, -, -, hpred⟩ := hall _ _ _ _ rfl hx ht
  obtain rfl : c = d := Option.some.inj (hc.symm.trans hd)
  refine hne (hpred 1 (by decide) 1 ?_)
  rw [Iss.coversP, hpart]
  rfl

/-- Refutes O41: div moves lane 0 on, and lane 1's join.t, given up, writes its predicate. -/
theorem not_lateResultsFrame : ¬ Obligations.LateResultsFrame := by
  intro hall
  obtain ⟨x, t, c, hx, -, -, ht, hc, hne, -⟩ := exists_of_givesUp givesUp_div
  obtain ⟨-, -, -, d, _, hd, hframe, -⟩ := hall _ _ _ _ rfl hx ht
  obtain rfl : c = d := Option.some.inj (hc.symm.trans hd)
  exact hne (congrArg (fun d : Ctx => d.p) hframe :)

/-- Refutes O42: fadd moves lane 0 on, and lane 1's join.t, given up, writes its predicate. -/
theorem not_roundingFrame : ¬ Obligations.RoundingFrame := by
  intro hall
  obtain ⟨x, t, c, hx, -, -, ht, hc, hne, -⟩ := exists_of_givesUp givesUp_fadd
  obtain ⟨-, -, -, d, hd, hframe, -⟩ := hall _ _ _ _ _ rfl hx ht
  obtain rfl : c = d := Option.some.inj (hc.symm.trans hd)
  exact hne (congrArg (fun d : Ctx => d.p) hframe :)

/-- Refutes O43: ixset moves lane 0 on, and lane 1's join.t, given up, writes its predicate. -/
theorem not_indexAndKulischFrame : ¬ Obligations.IndexAndKulischFrame := by
  intro hall
  obtain ⟨x, t, c, hx, -, -, ht, hc, hne, -⟩ := exists_of_givesUp givesUp_ixset
  have ho : x.o = ix0OfImm := State.opr_of_issues hx rfl
  obtain ⟨-, d, hd, hframe, -⟩ := (hall _ _ _ x 0 hx ht).1 (.inl (by rw [ho])) (by rw [ho]; rfl)
  obtain rfl : c = d := Option.some.inj (hc.symm.trans hd)
  exact hne (congrArg (fun d : Ctx => d.p) hframe :)

/-- Refutes O48: a load from the block's own ASP is confirmed as it issues and moves lane 0 on, and lane 1's join.t, given up, writes its
predicate. -/
theorem not_memoryIssueFrame : ¬ Obligations.MemoryIssueFrame := by
  intro hall
  obtain ⟨x, t, c, hx, hk, -, ht, hc, hne, -, hgoes⟩ := exists_of_givesUp givesUp_ld
  have hstays : ∀ c' sp, t.ctxs.find? x.cid = some c' → c'.splits.find? x.k = some sp → sp.parked = none := fun c' sp hc' hsp => by
    obtain rfl : c = c' := Option.some.inj (hc.symm.trans hc')
    rw [hk] at hsp
    exact hgoes sp hsp
  obtain ⟨-, -, -, -, d, hd, -, -, hp, -⟩ := hall _ _ _ _ rfl hx ht hstays
  obtain rfl : c = d := Option.some.inj (hc.symm.trans hd)
  exact hne hp

end Sys2Proof.Machine

/-! SUPPORT. Leases, writes and the readers that wait for them (R71, R95, R96). -/

namespace Sys2Proof.Machine

/-- The greatest first component of a list of pairs, if it has any. -/
theorem foldl_latest_iff (ps : List (Nat × Nat)) (h : Nat) :
    ps.foldl (fun a p => some (Nat.max (a.getD 0) p.1)) none = some h ↔ (∃ p ∈ ps, p.1 = h) ∧ ∀ p ∈ ps, p.1 ≤ h := by
  induction ps using List.reverseRecOn generalizing h with
  | nil => exact ⟨fun h => (nomatch h), fun ⟨⟨p, hp, _⟩, _⟩ => absurd hp List.not_mem_nil⟩
  | append_singleton ps p ih =>
    rw [List.foldl_append, List.foldl_cons, List.foldl_nil, Option.some.injEq]
    simp only [List.mem_append, List.mem_singleton]
    cases hrest : ps.foldl (fun a p => some (Nat.max (a.getD 0) p.1)) none with
    | none =>
      have hnil : ps = [] := by
        induction ps using List.reverseRecOn with
        | nil => rfl
        | append_singleton l a _ => rw [List.foldl_append] at hrest; cases hrest
      subst hnil
      simpa using le_of_eq
    | some m =>
      obtain ⟨⟨q, hq, hqm⟩, hall⟩ := (ih m).mp hrest
      rw [Option.getD_some, show m.max p.1 = max m p.1 from rfl]
      constructor
      · intro heq
        refine ⟨(Nat.le_total m p.1).elim (fun hle => ⟨p, .inr rfl, by omega⟩) (fun hle => ⟨q, .inl hq, by omega⟩), fun r hr => ?_⟩
        rcases hr with hr | rfl
        · have := hall r hr
          omega
        · omega
      · rintro ⟨⟨r, hr, hrh⟩, hle⟩
        have hp := hle p (.inr rfl)
        have hm := hle q (.inl hq)
        rcases hr with hr | rfl
        · have := hall r hr
          omega
        · omega

section
variable {s u : State} {v v' w w' r l limit h : Nat}

/-- A reader's hold is the latest hidden write of another party (R96). -/
theorem State.readHold_eq_some_iff : s.readHold r l = some h ↔ ∃ d, s.ms.dir.find? l = some d ∧
    (∃ p ∈ d.pend, p.1 = h ∧ s.pt < h ∧ p.2 ≠ r) ∧ ∀ p ∈ d.pend, s.pt < p.1 → p.2 ≠ r → p.1 ≤ h := by
  rw [State.readHold]
  cases s.ms.dir.find? l with
  | none => exact ⟨fun h => (nomatch h), fun ⟨_, hd, _⟩ => nomatch hd⟩
  | some d =>
    dsimp only
    rw [foldl_latest_iff]
    simp only [List.mem_filter, Bool.and_eq_true, decide_eq_true_iff, Option.some.injEq]
    constructor
    · rintro ⟨⟨p, ⟨hp, hpt, hr⟩, rfl⟩, hall⟩
      exact ⟨d, rfl, ⟨p, hp, rfl, hpt, hr⟩, fun q hq hqt hqr => hall q ⟨hq, hqt, hqr⟩⟩
    · rintro ⟨_, rfl, ⟨p, hp, rfl, hpt, hr⟩, hall⟩
      exact ⟨⟨p, ⟨hp, hpt, hr⟩, rfl⟩, fun q ⟨hq, hqt, hqr⟩ => hall q hq hqt hqr⟩

theorem State.orderWrite_time : (s.orderWrite v w l).2 = Nat.max s.pt (Nat.max (s.dirOf v l).exp (s.dirOf v l).gprev) + 1 := rfl

/-- The line's entry after a write, with the write's completion time in it. -/
theorem State.orderWrite_entry : ∃ d, (s.orderWrite v w l).1.ms.dir.find? l = some d ∧ d.gprev = (s.orderWrite v w l).2 ∧
    ((s.orderWrite v w l).2, w) ∈ d.pend :=
  ⟨_, SMap.find?_put_same .., rfl, List.mem_cons_self⟩

theorem State.grantLease_entry : ∃ d, (s.grantLease v l limit).1.ms.dir.find? l = some d ∧ (s.grantLease v l limit).2 ≤ d.exp :=
  ⟨_, SMap.find?_put_same .., Nat.le_max_right ..⟩

theorem State.dirOf_of_find {d : Dir} (hd : s.ms.dir.find? l = some d) : s.dirOf v l = d := by
  rw [State.dirOf, hd]
  rfl

/-- A write completes after the leases and the last write that its line's entry knows. -/
theorem State.lt_orderWrite_of_entry {d : Dir} (hd : s.ms.dir.find? l = some d) :
    d.exp < (s.orderWrite v w l).2 ∧ d.gprev < (s.orderWrite v w l).2 := by
  rw [State.orderWrite_time, State.dirOf_of_find hd]
  have h1 : d.exp ≤ Nat.max d.exp d.gprev := Nat.le_max_left ..
  have h2 : d.gprev ≤ Nat.max d.exp d.gprev := Nat.le_max_right ..
  have h3 : Nat.max d.exp d.gprev ≤ Nat.max s.pt (Nat.max d.exp d.gprev) := Nat.le_max_right ..
  omega

theorem State.readHold_after_orderWrite (hr : r ≠ w) :
    ∃ h, (s.orderWrite v w l).1.readHold r l = some h ∧ (s.orderWrite v w l).2 ≤ h := by
  obtain ⟨d, hd, -, hmem⟩ := State.orderWrite_entry (s := s) (v := v) (w := w) (l := l)
  have hpt : s.pt < (s.orderWrite v w l).2 := Nat.lt_succ_of_le (Nat.le_max_left ..)
  have hin : ((s.orderWrite v w l).2, w) ∈ d.pend.filter (fun p => (s.orderWrite v w l).1.pt < p.1 && p.2 ≠ r) := by
    simp only [List.mem_filter, Bool.and_eq_true, decide_eq_true_iff]
    exact ⟨hmem, hpt, hr.symm⟩
  rw [State.readHold, hd]
  dsimp only
  cases hfold : (d.pend.filter (fun p => (s.orderWrite v w l).1.pt < p.1 && p.2 ≠ r)).foldl
      (fun a p => some (Nat.max (a.getD 0) p.1)) none with
  | none =>
    rw [(List.dropLast_append_getLast (List.ne_nil_of_mem hin)).symm, List.foldl_append] at hfold
    cases hfold
  | some h => exact ⟨h, rfl, ((foldl_latest_iff _ h).mp hfold).2 _ hin⟩

end

/-- Settles O45: a line's entry carries its latest lease and its last write's completion time, so the next completion time lies after
both; the hold of a reader is the greatest pending time of another party. -/
theorem leasesBoundWrites : Obligations.LeasesBoundWrites := by
  unfold Obligations.LeasesBoundWrites
  intro s u v v' w w' r l limit h
  refine ⟨State.orderWrite_time, fun hu => ?_, Nat.min_le_right .., fun hu => ?_, State.readHold_after_orderWrite,
    State.readHold_eq_some_iff⟩
  · obtain ⟨d, hd, hg, -⟩ := State.orderWrite_entry (s := s) (v := v) (w := w) (l := l)
    exact hg ▸ (State.lt_orderWrite_of_entry (hu.trans hd)).2
  · obtain ⟨d, hd, hle⟩ := State.grantLease_entry (s := s) (v := v) (l := l) (limit := limit)
    exact hle.trans_lt (State.lt_orderWrite_of_entry (hu.trans hd)).1

end Sys2Proof.Machine

/-! SUPPORT. Bytes of memory, of a block's ASP and of an ACS element read back after a write (R4, R87, R89, R408). -/

namespace Sys2Proof.Machine

/-! ### Runs of bytes and lines rekeyed -/

theorem MemSys.byte_setByte (m : MemSys) (pa a : Nat) (b : Byte) : (m.setByte pa b).byte a = if a = pa then b else m.byte a := by
  rw [MemSys.byte, MemSys.setByte]
  split
  · next h => rw [h, SMap.get_set_same]
  · next h => rw [SMap.get_set_ne _ _ _ _ h]; rfl

theorem putRun_mat (bs : List Byte) : ∀ (m : MemSys) (pa : Nat), (putRun m pa bs).mat = m.mat := by
  induction bs with
  | nil => exact fun _ _ => rfl
  | cons b bs ih => exact fun m pa => ih (m.setByte pa b) (pa + 1)

theorem putRun_byte_out {a : Nat} (bs : List Byte) : ∀ {m : MemSys} {pa : Nat}, (a < pa ∨ pa + bs.length ≤ a) →
    (putRun m pa bs).byte a = m.byte a := by
  induction bs with
  | nil => exact fun _ => rfl
  | cons b bs ih =>
    intro m pa h
    rw [List.length_cons] at h
    rw [putRun, ih (by omega), MemSys.byte_setByte, if_neg (by omega)]

theorem putRun_byte_in (bs : List Byte) : ∀ {m : MemSys} {pa i : Nat} (h : i < bs.length), (putRun m pa bs).byte (pa + i) = bs[i] := by
  induction bs with
  | nil => exact fun h => absurd h (Nat.not_lt_zero _)
  | cons b bs ih =>
    intro m pa i h
    cases i with
    | zero => rw [putRun, putRun_byte_out bs (by omega), MemSys.byte_setByte, if_pos (Nat.add_zero pa)]; rfl
    | succ i =>
      rw [putRun, show pa + (i + 1) = pa + 1 + i by omega, ih (Nat.lt_of_succ_lt_succ h)]
      rfl

section
variable {s t : State} {key k pa a l : Nat}

/-- A byte reads the same where its line, the line's material and the key's material are the same. -/
theorem State.rdByte_congr (hkey : t.keyMat k = s.keyMat k) (hmat : SMap.get 0 t.ms.mat (a / 128) = SMap.get 0 s.ms.mat (a / 128))
    (hb : ∀ i < 128, t.ms.byte (a / 128 * 128 + i) = s.ms.byte (a / 128 * 128 + i)) : t.rdByte k a = s.rdByte k a := by
  have hline : t.ms.line (a / 128) = s.ms.line (a / 128) := List.map_congr_left fun i hi => hb i (List.mem_range.mp hi)
  have hbyte : t.ms.byte a = s.ms.byte a := by
    have := hb (a % 128) (Nat.mod_lt _ (by decide))
    rwa [Nat.div_add_mod'] at this
  rw [State.rdByte, State.rdByte, hkey, hmat, hline, hbyte]

theorem State.rdByte_of_mat (hmat : SMap.get 0 s.ms.mat (a / 128) = s.keyMat key) : s.rdByte key a = s.ms.byte a := if_pos hmat

theorem State.rekeyLine_keyMat : (s.rekeyLine key l).keyMat k = s.keyMat k := by
  rw [State.rekeyLine]
  split
  · rfl
  · rfl

theorem State.rekeyLine_mat (j : Nat) :
    SMap.get 0 (s.rekeyLine key l).ms.mat j = if j = l then s.keyMat key else SMap.get 0 s.ms.mat j := by
  rw [State.rekeyLine]
  split
  · next h =>
    split
    · next hj => rw [hj, h]
    · rfl
  · rw [State.putLine]
    dsimp only
    rw [putRun_mat]
    split
    · next hj => rw [hj, SMap.get_set_same]
    · next hj => rw [SMap.get_set_ne _ _ _ _ hj]

theorem State.putLine_byte (s : State) (l r a : Nat) (bs : List Byte) :
    (s.putLine l r bs).ms.byte a = (putRun s.ms (l * 128) bs).byte a := rfl

theorem State.rdBytes_length (s : State) (key pa n : Nat) : (s.rdBytes key pa n).length = n := by
  rw [State.rdBytes, List.length_map, List.length_range]

theorem State.rekeyLine_byte_out (h : a / 128 ≠ l) : (s.rekeyLine key l).ms.byte a = s.ms.byte a := by
  by_cases hm : SMap.get 0 s.ms.mat l = s.keyMat key
  · rw [State.rekeyLine, if_pos hm]
  · rw [State.rekeyLine, if_neg hm, State.putLine_byte, putRun_byte_out _ (by rw [State.rdBytes_length]; omega)]

theorem State.rekeyLine_rdByte_out (h : a / 128 ≠ l) : (s.rekeyLine key l).rdByte k a = s.rdByte k a :=
  State.rdByte_congr State.rekeyLine_keyMat ((State.rekeyLine_mat _).trans (if_neg h)) fun i hi =>
    State.rekeyLine_byte_out (by omega)

/-- Under the key itself a rekeyed line reads as before. -/
theorem State.rekeyLine_rdByte : (s.rekeyLine key l).rdByte key a = s.rdByte key a := by
  by_cases h : a / 128 = l
  · by_cases hm : SMap.get 0 s.ms.mat l = s.keyMat key
    · rw [State.rekeyLine, if_pos hm]
    · have hlen : a % 128 < (s.rdBytes key (l * 128) 128).length := by
        rw [State.rdBytes_length]
        omega
      have ha : l * 128 + a % 128 = a := by omega
      have hmat : SMap.get 0 (s.rekeyLine key l).ms.mat (a / 128) = (s.rekeyLine key l).keyMat key := by
        rw [State.rekeyLine_mat, State.rekeyLine_keyMat, if_pos h]
      have hread : (s.rdBytes key (l * 128) 128)[a % 128] = s.rdByte key (l * 128 + a % 128) := by
        simp only [State.rdBytes, List.getElem_map, List.getElem_range]
      have hin := putRun_byte_in (m := s.ms) (pa := l * 128) _ hlen
      rw [ha] at hread hin
      rw [State.rdByte_of_mat hmat, State.rekeyLine, if_neg hm, State.putLine_byte, hin, hread]
  · exact State.rekeyLine_rdByte_out h

/-- Lines rekeyed one after another. -/
def State.rekeyLines (s : State) (key : Nat) (ls : List Nat) : State := ls.foldl (fun s l => s.rekeyLine key l) s

theorem State.rekeyLines_keyMat (ls : List Nat) : ∀ {s : State}, (s.rekeyLines key ls).keyMat k = s.keyMat k := by
  induction ls with
  | nil => exact rfl
  | cons l ls ih => exact ih.trans State.rekeyLine_keyMat

theorem State.rekeyLines_rdByte (ls : List Nat) : ∀ {s : State}, (s.rekeyLines key ls).rdByte key a = s.rdByte key a := by
  induction ls with
  | nil => exact rfl
  | cons l ls ih => exact ih.trans State.rekeyLine_rdByte

theorem State.rekeyLines_out (ls : List Nat) : ∀ {s : State}, a / 128 ∉ ls →
    SMap.get 0 (s.rekeyLines key ls).ms.mat (a / 128) = SMap.get 0 s.ms.mat (a / 128) ∧
    ∀ b, b / 128 = a / 128 → (s.rekeyLines key ls).ms.byte b = s.ms.byte b := by
  induction ls with
  | nil => exact fun _ => ⟨rfl, fun _ _ => rfl⟩
  | cons l ls ih =>
    intro s h
    rw [List.mem_cons, not_or] at h
    obtain ⟨hl, hls⟩ := h
    obtain ⟨hmat, hbyte⟩ := ih (s := s.rekeyLine key l) hls
    exact ⟨hmat.trans ((State.rekeyLine_mat _).trans (if_neg hl)),
      fun b hb => (hbyte b hb).trans (State.rekeyLine_byte_out (hb ▸ hl))⟩

theorem State.rekeyLines_mat (ls : List Nat) : ∀ {s : State}, l ∈ ls → SMap.get 0 (s.rekeyLines key ls).ms.mat l = s.keyMat key := by
  induction ls using List.reverseRecOn with
  | nil => exact fun h => absurd h List.not_mem_nil
  | append_singleton ls j ih =>
    intro s h
    have happ : s.rekeyLines key (ls ++ [j]) = (s.rekeyLines key ls).rekeyLine key j := List.foldl_append ..
    rw [happ, State.rekeyLine_mat, State.rekeyLines_keyMat]
    split
    · rfl
    · next hj => exact ih ((List.mem_append.mp h).resolve_right fun h => hj (List.mem_singleton.mp h))

variable {bs : List Byte}

theorem State.wrBytes_eq : s.wrBytes key pa bs =
    { s.rekeyLines key (linesOf pa bs.length) with ms := putRun (s.rekeyLines key (linesOf pa bs.length)).ms pa bs } := rfl

theorem mem_linesOf {i n : Nat} (h : i < n) : (pa + i) / 128 ∈ linesOf pa n :=
  List.mem_map.mpr ⟨(pa + i) / 128 - pa / 128, List.mem_range.mpr (by omega), by omega⟩

theorem State.wrBytes_keyMat : (s.wrBytes key pa bs).keyMat k = s.keyMat k := State.rekeyLines_keyMat _

theorem State.wrBytes_mat (j : Nat) :
    SMap.get 0 (s.wrBytes key pa bs).ms.mat j = SMap.get 0 (s.rekeyLines key (linesOf pa bs.length)).ms.mat j := by
  rw [State.wrBytes_eq]
  dsimp only
  rw [putRun_mat]

/-- Bytes written under a key read back under it. -/
theorem State.wrBytes_rdByte_in {i : Nat} (h : i < bs.length) : (s.wrBytes key pa bs).rdByte key (pa + i) = bs[i] := by
  have hmat : SMap.get 0 (s.wrBytes key pa bs).ms.mat ((pa + i) / 128) = (s.wrBytes key pa bs).keyMat key := by
    rw [State.wrBytes_mat, State.wrBytes_keyMat, State.rekeyLines_mat _ (mem_linesOf h)]
  rw [State.rdByte_of_mat hmat]
  exact putRun_byte_in bs h

/-- A line that the write does not touch reads as before under any key. -/
theorem State.wrBytes_rdByte_far (h : a / 128 ∉ linesOf pa bs.length) : (s.wrBytes key pa bs).rdByte k a = s.rdByte k a := by
  obtain ⟨hmat, hbyte⟩ := State.rekeyLines_out (key := key) (linesOf pa bs.length) (s := s) h
  refine State.rdByte_congr State.wrBytes_keyMat ((State.wrBytes_mat _).trans hmat) fun i hi => ?_
  have hline : (a / 128 * 128 + i) / 128 = a / 128 := by omega
  have hout : a / 128 * 128 + i < pa ∨ pa + bs.length ≤ a / 128 * 128 + i := by
    by_contra hin
    have := mem_linesOf (pa := pa) (i := a / 128 * 128 + i - pa) (n := bs.length) (by omega)
    rw [show pa + (a / 128 * 128 + i - pa) = a / 128 * 128 + i by omega, hline] at this
    exact h this
  exact (putRun_byte_out bs hout).trans (hbyte _ hline)

/-- No other byte read under the key of a write changes. -/
theorem State.wrBytes_rdByte_out (h : a < pa ∨ pa + bs.length ≤ a) : (s.wrBytes key pa bs).rdByte key a = s.rdByte key a := by
  by_cases hl : a / 128 ∈ linesOf pa bs.length
  · have hrek : SMap.get 0 (s.rekeyLines key (linesOf pa bs.length)).ms.mat (a / 128) =
        (s.rekeyLines key (linesOf pa bs.length)).keyMat key := by
      rw [State.rekeyLines_mat _ hl, State.rekeyLines_keyMat]
    have hmat : SMap.get 0 (s.wrBytes key pa bs).ms.mat (a / 128) = (s.wrBytes key pa bs).keyMat key :=
      (State.wrBytes_mat _).trans hrek
    rw [State.rdByte_of_mat hmat, ← State.rekeyLines_rdByte (linesOf pa bs.length), State.rdByte_of_mat hrek]
    exact putRun_byte_out bs h
  · exact State.wrBytes_rdByte_far hl

end

/-! ### ASP and ACS -/

theorem leNat_lt (bs : List Byte) : leNat bs < 256 ^ bs.length := by
  induction bs with
  | nil => exact Nat.one_pos
  | cons b bs ih =>
    have hb := b.isLt
    rw [leNat, List.length_cons, Nat.pow_succ]
    omega

section
variable {b : Block} {o a n k v : Nat}

theorem Block.aspWr_asp (bs : List Byte) : (b.aspWr o bs).asp = bs.zipIdx.foldl (fun m p => SMap.set 0 m (o + p.2) p.1) b.asp := rfl

/-- A run of bytes set one after another. -/
theorem get_foldl_set (bs : List Byte) (j : Nat) : ∀ (m : SMap Byte) (i : Nat),
    SMap.get 0 ((bs.zipIdx i).foldl (fun m p => SMap.set 0 m (o + p.2) p.1) m) j =
      if h : o + i ≤ j ∧ j < o + i + bs.length then bs[j - (o + i)] else SMap.get 0 m j := by
  induction bs with
  | nil =>
    intro m i
    rw [dif_neg (by rw [List.length_nil]; omega)]
    rfl
  | cons x bs ih =>
    intro m i
    rw [List.zipIdx_cons, List.foldl_cons, ih]
    by_cases hin : o + (i + 1) ≤ j ∧ j < o + (i + 1) + bs.length
    · rw [dif_pos hin, dif_pos (by rw [List.length_cons]; omega)]
      have : j - (o + i) = j - (o + (i + 1)) + 1 := by omega
      simp only [this, List.getElem_cons_succ]
    · rw [dif_neg hin]
      by_cases hj : j = o + i
      · subst hj
        rw [SMap.get_set_same, dif_pos (by rw [List.length_cons]; omega)]
        simp
      · rw [SMap.get_set_ne _ _ _ _ hj, dif_neg (by rw [List.length_cons]; omega)]

theorem Block.get_aspWr (bs : List Byte) (j : Nat) : SMap.get 0 (b.aspWr o bs).asp j =
    if h : o ≤ j ∧ j < o + bs.length then bs[j - o] else SMap.get 0 b.asp j := by
  rw [Block.aspWr_asp, get_foldl_set] <;> rfl

theorem Block.aspRd_aspWr (bs : List Byte) : (b.aspWr o bs).aspRd o bs.length = leNat bs := by
  rw [Block.aspRd]
  congr 1
  refine List.ext_getElem (by simp) fun i hi hi' => ?_
  rw [List.getElem_map, List.getElem_range, Block.get_aspWr, dif_pos (by omega)]
  simp

theorem Block.get_aspWr_out {bs : List Byte} (h : a < o ∨ o + bs.length ≤ a) :
    SMap.get 0 (b.aspWr o bs).asp a = SMap.get 0 b.asp a := by
  rw [Block.get_aspWr, dif_neg (by omega)]

theorem acsRd_eq_bits (b : Block) (o n : Nat) : b.acsRd o n = bits (SMap.get 0 b.acs (o / 16)).toNat (8 * (o % 16)) (8 * n) := by
  rw [Block.acsRd, bits, Nat.pow_mul, Nat.pow_mul]

/-- A bit of an element after a write to it. -/
theorem testBit_acsWr (i : Nat) : (SMap.get 0 (b.acsWr o n v).acs (o / 16)).toNat.testBit i =
    (decide (i < 128) && if 8 * (o % 16) ≤ i ∧ i < 8 * (o % 16) + 8 * n then v.testBit (i - 8 * (o % 16))
      else (SMap.get 0 b.acs (o / 16)).toNat.testBit i) := by
  rw [Block.acsWr]
  dsimp only
  rw [SMap.get_set_same, BitVec.toNat_ofNat, Nat.testBit_mod_two_pow, testBit_putBits]

theorem Block.acsRd_acsWr (h : o % 16 + n ≤ 16) (hv : v < 256 ^ n) : (b.acsWr o n v).acsRd o n = v := by
  rw [acsRd_eq_bits]
  refine bits_eq_of_testBit (hv.trans_eq (Nat.pow_mul 2 8 n).symm) fun i hi => ?_
  rw [testBit_acsWr, decide_eq_true (by omega), if_pos (by omega), Bool.true_and, Nat.add_sub_cancel_left]

theorem Block.acsRd_acsWr_out (ha : a % 16 + k ≤ 16) (h : a / 16 ≠ o / 16 ∨ a + k ≤ o ∨ o + n ≤ a) :
    (b.acsWr o n v).acsRd a k = b.acsRd a k := by
  rw [acsRd_eq_bits, acsRd_eq_bits]
  by_cases hel : a / 16 = o / 16
  · refine Nat.eq_of_testBit_eq fun i => ?_
    rw [testBit_bits, testBit_bits, hel, testBit_acsWr]
    by_cases hi : i < 8 * k
    · rw [decide_eq_true (show 8 * (a % 16) + i < 128 by omega), if_neg (by omega), Bool.true_and]
    · rw [decide_eq_false hi, Bool.false_and, Bool.false_and]
  · rw [Block.acsWr]
    dsimp only
    rw [SMap.get_set_ne _ _ _ _ hel]

end

/-- Settles O44: the lines of a write are made to hold their bytes under its key before the bytes are placed, so what is read under that
key is what was placed or what was read before; an ASP is a map of bytes, an ACS element a field of 128 bits. -/
theorem bytesReadBack : Obligations.BytesReadBack := by
  unfold Obligations.BytesReadBack
  intro s key pa a k bs b o n v
  exact ⟨fun i h => State.wrBytes_rdByte_in h, State.wrBytes_rdByte_out, State.wrBytes_rdByte_far, Block.aspRd_aspWr bs,
    Block.get_aspWr_out, fun h hv => Block.acsRd_acsWr h hv, fun _ ha h => Block.acsRd_acsWr_out ha h⟩

end Sys2Proof.Machine

/-! SUPPORT. What the checks of issue find is the trap taken (R186, R194, R197). -/

namespace Sys2Proof.Machine

/-! ### Every instruction with operands issues

Each kind of instruction runs its body through `State.issue`; the only case split of the proofs is over the instructions of the kind. -/

theorem exec_issue_of_plainResult {i : Instr} (h : Instr.plainResult i = true) (s : State) :
    ∃ body, exec i s = s.issue i false body := by
  cases i
  all_goals first
    | exact absurd h Bool.false_ne_true
    | dsimp only [exec]
      dsimp only [execAdd, execSub, execMul, execMulhi, execMad, execMin, execMax, execAbs, execNeg, execAnd, execOr, execXor, execNot, execShl,
        execShr, execSar, execRol, execRor, execBfx, execBfi, execPopc, execClz, execCtz, execBrev, execSel, execMov, execLea,
        execCmp, execPand, execPor, execPxor, execPnot, execIxget, execFmin, execFmax, execFabs, execFneg, execFcmp, execFclass,
        execHadd, execHsub, execHmul, execHmad, execHmin, execHmax, execHsar, execHclamp, execPxunpk, execPxpack, State.fpPlain,
        State.pairs]
      exact ⟨_, rfl⟩

theorem exec_issue_of_lateResult {i : Instr} (h : Instr.lateResult i = true) (s : State) :
    ∃ body, exec i s = s.issue i false body := by
  cases i
  all_goals first
    | exact absurd h Bool.false_ne_true
    | dsimp only [exec]
      dsimp only [execDiv, execRem, execPerm, execLmask, execLgrp, execLred, execLpre, execFrcp, execFrsqrt, execFexp2, execFlog2, execFsin,
        execFcos, execFtanh, execRdpriv, execRdctr, State.special1]
      exact ⟨_, rfl⟩

theorem exec_issue_of_rounds {i : Instr} (h : Instr.rounds i ≠ none) (s : State) :
    ∃ body, exec i s = s.issue i false body := by
  cases i
  all_goals first
    | exact absurd rfl h
    | dsimp only [exec]
      dsimp only [execFadd, execFsub, execFmul, execFfma, execFrnd, execFcvt, execFcvti, execIcvtf, execFsqrt, execFdiv, execKaread,
        State.fpRound]
      exact ⟨_, rfl⟩

theorem exec_issue_of_isAccess {i : Instr} (h : Instr.isAccess i = true) (s : State) :
    ∃ body, exec i s = s.issue i false body := by
  cases i
  all_goals first
    | exact absurd h Bool.false_ne_true
    | dsimp only [exec]
      dsimp only [execLd, execSt, execAtom, execRed, execCas, execKast, execKald, execKaaddm, State.kaImage]
      exact ⟨_, rfl⟩

theorem exec_issue_of_rest {i : Instr} (h : i.opr? ≠ none) (hp : Instr.plainResult i ≠ true) (hl : Instr.lateResult i ≠ true)
    (hr : Instr.rounds i = none) (ha : Instr.isAccess i ≠ true) (hn : ∀ o, i ≠ .nop o ∧ i ≠ .join o ∧ i ≠ .joinT o) (s : State) :
    ∃ body, exec i s = s.issue i false body := by
  cases i
  case nop o => exact absurd rfl (hn o).1
  case join o => exact absurd rfl (hn o).2.1
  case joinT o => exact absurd rfl (hn o).2.2
  all_goals first
    | exact absurd rfl h
    | exact absurd rfl hp
    | exact absurd rfl hl
    | exact absurd hr (Option.some_ne_none _)
    | exact absurd rfl ha
    | dsimp only [exec]
      dsimp only [execIxset, execIxinc, execRgrow, execRshrink, execKaclr, execKaadd, execKamad, execFence, execPrefetch, execWaitAc, execAccLd,
        execBra, execBrx, execCall, execCallx, execRet, execExit, execMma, execMmas, execMmx, execMmt, execAccClr, execAccIn,
        execAccOut, execAccCvt, execMrpRd, execMrpWr, execRsdAlloc, execRsdLoad, execRsdPin, execRsdUnpin, execRsdFree, execRsdQuery,
        execTreeClr, execTreeAdd, execTreeMask, execTreePos, execTreeAccept, execTreePrune, execTreeRd, execKvFind, execKvInsert,
        execKvDelete, execCpy, execCpy2d, execDcx, execSrd, execColl, execLaunch, execBarArrive, execBarWait, execDqPush, execDqPop,
        execGangArrive, execGangWait, execTierHint, execTierPin, execTierUnpin, execTierQuery, execTrap, execSvc, execBrk,
        execTresume, execWrpriv, State.matMul, State.pinRsd, State.kvUpdate]
      exact ⟨_, rfl⟩

/-- An instruction with operands is one of `State.issue`; only nop, join and join.t are looked at when no lane takes part. -/
theorem exec_issue {i : Instr} (h : i.opr? ≠ none) (s : State) : ∃ always body, exec i s = s.issue i always body ∧
    (always = true → ∃ o, i = .nop o ∨ i = .join o ∨ i = .joinT o) := by
  by_cases hn : ∀ o, i ≠ .nop o ∧ i ≠ .join o ∧ i ≠ .joinT o
  · have hplain : ∃ body, exec i s = s.issue i false body := by
      by_cases hp : Instr.plainResult i = true
      · exact exec_issue_of_plainResult hp s
      by_cases hl : Instr.lateResult i = true
      · exact exec_issue_of_lateResult hl s
      by_cases hr : Instr.rounds i = none
      · by_cases ha : Instr.isAccess i = true
        · exact exec_issue_of_isAccess ha s
        · exact exec_issue_of_rest h hp hl hr ha hn s
      · exact exec_issue_of_rounds hr s
    obtain ⟨body, hbody⟩ := hplain
    exact ⟨false, body, hbody, fun h => (nomatch h)⟩
  · obtain ⟨o, ho⟩ := not_forall.mp hn
    by_cases hnop : i = .nop o
    · exact ⟨true, fun s x => s.retire x x.c, hnop ▸ exec_nop s o, fun _ => ⟨o, .inl hnop⟩⟩
    · by_cases hj : i = .join o
      · exact ⟨true, fun s x => s.joinWait x none [], hj ▸ exec_join s o, fun _ => ⟨o, .inr (.inl hj)⟩⟩
      · have ht : i = .joinT o := by
          by_contra ht
          exact ho ⟨hnop, hj, ht⟩
        subst ht
        exact ⟨true, _, (exec_joinT s o).trans rfl, fun _ => ⟨o, .inr (.inr rfl)⟩⟩

section
variable {s : State} {i : Instr} {always : Bool} {body : State → Iss → State} {x : Iss}

theorem State.issue_noThread (h : s.thread i = none) : s.issue i always body = .fault .noThread := by
  rw [State.issue, h]

theorem State.issue_check {t : TrapInfo} (hx : s.thread i = some x) (ht : x.check = some t) :
    s.issue i always body = .next (s.trapAt x t) := by
  rw [State.issue, hx]
  dsimp only
  rw [ht]

theorem State.issue_idle (hx : s.thread i = some x) (ht : x.check = none) (hp : x.part = 0) :
    s.issue i false body = .next (s.retire x x.c) := by
  rw [State.issue, hx]
  dsimp only
  rw [ht]
  exact if_pos ⟨hp, rfl⟩

/-- nop is looked at without a lane that takes part, and moves on all the same: it has no operand to wait for. -/
theorem execNop_idle {o : Opr} (hx : s.thread (.nop o) = some x) (ht : x.check = none) (hp : x.part = 0) :
    execNop o s = .next (s.retire x x.c) := by
  have hi : x.i = .nop o := (State.thread_opr hx).1
  have hpt : s.ptWait x = none := by
    rw [State.ptWait, hi]
    cases x.c.gRel with
    | none => rfl
    | some sc => rfl
  rw [execNop, State.issue, hx]
  dsimp only
  rw [ht]
  refine (if_neg fun h => nomatch h.2).trans ?_
  rw [hpt]
  cases x.flag with
  | none => rfl
  | some f => exact if_neg fun h => h.1 hp

theorem Iss.check_of_privOnly (hill : x.ill = false) (hrange : x.rangeFail = 0) (hpriv : x.c.priv = false) (hi : privOnly x.i = true)
    (hp : x.part ≠ 0) : x.check = some { cause := .perm, qual := qPriv } := by
  rw [Iss.check, if_neg (by rw [hill]; exact Bool.false_ne_true), if_neg (not_not.mpr hrange)]
  exact if_pos (by rw [hi, hpriv, decide_eq_true hp]; rfl)

end

/-- Settles O49: every instruction with operands goes through `State.issue`, which takes the trap that the checks find and moves on when no
lane takes part. -/
theorem issueChecks : Obligations.IssueChecks := by
  unfold Obligations.IssueChecks
  intro s i o ho
  obtain ⟨always, body, hexec, halways⟩ := exec_issue (i := i) (by rw [ho]; exact Option.some_ne_none o) s
  refine ⟨fun hx => hexec.trans (State.issue_noThread hx), fun x hx => ⟨fun t ht => hexec.trans (State.issue_check hx ht),
    fun ht hp hj hjt => ?_, fun hill hrange hpriv hi hp => hexec.trans (State.issue_check hx ?_)⟩⟩
  · cases always with
    | false => exact hexec.trans (State.issue_idle hx ht hp)
    | true =>
      obtain ⟨o', rfl | rfl | rfl⟩ := halways rfl
      · exact (exec_nop ..).trans (execNop_idle hx ht hp)
      · exact absurd (by rw [Option.some.inj ho]) hj
      · exact absurd (by rw [Option.some.inj ho]) hjt
  · exact Iss.check_of_privOnly hill hrange hpriv ((State.thread_opr hx).1 ▸ hi) hp

end Sys2Proof.Machine

/-! SUPPORT. Taking a trap and coming back from it (R341, R367 to R371, R376, R382). -/

namespace Sys2Proof.Machine

/-! ### What a record of a ring writes (R47, R66) -/

section
variable {s : State} {pa a key : Nat} {bs : List Byte}

/-- What memory reads as depends on its bytes, the lines' materials and the keys alone. -/
theorem State.rdByte_of_ms {t : State} (hmem : t.ms.mem = s.ms.mem) (hmat : t.ms.mat = s.ms.mat) (hkeys : t.part.keys = s.part.keys) :
    t.rdByte key a = s.rdByte key a :=
  State.rdByte_congr (by rw [State.keyMat, State.keyMode, hkeys]; rfl) (by rw [hmat]) fun i _ => by rw [MemSys.byte, hmem]; rfl

theorem State.rekeyLine_ms (s : State) (key l : Nat) : ∃ m, s.rekeyLine key l = { s with ms := m } := by
  rw [State.rekeyLine]
  split
  · exact ⟨_, rfl⟩
  · exact ⟨_, rfl⟩

theorem foldl_ms {α : Type} {f : State → α → State} (hf : ∀ s a, ∃ m, f s a = { s with ms := m }) (l : List α) (s : State) :
    ∃ m, l.foldl f s = { s with ms := m } := by
  induction l generalizing s with
  | nil => exact ⟨_, rfl⟩
  | cons a l ih =>
    obtain ⟨m, hm⟩ := hf s a
    obtain ⟨m', hm'⟩ := ih (f s a)
    exact ⟨m', by rw [List.foldl_cons, hm', hm]⟩

theorem State.wrBytes_ms (s : State) (key pa : Nat) (bs : List Byte) : ∃ m, s.wrBytes key pa bs = { s with ms := m } := by
  obtain ⟨m, hm⟩ := foldl_ms (fun s l => s.rekeyLine_ms key l) (linesOf pa bs.length) s
  exact ⟨_, by rw [State.wrBytes, hm]⟩

theorem State.recall_ms (s : State) (l : Nat) : ∃ m, s.recall l = { s with ms := m } := by
  rw [State.recall]
  split
  · exact ⟨_, rfl⟩
  · split
    · exact ⟨_, rfl⟩
    · exact ⟨_, rfl⟩

theorem State.putPiece_ms (s : State) (pa : Nat) (bs : List Byte) : ∃ m, (s.putPiece pa bs).1 = { s with ms := m } := by
  obtain ⟨m, hm⟩ := s.wrBytes_ms 0 (s.routed pa) bs
  rw [State.putPiece, hm]
  split
  · next d _ =>
    obtain ⟨m', hm'⟩ := State.wrBytes_ms { s with ms := m } 0 d bs
    exact ⟨_, by rw [hm']; rfl⟩
  · exact ⟨_, rfl⟩

theorem State.putQuiet_recall_ms (s : State) (pa : Nat) (bs : List Byte) : ∃ m, (s.putQuiet State.recall pa bs).1 = { s with ms := m } := by
  have hpieces (ps : List (Nat × List Byte)) (r : State × Nat) : ∃ m,
      (ps.foldl (fun r p => ((r.1.putPiece p.1 p.2).1, Nat.max r.2 (r.1.putPiece p.1 p.2).2)) r).1 = { r.1 with ms := m } := by
    induction ps generalizing r with
    | nil => exact ⟨_, rfl⟩
    | cons p ps ih =>
      obtain ⟨m, hm⟩ := r.1.putPiece_ms p.1 p.2
      obtain ⟨m', hm'⟩ := ih ((r.1.putPiece p.1 p.2).1, Nat.max r.2 (r.1.putPiece p.1 p.2).2)
      exact ⟨m', by rw [List.foldl_cons, hm', hm]⟩
  rw [State.putQuiet]
  split
  · exact ⟨_, rfl⟩
  · obtain ⟨m, hm⟩ := foldl_ms State.recall_ms (linesOf (s.routed pa) bs.length) s
    obtain ⟨m', hm'⟩ := hpieces (linePieces (linesOf pa bs.length).length pa bs) (s.recallRange State.recall pa bs.length, 0)
    exact ⟨m', by rw [hm', State.recallRange, hm]⟩

theorem State.noticeRange_frame (s : State) (pa n g : Nat) : ∃ rs tl, s.noticeRange pa n g =
    { s with rsds := rs, sch := { s.sch with tails := tl } } := by
  rw [State.noticeRange]
  induction linesOf (s.routed pa) n generalizing s with
  | nil => exact ⟨_, _, rfl⟩
  | cons l ls ih =>
    obtain ⟨rs, tl, h⟩ := ih (s.watchNotice l g)
    exact ⟨rs, tl, by rw [List.foldl_cons, h]; rfl⟩

/-- A record of a ring changes memory and who has notice of it, nothing else. -/
theorem State.ringPut_frame (s : State) (b i : Nat) (bs : List Byte) : ∃ m rs tl, (s.ringPut b i bs).1 =
    { s with ms := m, rsds := rs, sch := { s.sch with tails := tl } } := by
  rw [State.ringPut]
  split
  · exact ⟨_, _, _, rfl⟩
  · next sz base _ =>
    obtain ⟨m, hm⟩ := s.putQuiet_recall_ms (base + s.fillAt i % 2 ^ sz * bs.length) bs
    obtain ⟨rs, tl, h⟩ := (s.putQuiet State.recall (base + s.fillAt i % 2 ^ sz * bs.length) bs).1.noticeRange_frame
      (base + s.fillAt i % 2 ^ sz * bs.length) bs.length (s.putQuiet State.recall (base + s.fillAt i % 2 ^ sz * bs.length) bs).2
    exact ⟨m, rs, tl, by rw [State.ringWr]; dsimp only; rw [h, hm]⟩

theorem State.recall_rdByte (s : State) (l key a : Nat) : (s.recall l).rdByte key a = s.rdByte key a := by
  rw [State.recall]
  split
  · rfl
  · split
    · rfl
    · rfl

theorem linesOf_whole (h : pa % 128 = 0) : linesOf pa 128 = [pa / 128] := by
  rw [linesOf, h]
  rfl

/-- A whole line written leaves every other byte as it reads, under every key. -/
theorem State.wrBytes_rdByte_line (hpa : pa % 128 = 0) (hlen : bs.length = 128) (h : a < pa ∨ pa + 128 ≤ a) (k : Nat) :
    (s.wrBytes k pa bs).rdByte key a = s.rdByte key a := by
  refine State.wrBytes_rdByte_far ?_
  rw [hlen, linesOf_whole hpa, List.mem_singleton]
  omega

theorem State.mirrorOf_of_mig {t s : State} (h : t.mig = s.mig) (pa : Nat) : t.mirrorOf pa = s.mirrorOf pa := by
  rw [State.mirrorOf, State.mirrorOf, State.fwdOf, State.fwdOf, h]

theorem State.routed_of_mig {t s : State} (h : t.mig = s.mig) (pa : Nat) : t.routed pa = s.routed pa := by
  have hpage : ∀ n p, t.pageNow n p = s.pageNow n p := fun n => by
    induction n with
    | zero => exact fun _ => rfl
    | succ n ih =>
      intro p
      rw [State.pageNow, State.pageNow, State.fwdOf, State.fwdOf, h]
      simp only [ih]
  rw [State.routed, State.routed, h, hpage]

theorem State.routed_mod (s : State) (pa : Nat) : s.routed pa % 65536 = pa % 65536 := by
  rw [State.routed]
  omega

theorem State.mirrorOf_mod {d : Nat} (h : s.mirrorOf pa = some d) : d % 65536 = pa % 65536 := by
  rw [State.mirrorOf] at h
  split at h
  · split at h
    · cases h
      omega
    · cases h
  · cases h

theorem State.putPiece_rdByte_line (hpa : pa % 128 = 0) (hlen : bs.length = 128) (h : a < s.routed pa ∨ s.routed pa + 128 ≤ a)
    (hm : ∀ d, s.mirrorOf (s.routed pa) = some d → a < d ∨ d + 128 ≤ a) : (s.putPiece pa bs).1.rdByte key a = s.rdByte key a := by
  have hr : s.routed pa % 128 = 0 := by
    have := s.routed_mod pa
    omega
  have hfirst := State.wrBytes_rdByte_line (s := s) (key := key) hr hlen h 0
  obtain ⟨m, hms⟩ := s.wrBytes_ms 0 (s.routed pa) bs
  have hmig : (s.wrBytes 0 (s.routed pa) bs).mig = s.mig := by rw [hms]
  have hmirror : (s.wrBytes 0 (s.routed pa) bs).mirrorOf ((s.wrBytes 0 (s.routed pa) bs).routed pa) = s.mirrorOf (s.routed pa) := by
    rw [State.routed_of_mig hmig, State.mirrorOf_of_mig hmig]
  rw [State.putPiece, hmirror]
  cases hd : s.mirrorOf (s.routed pa) with
  | none => exact hfirst
  | some d =>
    have hdm : d % 128 = 0 := by
      have := State.mirrorOf_mod hd
      omega
    exact (State.wrBytes_rdByte_line hdm hlen (hm d hd) 0).trans hfirst

/-- A record of 128 bytes at the start of a line changes that line, and the line where it is mirrored, and no other byte. -/
theorem State.ringWr_rdByte (hpa : pa % 128 = 0) (hlen : bs.length = 128) (h : a < s.routed pa ∨ s.routed pa + 128 ≤ a)
    (hm : ∀ d, s.mirrorOf (s.routed pa) = some d → a < d ∨ d + 128 ≤ a) : (s.ringWr pa bs).1.rdByte key a = s.rdByte key a := by
  have hput : (s.putQuiet State.recall pa bs).1.rdByte key a = s.rdByte key a := by
    rw [State.putQuiet]
    split
    · rfl
    · have hpieces : linePieces (linesOf pa bs.length).length pa bs = [(pa, bs)] := by
        rw [hlen, linesOf_whole hpa]
        dsimp only [List.length_singleton, linePieces]
        rw [hpa, List.take_of_length_le (by omega)]
      have hrecall : ∀ (ls : List Nat) (t : State), (ls.foldl State.recall t).rdByte key a = t.rdByte key a := by
        intro ls
        induction ls with
        | nil => exact fun _ => rfl
        | cons l ls ih => exact fun t => (ih _).trans (t.recall_rdByte l key a)
      have hmig : (s.recallRange State.recall pa bs.length).mig = s.mig := by
        obtain ⟨m, hms⟩ := foldl_ms State.recall_ms (linesOf (s.routed pa) bs.length) s
        rw [State.recallRange, hms]
      rw [hpieces]
      refine (State.putPiece_rdByte_line (s := s.recallRange State.recall pa bs.length) hpa hlen ?_ ?_).trans (hrecall _ s)
      · rwa [State.routed_of_mig hmig]
      · intro d
        rw [State.routed_of_mig hmig, State.mirrorOf_of_mig hmig]
        exact hm d
  obtain ⟨rs, tl, hn⟩ := (s.putQuiet State.recall pa bs).1.noticeRange_frame pa bs.length (s.putQuiet State.recall pa bs).2
  rw [State.ringWr]
  dsimp only
  rw [hn]
  exact hput

end

/-! ### Taking a trap (R367, R368, R370) -/

section
variable {s : State} {cid k : Nat} {t : TrapInfo} {c : Ctx} {sp : Split}

theorem State.clearDisc_frame (s : State) (c : Ctx) : ∃ bl, s.clearDisc c = { s with blocks := bl } := by
  rw [State.clearDisc]
  split
  · exact ⟨_, rfl⟩
  · exact ⟨_, rfl⟩
  · exact ⟨_, rfl⟩

theorem State.clearDisc_blk_ne {b : Nat} (h : b ≠ c.blk) : (s.clearDisc c).blk? b = s.blk? b := by
  rw [State.clearDisc]
  split
  · rfl
  · rfl
  · exact SMap.find?_put_ne _ _ h

theorem State.clearDisc_blk_self {b : Block} (hs : c.stream ≠ .host) (hb : s.blk? c.blk = some b) :
    (s.clearDisc c).blk? c.blk = some { b with disc := false } := by
  rw [State.clearDisc, hb]
  cases hstream : c.stream with
  | host => exact absurd hstream hs
  | lane => exact SMap.find?_put_same ..
  | cox => exact SMap.find?_put_same ..

/-- The token of a trap, as the package keeps it. -/
def trapTok (s : State) (cid k : Nat) (t : TrapInfo) (c : Ctx) (sp : Split) : Tok :=
  { cid := cid, k := k, bytes := s.trapRec cid c sp.pc 0 (s.newToken c.dev) t, fmask := if t.lanes then some t.lmask else none,
    pmask := t.pmask, fetch := t.fetch }

/-- The state with the split parked under its new token, the record not yet entered. -/
def State.parkedAt (s : State) (cid k : Nat) (t : TrapInfo) (c : Ctx) (sp : Split) : State :=
  { (s.clearDisc c).setCtx cid (c.setSplit k { sp with parked := some (s.newToken c.dev), wait := .none, replay := none }) with
    trp := { s.trp with nextTok := s.trp.nextTok + 1, toks := s.trp.toks.put s.trp.nextTok (trapTok s cid k t c sp) } }

/-- The record of a trap on its way to its fault queue. -/
def trapHeld (s : State) (cid k : Nat) (t : TrapInfo) (c : Ctx) (sp : Split) : Held :=
  { slot := c.fq, bytes := s.trapRec cid c sp.pc 0 (s.newToken c.dev) t, pt := s.pt, cid := cid, k := k, token := s.newToken c.dev }

theorem State.takeTrap_eq (hc : s.ctxs.find? cid = some c) (hsp : c.splits.find? k = some sp) :
    s.takeTrap cid k t = (s.parkedAt cid k t c sp).enterRecord (trapHeld s cid k t c sp) := by
  obtain ⟨bl, hbl⟩ := s.clearDisc_frame c
  rw [State.takeTrap, hc]
  dsimp only
  rw [hsp]
  dsimp only
  rw [State.parkedAt, hbl]
  rfl

/-- Whether a record waits for its thread's accesses, for an earlier record or for room in its queue. -/
def State.recordWaits (s : State) (h : Held) : Bool :=
  !(match s.ctxs.find? h.cid with | some c => s.released c .pkg | none => true) || s.trp.held.any (fun x => x.slot = h.slot)
    || s.ringFull (fslot h.slot) (fslot h.slot + 8)

theorem State.enterRecord_eq (s : State) (h : Held) : s.enterRecord h =
    if s.recordWaits h then { s with trp := { s.trp with held := s.trp.held ++ [h] } }
    else (s.ringPut (fslot h.slot) (fslot h.slot + 8) h.bytes).1.tailLater (fslot h.slot + 8)
      (s.ringPut (fslot h.slot) (fslot h.slot + 8) h.bytes).2 := rfl

/-- Entering a record changes memory, notices, held records and the ring's pending tail. -/
theorem State.enterRecord_frame (s : State) (h : Held) : ∃ m rs tl hl ta, s.enterRecord h =
    { s with
      ms := m
      rsds := rs
      sch := { s.sch with tails := tl }
      trp := { s.trp with held := hl }
      part := { s.part with tailAt := ta } } := by
  obtain ⟨m, rs, tl, hp⟩ := s.ringPut_frame (fslot h.slot) (fslot h.slot + 8) h.bytes
  rw [State.enterRecord_eq]
  split
  · exact ⟨_, _, _, _, _, rfl⟩
  · exact ⟨_, _, _, _, _, by rw [hp]; rfl⟩

theorem State.enterRecord_rdByte {h : Held} {key a : Nat} (hlen : h.bytes.length = 128)
    (hfar : ∀ sz base, s.ring (fslot h.slot) = some (sz, base) →
      (a < s.routed (base + s.fillAt (fslot h.slot + 8) % 2 ^ sz * 128) ∨
        s.routed (base + s.fillAt (fslot h.slot + 8) % 2 ^ sz * 128) + 128 ≤ a) ∧
      ∀ d, s.mirrorOf (s.routed (base + s.fillAt (fslot h.slot + 8) % 2 ^ sz * 128)) = some d → a < d ∨ d + 128 ≤ a) :
    (s.enterRecord h).rdByte key a = s.rdByte key a := by
  rw [State.enterRecord_eq]
  split
  · rfl
  · have hput : (s.ringPut (fslot h.slot) (fslot h.slot + 8) h.bytes).1.rdByte key a = s.rdByte key a := by
      rw [State.ringPut]
      cases hr : s.ring (fslot h.slot) with
      | none => rfl
      | some r =>
        obtain ⟨sz, base⟩ := r
        obtain ⟨hout, hm⟩ := hfar sz base hr
        have hbase : base % 128 = 0 := by
          rw [State.ring] at hr
          split at hr
          · cases hr
            omega
          · cases hr
        dsimp only
        rw [hlen]
        exact State.ringWr_rdByte (by omega) hlen hout hm
    exact hput

theorem length_leBytes (n x : Nat) : (leBytes n x).length = n := by
  induction n generalizing x with
  | zero => rfl
  | succ n ih => rw [leBytes, List.length_cons, ih]

theorem State.parkedAt_rdByte (key a : Nat) : (s.parkedAt cid k t c sp).rdByte key a = s.rdByte key a := by
  obtain ⟨bl, hbl⟩ := s.clearDisc_frame c
  rw [State.parkedAt, hbl]
  rfl

theorem State.parkedAt_ring (b : Nat) : (s.parkedAt cid k t c sp).ring b = s.ring b := by
  obtain ⟨bl, hbl⟩ := s.clearDisc_frame c
  rw [State.parkedAt, hbl]
  rfl

theorem State.parkedAt_fillAt (i : Nat) : (s.parkedAt cid k t c sp).fillAt i = s.fillAt i := by
  obtain ⟨bl, hbl⟩ := s.clearDisc_frame c
  rw [State.parkedAt, hbl]
  rfl

theorem State.parkedAt_mig : (s.parkedAt cid k t c sp).mig = s.mig := by
  obtain ⟨bl, hbl⟩ := s.clearDisc_frame c
  rw [State.parkedAt, hbl]
  rfl

end

/-- Settles O50: the split is parked first (`State.parkedAt`), and entering the record touches nothing but memory's next entry of the fault
queue, a whole line, and what is noted of it. -/
theorem takingATrap : Obligations.TakingATrap := by
  unfold Obligations.TakingATrap
  intro s cid k t c sp hc hsp
  dsimp only
  obtain ⟨bl, hbl⟩ := s.clearDisc_frame c
  obtain ⟨m, rs, tl, hl, ta, hu⟩ := (s.parkedAt cid k t c sp).enterRecord_frame (trapHeld s cid k t c sp)
  have hblk : ∀ b, (s.takeTrap cid k t).blk? b = (s.clearDisc c).blk? b := fun b => by
    rw [State.takeTrap_eq hc hsp, hu]
    rfl
  have hrd : ∀ key a, (∀ sz base, s.ring (fslot c.fq) = some (sz, base) →
      (a < s.routed (base + s.fillAt (fslot c.fq + 8) % 2 ^ sz * 128) ∨
        s.routed (base + s.fillAt (fslot c.fq + 8) % 2 ^ sz * 128) + 128 ≤ a) ∧
      ∀ d, s.mirrorOf (s.routed (base + s.fillAt (fslot c.fq + 8) % 2 ^ sz * 128)) = some d → a < d ∨ d + 128 ≤ a) →
      (s.takeTrap cid k t).rdByte key a = s.rdByte key a := fun key a hfar => by
    rw [State.takeTrap_eq hc hsp]
    refine (State.enterRecord_rdByte (length_leBytes ..) ?_).trans (State.parkedAt_rdByte key a)
    intro sz base hr
    rw [State.parkedAt_ring] at hr
    rw [State.parkedAt_fillAt, State.routed_of_mig State.parkedAt_mig, State.mirrorOf_of_mig State.parkedAt_mig]
    exact hfar sz base hr
  refine ⟨?_, fun j hj => ?_, ?_, ?_, fun b hb => (hblk b).trans (State.clearDisc_blk_ne hb),
    fun hs b hb => (hblk _).trans (State.clearDisc_blk_self hs hb), ⟨trapTok s cid k t c sp, ?_, rfl, rfl, rfl, rfl⟩, ?_, hrd⟩
  · rw [State.takeTrap_eq hc hsp, hu]
    exact SMap.find?_put_same ..
  · rw [State.takeTrap_eq hc hsp, hu, State.parkedAt, hbl]
    exact SMap.find?_put_ne _ _ hj
  · rw [State.takeTrap_eq hc hsp, hu, State.parkedAt, hbl]
    rfl
  · rw [State.takeTrap_eq hc hsp, hu, State.parkedAt, hbl]
    rfl
  · rw [State.takeTrap_eq hc hsp, hu]
    exact SMap.find?_put_same ..
  · rw [State.takeTrap_eq hc hsp, hu]
    rfl

/-! ### The return (R341, R371, R376) -/

section
variable {s : State} {n cid k : Nat} {c : Ctx} {sp : Split}

/-- A token let go leaves every thread as it was. -/
theorem State.dropToken_frame (s : State) (n : Nat) : ∃ hl ws ot, s.dropToken n =
    { s with
      trp := { s.trp with toks := s.trp.toks.erase n, held := hl, wins := ws }
      lnk := { s.lnk with out := ot } } := by
  have htold : ∀ (l : List (Nat × TWin)) (u : State), ∃ ot, l.foldl (fun s p => s.tellWin p.1 3) u = { u with lnk := { u.lnk with out := ot } } := by
    intro l
    induction l with
    | nil => exact fun u => ⟨_, rfl⟩
    | cons p l ih =>
      intro u
      have hone : ∃ ot, u.tellWin p.1 3 = { u with lnk := { u.lnk with out := ot } } := by
        rw [State.tellWin]
        split
        · exact ⟨_, rfl⟩
        · exact ⟨_, rfl⟩
      obtain ⟨o1, h1⟩ := hone
      obtain ⟨ot, h⟩ := ih (u.tellWin p.1 3)
      exact ⟨ot, by rw [List.foldl_cons, h, h1]⟩
  rw [State.dropToken]
  dsimp only
  obtain ⟨ot, h⟩ := htold (s.trp.wins.filter (fun p => (p.2.stat ≠ 0 && p.2.token.toNat / 2 ^ 16 = n
    && p.2.token.toNat % 2 ^ 10 = s.fld fabB 0 10) && decide (p.2.stat ≠ 3))) s
  exact ⟨_, _, ot, by rw [h]⟩

/-- With one split that has lanes and no open set nothing is left to settle. -/
theorem Ctx.settle_alone {d : Ctx} {q : Split} (pt m : Nat) (hs : d.splits = [(k, q)]) (hst : d.stack = []) (hm : q.mask ≠ 0) :
    Ctx.settle pt m d = d := by
  have hset : ∀ j ls, d.setOf j ls = none := fun j ls => by rw [Ctx.setOf, hst]; rfl
  have hnone : d.settle1 pt = none := by
    rw [Ctx.settle1, hs, hst]
    have hm' : decide (q.mask = 0) = false := decide_eq_false hm
    simp only [List.find?_cons, List.find?_nil, hm', hset, Bool.false_and, Bool.and_false, Option.isSome_none]
  cases m with
  | zero => rfl
  | succ m => rw [Ctx.settle, hnone]

theorem Ctx.setSplit_alone (hs : c.splits = [(k, sp)]) (q : Split) : (c.setSplit k q).splits = [(k, q)] := by
  rw [Ctx.setSplit, hs]
  simp [SMap.put]

/-- What the return makes of the thread, for each way back. -/
def Ctx.resumed (c : Ctx) (pt k : Nat) (sp : Split) : Resume → Ctx
  | .replay m l =>
    if sp.j = some sp.pc then Ctx.settle pt 64 (c.setSplit k { sp with parked := none, wait := .none, replay := m, relatch := l, inLine := none })
    else c.setSplit k { sp with parked := none, wait := .none, replay := m, relatch := l, inLine := none }
  | .skip => (c.setSplit k { sp with parked := none, wait := .none, inLine := none }).advance pt k
  | .goto pc => Ctx.settle pt 64 (c.setSplit k (Split.moved { sp with parked := none, wait := .none } pc false))
  | .endLanes => Ctx.settle pt 64 (Ctx.setSplit { c.endLanes sp.mask with endPc := sp.pc, endMask := sp.mask } k
      (Split.less { sp with parked := none, wait := .none } sp.mask))

theorem State.returnFromTrap_eq (hc : s.ctxs.find? cid = some c) (hsp : c.splits.find? k = some sp) (r : Resume) :
    s.returnFromTrap n cid k r = (s.dropToken n).setCtx cid (c.resumed s.pt k sp r) := by
  obtain ⟨hl, ws, ot, hd⟩ := s.dropToken_frame n
  rw [State.returnFromTrap, hd]
  dsimp only
  rw [hc]
  dsimp only
  rw [hsp]
  cases r with
  | replay m l => rfl
  | skip => rfl
  | goto pc => rfl
  | endLanes => rfl

section
variable (hs : c.splits = [(k, sp)]) (hst : c.stack = []) (hm : sp.mask ≠ 0)
include hs hst hm

theorem Ctx.resumed_skip (pt : Nat) : ∃ q, (c.resumed pt k sp .skip).splits = [(k, q)] ∧ q.pc = nextPc sp.pc ∧ q.parked = none ∧
    { c.resumed pt k sp .skip with splits := c.splits } = c := by
  have hfind : (c.setSplit k { sp with parked := none, wait := .none, inLine := none }).splits.find? k =
      some { sp with parked := none, wait := .none, inLine := none } := SMap.find?_put_same ..
  have hadv : c.resumed pt k sp .skip = (c.setSplit k { sp with parked := none, wait := .none, inLine := none }).setSplit k
      (Split.moved { sp with parked := none, wait := .none, inLine := none } (nextPc sp.pc) true) := by
    rw [Ctx.resumed, Ctx.advance, hfind]
    dsimp only
    split
    · rfl
    · exact Ctx.settle_alone pt 64 (Ctx.setSplit_alone (Ctx.setSplit_alone hs _) _) hst hm
  rw [hadv]
  exact ⟨_, Ctx.setSplit_alone (Ctx.setSplit_alone hs _) _, rfl, rfl, rfl⟩

theorem Ctx.resumed_goto (pt : Nat) (pc : BitVec 64) : ∃ q, (c.resumed pt k sp (.goto pc)).splits = [(k, q)] ∧ q.pc = pc ∧ q.parked = none ∧
    { c.resumed pt k sp (.goto pc) with splits := c.splits } = c := by
  have hgo : c.resumed pt k sp (.goto pc) = c.setSplit k (Split.moved { sp with parked := none, wait := .none } pc false) :=
    Ctx.settle_alone pt 64 (Ctx.setSplit_alone hs _) hst hm
  rw [hgo]
  exact ⟨_, Ctx.setSplit_alone hs _, rfl, rfl, rfl⟩

end
end

/-- Settles O51: the token is let go and the thread is what `Ctx.resumed` makes of it; with one split and no open set nothing else moves. -/
theorem trapReturn : Obligations.TrapReturn := by
  unfold Obligations.TrapReturn
  intro s n cid k c sp m l pc hc hsp
  dsimp only
  obtain ⟨hl, ws, ot, hd⟩ := s.dropToken_frame n
  have hret := fun r => State.returnFromTrap_eq (n := n) hc hsp r
  have hctx : ∀ r, (s.returnFromTrap n cid k r).ctxs.find? cid = some (c.resumed s.pt k sp r) := fun r => by
    rw [hret]
    exact SMap.find?_put_same ..
  refine ⟨fun r => ?_, hctx _, fun ⟨hs, hst, hm⟩ => ?_, fun ⟨hs, hst, hm⟩ => ?_, fun r j hj => ?_⟩
  · rw [hret, hd]
    exact SMap.find?_erase_same ..
  · obtain ⟨q, hq⟩ := Ctx.resumed_skip hs hst hm s.pt
    exact ⟨_, q, hctx _, hq⟩
  · obtain ⟨q, hq⟩ := Ctx.resumed_goto hs hst hm s.pt pc
    exact ⟨_, q, hctx _, hq⟩
  · rw [hret, hd]
    exact SMap.find?_put_ne _ _ hj

end Sys2Proof.Machine

/-! SUPPORT. A turn of a split: from the agenda to the instruction that its slot holds (R166, R179 to R186, R364). -/

namespace Sys2Proof.Machine

section
variable {s u v w : State} {ex : Instr → State → Out} {cid k n e : Nat} {rest : List Turn} {t : Turn} {c b d : Ctx} {sp p q : Split}
  {bs : List Byte} {i i2 : Instr}

/-- With nothing overdue a step takes the agenda's next turn, a tick on. -/
theorem step_of_turn (hpwr : s.pwr = .run) (htodo : s.todo = []) (hdue : tryEvents exec s.tick s.tick.overdue = none)
    (hag : s.agenda = t :: rest) : step s = ({ s.tick with agenda := rest }).turn exec t := by
  rw [step, State.stepWith, hpwr, htodo, hag]
  dsimp only
  rw [State.runStep, hdue]

/-- A split that may run and needs no refill enters the line that it holds, or that the core's instruction cache gives it. -/
theorem State.runThread_of_lineStands (hc : u.ctxs.find? cid = some c) (hsp : c.splits.find? k = some sp) (hrun : u.mayRun c sp = true)
    (href : c.needsRefill sp = false) (hline : u.lineStands cid k c sp v b p) (hbs : p.line = some bs) :
    u.runThread ex cid k = v.enterLine ex cid k b p bs := by
  rw [State.runThread, hc]
  dsimp only
  rw [hsp]
  dsimp only
  rw [hrun, href]
  rcases hline with ⟨_, rfl, rfl, rfl⟩ | ⟨hno, hhit, hfetch, hb, hp, hpk⟩
  · rw [hbs] <;> rfl
  · rw [hno]
    dsimp only
    rw [hhit, hfetch]
    dsimp only [Bool.not_true, Bool.false_eq_true, if_false]
    rw [hb]
    dsimp only
    rw [hp]
    dsimp only
    rw [hbs, hpk] <;> rfl

/-- The line's flags are not clear: the split goes on waiting. -/
theorem State.enterLine_of_waits (hn : slotOf p.pc = some n) (h : v.enters cid k n b p bs = none) :
    v.enterLine ex cid k b p bs = .next v := by
  rw [State.enters] at h
  rw [State.enterLine, hn]
  cases hin : p.inLine with
  | some j =>
    rw [hin] at h
    cases h
  | none =>
    rw [hin] at h
    dsimp only at h ⊢
    split at h
    · cases h
    · next hready => exact if_neg hready

/-- The split stands in its line: its slot is issued. -/
theorem State.enterLine_of_enters (hn : slotOf p.pc = some n) (h : v.enters cid k n b p bs = some (w, d, q)) :
    v.enterLine ex cid k b p bs = w.issueSlot ex cid k d q bs n := by
  rw [State.enters] at h
  rw [State.enterLine, hn]
  cases hin : p.inLine with
  | some j =>
    rw [hin] at h
    cases h
    rfl
  | none =>
    rw [hin] at h
    dsimp only at h ⊢
    split at h
    · next hready =>
      cases h
      exact if_pos hready
    · cases h

/-! ### What a slot does, by what it holds -/

/-- The lanes that a word's guard takes. -/
def Split.guarded (sp : Split) (c : Ctx) (bs : List Byte) (n : Nat) : Mask :=
  maskOf ((lanesOf sp.mask).filter (fun l => c.rp l (bits (slotWord bs n) 82 3) != bitOf (slotWord bs n) 85))

/-- A trap of a slot, with the lanes of its word's guard (R370). -/
def State.slotTrap (s : State) (cid k : Nat) (c : Ctx) (sp : Split) (bs : List Byte) (n : Nat) (t : TrapInfo) : Out :=
  .next (s.takeTrap cid k
    { t with lmask := if sp.guarded c bs n = 0 then sp.mask else sp.guarded c bs n, pmask := sp.guarded c bs n })

/-- The reason for PAIR of a slot that is the first of a pair. -/
def State.slotFault (s : State) (cid k : Nat) (c : Ctx) (sp : Split) (bs : List Byte) (n : Nat) : Option Nat :=
  if pairFirst bs (sp.inLine.getD n) n then s.pairFault cid k c sp bs n else none

/-- A slot at which the split does not stand at its join. -/
def State.runSlot (ex : Instr → State → Out) (cid k : Nat) (c : Ctx) (sp : Split) (bs : List Byte) (n : Nat) (s : State) : Out :=
  match s.slotFault cid k c sp bs n with
  | some e => s.slotTrap cid k c sp bs n { cause := .pair, qual := e }
  | none => match slotInstr bs n with
    | .ok i => match (if pairFirst bs (sp.inLine.getD n) n then slotInstr bs (n + 1) else slotInstr bs n), pairFirst bs (sp.inLine.getD n) n with
      | .ok i2, true => s.issuePair ex i i2 cid k c sp
      | _, _ => if c.interlocked i then .next s else s.issueOne ex i cid k (!pairSecond bs (sp.inLine.getD n) n)
    | .error _ => s.slotTrap cid k c sp bs n { cause := .ill }

theorem State.issueSlot_free (hfree : ∀ t, q.wait ≠ .atJoin t) : w.issueSlot ex cid k d q bs n = w.runSlot ex cid k d q bs n := by
  rw [State.issueSlot, State.runSlot, State.slotFault]
  dsimp only
  split
  · next hw => exact absurd hw (hfree _)
  · next hpf _ => rw [hpf] <;> rfl
  · next hpf _ => rw [hpf] <;> rfl

theorem State.issueSlot_joinT {t : Nat} {o : Opr} (hw : q.wait = .atJoin t) (hi : slotInstr bs n = .ok (.joinT o)) :
    w.issueSlot ex cid k d q bs n = w.issueOne ex (.joinT o) cid k true := by
  rw [State.issueSlot]
  dsimp only
  rw [hw, hi] <;> rfl

theorem State.issueSlot_atJoin {t : Nat} (hw : q.wait = .atJoin t) (hi : ∀ o, slotInstr bs n ≠ .ok (.joinT o)) :
    w.issueSlot ex cid k d q bs n = .next (w.setCtx cid (Ctx.settle w.pt 64 (d.setSplit k { q with wait := .join t none }))) := by
  rw [State.issueSlot]
  dsimp only
  rw [hw]
  dsimp only
  split
  · next o h => exact absurd h (hi o)
  · rfl

theorem State.slotFault_pair (hfirst : pairFirst bs (q.inLine.getD n) n = true) :
    w.slotFault cid k d q bs n = w.pairFault cid k d q bs n := if_pos hfirst

theorem State.slotFault_none (h : pairFirst bs (q.inLine.getD n) n = false ∨ w.pairFault cid k d q bs n = none) :
    w.slotFault cid k d q bs n = none := by
  rw [State.slotFault]
  split
  · next hfirst => exact h.resolve_left (by rw [hfirst]; decide)
  · rfl

/-- One instruction of its own: it issues unless a result is due to one of its registers. -/
theorem State.runSlot_single (hi : slotInstr bs n = .ok i) (h : pairFirst bs (q.inLine.getD n) n = false ∨
    (w.pairFault cid k d q bs n = none ∧ ∀ j, slotInstr bs (n + 1) ≠ .ok j)) : w.runSlot ex cid k d q bs n =
    if d.interlocked i then .next w else w.issueOne ex i cid k (!pairSecond bs (q.inLine.getD n) n) := by
  rw [State.runSlot, State.slotFault_none (h.imp_right And.left)]
  dsimp only
  rw [hi]
  dsimp only
  rcases Bool.eq_false_or_eq_true (pairFirst bs (q.inLine.getD n) n) with hf | hf
  · have hsecond := (h.resolve_left (by rw [hf]; decide)).2
    rw [hf, if_pos rfl]
    cases hj : slotInstr bs (n + 1) with
    | ok j => exact absurd hj (hsecond j)
    | error e => rfl
  · rw [hf] <;> rfl

theorem State.runSlot_paired (hi : slotInstr bs n = .ok i) (hfirst : pairFirst bs (q.inLine.getD n) n = true)
    (hi2 : slotInstr bs (n + 1) = .ok i2) (hpf : w.pairFault cid k d q bs n = none) :
    w.runSlot ex cid k d q bs n = w.issuePair ex i i2 cid k d q := by
  rw [State.runSlot, State.slotFault_none (.inr hpf)]
  dsimp only
  rw [hi]
  dsimp only
  rw [hfirst, if_pos rfl, hi2] <;> rfl

theorem State.runSlot_pairFault (hfirst : pairFirst bs (q.inLine.getD n) n = true) (hpf : w.pairFault cid k d q bs n = some e) :
    w.runSlot ex cid k d q bs n = w.slotTrap cid k d q bs n { cause := .pair, qual := e } := by
  rw [State.runSlot, State.slotFault_pair hfirst, hpf]

theorem State.runSlot_ill {x : DecodeError} (h : pairFirst bs (q.inLine.getD n) n = false ∨ w.pairFault cid k d q bs n = none)
    (hi : slotInstr bs n = .error x) : w.runSlot ex cid k d q bs n = w.slotTrap cid k d q bs n { cause := .ill } := by
  rw [State.runSlot, State.slotFault_none h]
  dsimp only
  rw [hi]

/-! ### The issue of one instruction, and of a pair -/

theorem State.issueOne_next {x : State} (counted : Bool) (h : ex i { w with cur := (cid, k) } = .next x) :
    w.issueOne ex i cid k counted = .next (if counted then x.noteIssue cid k else x) := by
  rw [State.issueOne, h]

theorem State.issueOne_fault {f : Fault} (counted : Bool) (h : ex i { w with cur := (cid, k) } = .fault f) :
    w.issueOne ex i cid k counted = .fault f := by
  rw [State.issueOne, h]

theorem State.issueOne_refused {r : Refusal} (counted : Bool) (h : ex i { w with cur := (cid, k) } = .refused r) :
    w.issueOne ex i cid k counted = .refused r := by
  rw [State.issueOne, h]

theorem State.issuePair_interlocked (h : d.interlocked i = true ∨ d.interlocked i2 = true) :
    w.issuePair ex i i2 cid k d q = .next w := if_pos (by rw [Bool.or_eq_true]; exact h)

theorem State.issuePair_free (h : d.interlocked i = false) (h2 : d.interlocked i2 = false) : w.issuePair ex i i2 cid k d q =
    match w.holdOf ex i2 cid k (nextPc q.pc) with
    | some x => .next (w.setCtx cid (d.setSplit k { q with wait := x }))
    | none => match w.issueOne ex i cid k true with
      | .next t => t.issueSecond ex i2 cid k (nextPc q.pc)
      | r => r := by
  rw [State.issuePair, h, h2] <;> rfl

theorem State.issueSecond_eq {pc : BitVec 64} (hc : w.ctxs.find? cid = some c) (hsp : c.splits.find? k = some sp) :
    w.issueSecond ex i cid k pc =
      if sp.pc = pc ∧ sp.wait = .none ∧ sp.parked = none ∧ sp.mask ≠ 0 then w.issueOne ex i cid k false else .next w := by
  rw [State.issueSecond, hc]
  dsimp only
  rw [hsp]

end

/-- Settles O52: the step is the turn (`step_of_turn`), the turn the slot (`State.runThread_of_lineStands`,
`State.enterLine_of_enters`), and the slot is issued by what it holds. -/
theorem stepRunsDecoded : Obligations.StepRunsDecoded := by
  unfold Obligations.StepRunsDecoded
  intro s v w cid k n rest c b d sp p q bs i i2 o hpwr htodo hdue u turn ready first paired single free guarded traps runs
  have henter (hturn : turn) : step s = v.enterLine exec cid k b p bs := by
    obtain ⟨hag, hc, hsp, hrun, href, hline, hbs, _⟩ := hturn
    exact (step_of_turn hpwr htodo hdue hag).trans (State.runThread_of_lineStands hc hsp hrun href hline hbs)
  have hslot (hready : ready) : step s = w.issueSlot exec cid k d q bs n := by
    obtain ⟨hturn, hin⟩ := hready
    obtain ⟨_, _, _, _, _, _, _, hn⟩ := id hturn
    exact (henter hturn).trans (State.enterLine_of_enters hn hin)
  have hfreeSlot (hready : ready) (hfree : free) : step s = w.runSlot exec cid k d q bs n :=
    (hslot hready).trans (State.issueSlot_free hfree)
  have hruns {i' : Instr} {w' : State} {counted : Bool} (h : step s = w'.issueOne exec i' cid k counted) :
      (∀ t, exec i' { w' with cur := (cid, k) } = .next t → step s = .next (if counted then t.noteIssue cid k else t)) ∧
      (∀ f, exec i' { w' with cur := (cid, k) } = .fault f → step s = .fault f) ∧
      (∀ r, exec i' { w' with cur := (cid, k) } = .refused r → step s = .refused r) :=
    ⟨fun _ ht => h.trans (State.issueOne_next counted ht), fun _ hf => h.trans (State.issueOne_fault counted hf),
      fun _ hr => h.trans (State.issueOne_refused counted hr)⟩
  refine ⟨fun hturn hin => ?_, fun hready hfree hi hsingle hlock => ?_,
    fun hready hfree hi hsingle hlock => ?_, fun hready hfree e hfirst hpf => ?_, fun hready hfree e hok hi => ?_,
    fun hready hfree hi hpair hlock => ?_, fun hready hfree hi hpair hlock hlock2 => ?_, fun hready h hw => ⟨fun hi => ?_, fun hi => ?_⟩,
    fun hag => step_of_turn hpwr htodo hdue hag⟩
  · obtain ⟨_, _, _, _, _, _, _, hn⟩ := id hturn
    exact (henter hturn).trans (State.enterLine_of_waits hn hin)
  · have hstep := (hfreeSlot hready hfree).trans (State.runSlot_single hi hsingle)
    rw [hlock] at hstep
    have h := hruns (hstep.trans (if_neg Bool.false_ne_true))
    cases hs : pairSecond bs (q.inLine.getD n) n with
    | true => rw [hs] at h; exact h
    | false => rw [hs] at h; exact h
  · exact (hfreeSlot hready hfree).trans ((State.runSlot_single hi hsingle).trans (if_pos hlock))
  · exact (hfreeSlot hready hfree).trans (State.runSlot_pairFault hfirst hpf)
  · exact (hfreeSlot hready hfree).trans (State.runSlot_ill hok hi)
  · obtain ⟨hfirst, hi2, hpf⟩ := hpair
    exact (hfreeSlot hready hfree).trans
      ((State.runSlot_paired hi hfirst hi2 hpf).trans (State.issuePair_interlocked hlock))
  · obtain ⟨hfirst, hi2, hpf⟩ := hpair
    have hstep := ((hfreeSlot hready hfree).trans (State.runSlot_paired hi hfirst hi2 hpf)).trans
      (State.issuePair_free hlock hlock2)
    refine ⟨fun h hh => ?_, fun hh t e y ht he hy => ?_⟩
    · rw [hh] at hstep
      exact hstep
    · rw [hh, State.issueOne_next true ht] at hstep
      have hsecond := hstep.trans (State.issueSecond_eq he hy)
      exact ⟨fun hst => hruns (hsecond.trans (if_pos hst)), fun hst => hsecond.trans (if_neg hst)⟩
  · exact hruns ((hslot hready).trans (State.issueSlot_joinT hw hi))
  · exact (hslot hready).trans (State.issueSlot_atJoin hw hi)

end Sys2Proof.Machine

/-! SUPPORT. Where an access traps: its pointers (R11 to R14, R17, R31, R32), its walk (R19 to R23, R33) and its data (R61). -/

namespace Sys2Proof.Machine

/-! ### Pointers -/

section
variable {s : State} {c : Ctx} {reg : Bool} {n align ptr : Nat} {b : Block}

/-- The verdict on a pointer within a space: bounds first, then alignment. -/
def fitsPlace (bad : Prop) [Decidable bad] (at_ align : Nat) (p : Place) : Except (Cause × Nat) Place :=
  if bad then .error (.space, 2) else if at_ % align ≠ 0 then .error (.align, 0) else .ok p

theorem fitsPlace_of_ok {ok : Bool} {bad : Prop} [Decidable bad] (h : ok = false ↔ bad) (a align : Nat) (p : Place) :
    (if !ok then (.error badBounds : Except (Cause × Nat) Place) else if a % align ≠ 0 then .error (.align, 0) else .ok p) =
      fitsPlace bad a align p := by
  rw [fitsPlace]
  by_cases hb : bad
  · rw [if_pos hb, h.mpr hb]
    rfl
  · rw [if_neg hb, Bool.eq_true_of_not_eq_false fun hok => hb (h.mp hok)]
    rfl

theorem State.place_noSelector (h : 9 ≤ bits ptr 60 4) (h' : bits ptr 60 4 ≤ 14) : s.place c reg n align ptr = .error (.space, 0) := by
  rw [State.place]
  dsimp only
  generalize bits ptr 60 4 = sel at *
  interval_cases sel <;> rfl

theorem State.place_glob (h : bits ptr 60 4 ≤ 3) : s.place c reg n align ptr =
    fitsPlace (bits ptr 56 4 ≠ 0) (bits ptr 0 56) align (.glob (bits ptr 60 4) (bits ptr 0 56)) := by
  rw [← fitsPlace_of_ok (ok := decide (bits ptr 56 4 = 0)) decide_eq_false_iff_not]
  rw [State.place]
  dsimp only
  generalize bits ptr 60 4 = sel at *
  interval_cases sel <;> rfl

theorem State.place_noBlock (h : bits ptr 60 4 = 4 ∨ bits ptr 60 4 = 5 ∨ bits ptr 60 4 = 6) (hb : c.stream = .host ∨ s.blk? c.blk = none) :
    s.place c reg n align ptr = .error (.space, 1) := by
  have hnone : (if decide (c.stream = .host) = true then none else s.blk? c.blk) = none := by
    rcases hb with hh | hn
    · rw [if_pos (decide_eq_true hh)]
    · rw [hn, ite_self]
  rw [State.place]
  dsimp only
  rw [hnone]
  rcases h with h | h | h
  · rw [h]
    rfl
  · rw [h]
    rfl
  · rw [h]
    exact ite_self _

section
variable (hs : c.stream ≠ .host) (hb : s.blk? c.blk = some b)
include hs hb

theorem State.blk_of_stream : (if decide (c.stream = .host) = true then none else s.blk? c.blk) = some b := by
  rw [if_neg (by rw [decide_eq_true_eq]; exact hs), hb]

theorem State.place_asp (h : bits ptr 60 4 = 4) : s.place c reg n align ptr =
    fitsPlace (bits ptr 21 39 ≠ 0 ∨ b.aspBytes < bits ptr 0 21 + n) (bits ptr 0 21) align (.asp (bits ptr 0 21)) := by
  rw [← fitsPlace_of_ok (ok := bits ptr 21 39 = 0 && bits ptr 0 21 + n ≤ b.aspBytes)
    (by simp only [Bool.and_eq_false_iff, decide_eq_false_iff_not, Nat.not_le, ne_eq])]
  rw [State.place]
  dsimp only
  rw [h, State.blk_of_stream hs hb] <;> rfl

theorem State.place_peer (h : bits ptr 60 4 = 5) : s.place c reg n align ptr =
    fitsPlace (bits ptr 48 12 ≠ 0 ∨ bits ptr 21 24 ≠ 0 ∨ b.gsize ≤ bits ptr 45 3 ∨ b.aspBytes < bits ptr 0 21 + n) (bits ptr 0 21) align
      (.peer (bits ptr 45 3) (bits ptr 0 21)) := by
  rw [← fitsPlace_of_ok (ok := bits ptr 48 12 = 0 && bits ptr 21 24 = 0 && bits ptr 45 3 < b.gsize && bits ptr 0 21 + n ≤ b.aspBytes)
    (by simp only [Bool.and_eq_false_iff, decide_eq_false_iff_not, Nat.not_le, Nat.not_lt, ne_eq, or_assoc])]
  rw [State.place]
  dsimp only
  rw [h, State.blk_of_stream hs hb] <;> rfl

theorem State.place_acs (h : bits ptr 60 4 = 6) (hcox : c.stream = .cox) : s.place c reg n align ptr =
    fitsPlace (bits ptr 19 41 ≠ 0 ∨ b.acsBytes < bits ptr 0 19 + n) (bits ptr 0 19) align (.acs (bits ptr 0 19)) := by
  rw [← fitsPlace_of_ok (ok := bits ptr 19 41 = 0 && bits ptr 0 19 + n ≤ b.acsBytes)
    (by simp only [Bool.and_eq_false_iff, decide_eq_false_iff_not, Nat.not_le, ne_eq])]
  rw [State.place]
  dsimp only
  rw [h, State.blk_of_stream hs hb]
  exact if_neg (not_not_intro hcox)

end

theorem State.place_acs_lane (h : bits ptr 60 4 = 6) (hcox : c.stream ≠ .cox) : s.place c reg n align ptr = .error (.space, 1) := by
  rw [State.place]
  dsimp only
  rw [h]
  exact if_pos hcox

theorem State.place_loc_cox (h : bits ptr 60 4 = 7) (hcox : c.stream = .cox) : s.place c reg n align ptr = .error (.space, 1) := by
  rw [State.place]
  dsimp only
  rw [h]
  exact if_pos hcox

theorem State.place_loc (h : bits ptr 60 4 = 7) (hcox : c.stream ≠ .cox) : s.place c reg n align ptr =
    fitsPlace (bits ptr 32 28 ≠ 0 ∨ c.llsize = 0 ∨ c.llBytes < bits ptr 0 32 + n + 1024) (bits ptr 0 32) align (.loc (bits ptr 0 32)) := by
  rw [← fitsPlace_of_ok (ok := bits ptr 32 28 = 0 && c.llsize ≠ 0 && bits ptr 0 32 + n + 1024 ≤ c.llBytes)
    (by simp only [Bool.and_eq_false_iff, decide_eq_false_iff_not, Nat.not_le, ne_eq, not_not, or_assoc])]
  rw [State.place]
  dsimp only
  rw [h]
  exact if_neg hcox

theorem State.place_fab (h : bits ptr 60 4 = 8) : s.place c reg n align ptr =
    fitsPlace (24 ≤ bits ptr 55 5 ∨ 24 ≤ bits ptr 50 5) (bits ptr 0 50) align (.fab (bits ptr 55 5) (bits ptr 50 5) (bits ptr 0 50)) := by
  rw [← fitsPlace_of_ok (ok := bits ptr 55 5 < 24 && bits ptr 50 5 < 24)
    (by simp only [Bool.and_eq_false_iff, decide_eq_false_iff_not, Nat.not_lt])]
  rw [State.place]
  dsimp only
  rw [h] <;> rfl

theorem State.place_phys_agent (h : bits ptr 60 4 = 15) (hh : c.stream ≠ .host) : s.place c reg n align ptr = .error (.space, 1) := by
  rw [State.place]
  dsimp only
  rw [h]
  exact if_pos (by rw [decide_eq_false hh]; rfl)

section
variable (h : bits ptr 60 4 = 15) (hh : c.stream = .host)
include h hh

theorem State.place_phys_bounds (hbad : bits ptr 52 8 ≠ 0 ∨ (region (bits ptr 0 52) = 4 ∧ reg = false)) :
    s.place c reg n align ptr = .error (.space, 2) := by
  rw [State.place]
  dsimp only
  rw [h, decide_eq_true hh]
  refine (if_neg Bool.false_ne_true).trans (if_pos ?_)
  rcases hbad with hz | ⟨hr, hreg⟩
  · simp [hz]
  · simp [hr, hreg]

theorem State.place_phys (hz : bits ptr 52 8 = 0) (hreg : region (bits ptr 0 52) = 4 → reg = true) (hn : n ≠ 80) :
    s.place c reg n align ptr = if bits ptr 0 52 % align ≠ 0 then .error (.align, 0)
      else if c.priv = true then .ok (.phys (bits ptr 0 52))
      else if (if region (bits ptr 0 52) = 4 then inBlock (bits ptr 0 52 % 2 ^ 48) else s.populated (bits ptr 0 52) n) = true
      then .error (.perm, 1) else .error (.page, 2) := by
  have hok : (bits ptr 52 8 ≠ 0 || (region (bits ptr 0 52) = 4 && !reg) || n = 80) ≠ true := by
    simp only [hz, hn, ne_eq, not_true_eq_false, decide_false, Bool.false_or, Bool.or_false, Bool.and_eq_true, decide_eq_true_eq,
      Bool.not_eq_true', not_and, Bool.not_eq_false]
    exact hreg
  have habsent : s.absent (bits ptr 0 52) n =
      !(if region (bits ptr 0 52) = 4 then inBlock (bits ptr 0 52 % 2 ^ 48) else s.populated (bits ptr 0 52) n) := by
    rw [State.absent]
    split
    · rfl
    · rfl
  rw [State.place]
  dsimp only
  rw [h, decide_eq_true hh]
  refine (if_neg Bool.false_ne_true).trans ((if_neg hok).trans ?_)
  refine if_congr Iff.rfl rfl ?_
  rw [habsent]
  cases c.priv with
  | true => rfl
  | false => cases (if region (bits ptr 0 52) = 4 then inBlock (bits ptr 0 52 % 2 ^ 48) else s.populated (bits ptr 0 52) n) <;> rfl

end

end

/-! ### An access at issue -/

section
variable {s : State} {x : Iss} {m : MemOp} {pre post : List Nat} {l : Nat} {cs : Cause} {q : Nat}

/-- Whether a lane's pointer fails. -/
def placeFails : Except (Cause × Nat) Place → Bool
  | .ok _ => false
  | .error _ => true

/-- The lowest lane whose pointer fails traps, with every such lane marked (R32). -/
theorem State.access_of_bad (hord : s.orderWait x.c (m.kind 0 0).writes m.ord m.sc = none)
    (hpre : ∀ j ∈ pre, ∃ p, s.place x.c m.reg m.n m.align (x.ptr s j) = .ok p)
    (hl : s.place x.c m.reg m.n m.align (x.ptr s l) = .error (cs, q)) :
    s.access x m (pre ++ l :: post) = s.trapAt x
      { cause := cs, qual := q, addr := BitVec.ofNat 64 (x.ptr s l),
        lmask := maskOf ((pre ++ l :: post).filter fun j => placeFails (s.place x.c m.reg m.n m.align (x.ptr s j))) } := by
  rw [State.access]
  dsimp only
  rw [hord]
  dsimp only
  have hbad (ls : List Nat) : ((ls.map (fun l => (l, s.place x.c m.reg m.n m.align (x.ptr s l)))).filterMap
      (fun p => match p.2 with | .error e => some (p.1, e) | .ok _ => none)).map (·.1) =
      ls.filter fun j => placeFails (s.place x.c m.reg m.n m.align (x.ptr s j)) := by
    induction ls with
    | nil => rfl
    | cons j ls ih =>
      rw [List.map_cons, List.filterMap_cons, List.filter_cons]
      cases hj : s.place x.c m.reg m.n m.align (x.ptr s j) with
      | ok p => exact ih
      | error e => exact congrArg (j :: ·) ih
  have hfirst : ∃ rest, (((pre ++ l :: post).map (fun l => (l, s.place x.c m.reg m.n m.align (x.ptr s l)))).filterMap
      (fun p => match p.2 with | .error e => some (p.1, e) | .ok _ => none)) = (l, cs, q) :: rest := by
    induction pre with
    | nil => exact ⟨_, by rw [List.nil_append, List.map_cons, List.filterMap_cons, hl] <;> rfl⟩
    | cons j pre ih =>
      obtain ⟨p, hp⟩ := hpre j List.mem_cons_self
      obtain ⟨rest, hrest⟩ := ih fun j hj => hpre j (List.mem_cons_of_mem _ hj)
      exact ⟨rest, by rw [List.cons_append, List.map_cons, List.filterMap_cons, hp]; exact hrest⟩
  obtain ⟨rest, hrest⟩ := hfirst
  split
  · next heq =>
    have hhead := heq.symm.trans hrest
    cases hhead
    exact congrArg (fun ls => s.trapAt x { cause := cs, qual := q, addr := BitVec.ofNat 64 (x.ptr s l), lmask := maskOf ls }) (hbad _)
  · next heq => exact nomatch heq.symm.trans hrest

end

/-! ### The walk -/

section
variable {s : State} {asid va lvl tab a base : Nat} {k : Akind} {priv : Bool}

theorem State.look_of_served (hon : s.fld 0 63 1 = 1) (hpool : s.poolSays (s.descAt asid) = .serve) (hhold : s.walkHold (s.descAt asid) 8 = none) :
    s.look asid va k priv =
      if s.asDesc asid % 2 = 0 then .fault .page qNotValid 0 0
      else if !descOk (s.asDesc asid) || asid = 0 then .fault .page qMalformed 0 0
      else match s.walkFrom va 5 (bits (s.asDesc asid) 16 41 * 2 ^ 11) 0 with
        | .hold g => .hold g
        | .fault q l => .fault .page q l 0
        | .owner l aux => .fault .migr 4 l aux
        | .leaf lvl eA e =>
          if !s.populated (bits e 16 36 * 2 ^ 16) (pageBytes lvl) then .fault .page qAbsent lvl 0
          else match s.permFault (bits (s.asDesc asid) 8 6) e lvl k priv with
            | some (q, l) => .fault .perm q l 0
            | none =>
              .ok { pa := bits e 16 36 * 2 ^ 16 + pageOff va lvl, key := bits e 52 12, lvl := lvl, leafPA := eA, pte := e,
                    vdev := bits (s.asDesc asid) 8 6, exp := s.pt + 65536 } := by
  rw [State.look, if_neg (by omega), hpool, hhold] <;> rfl

theorem State.walkFrom_of_served (n : Nat) (hpool : s.poolSays (tab + walkIndex va lvl * 8) = .serve)
    (hhold : s.walkHold (tab + walkIndex va lvl * 8) 8 = none) :
    s.walkFrom va (n + 1) tab lvl =
      if s.physRd (tab + walkIndex va lvl * 8) 8 % 2 = 0 then .fault qNotValid lvl
      else if !s.entryOk (s.physRd (tab + walkIndex va lvl * 8) 8) lvl then .fault qMalformed lvl
      else if isLeaf (s.physRd (tab + walkIndex va lvl * 8) 8) then
        .leaf lvl (tab + walkIndex va lvl * 8) (s.physRd (tab + walkIndex va lvl * 8) 8)
      else s.walkFrom va n (bits (s.physRd (tab + walkIndex va lvl * 8) 8) 8 44 * 256) (lvl + 1) := by
  rw [State.walkFrom, hpool, hhold] <;> rfl

/-- A walk that comes to a table goes on from there. -/
theorem State.walkFrom_of_tableAt {m : Nat} (n l : Nat) (h : s.tableAt va m base l = some tab) :
    s.walkFrom va (m + n) base l = s.walkFrom va n tab (l + m) := by
  induction m generalizing base l with
  | zero =>
    cases h
    rw [Nat.zero_add, Nat.add_zero]
  | succ m ih =>
    rw [State.tableAt] at h
    split at h
    · next hentry =>
      obtain ⟨hpool, hhold, hvalid, hok, hleaf⟩ := hentry
      have hstep := State.walkFrom_of_served (m + n) hpool hhold
      rw [if_neg (by rw [hvalid]; decide), hok, hleaf] at hstep
      rw [Nat.add_right_comm, hstep]
      refine (ih _ h).trans ?_
      rw [Nat.add_right_comm l 1 m]
      rfl
    · cases h

/-- What the walk gives for an entry that it comes to. -/
theorem State.look_of_entry {e : Nat} (hon : s.fld 0 63 1 = 1) (hpool : s.poolSays (s.descAt asid) = .serve)
    (hhold : s.walkHold (s.descAt asid) 8 = none) (hd : s.asDesc asid % 2 = 1) (hok : descOk (s.asDesc asid) = true) (hasid : asid ≠ 0)
    (hlvl : lvl ≤ 4) (htab : s.tableAt va lvl (bits (s.asDesc asid) 16 41 * 2 ^ 11) 0 = some tab)
    (hpool' : s.poolSays (tab + walkIndex va lvl * 8) = .serve) (hhold' : s.walkHold (tab + walkIndex va lvl * 8) 8 = none)
    (he : s.physRd (tab + walkIndex va lvl * 8) 8 = e) :
    (e % 2 = 0 → s.look asid va k priv = .fault .page qNotValid lvl 0) ∧
    (e % 2 = 1 → s.entryOk e lvl = false → s.look asid va k priv = .fault .page qMalformed lvl 0) ∧
    (e % 2 = 1 → s.entryOk e lvl = true → isLeaf e = true → s.look asid va k priv =
      if !s.populated (bits e 16 36 * 2 ^ 16) (pageBytes lvl) then .fault .page qAbsent lvl 0
      else match s.permFault (bits (s.asDesc asid) 8 6) e lvl k priv with
        | some (q, l) => .fault .perm q l 0
        | none =>
          .ok { pa := bits e 16 36 * 2 ^ 16 + pageOff va lvl, key := bits e 52 12, lvl := lvl,
                leafPA := tab + walkIndex va lvl * 8, pte := e, vdev := bits (s.asDesc asid) 8 6, exp := s.pt + 65536 }) := by
  subst he
  obtain ⟨n, hn⟩ : ∃ n, 5 = lvl + (n + 1) := ⟨4 - lvl, by omega⟩
  have hwalk := (State.walkFrom_of_tableAt (n + 1) 0 htab).trans
    ((congrArg (s.walkFrom va (n + 1) tab) (Nat.zero_add lvl)).trans (State.walkFrom_of_served n hpool' hhold'))
  have hlook := State.look_of_served (va := va) (k := k) (priv := priv) hon hpool hhold
  rw [if_neg (by omega), if_neg (by simp [hok, hasid]), hn, hwalk] at hlook
  refine ⟨fun hz => ?_, fun hv hbad => ?_, fun hv hgood hleaf => ?_⟩
  · rw [if_pos hz] at hlook
    exact hlook
  · rw [if_neg (by omega), hbad] at hlook
    exact hlook
  · rw [if_neg (by omega), hgood, hleaf] at hlook
    exact hlook

end

/-- What kind of access a leaf allows (R21). -/
def leafAllows (e : Nat) : Akind → Bool
  | .load => bitOf e 1
  | .store => bitOf e 2
  | .atomic => bitOf e 1 && bitOf e 2
  | .fetch => bitOf e 3

theorem kindFault_eq (e lvl : Nat) (k : Akind) (priv : Bool) : kindFault e lvl k priv =
    if !leafAllows e k then some (qKind, lvl) else if !bitOf e 4 && !priv then some (qPriv, lvl) else none := by
  cases k <;> rfl

section
variable {s : State} {v e lvl : Nat} {k : Akind} {priv : Bool}

theorem State.permFault_kind (h : leafAllows e k = false) : s.permFault v e lvl k priv = some (qKind, lvl) := by
  rw [State.permFault, kindFault_eq, h] <;> rfl

theorem State.permFault_priv (h : leafAllows e k = true) (hu : bitOf e 4 = false) (hp : priv = false) :
    s.permFault v e lvl k priv = some (qPriv, lvl) := by
  rw [State.permFault, kindFault_eq, h, hu, hp] <;> rfl

section
variable (h : leafAllows e k = true) (hu : bitOf e 4 = true ∨ priv = true)
include h hu

theorem kindFault_none : kindFault e lvl k priv = none := by
  have hpriv : (!bitOf e 4 && !priv) = false := by rcases hu with h | h <;> simp [h]
  rw [kindFault_eq, h, hpriv] <;> rfl

theorem State.permFault_key (hkey : s.keyAssigned v (bits e 52 12) = false) : s.permFault v e lvl k priv = some (qKey, lvl) := by
  rw [State.permFault, kindFault_none h hu, hkey] <;> rfl

theorem State.permFault_grant (hkey : s.keyAssigned v (bits e 52 12) = true) (hgr : s.granted v (bits e 16 36) = false) :
    s.permFault v e lvl k priv = some (qGrant, lvl) := by
  rw [State.permFault, kindFault_none h hu, hkey, hgr] <;> rfl

theorem State.permFault_none (hkey : s.keyAssigned v (bits e 52 12) = true) (hgr : s.granted v (bits e 16 36) = true) :
    s.permFault v e lvl k priv = none := by
  rw [State.permFault, kindFault_none h hu, hkey, hgr] <;> rfl

end
end

/-- Data of a poisoned line raise POISON (R61). -/
theorem State.performData_poisoned {s : State} {q : HaReq} {tr : Trans} {pa : Nat} (by_ : Server) (leaf : Option (Nat × Nat × Nat × Nat))
    (hbad : s.poisoned (pa / 128) = true) (hq : q.engine = false) :
    (s.performData q tr pa .rd by_ leaf).2 = .fault .poison 2 0 (BitVec.ofNat 64 (s.poisonSeq pa)) := by
  have hsame : (if (decide (s.keyMode tr.key = 0) && !s.poisoned (pa / 128)) = true then s.poisonLine pa 6 tr.vdev else s) = s :=
    if_neg (by rw [hbad]; simp)
  rw [State.performData]
  dsimp only
  rw [hsame, if_pos ⟨hbad, by rw [hq]; rfl⟩]

/-- Settles O47: the verdicts on pointers are `State.place_…`, the trap at issue `State.access_of_bad`, the walk `State.look_of_entry`. -/
theorem accessFaults : Obligations.AccessFaults := by
  unfold Obligations.AccessFaults
  intro s x o t op cw ord sc
  refine ⟨fun c reg n align ptr => ?_, ?_, fun asid va k priv => ?_, fun q tr pa by_ leaf hbad hq => State.performData_poisoned by_ leaf hbad hq⟩
  · exact ⟨State.place_noSelector, State.place_glob, State.place_noBlock,
      fun b hs hb => ⟨State.place_asp hs hb, State.place_peer hs hb, fun h hcox => State.place_acs hs hb h hcox⟩,
      State.place_acs_lane, State.place_loc_cox, State.place_loc, State.place_fab, State.place_phys_agent,
      State.place_phys_bounds, State.place_phys⟩
  · intro stops all
    have hstops {i : Instr} {m : MemOp} {wr : Bool} {ls : List Nat} (hwr : (m.kind 0 0).writes = wr) (hord : m.ord = ord) (hsc : m.sc = sc)
        (hex : s.issues i = some x → exec i s = .next (s.access x m ls)) : stops i wr m.reg m.n m.align ls := by
      subst hwr hord hsc
      intro hi hwait pre l post cs q hls hpre hl
      subst hls
      exact (hex hi).trans (congrArg Host.Outcome.next (State.access_of_bad hwait hpre hl))
    refine ⟨hstops rfl rfl rfl fun h => (exec_ld ..).trans (State.issue_issues h false _),
      hstops rfl rfl rfl fun h => (exec_st ..).trans (State.issue_issues h false _),
      hstops rfl rfl rfl fun h => (exec_atom ..).trans (State.issue_issues h false _),
      hstops rfl rfl rfl fun h => (exec_red ..).trans (State.issue_issues h false _),
      hstops rfl rfl rfl fun h => (exec_cas ..).trans (State.issue_issues h false _),
      fun hka => ⟨hstops rfl rfl rfl fun h => (exec_kast ..).trans (State.kaImage_issues h hka),
        hstops rfl rfl rfl fun h => (exec_kald ..).trans (State.kaImage_issues h hka),
        hstops rfl rfl rfl fun h => (exec_kaaddm ..).trans (State.kaImage_issues h hka)⟩⟩
  · intro dA d look served
    refine ⟨fun hoff => if_pos hoff, fun hon ⟨hpool, hhold⟩ hz => ?_, fun hon ⟨hpool, hhold⟩ hv hbad => ?_,
      fun lvl tab hon ⟨hpool, hhold⟩ hv hok hasid hlvl htab ⟨hpool', hhold'⟩ => ?_⟩
    · exact (State.look_of_served hon hpool hhold).trans (if_pos hz)
    · refine (State.look_of_served hon hpool hhold).trans ((if_neg ?_).trans (if_pos ?_))
      · have : d % 2 = 1 := hv
        show d % 2 ≠ 0
        omega
      · show (!descOk d || decide (asid = 0)) = true
        rw [descOk]
        simp only [Bool.or_eq_true, Bool.not_eq_true', Bool.and_eq_false_iff, decide_eq_false_iff_not, decide_eq_true_eq]
        tauto
    · intro e page
      obtain ⟨hnone, hmal, hleaf⟩ := State.look_of_entry (k := k) (priv := priv) (e := e) hon hpool hhold hv hok hasid hlvl htab hpool' hhold' rfl
      refine ⟨hnone, hmal, fun he hgood hl => ?_⟩
      intro allows
      have hlook := hleaf he hgood hl
      have hallows : allows = leafAllows e k := by cases k <;> rfl
      rw [hallows]
      refine ⟨fun hp => hlook.trans (if_pos (by rw [hp]; rfl)), fun hp => ?_⟩
      have hperm := hlook.trans (if_neg (by rw [hp]; exact Bool.false_ne_true))
      refine ⟨fun ha => ?_, fun ha hu hpriv => ?_, fun ha hu => ⟨fun hkey => ?_, fun hkey => ⟨fun hgr => ?_, fun hgr => ?_⟩⟩⟩
      · rw [State.permFault_kind ha] at hperm
        exact hperm
      · rw [State.permFault_priv ha hu hpriv] at hperm
        exact hperm
      · rw [State.permFault_key (v := bits (s.asDesc asid) 8 6) ha hu hkey] at hperm
        exact hperm
      · rw [State.permFault_grant (v := bits (s.asDesc asid) 8 6) ha hu hkey hgr] at hperm
        exact hperm
      · rw [State.permFault_none (v := bits (s.asDesc asid) 8 6) ha hu hkey hgr] at hperm
        exact ⟨_, hperm, rfl, rfl, rfl⟩

end Sys2Proof.Machine

/-! SUPPORT. A store at its performing point: what is served before it and after it leaves every byte as it is (R17, R47, R74 to R82, R95). -/

namespace Sys2Proof.Machine

/-! ### Steps that change no byte -/

/-- Memory, its materials, the keys, the migrations and the system region are as before. -/
structure State.Keeps (s t : State) : Prop where
  mem : t.ms.mem = s.ms.mem
  mat : t.ms.mat = s.ms.mat
  keys : t.part.keys = s.part.keys
  mig : t.mig = s.mig
  sys : t.sys = s.sys

/-- No owner holds a line under a key that is OFF. -/
def State.ownersKnown (s : State) : Prop := ∀ l o, s.ms.dir.find? l = some o → o.owner = none ∨ s.keyMode o.okey ≠ 0

/-- A step that keeps all this, and after which no owner holds a line under a key that is OFF. -/
structure State.Tidy (s t : State) : Prop extends s.Keeps t where
  owners : t.ownersKnown

section
variable {s t u : State} {l v pa asid va : Nat} {d : Dir}

theorem State.Keeps.refl (s : State) : s.Keeps s := ⟨rfl, rfl, rfl, rfl, rfl⟩

theorem State.Keeps.trans (h : s.Keeps t) (h' : t.Keeps u) : s.Keeps u :=
  ⟨h'.mem.trans h.mem, h'.mat.trans h.mat, h'.keys.trans h.keys, h'.mig.trans h.mig, h'.sys.trans h.sys⟩

theorem State.Keeps.rdByte (h : s.Keeps t) (key a : Nat) : t.rdByte key a = s.rdByte key a := State.rdByte_of_ms h.mem h.mat h.keys

theorem State.Keeps.keyMode (h : s.Keeps t) (k : Nat) : t.keyMode k = s.keyMode k := by rw [State.keyMode, State.keyMode, h.keys]

theorem State.Keeps.mirrorOf (h : s.Keeps t) (pa : Nat) : t.mirrorOf pa = s.mirrorOf pa := State.mirrorOf_of_mig h.mig pa

theorem State.Keeps.fld (h : s.Keeps t) (off lo n : Nat) : t.fld off lo n = s.fld off lo n := by
  rw [State.fld, State.fld, State.reg, State.reg, h.sys]

theorem State.Keeps.tidy (h : s.Keeps t) (hs : s.ownersKnown) (hdir : t.ms.dir = s.ms.dir) : s.Tidy t where
  toKeeps := h
  owners := fun l o ho => by
    rw [h.keyMode]
    exact hs l o (hdir ▸ ho)

theorem State.Tidy.trans (h : s.Tidy t) (h' : t.Tidy u) : s.Tidy u := ⟨h.toKeeps.trans h'.toKeeps, h'.owners⟩

theorem State.Tidy.refl (hs : s.ownersKnown) : s.Tidy s := ⟨.refl s, hs⟩

theorem foldl_tidy {α : Type} {f : State → α → State} (hf : ∀ (s : State) a, s.ownersKnown → s.Tidy (f s a)) (as : List α) :
    ∀ {s : State}, s.ownersKnown → s.Tidy (as.foldl f s) := by
  induction as with
  | nil => exact fun hs => .refl hs
  | cons a as ih => exact fun hs => (hf _ a hs).trans (ih (hf _ a hs).owners)

/-! ### The directory -/

theorem State.setDir_keeps (s : State) (l : Nat) (d : Dir) : s.Keeps (s.setDir l d) := ⟨rfl, rfl, rfl, rfl, rfl⟩

theorem State.setDir_tidy (hs : s.ownersKnown) (hd : d.owner = none ∨ s.keyMode d.okey ≠ 0) : s.Tidy (s.setDir l d) where
  toKeeps := s.setDir_keeps l d
  owners := fun k o ho => by
    by_cases hk : k = l
    · subst hk
      have hfind : (s.setDir k d).ms.dir.find? k = some d := SMap.find?_put_same ..
      cases hfind.symm.trans ho
      exact hd
    · have hfind : (s.setDir l d).ms.dir.find? k = s.ms.dir.find? k := SMap.find?_put_ne _ _ hk
      exact hs k o (hfind.symm.trans ho)

theorem State.ownersKnown.dirOf (hs : s.ownersKnown) (v l : Nat) : (s.dirOf v l).owner = none ∨ s.keyMode (s.dirOf v l).okey ≠ 0 := by
  rw [State.dirOf]
  cases hd : s.ms.dir.find? l with
  | none => exact .inl rfl
  | some d => exact hs l d hd

theorem State.recall_keeps (s : State) (l : Nat) : s.Keeps (s.recall l) := by
  rw [State.recall]
  split
  · exact .refl s
  · split
    · exact .refl s
    · exact s.setDir_keeps _ _

theorem State.recall_tidy (hs : s.ownersKnown) (l : Nat) : s.Tidy (s.recall l) := by
  rw [State.recall]
  split
  · exact .refl hs
  · split
    · exact .refl hs
    · exact State.setDir_tidy hs (.inl rfl)

/-- An owner whose key is known writes back without harm. -/
theorem State.writeBack_of_known (h : ∀ o, s.ms.dir.find? l = some o → o.owner = none ∨ s.keyMode o.okey ≠ 0) : s.writeBack l = s.recall l := by
  rw [State.writeBack]
  cases hd : s.ms.dir.find? l with
  | none => rw [State.recall, hd]
  | some d =>
    dsimp only
    cases ho : d.owner with
    | none =>
      rw [State.recall, hd]
      dsimp only
      rw [ho]
    | some x =>
      refine if_neg fun hoff => ?_
      rw [(s.recall_keeps l).keyMode] at hoff
      exact ((h d hd).resolve_left (by rw [ho]; exact Option.some_ne_none x)) hoff.1

theorem State.writeBack_tidy (s : State) (l : Nat) (hs : s.ownersKnown) : s.Tidy (s.writeBack l) := by
  rw [State.writeBack_of_known (hs l)]
  exact State.recall_tidy hs l

theorem State.letGo_tidy (hs : s.ownersKnown) (l : Nat) : s.Tidy (s.letGo l) := by
  have hback := s.writeBack_tidy l hs
  rw [State.letGo]
  cases hd : (s.writeBack l).ms.dir.find? l with
  | none => exact hback
  | some d => exact hback.trans (State.setDir_tidy hback.owners (hback.owners l d hd))

/-! ### Copies and ways -/

theorem State.evictOcc_tidy (hs : s.ownersKnown) (o : Occ) : s.Tidy (s.evictOcc o) := by
  rw [State.evictOcc]
  split
  · exact State.letGo_tidy hs _
  · exact State.Keeps.tidy ⟨rfl, rfl, rfl, rfl, rfl⟩ hs rfl

theorem State.makeWay_tidy (hs : s.ownersKnown) (lvl : Level) (n asid va : Nat) : s.Tidy (s.makeWay lvl n asid va) := by
  rw [State.makeWay]
  dsimp only
  split
  · exact .refl hs
  · split
    · exact .refl hs
    · split
      · exact State.evictOcc_tidy hs _
      · exact .refl hs

theorem State.wayFor_tidy (hs : s.ownersKnown) (mask asid va : Nat) : s.Tidy (s.wayFor mask asid va).1 := by
  rw [State.wayFor]
  dsimp only
  split
  · exact .refl hs
  · split
    · exact .refl hs
    · exact State.evictOcc_tidy hs _
    · exact .refl hs

theorem State.grantLease_tidy (hs : s.ownersKnown) (v l limit : Nat) : s.Tidy (s.grantLease v l limit).1 := State.setDir_tidy hs (hs.dirOf v l)

theorem State.orderWrite_tidy (hs : s.ownersKnown) (v writer l : Nat) : s.Tidy (s.orderWrite v writer l).1 :=
  State.setDir_tidy hs (hs.dirOf v l)

theorem State.addCopy_l3_tidy (hs : s.ownersKnown) {c : Copy} (hc : c.lvl = .l3) : s.Tidy (s.addCopy c).1 := by
  rw [State.addCopy]
  split
  · exact State.Keeps.tidy ⟨rfl, rfl, rfl, rfl, rfl⟩ hs rfl
  · rw [if_pos hc]
    exact State.Keeps.tidy ⟨rfl, rfl, rfl, rfl, rfl⟩ hs rfl

theorem State.allocL3_tidy (hs : s.ownersKnown) (q : HaReq) (t : Trans) (pa : Nat) (atomic : Bool) : s.Tidy (s.allocL3 q t pa atomic) := by
  rw [State.allocL3]
  dsimp only
  generalize s.l3Mask t.vdev q.tc (if atomic = true then 2 else 1) = mask
  have hway := State.wayFor_tidy hs mask q.asid q.va
  split
  · exact .refl hs
  · cases hw : s.wayFor mask q.asid q.va with
    | mk u w =>
      rw [hw] at hway
      cases w with
      | none => exact hway
      | some w =>
        have hlease := State.grantLease_tidy hway.owners t.vdev (pa / 128) t.exp
        exact (hway.trans hlease).trans (State.addCopy_l3_tidy hlease.owners rfl)

/-! ### Ownership and the bank -/

theorem State.activate_keeps (s : State) (v pa : Nat) : s.Keeps (s.activate v pa) ∧ (s.activate v pa).ms.dir = s.ms.dir := by
  rw [State.activate]
  split
  · exact ⟨.refl s, rfl⟩
  · dsimp only
    split
    · split
      · exact ⟨⟨rfl, rfl, rfl, rfl, rfl⟩, rfl⟩
      · exact ⟨⟨rfl, rfl, rfl, rfl, rfl⟩, rfl⟩
    · split
      · exact ⟨⟨rfl, rfl, rfl, rfl, rfl⟩, rfl⟩
      · exact ⟨⟨rfl, rfl, rfl, rfl, rfl⟩, rfl⟩

theorem State.dropCopies_tidy (hs : s.ownersKnown) (f : Copy → Bool) : s.Tidy (s.dropCopies f) :=
  State.Keeps.tidy ⟨rfl, rfl, rfl, rfl, rfl⟩ hs rfl

theorem State.used_tidy (hs : s.ownersKnown) : s.Tidy s.used := State.Keeps.tidy ⟨rfl, rfl, rfl, rfl, rfl⟩ hs rfl

theorem State.Tidy.setDir_used (h : s.Tidy u) (hd : d.owner = none ∨ u.keyMode d.okey ≠ 0) : s.Tidy (u.setDir l d).used := by
  have hset := h.trans (State.setDir_tidy (l := l) h.owners hd)
  exact hset.trans (State.used_tidy hset.owners)

theorem State.grantOwn_tidy (hs : s.ownersKnown) (q : HaReq) {t : Trans} (ht : s.keyMode t.key ≠ 0) (l die : Nat) :
    s.Tidy (s.grantOwn q t l die).1 := by
  rw [State.grantOwn]
  dsimp only
  generalize List.map _ _ = old
  have hold := foldl_tidy State.writeBack_tidy old hs
  generalize old.foldl State.writeBack s = u at hold
  generalize u.ownedAs q t.vdev l die = kept
  have hkept : s.Tidy (if kept = true then u else u.writeBack l) := by
    split
    · exact hold
    · exact hold.trans (State.writeBack_tidy _ l hold.owners)
  generalize (if kept = true then u else u.writeBack l) = w at hkept
  have hdrop := hkept.trans (State.dropCopies_tidy hkept.owners fun c => c.lvl = .l2 && c.unit = die && c.asid = q.asid && c.va = q.va / 128 * 128)
  generalize w.dropCopies _ = y at hdrop
  have hway : s.Tidy (if kept = true then y else y.makeWay .l2 die q.asid (q.va / 128 * 128)) := by
    split
    · exact hdrop
    · exact hdrop.trans (State.makeWay_tidy hdrop.owners ..)
  have hkey := hway.toKeeps.keyMode t.key
  exact hway.setDir_used (.inr (by rw [hkey]; exact ht))

theorem State.ownFor_tidy (hs : s.ownersKnown) (q : HaReq) {t : Trans} (ht : s.keyMode t.key ≠ 0) (l : Nat) (writes : Bool) :
    s.Tidy (s.ownFor q t l writes).1 := by
  have hback := s.writeBack_tidy l hs
  rw [State.ownFor]
  dsimp only
  split
  · exact (State.Tidy.refl hs).setDir_used (hs.dirOf t.vdev l)
  · split
    · split
      · exact hback
      · exact .refl hs
    · split
      · split
        · exact hback
        · next die _ _ =>
          have hgrant := State.grantOwn_tidy hs q ht l die
          exact hgrant.trans (State.setDir_tidy hgrant.owners (hgrant.owners.dirOf _ _))
      · exact hback

/-! ### The data part of a store -/

theorem putRun_dir (bs : List Byte) : ∀ (m : MemSys) (pa : Nat), (putRun m pa bs).dir = m.dir := by
  induction bs with
  | nil => exact fun _ _ => rfl
  | cons b bs ih => exact fun m pa => (ih _ _).trans rfl

theorem State.wrBytes_keep (s : State) (key pa : Nat) (bs : List Byte) :
    (s.wrBytes key pa bs).mig = s.mig ∧ (s.wrBytes key pa bs).part = s.part ∧ (s.wrBytes key pa bs).sys = s.sys := by
  obtain ⟨m, hm⟩ := s.wrBytes_ms key pa bs
  rw [hm]
  exact ⟨rfl, rfl, rfl⟩

theorem State.putLine_dir (s : State) (l r : Nat) (bs : List Byte) : (s.putLine l r bs).ms.dir = s.ms.dir := putRun_dir bs s.ms (l * 128)

theorem State.rekeyLine_dir (s : State) (key l : Nat) : (s.rekeyLine key l).ms.dir = s.ms.dir := by
  rw [State.rekeyLine]
  split
  · rfl
  · exact State.putLine_dir ..

theorem State.rekeyLines_dir (key : Nat) (ls : List Nat) : ∀ s : State, (s.rekeyLines key ls).ms.dir = s.ms.dir := by
  induction ls with
  | nil => exact fun _ => rfl
  | cons l ls ih => exact fun s => (ih (s.rekeyLine key l)).trans (s.rekeyLine_dir key l)

theorem State.wrBytes_dir (s : State) (key pa : Nat) (bs : List Byte) : (s.wrBytes key pa bs).ms.dir = s.ms.dir := by
  rw [State.wrBytes_eq]
  exact (putRun_dir bs _ pa).trans (State.rekeyLines_dir key _ s)

theorem State.wrBytes_owners (hs : s.ownersKnown) (key pa : Nat) (bs : List Byte) : (s.wrBytes key pa bs).ownersKnown := fun l o ho => by
  obtain ⟨_, hpart, _⟩ := s.wrBytes_keep key pa bs
  rw [State.wrBytes_dir] at ho
  rw [State.keyMode, hpart]
  exact hs l o ho

/-- The bytes of a store, where its page is mirrored too (R47). -/
def State.putMirrored (s : State) (key pa : Nat) (bs : List Byte) : State :=
  match s.mirrorOf pa with
  | some d => (s.wrBytes key pa bs).wrBytes key d bs
  | none => s.wrBytes key pa bs

/-- What is noted of a store: poison, the write order, the watch and the collectives' buffers. -/
def State.noteStore (s : State) (q : HaReq) (t : Trans) (pa n : Nat) : State × Nat :=
  let s := if q.mark then s.setPoison (pa / 128) true else if n = 128 then s.setPoison (pa / 128) false else s
  let r := s.orderWrite t.vdev q.who (pa / 128)
  ((r.1.watchNotice (pa / 128) r.2).spoilColls q n, r.2)

theorem State.storeAt_eq (s : State) (q : HaReq) (t : Trans) (pa : Nat) (by_ : Server) (atomic : Bool) (bs : List Byte) :
    s.storeAt q t pa by_ atomic bs =
      let r := (s.putMirrored t.key pa bs).noteStore q t pa bs.length
      (if q.phys.isNone && decide (by_ = .ha) then
        (r.1.updateL3 q.asid q.va bs (r.1.poisoned (pa / 128)) r.2 q.who).allocL3 q t pa atomic else r.1, r.2) := rfl

theorem State.putMirrored_keep (s : State) (key pa : Nat) (bs : List Byte) :
    (s.putMirrored key pa bs).mig = s.mig ∧ (s.putMirrored key pa bs).part = s.part ∧ (s.putMirrored key pa bs).sys = s.sys := by
  obtain ⟨hmig, hpart, hsys⟩ := s.wrBytes_keep key pa bs
  rw [State.putMirrored]
  split
  · next d _ =>
    obtain ⟨hmig', hpart', hsys'⟩ := (s.wrBytes key pa bs).wrBytes_keep key d bs
    exact ⟨hmig'.trans hmig, hpart'.trans hpart, hsys'.trans hsys⟩
  · exact ⟨hmig, hpart, hsys⟩

theorem State.putMirrored_owners (hs : s.ownersKnown) (key pa : Nat) (bs : List Byte) : (s.putMirrored key pa bs).ownersKnown := by
  rw [State.putMirrored]
  split
  · exact State.wrBytes_owners (State.wrBytes_owners hs _ _ _) _ _ _
  · exact State.wrBytes_owners hs _ _ _

theorem State.spoilColls_keeps (s : State) (q : HaReq) (n : Nat) : s.Keeps (s.spoilColls q n) ∧ (s.spoilColls q n).ms.dir = s.ms.dir := by
  rw [State.spoilColls]
  dsimp only
  split
  · exact ⟨⟨rfl, rfl, rfl, rfl, rfl⟩, rfl⟩
  · exact ⟨.refl s, rfl⟩

theorem State.noteStore_keeps (s : State) (q : HaReq) (t : Trans) (pa n : Nat) : s.Keeps (s.noteStore q t pa n).1 ∧
    (s.ownersKnown → (s.noteStore q t pa n).1.ownersKnown) := by
  rw [State.noteStore]
  dsimp only
  have hmark : s.Keeps (if q.mark = true then s.setPoison (pa / 128) true else if n = 128 then s.setPoison (pa / 128) false else s) ∧
      (if q.mark = true then s.setPoison (pa / 128) true else if n = 128 then s.setPoison (pa / 128) false else s).ms.dir = s.ms.dir := by
    split
    · exact ⟨⟨rfl, rfl, rfl, rfl, rfl⟩, rfl⟩
    · split
      · exact ⟨⟨rfl, rfl, rfl, rfl, rfl⟩, rfl⟩
      · exact ⟨.refl s, rfl⟩
  generalize (if q.mark = true then s.setPoison (pa / 128) true else if n = 128 then s.setPoison (pa / 128) false else s) = u at hmark
  have horder : u.Keeps (u.orderWrite t.vdev q.who (pa / 128)).1 := State.setDir_keeps ..
  generalize hw : u.orderWrite t.vdev q.who (pa / 128) = w at horder
  have hwatch : w.1.Keeps (w.1.watchNotice (pa / 128) w.2) := ⟨rfl, rfl, rfl, rfl, rfl⟩
  obtain ⟨hspoil, hdir⟩ := (w.1.watchNotice (pa / 128) w.2).spoilColls_keeps q n
  refine ⟨((hmark.1.trans horder).trans hwatch).trans hspoil, fun hs => ?_⟩
  have hu := hmark.1.tidy hs hmark.2
  have hwowners : w.1.ownersKnown := by
    rw [← hw]
    exact (State.orderWrite_tidy hu.owners ..).owners
  exact (hspoil.tidy (hwatch.tidy hwowners rfl).owners hdir).owners

/-- A store changes the bytes that it puts and no others. -/
theorem State.storeAt_keeps (q : HaReq) (t : Trans) (pa : Nat) (by_ : Server) (atomic : Bool) (bs : List Byte)
    (h : q.phys.isSome = true ∨ s.ownersKnown) : (s.putMirrored t.key pa bs).Keeps (s.storeAt q t pa by_ atomic bs).1 := by
  obtain ⟨hnote, howners⟩ := (s.putMirrored t.key pa bs).noteStore_keeps q t pa bs.length
  rw [State.storeAt_eq]
  dsimp only
  split
  · next hl3 =>
    rcases h with hphys | hs
    · rw [Option.isNone_eq_false_iff.mpr hphys] at hl3
      cases hl3
    · have hl := (howners (State.putMirrored_owners hs _ _ _))
      generalize (s.putMirrored t.key pa bs).noteStore q t pa bs.length = r at *
      have hup : r.1.Tidy (r.1.updateL3 q.asid q.va bs (r.1.poisoned (pa / 128)) r.2 q.who) := State.Keeps.tidy ⟨rfl, rfl, rfl, rfl, rfl⟩ hl rfl
      exact (hnote.trans hup.toKeeps).trans (State.allocL3_tidy hup.owners q t pa atomic).toKeeps
  · exact hnote

/-- Where nothing is counted an access leaves no trace (R39). -/
theorem State.count_off (h : s.fld (tslot v + 0x60 + 16 * region pa) 0 1 = 0) (rd wr : Bool) (leaf : Option (Nat × Nat × Nat × Nat)) :
    s.count v pa rd wr leaf = s := by
  rw [State.count]
  exact if_pos (.inr (.inl h))

theorem State.countServed_off (h : s.fld (tslot v + 0x60 + 16 * region pa) 0 1 = 0) (by_ : Server) (rd wr : Bool)
    (leaf : Option (Nat × Nat × Nat × Nat)) : s.countServed by_ v pa rd wr leaf = s := by
  cases by_ with
  | ha => exact State.count_off h ..
  | l2 => rfl
  | granted data =>
    cases data with
    | true => exact State.count_off h ..
    | false => rfl

theorem State.performData_store {q : HaReq} {t : Trans} (hkey : s.keyMode t.key ≠ 0) (hcount : s.fld (tslot t.vdev + 0x60 + 16 * region pa) 0 1 = 0)
    (bs : List Byte) (by_ : Server) (leaf : Option (Nat × Nat × Nat × Nat)) : s.performData q t pa (.wr bs) by_ leaf =
      ((s.storeAt q t pa by_ false bs).1, .ok 0 (s.storeAt q t pa by_ false bs).2) := by
  rw [State.performData]
  dsimp only
  have hsame : (if (false && !s.poisoned (pa / 128)) = true then s.poisonLine pa 6 t.vdev else s) = s := if_neg Bool.false_ne_true
  rw [decide_eq_false hkey, hsame, State.countServed_off hcount]
  rfl

/-- A store at a bank that is not throttled puts its bytes. -/
theorem State.performLine_store {q : HaReq} {t : Trans} (hkey : s.keyMode t.key ≠ 0)
    (hcount : s.fld (tslot t.vdev + 0x60 + 16 * region pa) 0 1 = 0) (hthrottle : s.throttled t.vdev pa = none)
    (h : (q.phys.isSome = true ∧ q.atL = .ha ∧ ∀ o, s.ms.dir.find? (pa / 128) = some o → o.owner = none ∨ s.keyMode o.okey ≠ 0) ∨ s.ownersKnown)
    (bs : List Byte) : ∃ u w g, s.performLine q t pa (.wr bs) = (w, .ok 0 g) ∧ s.Keeps u ∧ (u.putMirrored t.key pa bs).Keeps w := by
  rw [State.performLine]
  dsimp only
  generalize (!((s.dirOf t.vdev (pa / 128)).mine s.pt q || !(HaOp.wr bs).writes && (s.dirOf t.vdev (pa / 128)).sameTag s.pt q)) = dram
  have hpaced : (if dram = true then s.paced q.pace t.vdev pa else none) = none := by
    unfold State.paced
    rw [hthrottle]
    cases q.pace <;> exact ite_self _
  rw [hpaced]
  dsimp only
  obtain ⟨hact, hdir⟩ : s.Keeps (if dram = true then s.activate t.vdev pa else s) ∧
      (if dram = true then s.activate t.vdev pa else s).ms.dir = s.ms.dir := by
    split
    · exact s.activate_keeps t.vdev pa
    · exact ⟨.refl s, rfl⟩
  generalize (if dram = true then s.activate t.vdev pa else s) = y at hact hdir
  obtain ⟨hown, hphys⟩ : y.Keeps (y.ownFor q t (pa / 128) true).1 ∧ (q.phys.isSome = true ∨ (y.ownFor q t (pa / 128) true).1.ownersKnown) := by
    rcases h with ⟨hphys, hat, hline⟩ | hs
    · have hnotmine : (y.dirOf t.vdev (pa / 128)).mine y.pt q = false := by
        have htag : (y.dirOf t.vdev (pa / 128)).sameTag y.pt q = false := by
          rw [Dir.sameTag]
          split
          · rw [Option.isNone_eq_false_iff.mpr hphys, Bool.and_false]
          · rfl
        rw [Dir.mine, htag, Bool.false_and]
      have hback : y.writeBack (pa / 128) = y.recall (pa / 128) := State.writeBack_of_known fun o ho => by
        rw [hact.keyMode]
        exact hline o (hdir ▸ ho)
      rw [State.ownFor]
      dsimp only
      rw [hnotmine, hat, hback]
      exact ⟨y.recall_keeps _, .inl hphys⟩
    · have htidy := State.ownFor_tidy (hact.tidy hs hdir).owners q (t := t) (by rw [hact.keyMode]; exact hkey) (pa / 128) true
      exact ⟨htidy.toKeeps, .inr htidy.owners⟩
  have hu := hact.trans hown
  rw [show (HaOp.wr bs).writes = true from rfl]
  rw [State.performData_store (by rw [hu.keyMode]; exact hkey) (by rw [hu.fld]; exact hcount)]
  exact ⟨_, _, _, rfl, hu, State.storeAt_keeps q t pa _ false bs hphys⟩

/-! ### What the bytes of a store read as -/

section
variable {key a : Nat} {bs : List Byte} (hline : pa % 128 + bs.length ≤ 128) (hpos : 0 < bs.length)

include hline hpos in
theorem linesOf_within : linesOf pa bs.length = [pa / 128] := by
  rw [linesOf, show (pa % 128 + bs.length + 127) / 128 = 1 by omega]
  rfl

include hline hpos in
theorem State.wrBytes_rdByte_off_line (k : Nat) (h : a / 128 ≠ pa / 128) : (s.wrBytes k pa bs).rdByte key a = s.rdByte key a :=
  State.wrBytes_rdByte_far (by rw [linesOf_within hline hpos, List.mem_singleton]; exact h)

include hline in
theorem State.putMirrored_in {i : Nat} (h : i < bs.length) : (s.putMirrored key pa bs).rdByte key (pa + i) = bs[i] := by
  rw [State.putMirrored]
  cases hm : s.mirrorOf pa with
  | none => exact State.wrBytes_rdByte_in h
  | some d =>
    have hmod := State.mirrorOf_mod hm
    by_cases hd : d = pa
    · subst hd
      exact State.wrBytes_rdByte_in h
    · exact (State.wrBytes_rdByte_out (by omega)).trans (State.wrBytes_rdByte_in h)

theorem State.putMirrored_in_mirror {i d : Nat} (hm : s.mirrorOf pa = some d) (h : i < bs.length) :
    (s.putMirrored key pa bs).rdByte key (d + i) = bs[i] := by
  rw [State.putMirrored, hm]
  exact State.wrBytes_rdByte_in h

theorem State.putMirrored_out (h : a < pa ∨ pa + bs.length ≤ a) (hm : ∀ d, s.mirrorOf pa = some d → a < d ∨ d + bs.length ≤ a) :
    (s.putMirrored key pa bs).rdByte key a = s.rdByte key a := by
  have hfirst := State.wrBytes_rdByte_out (s := s) (key := key) h
  rw [State.putMirrored]
  cases hd : s.mirrorOf pa with
  | none => exact hfirst
  | some d => exact (State.wrBytes_rdByte_out (hm d hd)).trans hfirst

include hline hpos in
theorem State.putMirrored_far (k : Nat) (h : a / 128 ≠ pa / 128) (hm : ∀ d, s.mirrorOf pa = some d → a / 128 ≠ d / 128) :
    (s.putMirrored k pa bs).rdByte key a = s.rdByte key a := by
  have hfirst := State.wrBytes_rdByte_off_line (s := s) (key := key) hline hpos k h
  rw [State.putMirrored]
  cases hd : s.mirrorOf pa with
  | none => exact hfirst
  | some d =>
    have hmod := State.mirrorOf_mod hd
    exact (State.wrBytes_rdByte_off_line (by omega) hpos k (hm d hd)).trans hfirst

end

/-! ### A request performed -/

/-- The page of an access as it stands: nothing of a migration stops it (R47, R50, R54). -/
theorem State.performAt_store {q : HaReq} {t : Trans} {bs : List Byte} (hpool : s.poolSays t.pa = .serve)
    (hcatch : ∀ i f, s.fwdOf (s.routed t.pa / 65536) = some (i, f) → f.st ≠ .catching) (hpte : s.pteOfMig (s.routed t.pa) q.n = none) :
    s.performAt q t (.wr bs) = s.performLine q t (s.routed t.pa) (.wr bs) := by
  rw [State.performAt, hpool]
  dsimp only
  have hstall : (match s.fwdOf (s.routed t.pa / 0x10000) with
      | some (i, f) => if f.st = .catching ∧ ((HaOp.wr bs).writes ∨ f.heldLine (s.routed t.pa / 128 % 512)) then some i else none
      | none => none) = none := by
    split
    · next i f hf => exact if_neg fun hc => hcatch i f hf hc.1
    · rfl
  split
  · next heq => cases heq.symm.trans hstall
  · next heq => cases heq.symm.trans ((if_pos rfl).trans hpte)
  · rfl

section
variable {r : Req} {id : Nat} {c : Ctx} {bs : List Byte}

theorem State.noteG_keeps (s : State) (r : Req) (g : Nat) : s.Keeps (s.noteG r g) := by
  rw [State.noteG]
  split
  · split
    · exact ⟨rfl, rfl, rfl, rfl, rfl⟩
    · exact .refl s
  · exact .refl s

theorem State.fall8_keeps (s : State) (r : Req) : s.Keeps (s.fall8 r) := by
  rw [State.fall8]
  split
  · split
    · exact ⟨rfl, rfl, rfl, rfl, rfl⟩
    · exact .refl s
  · exact .refl s

theorem State.fallRmt_keeps (s : State) (cid : Nat) : s.Keeps (s.fallRmt cid) := by
  rw [State.fallRmt]
  split
  · exact .refl s
  · exact ⟨rfl, rfl, rfl, rfl, rfl⟩

theorem State.settleAcc_keeps (s : State) (cid key : Nat) : s.Keeps (s.settleAcc cid key) := by
  rw [State.settleAcc]
  split
  · exact .refl s
  · split
    · exact .refl s
    · split
      · exact .refl s
      · exact ⟨rfl, rfl, rfl, rfl, rfl⟩

/-- The completion time of a request that is done is noted by its thread (R99). -/
def State.notedDone (s : State) (r : Req) : ReqSt → State
  | .done _ g => s.noteG r g
  | _ => s

theorem State.notedDone_keeps (s : State) (r : Req) (st : ReqSt) : s.Keeps (s.notedDone r st) := by
  cases st with
  | done v g => exact s.noteG_keeps r g
  | _ => exact .refl s

theorem State.endReq_eq (s : State) (id : Nat) (r : Req) (st : ReqSt) : s.endReq id r st =
    let u := ((s.setReq id { r with st := st }).notedDone r st).fall8 r
    let w := if r.space = 5 ∧ r.kind.writes then u.fallRmt r.cid else u
    match w.accKey id r with
    | some k => w.settleAcc r.cid k
    | none => w := rfl

theorem State.endReq_keeps (s : State) (id : Nat) (r : Req) (st : ReqSt) : s.Keeps (s.endReq id r st) := by
  have hset : s.Keeps (s.setReq id { r with st := st }) := ⟨rfl, rfl, rfl, rfl, rfl⟩
  rw [State.endReq_eq]
  dsimp only
  generalize s.setReq id { r with st := st } = u at hset
  have hfall := (hset.trans (u.notedDone_keeps r st)).trans ((u.notedDone r st).fall8_keeps r)
  generalize (u.notedDone r st).fall8 r = w at hfall
  have hrmt : s.Keeps (if r.space = 5 ∧ r.kind.writes then w.fallRmt r.cid else w) := by
    split
    · exact hfall.trans (State.fallRmt_keeps ..)
    · exact hfall
  split
  · exact hrmt.trans (State.settleAcc_keeps ..)
  · exact hrmt

theorem State.shareVia_keeps (s : State) (r : Req) (j : Nat) : s.Keeps (s.shareVia r j) := by
  rw [State.shareVia]
  split
  · exact .refl s
  · dsimp only
    split
    · exact ⟨rfl, rfl, rfl, rfl, rfl⟩
    · exact .refl s

theorem foldl_keeps {α : Type} {f : State → α → State} (hf : ∀ (s : State) a, s.Keeps (f s a)) (as : List α) :
    ∀ s : State, s.Keeps (as.foldl f s) := by
  induction as with
  | nil => exact State.Keeps.refl
  | cons a as ih => exact fun s => (hf s a).trans (ih (f s a))

theorem State.shareFate_keeps (s : State) (id : Nat) (js : List Nat) : s.Keeps (s.shareFate id js) := by
  rw [State.shareFate]
  split
  · exact .refl s
  · split
    · split
      · refine foldl_keeps (fun s j => ?_) js s
        split
        · split
          · exact State.endReq_keeps ..
          · exact .refl s
        · exact .refl s
      · exact foldl_keeps (fun s j => State.shareVia_keeps s _ j) js s
    · exact foldl_keeps (fun s j => State.shareVia_keeps s _ j) js s

/-- A thread's store that nothing stands before, once performed, is over; its twins change no byte. -/
theorem State.servePtr_store {u : State} {g : Nat} (hc : s.ctxs.find? r.cid = some c) (hbehind : s.behind c id r = false)
    (hspace : r.space ≤ 3 ∧ s.issueMates c id r = [] ∨ r.space = 15 ∧ region r.va < 2)
    (hdone : s.performReq c r .queue = (u, .ok 0 g)) : ∃ t, s.servePtr id r .queue = some t ∧ u.Keeps t := by
  have hreg : r.isReg = false := by
    rw [Req.isReg]
    rcases hspace with ⟨h, _⟩ | ⟨_, h⟩
    · rw [decide_eq_false (by omega), Bool.false_and]
    · rw [decide_eq_false (p := region r.va = 4) (by omega), Bool.and_false]
  have halias : s.aliasHold c id r = (s, false) := by
    rw [State.aliasHold]
    rcases hspace with ⟨_, h⟩ | ⟨h, _⟩
    · split
      · rfl
      · rw [h] <;> rfl
    · rw [h] <;> exact if_pos (.inr rfl)
  have hne : r.space ≠ 4 ∧ r.space ≠ 5 ∧ r.space ≠ 6 ∧ r.space ≠ 8 := by omega
  obtain ⟨h4, h5, h6, h8⟩ := hne
  have hthread : s.serveThread id r .queue = some (u.endReq id r (.done 0 g)) := by
    rw [State.serveThread, hc]
    dsimp only
    rw [hbehind, if_neg (by simp [h5]), hreg, if_neg Bool.false_ne_true, if_neg (by omega), if_neg (by simp [h8]), halias]
    dsimp only
    rw [if_neg Bool.false_ne_true, if_neg h8, hdone]
    rfl
  rw [State.servePtr, hthread]
  dsimp only
  split
  · exact ⟨_, rfl, State.endReq_keeps ..⟩
  · exact ⟨_, rfl, (State.endReq_keeps ..).trans (State.shareFate_keeps ..)⟩

/-- A store that is due, of a thread and not of the hub, is served at its pointer. -/
theorem execHaWrite_store {t : State} (hr : s.ms.reqs.find? id = some r) (hk : r.kind = .store bs) (hst : r.st = .waiting)
    (hspace : r.space ≤ 15) (hserve : s.servePtr id r .queue = some t) : exec (.haWrite id) s = .next t := by
  rw [exec_haWrite, execHaWrite, State.serveWrite_writes hr (by rw [State.dueReq, hst]) (by rw [hk]; rfl),
    if_neg (by show r.space ≠ 96; omega), if_neg (by show r.space ≠ 95; omega), if_neg (by show r.space ≠ 94; omega), hserve]

theorem State.performReq_store (hspace : r.space ≠ 7) (hk : r.kind = .store bs) (c : Ctx) (pace : Pace) :
    s.performReq c r pace = s.performPart r r.va r.size pace (.wr bs) := by
  have hparts : reqParts c r = [(r.va, r.size)] := if_neg hspace
  rw [State.performReq, hparts, hk] <;> rfl

/-- The request of a physical store reaches its address as it is (R17). -/
theorem State.performPart_phys (hspace : r.space = 15) (hfixed : r.fixed = []) (hvia : r.via = none)
    (hpop : s.populated r.va r.size = true) : s.performPart r r.va r.size .queue (.wr bs) =
      s.performAt (r.ha r.va r.size .queue) (physTrans r.va r.dev) (.wr bs) := by
  have hnone : (r.ha r.va r.size .queue).fixed.filter (fun t => decide (s.pt < t.exp)) = none := by
    show (r.fixedAt r.va).filter _ = none
    rw [Req.fixedAt, hfixed]
    exact congrArg (Option.filter _) hvia
  have hphys : (r.ha r.va r.size .queue).phys = some r.dev := if_pos hspace
  unfold State.performPart
  dsimp only
  rw [if_pos hspace, State.perform, hnone, hphys]
  exact if_pos hpop

/-- A translation that holds serves the store where it leads; the L2's own copy of the line is dropped. -/
theorem State.performPart_trans {tr : Trans} (hspace : r.space ≤ 3) (hfixed : r.fixedAt r.va = some tr) (hexp : s.pt < tr.exp) :
    s.performPart r r.va r.size .queue (.wr bs) =
      (s.dropCopies (fun c => c.lvl = .l2 && c.unit = r.die && c.asid = r.asid && c.va = r.va / 128 * 128)).performAt
        (r.ha r.va r.size .queue) tr (.wr bs) := by
  unfold State.performPart
  dsimp only
  rw [if_neg (by omega)]
  generalize hu : s.dropCopies (fun c => c.lvl = .l2 && c.unit = r.die && c.asid = r.asid && c.va = r.va / 128 * 128) = u
  have hpt : u.pt = s.pt := by rw [← hu]; rfl
  have hsome : (r.ha r.va r.size .queue).fixed.filter (fun t => decide (u.pt < t.exp)) = some tr := by
    show (r.fixedAt r.va).filter _ = some tr
    rw [hfixed, hpt]
    exact if_pos (decide_eq_true hexp)
  rw [State.perform, hsome]

end
end

/-- Settles O46: the store is performed at its line (`State.performLine_store`); what comes before and after changes no byte, and the
bytes put are those of `State.putMirrored`. -/
theorem physicalStore : Obligations.PhysicalStore := by
  unfold Obligations.PhysicalStore
  intro s id a key r c d hr hc hk hlen hst hsize hbehind
  refine ⟨fun hspace hfixed hvia hregion hline hpop hfwd hpte hthrottle hkey howner hcount => ?_,
    fun tr hspace hfixed hexp hmates hpool => ?_⟩
  · have hroute : s.routed r.va = r.va := by
      rw [State.routed]
      cases hn : s.mig.fwd.length with
      | zero => rw [State.pageNow]; omega
      | succ n => rw [State.pageNow, hfwd]; dsimp only; omega
    have hmirror : s.mirrorOf r.va = none := by rw [State.mirrorOf, hfwd]
    obtain ⟨u, w, g, hperf, hu, hw⟩ := State.performLine_store (s := s) (q := r.ha r.va r.size .queue) (t := physTrans r.va r.dev) (pa := r.va)
      hkey hcount hthrottle (.inl ⟨by rw [show (r.ha r.va r.size .queue).phys = some r.dev from if_pos hspace]; rfl,
        (if_neg (by omega)).trans (if_neg (by omega)), howner⟩) d
    have hdone : s.performReq c r .queue = (w, .ok 0 g) := by
      rw [State.performReq_store (by omega) hk, State.performPart_phys hspace hfixed hvia hpop,
        State.performAt_store (t := physTrans r.va r.dev) ?_ ?_ ?_, show s.routed (physTrans r.va r.dev).pa = r.va from hroute, hperf]
      · exact if_pos (by show region r.va ≠ 2; omega)
      · show ∀ i f, s.fwdOf (s.routed r.va / 65536) = some (i, f) → f.st ≠ .catching
        rw [hroute, hfwd]
        exact fun i f h => nomatch h
      · show s.pteOfMig (s.routed r.va) r.size = none
        rw [hroute, hpte]
    obtain ⟨t, hserve, ht⟩ := State.servePtr_store hc hbehind (.inr ⟨hspace, hregion⟩) hdone
    have hread : ∀ key a, t.rdByte key a = (u.putMirrored 0 r.va d).rdByte key a := fun key a => (hw.trans ht).rdByte key a
    have hmir : u.mirrorOf r.va = none := by rw [hu.mirrorOf, hmirror]
    refine ⟨t, execHaWrite_store hr hk hst (by omega) hserve, fun i hi => ?_, fun hout => ?_, fun hfar => ?_⟩
    · rw [hread]
      exact State.putMirrored_in (by omega) hi
    · rw [hread, State.putMirrored_out (by omega) (by rw [hmir]; exact fun _ h => nomatch h), hu.rdByte]
    · rw [hread, State.putMirrored_far (by omega) (by omega) 0 hfar (by rw [hmir]; exact fun _ h => nomatch h), hu.rdByte]
  · intro pa hline hcatch hpte hthrottle hkey howner hcount
    have hdrop := State.dropCopies_tidy howner fun c => c.lvl = .l2 && c.unit = r.die && c.asid = r.asid && c.va = r.va / 128 * 128
    have hdropped := State.performPart_trans (s := s) (bs := d) hspace hfixed hexp
    have hsays : (s.dropCopies fun c => c.lvl = .l2 && c.unit = r.die && c.asid = r.asid && c.va = r.va / 128 * 128).poolSays tr.pa = .serve := hpool
    have hbank : (s.dropCopies fun c => c.lvl = .l2 && c.unit = r.die && c.asid = r.asid && c.va = r.va / 128 * 128).throttled
      tr.vdev pa = none := hthrottle
    generalize s.dropCopies (fun c => c.lvl = .l2 && c.unit = r.die && c.asid = r.asid && c.va = r.va / 128 * 128) = y at hdrop hdropped hsays hbank
    have hroute : y.routed tr.pa = pa := State.routed_of_mig hdrop.mig _
    obtain ⟨u, w, g, hperf, hu, hw⟩ := State.performLine_store (s := y) (q := r.ha r.va r.size .queue) (t := tr) (pa := pa)
      (by rw [hdrop.toKeeps.keyMode]; exact hkey) (by rw [hdrop.toKeeps.fld]; exact hcount) hbank (.inr hdrop.owners) d
    have hdone : s.performReq c r .queue = (w, .ok 0 g) := by
      rw [State.performReq_store (by omega) hk, hdropped, State.performAt_store hsays ?_ ?_, hroute, hperf]
      · rw [hroute, State.fwdOf, hdrop.mig]
        exact hcatch
      · rw [hroute, State.pteOfMig, hdrop.mig]
        exact hpte
    obtain ⟨t, hserve, ht⟩ := State.servePtr_store hc hbehind (.inl ⟨hspace, hmates⟩) hdone
    have hread : ∀ key a, t.rdByte key a = (u.putMirrored tr.key pa d).rdByte key a := fun key a => (hw.trans ht).rdByte key a
    have hkeeps := hdrop.toKeeps.trans hu
    have hmir : ∀ m, u.mirrorOf pa = some m ↔ s.mirrorOf pa = some m := fun m => by rw [hkeeps.mirrorOf]
    refine ⟨t, execHaWrite_store hr hk hst (by omega) hserve, fun i hi => ?_, fun m hm i hi => ?_, fun hout hm => ?_, fun hfar hm => ?_⟩
    · rw [hread]
      exact State.putMirrored_in (by omega) hi
    · rw [hread]
      exact State.putMirrored_in_mirror ((hmir m).mpr hm) hi
    · rw [hread, State.putMirrored_out (by omega) fun m h => ?_, hkeeps.rdByte]
      have := hm m ((hmir m).mp h)
      omega
    · rw [hread, State.putMirrored_far (by omega) (by omega) tr.key hfar fun m h => hm m ((hmir m).mp h), hkeeps.rdByte]

end Sys2Proof.Machine

/-! SUPPORT. Memory stays canonical. For each function of the model that makes a state from one, in the order of the definitions, a lemma
says that canonical memory stays canonical; it cites the lemmas of the functions it calls. Only a few write bytes (the laws of wrBytes,
putPiece and physWr); the others leave memory to those. A function that may not be possible, or that gives more than a state, has its lemma
about the state that it gives; a function over a meaning of the instructions, about any meaning that keeps memory canonical. -/

namespace Sys2Proof.Machine

section
variable {s u : State}

/-- One step after another keeps memory canonical if each does. -/
theorem andThen_wf {α β : Type} {r : State × Got α} {f : State → α → State × Got β} (hr : Memory.wf r.1.ms.mem)
    (hf : ∀ s a, Memory.wf s.ms.mem → Memory.wf (f s a).1.ms.mem) : Memory.wf (andThen r f).1.ms.mem := by
  unfold andThen
  split
  · exact hf _ _ hr
  · exact hr
  · exact hr

/-- What is noted beside memory leaves it canonical. -/
theorem withMig_wf (hs : Memory.wf s.ms.mem) (m : Mig) : Memory.wf ({ s with mig := m } : State).ms.mem := hs
theorem withSch_wf (hs : Memory.wf s.ms.mem) (m : Sched) : Memory.wf ({ s with sch := m } : State).ms.mem := hs
theorem withPart_wf (hs : Memory.wf s.ms.mem) (m : Part) : Memory.wf ({ s with part := m } : State).ms.mem := hs
theorem withKv_wf (hs : Memory.wf s.ms.mem) (m : Kv) : Memory.wf ({ s with kv := m } : State).ms.mem := hs
theorem withTodo_wf (hs : Memory.wf s.ms.mem) (m : List Instr) : Memory.wf ({ s with todo := m } : State).ms.mem := hs
theorem withAgenda_wf (hs : Memory.wf s.ms.mem) (m : List Turn) : Memory.wf ({ s with agenda := m } : State).ms.mem := hs
theorem withReqs_wf (hs : Memory.wf s.ms.mem) (m) : Memory.wf ({ s with ms := { s.ms with reqs := m } } : State).ms.mem := hs
theorem withSide_wf (hs : Memory.wf s.ms.mem) (m) : Memory.wf ({ s with ms := { s.ms with side := m } } : State).ms.mem := hs

/-- A step that may not be possible keeps memory canonical if it does so where it is. -/
theorem getD_wf {o : Option State} (hs : Memory.wf s.ms.mem) (ho : ∀ t, o = some t → Memory.wf t.ms.mem) :
    Memory.wf (o.getD s).ms.mem := by
  cases o with
  | none => exact hs
  | some t => exact ho t rfl

/-! ### State -/

theorem State.setReg_wf (hs : Memory.wf s.ms.mem) (off x) : Memory.wf (s.setReg off x).ms.mem := by
  unfold State.setReg
  grind

theorem State.setCtx_wf (hs : Memory.wf s.ms.mem) (cid c) : Memory.wf (s.setCtx cid c).ms.mem := by
  unfold State.setCtx
  grind

theorem State.setBlk_wf (hs : Memory.wf s.ms.mem) (b x) : Memory.wf (s.setBlk b x).ms.mem := by
  unfold State.setBlk
  grind

/-! ### Mem -/

theorem State.tell_wf (hs : Memory.wf s.ms.mem) (dst m) : Memory.wf (s.tell dst m).ms.mem := by
  unfold State.tell
  grind

theorem State.setFld_wf (hs : Memory.wf s.ms.mem) (off lo n v) : Memory.wf (s.setFld off lo n v).ms.mem := by
  unfold State.setFld
  grind [State.setReg_wf]

theorem State.putLine_wf (hs : Memory.wf s.ms.mem) (l r bs) : Memory.wf (s.putLine l r bs).ms.mem := by
  rw [State.putLine_mem]
  exact putRun_wf hs _ _

theorem State.setPoison_wf (hs : Memory.wf s.ms.mem) (l b) : Memory.wf (s.setPoison l b).ms.mem := by
  unfold State.setPoison
  grind

theorem State.setDir_wf (hs : Memory.wf s.ms.mem) (l d) : Memory.wf (s.setDir l d).ms.mem := by
  unfold State.setDir
  grind

theorem State.grantLease_wf (hs : Memory.wf s.ms.mem) (v l limit) : Memory.wf (s.grantLease v l limit).1.ms.mem := by
  unfold State.grantLease
  grind [State.setDir_wf]

theorem State.orderWrite_wf (hs : Memory.wf s.ms.mem) (v writer l) : Memory.wf (s.orderWrite v writer l).1.ms.mem := by
  unfold State.orderWrite
  grind [State.setDir_wf]

theorem State.recallRange_wf {rc : State → ℕ → State} (hrc : ∀ s a, Memory.wf s.ms.mem → Memory.wf (rc s a).ms.mem) (hs : Memory.wf s.ms.mem)
    (pa n) : Memory.wf (s.recallRange rc pa n).ms.mem := by
  unfold State.recallRange
  grind [foldl_wf]

theorem State.watchNotice_wf (hs : Memory.wf s.ms.mem) (l g) : Memory.wf (s.watchNotice l g).ms.mem := by
  unfold State.watchNotice
  grind [foldl_wf]

theorem State.noticeRange_wf (hs : Memory.wf s.ms.mem) (pa n g) : Memory.wf (s.noticeRange pa n g).ms.mem := by
  unfold State.noticeRange
  grind [foldl_wf, State.watchNotice_wf]

theorem State.ringWr_wf (hs : Memory.wf s.ms.mem) (pa bs) : Memory.wf (s.ringWr pa bs).1.ms.mem := by
  unfold State.ringWr
  grind [State.putQuiet_wf, State.recall_wf, State.noticeRange_wf]

/-! ### Hub -/

theorem State.tailUp_wf (hs : Memory.wf s.ms.mem) (iOff) : Memory.wf (s.tailUp iOff).ms.mem := by
  unfold State.tailUp
  grind [State.setFld_wf]

theorem State.tailLater_wf (hs : Memory.wf s.ms.mem) (iOff g) : Memory.wf (s.tailLater iOff g).ms.mem := by
  unfold State.tailLater
  grind

theorem State.faultIrq_wf (hs : Memory.wf s.ms.mem) (q) : Memory.wf (s.faultIrq q).ms.mem := by
  unfold State.faultIrq
  grind [State.interrupt_wf]

theorem State.migIrq_wf (hs : Memory.wf s.ms.mem) (v) : Memory.wf (s.migIrq v).ms.mem := by
  unfold State.migIrq
  grind [State.interrupt_wf]

theorem State.pmi_wf (hs : Memory.wf s.ms.mem) : Memory.wf (s.pmi).ms.mem := by
  unfold State.pmi
  grind [State.interrupt_wf]

theorem State.settleTails_wf (hs : Memory.wf s.ms.mem) : Memory.wf (s.settleTails).ms.mem := by
  unfold State.settleTails
  grind [foldl_wf, State.setFld_wf, State.faultIrq_wf]

theorem State.letGo_wf (hs : Memory.wf s.ms.mem) (l) : Memory.wf (s.letGo l).ms.mem := by
  unfold State.letGo
  grind [State.writeBack_wf, State.setDir_wf]

theorem State.count_wf (hs : Memory.wf s.ms.mem) (v pa rd wr leaf) : Memory.wf (s.count v pa rd wr leaf).ms.mem := by
  unfold State.count
  grind [State.errorLog_wf, State.setFld_wf, State.recallRange_wf, State.writeBack_wf]

theorem State.bitmapSet_wf (hs : Memory.wf s.ms.mem) (v n k) : Memory.wf (s.bitmapSet v n k).1.ms.mem := by
  induction n generalizing s k with
  | zero => exact hs
  | succ n ih =>
    unfold State.bitmapSet
    grind [State.recallRange_wf, State.writeBack_wf, State.physWr_wf]

theorem State.coarse_wf (hs : Memory.wf s.ms.mem) (v pa size) : Memory.wf (s.coarse v pa size).ms.mem := by
  unfold State.coarse
  grind [State.bitmapSet_wf, State.setFld_wf, State.interrupt_wf, State.errorLog_wf]

theorem State.dirtyLog_wf (hs : Memory.wf s.ms.mem) (v pa size migdst) : Memory.wf (s.dirtyLog v pa size migdst).ms.mem := by
  unfold State.dirtyLog
  grind [State.tailUp_wf, State.ringPut_wf, State.coarse_wf, State.interrupt_wf, State.setFld_wf]

/-! ### Walk -/

theorem State.setAD_wf (hs : Memory.wf s.ms.mem) (v eA e lvl k) : Memory.wf (s.setAD v eA e lvl k).1.ms.mem := by
  unfold State.setAD
  grind [State.dirtyLog_wf, State.physWrQuiet_wf]

theorem State.recallWalk_wf (hs : Memory.wf s.ms.mem) (asid va) : Memory.wf (s.recallWalk asid va).ms.mem := by
  unfold State.recallWalk
  grind [foldl_wf, State.recallRange_wf, State.writeBack_wf]

theorem State.walk_wf (hs : Memory.wf s.ms.mem) (asid va k priv) : Memory.wf (s.walk asid va k priv).1.ms.mem := by
  unfold State.walk
  grind [State.recallWalk_wf, State.setAD_wf]

theorem State.tlbDrop_wf (hs : Memory.wf s.ms.mem) (i) : Memory.wf (s.tlbDrop i).ms.mem := by
  unfold State.tlbDrop
  grind

theorem State.translate_wf (hs : Memory.wf s.ms.mem) (asid va k priv) : Memory.wf (s.translate asid va k priv).1.ms.mem := by
  unfold State.translate
  grind [State.walk_wf, State.tlbDrop_wf, State.setAD_wf]

/-! ### Home -/

theorem State.postComp_wf (hs : Memory.wf s.ms.mem) (v rcd) : Memory.wf (s.postComp v rcd).ms.mem := by
  unfold State.postComp
  grind [State.migIrq_wf, State.tailUp_wf, State.ringPut_wf]

theorem State.usedAdd_wf (hs : Memory.wf s.ms.mem) (v t up) : Memory.wf (s.usedAdd v t up).ms.mem := by
  unfold State.usedAdd
  grind [State.setFld_wf]

theorem State.dropFwd_wf (hs : Memory.wf s.ms.mem) (i) : Memory.wf (s.dropFwd i).ms.mem := by
  unfold State.dropFwd
  grind

theorem State.pinsDone_wf (hs : Memory.wf s.ms.mem) (ids) : Memory.wf (s.pinsDone ids).ms.mem := by
  unfold State.pinsDone
  grind [foldl_wf]

theorem State.abandon_wf (hs : Memory.wf s.ms.mem) (i status) : Memory.wf (s.abandon i status).ms.mem := by
  unfold State.abandon
  grind [State.physWr_wf, State.dropFwd_wf, State.usedAdd_wf, State.pinsDone_wf, State.postComp_wf]

theorem State.dropCopies_wf (hs : Memory.wf s.ms.mem) (f) : Memory.wf (s.dropCopies f).ms.mem := by
  unfold State.dropCopies
  grind

theorem State.used_wf (hs : Memory.wf s.ms.mem) : Memory.wf (s.used).ms.mem := by
  unfold State.used
  grind

theorem State.touch_wf (hs : Memory.wf s.ms.mem) (i c) : Memory.wf (s.touch i c).ms.mem := by
  unfold State.touch
  grind [State.used_wf]

theorem State.evictOcc_wf (hs : Memory.wf s.ms.mem) (o) : Memory.wf (s.evictOcc o).ms.mem := by
  unfold State.evictOcc
  grind [State.letGo_wf]

theorem State.makeWay_wf (hs : Memory.wf s.ms.mem) (lvl u1 asid va) : Memory.wf (s.makeWay lvl u1 asid va).ms.mem := by
  unfold State.makeWay
  grind [State.evictOcc_wf]

theorem State.wayFor_wf (hs : Memory.wf s.ms.mem) (mask asid va) : Memory.wf (s.wayFor mask asid va).1.ms.mem := by
  unfold State.wayFor
  grind [State.evictOcc_wf]

theorem State.addCopy_wf (hs : Memory.wf s.ms.mem) (c) : Memory.wf (s.addCopy c).1.ms.mem := by
  unfold State.addCopy
  grind [State.used_wf, State.makeWay_wf]

theorem State.passDown_wf (hs : Memory.wf s.ms.mem) (i c v) : Memory.wf (s.passDown i c v).1.ms.mem := by
  unfold State.passDown
  grind

theorem State.placeChain_wf (hs : Memory.wf s.ms.mem) (v mask die core asid va line floor data bad lvls x) :
    Memory.wf (s.placeChain v mask die core asid va line floor data bad lvls x).ms.mem := by
  induction lvls generalizing s x with
  | nil => exact hs
  | cons lvl lvls ih =>
    unfold State.placeChain
    grind [State.addCopy_wf, State.passDown_wf, State.wayFor_wf]

theorem State.updateL3_wf (hs : Memory.wf s.ms.mem) (asid va bs bad g writer) : Memory.wf (s.updateL3 asid va bs bad g writer).ms.mem := by
  unfold State.updateL3
  grind

theorem State.activate_wf (hs : Memory.wf s.ms.mem) (v pa) : Memory.wf (s.activate v pa).ms.mem := by
  unfold State.activate
  grind

theorem State.allocL3_wf (hs : Memory.wf s.ms.mem) (q t pa atomic) : Memory.wf (s.allocL3 q t pa atomic).ms.mem := by
  unfold State.allocL3
  grind [State.wayFor_wf, State.grantLease_wf, State.addCopy_wf]

theorem State.spoilColls_wf (hs : Memory.wf s.ms.mem) (q n) : Memory.wf (s.spoilColls q n).ms.mem := by
  unfold State.spoilColls
  grind

theorem State.storeAt_wf (hs : Memory.wf s.ms.mem) (q t pa by_ atomic bs) : Memory.wf (s.storeAt q t pa by_ atomic bs).1.ms.mem := by
  unfold State.storeAt
  grind [State.wrBytes_wf, State.setPoison_wf, State.orderWrite_wf, State.spoilColls_wf, State.watchNotice_wf, State.allocL3_wf,
    State.updateL3_wf]

theorem State.grantOwn_wf (hs : Memory.wf s.ms.mem) (q t l die) : Memory.wf (s.grantOwn q t l die).1.ms.mem := by
  unfold State.grantOwn
  grind [foldl_wf, State.writeBack_wf, State.dropCopies_wf, State.makeWay_wf, State.used_wf, State.setDir_wf]

theorem State.ownFor_wf (hs : Memory.wf s.ms.mem) (q t l writes) : Memory.wf (s.ownFor q t l writes).1.ms.mem := by
  unfold State.ownFor
  grind [State.used_wf, State.setDir_wf, State.writeBack_wf, State.grantOwn_wf]

theorem State.countServed_wf (hs : Memory.wf s.ms.mem) (by_ v pa rd wr leaf) : Memory.wf (s.countServed by_ v pa rd wr leaf).ms.mem := by
  unfold State.countServed
  grind [State.count_wf]

theorem State.performData_wf (hs : Memory.wf s.ms.mem) (q t pa op by_ leaf) : Memory.wf (s.performData q t pa op by_ leaf).1.ms.mem := by
  unfold State.performData
  grind [State.poisonLine_wf, State.countServed_wf, State.orderWrite_wf, State.watchNotice_wf, State.storeAt_wf]

theorem State.performLine_wf (hs : Memory.wf s.ms.mem) (q t pa op) : Memory.wf (s.performLine q t pa op).1.ms.mem := by
  unfold State.performLine
  grind [State.activate_wf, State.ownFor_wf, State.performData_wf]

theorem State.lostLine_wf (hs : Memory.wf s.ms.mem) (pa dev) : Memory.wf (s.lostLine pa dev).ms.mem := by
  unfold State.lostLine
  grind [State.poisonLine_wf]

theorem State.performAt_wf (hs : Memory.wf s.ms.mem) (q t op) : Memory.wf (s.performAt q t op).1.ms.mem := by
  unfold State.performAt
  grind [State.performLine_wf, State.lostLine_wf, State.abandon_wf]

theorem State.perform_wf (hs : Memory.wf s.ms.mem) (q op) : Memory.wf (s.perform q op).1.ms.mem := by
  unfold State.perform
  grind [State.performAt_wf, State.translate_wf]

theorem State.fill_wf (hs : Memory.wf s.ms.mem) (q die core lvls) : Memory.wf (s.fill q die core lvls).1.ms.mem := by
  unfold State.fill
  grind [State.perform_wf, State.grantLease_wf, State.placeChain_wf]

theorem State.renewed_wf (hs : Memory.wf s.ms.mem) (key c exp data bad) : Memory.wf (s.renewed key c exp data bad).ms.mem := by
  unfold State.renewed
  grind

theorem State.renewAtHA_wf (hs : Memory.wf s.ms.mem) (key c) (ht : s.renewAtHA key c = some u) : Memory.wf u.ms.mem := by
  unfold State.renewAtHA at ht
  grind [State.translate_wf, State.writeBack_wf, State.grantLease_wf, State.renewed_wf, State.perform_wf]

theorem State.stretch_wf (hs : Memory.wf s.ms.mem) (v i c) : Memory.wf (s.stretch v i c).1.ms.mem := by
  unfold State.stretch
  grind [State.renewAtHA_wf, State.passDown_wf, State.renewed_wf]

theorem State.cachedRead.go_wf (hs : Memory.wf s.ms.mem) (q die core v alloc look) :
    Memory.wf (State.cachedRead.go s q die core v alloc look).1.ms.mem := by
  induction look with
  | nil => exact State.fill_wf hs q die core alloc
  | cons lv lvs ih =>
    unfold State.cachedRead.go
    grind [State.touch_wf, State.stretch_wf, State.passDown_wf, State.placeChain_wf]

theorem State.cachedRead_wf (hs : Memory.wf s.ms.mem) (q die core v look alloc) : Memory.wf (s.cachedRead q die core v look alloc).1.ms.mem := by
  unfold State.cachedRead
  grind [State.cachedRead.go_wf, State.perform_wf]

/-! ### Ops -/

theorem State.retire_wf (hs : Memory.wf s.ms.mem) (x c) : Memory.wf (s.retire x c).ms.mem := by
  unfold State.retire
  grind [State.setCtx_wf]

theorem State.pend_wf (hs : Memory.wf s.ms.mem) (x c r) : Memory.wf (s.pend x c r).ms.mem := by
  unfold State.pend
  grind [State.retire_wf]

theorem State.holdAs_wf (hs : Memory.wf s.ms.mem) (x w) : Memory.wf (s.holdAs x w).ms.mem := by
  unfold State.holdAs
  grind [State.setCtx_wf]

theorem State.clearDisc_wf (hs : Memory.wf s.ms.mem) (c) : Memory.wf (s.clearDisc c).ms.mem := by
  unfold State.clearDisc
  grind [State.setBlk_wf]

theorem State.enterRecord_wf (hs : Memory.wf s.ms.mem) (h) : Memory.wf (s.enterRecord h).ms.mem := by
  unfold State.enterRecord
  grind [State.ringPut_wf, State.tailLater_wf]

theorem State.takeTrap_wf (hs : Memory.wf s.ms.mem) (cid k t) : Memory.wf (s.takeTrap cid k t).ms.mem := by
  unfold State.takeTrap
  grind [State.clearDisc_wf, State.setCtx_wf, State.enterRecord_wf]

theorem State.trapAt_wf (hs : Memory.wf s.ms.mem) (x t) : Memory.wf (s.trapAt x t).ms.mem := by
  unfold State.trapAt
  grind [State.takeTrap_wf]

theorem State.tellWin_wf (hs : Memory.wf s.ms.mem) (key stat) : Memory.wf (s.tellWin key stat).ms.mem := by
  unfold State.tellWin
  grind [State.tell_wf]

theorem State.dropToken_wf (hs : Memory.wf s.ms.mem) (tokNum) : Memory.wf (s.dropToken tokNum).ms.mem := by
  unfold State.dropToken
  grind [foldl_wf, State.tellWin_wf]

theorem State.returnFromTrap_wf (hs : Memory.wf s.ms.mem) (tokNum cid k r) : Memory.wf (s.returnFromTrap tokNum cid k r).ms.mem := by
  unfold State.returnFromTrap
  grind [State.dropToken_wf, State.setCtx_wf]

theorem State.issue_wf (hs : Memory.wf s.ms.mem) {body : State → Iss → State} (hbody : ∀ s a, Memory.wf s.ms.mem → Memory.wf (body s a).ms.mem)
    (i always) (ht : s.issue i always body = .next u) : Memory.wf u.ms.mem := by
  unfold State.issue at ht
  grind [State.trapAt_wf, State.retire_wf, State.holdAs_wf]

theorem State.lanewise_wf (hs : Memory.wf s.ms.mem) (i f) (ht : s.lanewise i f = .next u) : Memory.wf u.ms.mem := by
  unfold State.lanewise at ht
  grind [State.issue_wf, State.retire_wf]

theorem State.lanewiseVar_wf (hs : Memory.wf s.ms.mem) (i f) (ht : s.lanewiseVar i f = .next u) : Memory.wf u.ms.mem := by
  unfold State.lanewiseVar at ht
  grind [State.issue_wf, State.pend_wf]

theorem State.rounding_wf (hs : Memory.wf s.ms.mem) (i rm n late f) (ht : s.rounding i rm n late f = .next u) : Memory.wf u.ms.mem := by
  unfold State.rounding at ht
  grind [State.issue_wf, State.pend_wf, State.retire_wf]

/-! ### Fetch -/

theorem State.fetchLine_wf (hs : Memory.wf s.ms.mem) (cid c pc fromL2) : Memory.wf (s.fetchLine cid c pc fromL2).1.ms.mem := by
  unfold State.fetchLine
  grind [State.cachedRead_wf]

theorem State.dropLine_wf (hs : Memory.wf s.ms.mem) (cid c pc) : Memory.wf (s.dropLine cid c pc).ms.mem := by
  unfold State.dropLine
  grind [State.dropCopies_wf]

theorem State.fetchTrap_wf (hs : Memory.wf s.ms.mem) (cid k sp t) : Memory.wf (s.fetchTrap cid k sp t).ms.mem := by
  unfold State.fetchTrap
  grind [State.takeTrap_wf]

theorem State.loadLine_wf (hs : Memory.wf s.ms.mem) (cid k bs) : Memory.wf (s.loadLine cid k bs).ms.mem := by
  unfold State.loadLine
  grind [State.setCtx_wf, State.fetchTrap_wf]

/-- What a fetched line makes of its split: the line, what follows a bad one, or the fault. -/
def State.tookLine (s : State) (cid k : Nat) (sp : Split) (r : HaRes) (bad : State → Nat → State) : State :=
  match r with
  | .ok v _ =>
    let bs := leBytes 64 v
    if badQuarters bs = 0 then s.loadLine cid k bs else bad s (badQuarters bs)
  | .fault cs q lv aux => s.fetchTrap cid k sp { cause := cs, qual := q, level := lv, aux := aux }
  | _ => s

theorem State.tookLine_wf {bad : State → Nat → State} (hbad : ∀ s q, Memory.wf s.ms.mem → Memory.wf (bad s q).ms.mem)
    (hs : Memory.wf s.ms.mem) (cid k sp) (r : HaRes) : Memory.wf (s.tookLine cid k sp r bad).ms.mem := by
  unfold State.tookLine
  grind [State.loadLine_wf, State.fetchTrap_wf]

/-- The line of a split fetched, from the L2 where the instruction cache holds a bad one. -/
theorem State.lineFetch_eq (s : State) (cid k : Nat) : s.lineFetch cid k = match s.ctxs.find? cid with
    | none => none
    | some c => match c.splits.find? k with
      | none => none
      | some sp =>
        if sp.parked.isSome || sp.line.isSome then none
        else
          let r := s.fetchLine cid c sp.pc false
          some (r.1.tookLine cid k sp r.2 (fun _ _ =>
            let r := (r.1.dropLine cid c sp.pc).fetchLine cid c sp.pc true
            r.1.tookLine cid k sp r.2 (fun s q => s.fetchTrap cid k sp { cause := .line, qual := q }))) := rfl

theorem State.lineFetch_wf (hs : Memory.wf s.ms.mem) (cid k) (ht : s.lineFetch cid k = some u) : Memory.wf u.ms.mem := by
  rw [State.lineFetch_eq] at ht
  grind [State.tookLine_wf, State.fetchLine_wf, State.dropLine_wf, State.fetchTrap_wf]

theorem execLineFetch_wf (hs : Memory.wf s.ms.mem) (w) (ht : execLineFetch w s = .next u) : Memory.wf u.ms.mem := by
  unfold execLineFetch at ht
  grind [State.lineFetch_wf]

/-! ### Control -/

theorem State.dropL1_wf (hs : Memory.wf s.ms.mem) (cid asid va) : Memory.wf (s.dropL1 cid asid va).ms.mem := by
  unfold State.dropL1
  grind [State.dropCopies_wf]

theorem State.innerStore_wf (hs : Memory.wf s.ms.mem) (cid c va bs) : Memory.wf (s.innerStore cid c va bs).1.ms.mem := by
  unfold State.innerStore
  grind [State.perform_wf, State.dropL1_wf]

theorem State.innerLoad_wf (hs : Memory.wf s.ms.mem) (cid c va n) : Memory.wf (s.innerLoad cid c va n).1.ms.mem := by
  unfold State.innerLoad
  grind [State.cachedRead_wf]

theorem State.innerStores.go_wf (hs : Memory.wf s.ms.mem) {t : State} (ht : Memory.wf t.ms.mem) (cid c g ws) :
    Memory.wf (State.innerStores.go s cid c t g ws).1.ms.mem := by
  induction ws generalizing t g with
  | nil => exact ht
  | cons w ws ih =>
    unfold State.innerStores.go
    grind [State.innerStore_wf]

theorem State.innerStores_wf (hs : Memory.wf s.ms.mem) (cid c ws) : Memory.wf (s.innerStores cid c ws).1.ms.mem := by
  unfold State.innerStores
  exact State.innerStores.go_wf hs hs ..

theorem State.refillStack_wf (hs : Memory.wf s.ms.mem) (cid c) : Memory.wf (s.refillStack cid c).1.ms.mem := by
  unfold State.refillStack
  grind [State.innerLoad_wf]

theorem State.refillEnded_wf (hs : Memory.wf s.ms.mem) (cid k n c) : Memory.wf (s.refillEnded cid k n c).1.ms.mem := by
  induction n generalizing s c with
  | zero => exact hs
  | succ n ih =>
    unfold State.refillEnded
    grind [State.refillStack_wf]

theorem State.checkTgt_wf (hs : Memory.wf s.ms.mem) (cid c pc) : Memory.wf (s.checkTgt cid c pc).1.ms.mem := by
  unfold State.checkTgt
  grind [State.fetchLine_wf, State.dropLine_wf]

theorem State.checkTargets_wf (hs : Memory.wf s.ms.mem) (cid c ts j) : Memory.wf (s.checkTargets cid c ts j).1.ms.mem := by
  have hfold (as : List (BitVec 64)) (r : State × List (BitVec 64 × Tgt)) (hr : Memory.wf r.1.ms.mem) :
      Memory.wf (as.foldl (fun (r : State × List (BitVec 64 × Tgt)) a =>
        if (slotOf a).isNone then r else let (s', v) := r.1.checkTgt cid c a; (s', (a, v) :: r.2)) r).1.ms.mem := by
    induction as generalizing r with
    | nil => exact hr
    | cons a as ih =>
      refine ih _ ?_
      dsimp only
      split
      · exact hr
      · exact State.checkTgt_wf hr ..
  have hs' := hfold (ts.map (·.2)).dedup (s, []) hs
  unfold State.checkTargets
  dsimp only
  generalize List.foldl _ (s, []) (ts.map (·.2)).dedup = r at hs' ⊢
  grind

theorem State.transfer_wf (hs : Memory.wf s.ms.mem) (x c sp ws ts j due) : Memory.wf (s.transfer x c sp ws ts j due).ms.mem := by
  unfold State.transfer
  grind [State.trapAt_wf, State.innerStores_wf, State.setCtx_wf, State.holdAs_wf]

theorem State.branch_wf (hs : Memory.wf s.ms.mem) (x c ts j) : Memory.wf (s.branch x c ts j).ms.mem := by
  unfold State.branch
  grind [State.checkTargets_wf, State.trapAt_wf, State.holdAs_wf, State.transfer_wf]

theorem execBra_wf (hs : Memory.wf s.ms.mem) (o tgt j) (ht : execBra o tgt j s = .next u) : Memory.wf u.ms.mem := by
  unfold execBra at ht
  grind [State.issue_wf, State.branch_wf]

theorem execBrx_wf (hs : Memory.wf s.ms.mem) (o j) (ht : execBrx o j s = .next u) : Memory.wf u.ms.mem := by
  unfold execBrx at ht
  grind [State.issue_wf, State.branch_wf]

theorem State.retLoad_wf (hs : Memory.wf s.ms.mem) (cid c l n) : Memory.wf (s.retLoad cid c l n).1.ms.mem := by
  unfold State.retLoad
  grind [State.innerLoad_wf]

theorem State.callTo_wf (hs : Memory.wf s.ms.mem) (x ts) : Memory.wf (s.callTo x ts).ms.mem := by
  unfold State.callTo
  grind [State.checkTargets_wf, State.trapAt_wf, State.holdAs_wf, State.transfer_wf]

theorem execCall_wf (hs : Memory.wf s.ms.mem) (o tgt) (ht : execCall o tgt s = .next u) : Memory.wf u.ms.mem := by
  unfold execCall at ht
  grind [State.issue_wf, State.callTo_wf]

theorem execCallx_wf (hs : Memory.wf s.ms.mem) (o) (ht : execCallx o s = .next u) : Memory.wf u.ms.mem := by
  unfold execCallx at ht
  grind [State.issue_wf, State.callTo_wf]

theorem State.popRet_wf (hs : Memory.wf s.ms.mem) (x ls c ts) : Memory.wf (s.popRet x ls c ts).1.ms.mem := by
  induction ls generalizing s c ts with
  | nil => exact hs
  | cons l ls ih =>
    unfold State.popRet
    grind [State.retLoad_wf]

theorem State.endSplit_wf (hs : Memory.wf s.ms.mem) (x c sp) : Memory.wf (s.endSplit x c sp).ms.mem := by
  unfold State.endSplit
  grind [State.refillEnded_wf, State.setCtx_wf, State.trapAt_wf, State.holdAs_wf]

theorem execRet_wf (hs : Memory.wf s.ms.mem) (o) (ht : execRet o s = .next u) : Memory.wf u.ms.mem := by
  unfold execRet at ht
  grind [State.issue_wf, State.popRet_wf, State.trapAt_wf, State.holdAs_wf, State.checkTargets_wf, State.endSplit_wf, State.transfer_wf]

theorem State.joinWait_wf (hs : Memory.wf s.ms.mem) (x give merged) : Memory.wf (s.joinWait x give merged).ms.mem := by
  unfold State.joinWait
  grind [State.setCtx_wf, State.retire_wf]

theorem execJoin_wf (hs : Memory.wf s.ms.mem) (o) (ht : execJoin o s = .next u) : Memory.wf u.ms.mem := by
  unfold execJoin at ht
  grind [State.issue_wf, State.joinWait_wf]

theorem execJoinT_wf (hs : Memory.wf s.ms.mem) (o) (ht : execJoinT o s = .next u) : Memory.wf u.ms.mem := by
  unfold execJoinT at ht
  grind [State.issue_wf, State.joinWait_wf]

theorem execExit_wf (hs : Memory.wf s.ms.mem) (o) (ht : execExit o s = .next u) : Memory.wf u.ms.mem := by
  unfold execExit at ht
  grind [State.issue_wf, State.endSplit_wf, State.setCtx_wf]

theorem execNop_wf (hs : Memory.wf s.ms.mem) (o) (ht : execNop o s = .next u) : Memory.wf u.ms.mem := by
  unfold execNop at ht
  grind [State.issue_wf, State.retire_wf]

theorem State.joinTimeout_wf (hs : Memory.wf s.ms.mem) (cid k) (ht : s.joinTimeout cid k = some u) : Memory.wf u.ms.mem := by
  unfold State.joinTimeout at ht
  grind [State.setCtx_wf]

theorem execJoinTimeout_wf (hs : Memory.wf s.ms.mem) (w) (ht : execJoinTimeout w s = .next u) : Memory.wf u.ms.mem := by
  unfold execJoinTimeout at ht
  grind [State.joinTimeout_wf]

/-! ### Run -/

theorem State.refillTurn_wf (hs : Memory.wf s.ms.mem) (cid k c) : Memory.wf (s.refillTurn cid k c).ms.mem := by
  unfold State.refillTurn
  grind [State.refillStack_wf, State.setCtx_wf, State.takeTrap_wf]

theorem State.noteIssue_wf (hs : Memory.wf s.ms.mem) (cid k) : Memory.wf (s.noteIssue cid k).ms.mem := by
  unfold State.noteIssue
  grind [State.setCtx_wf]

theorem State.issueOne_wf {ex : Instr → State → Out} (hex : ∀ i s t, Memory.wf s.ms.mem → ex i s = .next t → Memory.wf t.ms.mem) (hs
    : Memory.wf s.ms.mem) (i cid k counted) (ht : s.issueOne ex i cid k counted = .next u) : Memory.wf u.ms.mem := by
  unfold State.issueOne at ht
  grind [State.noteIssue_wf]

theorem State.issueSecond_wf {ex : Instr → State → Out} (hex : ∀ i s t, Memory.wf s.ms.mem → ex i s = .next t → Memory.wf t.ms.mem) (hs
    : Memory.wf s.ms.mem) (i cid k pc) (ht : s.issueSecond ex i cid k pc = .next u) : Memory.wf u.ms.mem := by
  unfold State.issueSecond at ht
  grind [State.issueOne_wf]

theorem State.issuePair_wf {ex : Instr → State → Out} (hex : ∀ i s t, Memory.wf s.ms.mem → ex i s = .next t → Memory.wf t.ms.mem)
    (hs : Memory.wf s.ms.mem) (i i2 cid k c sp) (ht : s.issuePair ex i i2 cid k c sp = .next u) : Memory.wf u.ms.mem := by
  unfold State.issuePair at ht
  split at ht
  · cases ht
    exact hs
  · split at ht
    · cases ht
      exact State.setCtx_wf hs ..
    · split at ht
      · next hone => exact State.issueSecond_wf hex (State.issueOne_wf hex hs _ _ _ _ hone) _ _ _ _ ht
      · exact State.issueOne_wf hex hs _ _ _ _ ht

theorem State.issueSlot_wf {ex : Instr → State → Out} (hex : ∀ i s t, Memory.wf s.ms.mem → ex i s = .next t → Memory.wf t.ms.mem) (hs
    : Memory.wf s.ms.mem) (cid k c sp bs i) (ht : s.issueSlot ex cid k c sp bs i = .next u) : Memory.wf u.ms.mem := by
  unfold State.issueSlot at ht
  grind [State.takeTrap_wf, State.issueOne_wf, State.setCtx_wf, State.issuePair_wf]

theorem State.enterLine_wf {ex : Instr → State → Out} (hex : ∀ i s t, Memory.wf s.ms.mem → ex i s = .next t → Memory.wf t.ms.mem) (hs
    : Memory.wf s.ms.mem) (cid k c sp bs) (ht : s.enterLine ex cid k c sp bs = .next u) : Memory.wf u.ms.mem := by
  unfold State.enterLine at ht
  grind [State.fetchTrap_wf, State.issueSlot_wf, State.setCtx_wf]

theorem State.runThread_wf {ex : Instr → State → Out} (hex : ∀ i s t, Memory.wf s.ms.mem → ex i s = .next t → Memory.wf t.ms.mem)
    (hs : Memory.wf s.ms.mem) (cid k) (ht : s.runThread ex cid k = .next u) : Memory.wf u.ms.mem := by
  unfold State.runThread at ht
  split at ht
  · cases ht
    exact hs
  · split at ht
    · cases ht
      exact hs
    · split at ht
      · cases ht
        exact hs
      · split at ht
        · cases ht
          exact State.refillTurn_wf hs ..
        · split at ht
          · exact State.enterLine_wf hex hs _ _ _ _ _ ht
          · dsimp only at ht
            split at ht
            · cases ht
              exact hs
            · next hf =>
              have hline := State.lineFetch_wf hs _ _ hf
              split at ht
              · cases ht
                exact hline
              · split at ht
                · cases ht
                  exact hline
                · split at ht
                  · cases ht
                    exact hline
                  · split at ht
                    · exact State.enterLine_wf hex hline _ _ _ _ _ ht
                    · cases ht
                      exact hline

theorem State.endHolds_wf {ex : Instr → State → Out} (hex : ∀ i s t, Memory.wf s.ms.mem → ex i s = .next t → Memory.wf t.ms.mem) (hs
    : Memory.wf s.ms.mem) : Memory.wf (s.endHolds ex).ms.mem := by
  unfold State.endHolds
  grind [foldl_wf, State.setCtx_wf]

theorem State.noteReady_wf (hs : Memory.wf s.ms.mem) : Memory.wf (s.noteReady).ms.mem := by
  unfold State.noteReady
  grind

theorem State.tick_wf (hs : Memory.wf s.ms.mem) : Memory.wf (s.tick).ms.mem := by
  unfold State.tick
  grind [State.noteReady_wf, State.settleTails_wf]

/-! ### Access -/

theorem State.addReq_wf (hs : Memory.wf s.ms.mem) (r) : Memory.wf (s.addReq r).1.ms.mem := by
  unfold State.addReq
  grind

theorem State.setReq_wf (hs : Memory.wf s.ms.mem) (id r) : Memory.wf (s.setReq id r).ms.mem := by
  unfold State.setReq
  grind

theorem State.performPart_wf (hs : Memory.wf s.ms.mem) (r va n pace op) : Memory.wf (s.performPart r va n pace op).1.ms.mem := by
  unfold State.performPart
  grind [State.perform_wf, State.cachedRead_wf, State.dropCopies_wf]

theorem State.performRuns_wf (hs : Memory.wf s.ms.mem) (r pace f ps o) : Memory.wf (s.performRuns r pace f ps o).1.ms.mem := by
  induction ps generalizing s o with
  | nil => exact hs
  | cons p ps ih =>
    unfold State.performRuns
    grind [State.performPart_wf]

theorem State.performReq_wf (hs : Memory.wf s.ms.mem) (c r pace) : Memory.wf (s.performReq c r pace).1.ms.mem := by
  unfold State.performReq
  grind [State.performPart_wf, State.performRuns_wf]

theorem State.settleAcc_wf (hs : Memory.wf s.ms.mem) (cid key) : Memory.wf (s.settleAcc cid key).ms.mem := by
  unfold State.settleAcc
  grind [foldl_wf, State.setCtx_wf]

theorem State.forgetReqs_wf (hs : Memory.wf s.ms.mem) (gone) : Memory.wf (s.forgetReqs gone).ms.mem := by
  unfold State.forgetReqs
  grind

theorem State.confirm_wf (hs : Memory.wf s.ms.mem) (cid k) (ht : s.confirm cid k = some u) : Memory.wf u.ms.mem := by
  unfold State.confirm at ht
  split at ht
  · cases ht
  · split at ht
    · cases ht
    · split at ht
      · split at ht
        · cases ht
        · split at ht
          · cases ht
          · dsimp only at ht
            split at ht
            · cases ht
              exact State.settleAcc_wf (State.setCtx_wf (State.forgetReqs_wf hs ..) ..) ..
            · cases ht
              exact State.takeTrap_wf (State.settleAcc_wf (State.setCtx_wf (State.forgetReqs_wf hs ..) ..) ..) ..
      · cases ht

theorem State.fixRuns_wf (hs : Memory.wf s.ms.mem) (k asid priv vas) : Memory.wf (s.fixRuns k asid priv vas).1.ms.mem := by
  induction vas generalizing s with
  | nil => exact hs
  | cons va vas ih =>
    unfold State.fixRuns
    grind [State.translate_wf]

theorem State.sureReq_wf (hs : Memory.wf s.ms.mem) (id) : Memory.wf (s.sureReq id).ms.mem := by
  unfold State.sureReq
  grind [State.fixRuns_wf, State.setReq_wf]

theorem execAccessConfirm_wf (hs : Memory.wf s.ms.mem) (w) (ht : execAccessConfirm w s = .next u) : Memory.wf u.ms.mem := by
  unfold execAccessConfirm at ht
  grind [foldl_wf, State.confirm_wf, State.sureReq_wf]

theorem State.l1Serve_wf (hs : Memory.wf s.ms.mem) (c r) {y} (ht : s.l1Serve c r = some (u, y)) : Memory.wf u.ms.mem := by
  unfold State.l1Serve at ht
  grind [State.touch_wf]

theorem State.issueLane_wf (hs : Memory.wf s.ms.mem) (x image kind l n p) : Memory.wf (s.issueLane x image kind l n p).1.ms.mem := by
  have hdrop (ps : List (Nat × Nat)) : Memory.wf (ps.foldl (fun s q => s.dropL1 x.cid x.c.asid q.1) s).ms.mem :=
    foldl_wf (fun _ _ h => State.dropL1_wf h ..) ps hs
  have hvirt (r : Req) : Memory.wf (if kind.writes then ((reqParts x.c r).foldl (fun s q => s.dropL1 x.cid x.c.asid q.1) s).addReq r
      else match s.l1Serve x.c r with
        | some (s, st) => s.addReq { r with st := st }
        | none =>
          let miss : Bool := r.space = 0 || r.space = 1 || r.space = 7
          let s := if miss then (match s.ctxs.find? x.cid with | some c => s.setCtx x.cid (c.countUp 3 1) | none => s) else s
          s.addReq r).1.ms.mem := by
    split
    · exact State.addReq_wf (hdrop _) _
    · grind [State.addReq_wf, State.l1Serve_wf, State.setCtx_wf]
  unfold State.issueLane
  cases p with
  | asp o => grind [State.addReq_wf, State.setBlk_wf]
  | acs o => grind [State.addReq_wf, State.setBlk_wf]
  | peer r o => grind [State.addReq_wf]
  | fab row col o => grind [State.addReq_wf]
  | phys pa => grind [State.addReq_wf]
  | loc o => exact hvirt _
  | glob pol va => exact hvirt _

theorem State.issueLanes_wf (hs : Memory.wf s.ms.mem) (x m ps ids) : Memory.wf (s.issueLanes x m ps ids).1.ms.mem := by
  induction ps generalizing s ids with
  | nil => exact hs
  | cons p ps ih =>
    unfold State.issueLanes
    grind [State.issueLane_wf]

theorem State.launchAcc_wf (hs : Memory.wf s.ms.mem) (x m ps ptrs) : Memory.wf (s.launchAcc x m ps ptrs).ms.mem := by
  unfold State.launchAcc
  grind [getD_wf, State.issueLanes_wf, State.setCtx_wf, State.confirm_wf]

theorem State.access_wf (hs : Memory.wf s.ms.mem) (x m lanes) : Memory.wf (s.access x m lanes).ms.mem := by
  unfold State.access
  grind [State.holdAs_wf, State.trapAt_wf, State.clearDisc_wf, State.launchAcc_wf]

/-! ### Vec -/

theorem State.pairs_wf (hs : Memory.wf s.ms.mem) (i o f) (ht : s.pairs i o f = .next u) : Memory.wf u.ms.mem := by
  unfold State.pairs at ht
  grind [State.lanewise_wf]

theorem execHadd_wf (hs : Memory.wf s.ms.mem) (o sat) (ht : execHadd o sat s = .next u) : Memory.wf u.ms.mem := by
  unfold execHadd at ht
  grind [State.pairs_wf]

theorem execHsub_wf (hs : Memory.wf s.ms.mem) (o sat) (ht : execHsub o sat s = .next u) : Memory.wf u.ms.mem := by
  unfold execHsub at ht
  grind [State.pairs_wf]

theorem execHmul_wf (hs : Memory.wf s.ms.mem) (o sat) (ht : execHmul o sat s = .next u) : Memory.wf u.ms.mem := by
  unfold execHmul at ht
  grind [State.pairs_wf]

theorem execHmad_wf (hs : Memory.wf s.ms.mem) (o sat) (ht : execHmad o sat s = .next u) : Memory.wf u.ms.mem := by
  unfold execHmad at ht
  grind [State.pairs_wf]

theorem execHmin_wf (hs : Memory.wf s.ms.mem) (o) (ht : execHmin o s = .next u) : Memory.wf u.ms.mem := by
  unfold execHmin at ht
  grind [State.pairs_wf]

theorem execHmax_wf (hs : Memory.wf s.ms.mem) (o) (ht : execHmax o s = .next u) : Memory.wf u.ms.mem := by
  unfold execHmax at ht
  grind [State.pairs_wf]

theorem execHsar_wf (hs : Memory.wf s.ms.mem) (o rnd) (ht : execHsar o rnd s = .next u) : Memory.wf u.ms.mem := by
  unfold execHsar at ht
  grind [State.pairs_wf]

theorem execHclamp_wf (hs : Memory.wf s.ms.mem) (o) (ht : execHclamp o s = .next u) : Memory.wf u.ms.mem := by
  unfold execHclamp at ht
  grind [State.pairs_wf]

theorem execPxunpk_wf (hs : Memory.wf s.ms.mem) (o w) (ht : execPxunpk o w s = .next u) : Memory.wf u.ms.mem := by
  unfold execPxunpk at ht
  grind [State.lanewise_wf]

theorem execPxpack_wf (hs : Memory.wf s.ms.mem) (o w) (ht : execPxpack o w s = .next u) : Memory.wf u.ms.mem := by
  unfold execPxpack at ht
  grind [State.lanewise_wf]

theorem execPerm_wf (hs : Memory.wf s.ms.mem) (o t m) (ht : execPerm o t m s = .next u) : Memory.wf u.ms.mem := by
  unfold execPerm at ht
  grind [State.lanewiseVar_wf]

theorem execLmask_wf (hs : Memory.wf s.ms.mem) (o m) (ht : execLmask o m s = .next u) : Memory.wf u.ms.mem := by
  unfold execLmask at ht
  grind [State.lanewiseVar_wf]

theorem execLgrp_wf (hs : Memory.wf s.ms.mem) (o t m) (ht : execLgrp o t m s = .next u) : Memory.wf u.ms.mem := by
  unfold execLgrp at ht
  grind [State.lanewiseVar_wf]

theorem execLred_wf (hs : Memory.wf s.ms.mem) (o t op) (ht : execLred o t op s = .next u) : Memory.wf u.ms.mem := by
  unfold execLred at ht
  grind [State.lanewiseVar_wf]

theorem execLpre_wf (hs : Memory.wf s.ms.mem) (o t op) (ht : execLpre o t op s = .next u) : Memory.wf u.ms.mem := by
  unfold execLpre at ht
  grind [State.lanewiseVar_wf]

theorem State.kaIssue_wf (hs : Memory.wf s.ms.mem) {body : State → Iss → State} (hbody : ∀ s a, Memory.wf s.ms.mem → Memory.wf
    (body s a).ms.mem) (i) (ht : s.kaIssue i body = .next u) : Memory.wf u.ms.mem := by
  unfold State.kaIssue at ht
  grind [State.issue_wf, State.holdAs_wf]

theorem execKaclr_wf (hs : Memory.wf s.ms.mem) (o) (ht : execKaclr o s = .next u) : Memory.wf u.ms.mem := by
  unfold execKaclr at ht
  grind [State.kaIssue_wf, State.retire_wf]

theorem execKaadd_wf (hs : Memory.wf s.ms.mem) (o) (ht : execKaadd o s = .next u) : Memory.wf u.ms.mem := by
  unfold execKaadd at ht
  grind [foldl_wf, State.kaIssue_wf, State.retire_wf]

theorem execKamad_wf (hs : Memory.wf s.ms.mem) (o) (ht : execKamad o s = .next u) : Memory.wf u.ms.mem := by
  unfold execKamad at ht
  grind [foldl_wf, State.kaIssue_wf, State.retire_wf]

theorem execKaread_wf (hs : Memory.wf s.ms.mem) (o t rm) (ht : execKaread o t rm s = .next u) : Memory.wf u.ms.mem := by
  unfold execKaread at ht
  grind [State.kaIssue_wf, State.pend_wf]

/-! ### Memory -/

theorem execLd_wf (hs : Memory.wf s.ms.mem) (o t ord sc) (ht : execLd o t ord sc s = .next u) : Memory.wf u.ms.mem := by
  unfold execLd at ht
  grind [State.issue_wf, State.access_wf]

theorem execSt_wf (hs : Memory.wf s.ms.mem) (o t ord sc) (ht : execSt o t ord sc s = .next u) : Memory.wf u.ms.mem := by
  unfold execSt at ht
  grind [State.issue_wf, State.access_wf]

theorem execAtom_wf (hs : Memory.wf s.ms.mem) (o t op ord sc) (ht : execAtom o t op ord sc s = .next u) : Memory.wf u.ms.mem := by
  unfold execAtom at ht
  grind [State.issue_wf, State.access_wf]

theorem execRed_wf (hs : Memory.wf s.ms.mem) (o t op ord sc) (ht : execRed o t op ord sc s = .next u) : Memory.wf u.ms.mem := by
  unfold execRed at ht
  grind [State.issue_wf, State.access_wf]

theorem execCas_wf (hs : Memory.wf s.ms.mem) (o w ord sc) (ht : execCas o w ord sc s = .next u) : Memory.wf u.ms.mem := by
  unfold execCas at ht
  grind [State.issue_wf, State.access_wf]

theorem State.kaImage_wf (hs : Memory.wf s.ms.mem) (i ord sc acc kind) (ht : s.kaImage i ord sc acc kind = .next u) : Memory.wf u.ms.mem := by
  unfold State.kaImage at ht
  grind [State.kaIssue_wf, State.access_wf]

theorem execKast_wf (hs : Memory.wf s.ms.mem) (o ord sc) (ht : execKast o ord sc s = .next u) : Memory.wf u.ms.mem := by
  unfold execKast at ht
  grind [State.kaImage_wf]

theorem execKald_wf (hs : Memory.wf s.ms.mem) (o ord sc) (ht : execKald o ord sc s = .next u) : Memory.wf u.ms.mem := by
  unfold execKald at ht
  grind [State.kaImage_wf]

theorem execKaaddm_wf (hs : Memory.wf s.ms.mem) (o ord sc) (ht : execKaaddm o ord sc s = .next u) : Memory.wf u.ms.mem := by
  unfold execKaaddm at ht
  grind [State.kaImage_wf]

theorem execAccLd_wf (hs : Memory.wf s.ms.mem) (o t rm) (ht : execAccLd o t rm s = .next u) : Memory.wf u.ms.mem := by
  unfold execAccLd at ht
  grind [State.issue_wf, State.trapAt_wf, State.holdAs_wf, State.pend_wf]

theorem execFence_wf (hs : Memory.wf s.ms.mem) (o ord sc) (ht : execFence o ord sc s = .next u) : Memory.wf u.ms.mem := by
  unfold execFence at ht
  grind [State.issue_wf, State.holdAs_wf, State.retire_wf]

theorem State.prefetchLane_wf (hs : Memory.wf s.ms.mem) (x lv l) : Memory.wf (s.prefetchLane x lv l).ms.mem := by
  unfold State.prefetchLane
  grind [State.cachedRead_wf]

theorem execPrefetch_wf (hs : Memory.wf s.ms.mem) (o lv) (ht : execPrefetch o lv s = .next u) : Memory.wf u.ms.mem := by
  unfold execPrefetch at ht
  grind [foldl_wf, State.issue_wf, State.retire_wf, State.prefetchLane_wf]

/-! ### Charge -/

theorem State.fallCtr_wf (hs : Memory.wf s.ms.mem) (cid ctr) : Memory.wf (s.fallCtr cid ctr).ms.mem := by
  unfold State.fallCtr
  grind [State.setCtx_wf]

theorem State.fallRmt_wf (hs : Memory.wf s.ms.mem) (cid) : Memory.wf (s.fallRmt cid).ms.mem := by
  unfold State.fallRmt
  grind [State.setCtx_wf]

theorem State.chanSettle_wf (hs : Memory.wf s.ms.mem) (ch) : Memory.wf (s.chanSettle ch).ms.mem := by
  unfold State.chanSettle
  grind [State.setReg_wf]

theorem State.dropOver_wf (hs : Memory.wf s.ms.mem) : Memory.wf (s.dropOver).ms.mem := by
  unfold State.dropOver
  grind

theorem State.countOut_wf (hs : Memory.wf s.ms.mem) (op f bytes) : Memory.wf (s.countOut op f bytes).ms.mem := by
  unfold State.countOut
  grind [foldl_wf, State.setCtx_wf, State.dropOver_wf, State.fallCtr_wf, State.chanSettle_wf]

theorem State.addOp_wf (hs : Memory.wf s.ms.mem) (o) : Memory.wf (s.addOp o).1.ms.mem := by
  unfold State.addOp
  grind [foldl_wf, State.setCtx_wf]

/-! ### TreeOps -/

theorem State.treeIssue_wf (hs : Memory.wf s.ms.mem) {body : State → Iss → Block → Tree → State}
    (hbody : ∀ s a b c, Memory.wf s.ms.mem → Memory.wf (body s a b c).ms.mem) (i) (ht : s.treeIssue i body = .next u) : Memory.wf u.ms.mem := by
  unfold State.treeIssue at ht
  grind [State.issue_wf, State.trapAt_wf]

theorem State.setTree_wf (hs : Memory.wf s.ms.mem) (x b t) : Memory.wf (s.setTree x b t).ms.mem := by
  unfold State.setTree
  grind [State.setBlk_wf]

theorem execTreeClr_wf (hs : Memory.wf s.ms.mem) (o) (ht : execTreeClr o s = .next u) : Memory.wf u.ms.mem := by
  unfold execTreeClr at ht
  grind [State.treeIssue_wf, State.trapAt_wf, State.retire_wf, State.setTree_wf]

theorem execTreeAdd_wf (hs : Memory.wf s.ms.mem) (o) (ht : execTreeAdd o s = .next u) : Memory.wf u.ms.mem := by
  unfold execTreeAdd at ht
  grind [State.treeIssue_wf, State.trapAt_wf, State.retire_wf, State.setTree_wf]

theorem execTreeMask_wf (hs : Memory.wf s.ms.mem) (o) (ht : execTreeMask o s = .next u) : Memory.wf u.ms.mem := by
  unfold execTreeMask at ht
  grind [State.treeIssue_wf, State.trapAt_wf, State.pend_wf]

theorem execTreePos_wf (hs : Memory.wf s.ms.mem) (o) (ht : execTreePos o s = .next u) : Memory.wf u.ms.mem := by
  unfold execTreePos at ht
  grind [State.treeIssue_wf, State.trapAt_wf, State.pend_wf]

theorem execTreeAccept_wf (hs : Memory.wf s.ms.mem) (o) (ht : execTreeAccept o s = .next u) : Memory.wf u.ms.mem := by
  unfold execTreeAccept at ht
  grind [State.treeIssue_wf, State.trapAt_wf, State.retire_wf, State.setTree_wf]

theorem execTreePrune_wf (hs : Memory.wf s.ms.mem) (o) (ht : execTreePrune o s = .next u) : Memory.wf u.ms.mem := by
  unfold execTreePrune at ht
  grind [State.treeIssue_wf, State.trapAt_wf, State.holdAs_wf, State.pend_wf, State.setBlk_wf]

theorem execTreeRd_wf (hs : Memory.wf s.ms.mem) (o) (ht : execTreeRd o s = .next u) : Memory.wf u.ms.mem := by
  unfold execTreeRd at ht
  grind [State.treeIssue_wf, State.trapAt_wf, State.pend_wf]

/-! ### Residency -/

theorem State.setRsd_wf (hs : Memory.wf s.ms.mem) (key r) : Memory.wf (s.setRsd key r).ms.mem := by
  unfold State.setRsd
  grind

theorem State.unwatch_wf (hs : Memory.wf s.ms.mem) (key) : Memory.wf (s.unwatch key).ms.mem := by
  unfold State.unwatch
  grind

theorem State.watchLine_wf (hs : Memory.wf s.ms.mem) (key l) : Memory.wf (s.watchLine key l).ms.mem := by
  unfold State.watchLine
  grind

theorem State.enterRebuild_wf (hs : Memory.wf s.ms.mem) (key r) (ht : s.enterRebuild key r = some u) : Memory.wf u.ms.mem := by
  unfold State.enterRebuild at ht
  grind [State.addOp_wf, State.setRsd_wf]

theorem State.dropReq_wf (hs : Memory.wf s.ms.mem) (id) : Memory.wf (s.dropReq id).ms.mem := by
  unfold State.dropReq
  grind

theorem State.fillStop_wf (hs : Memory.wf s.ms.mem) (id key f) : Memory.wf (s.fillStop id key f).ms.mem := by
  unfold State.fillStop
  grind [State.setRsd_wf, State.dropReq_wf]

theorem State.fillTook_wf (hs : Memory.wf s.ms.mem) (id q key bs) : Memory.wf (s.fillTook id q key bs).ms.mem := by
  unfold State.fillTook
  grind [foldl_wf, State.dropReq_wf, State.fillStop_wf, State.watchLine_wf, State.setRsd_wf, State.setReq_wf]

theorem State.fillLine_wf (hs : Memory.wf s.ms.mem) (id q key pace) {y} (ht : s.fillLine id q key pace = some (u, y)) : Memory.wf u.ms.mem := by
  unfold State.fillLine at ht
  grind [State.enterRebuild_wf, State.perform_wf, State.fillTook_wf, State.fillStop_wf]

theorem State.startFill_wf (hs : Memory.wf s.ms.mem) (key r) : Memory.wf (s.startFill key r).ms.mem := by
  unfold State.startFill
  grind [State.addReq_wf]

theorem State.fillEnd_wf (hs : Memory.wf s.ms.mem) (key) (ht : s.fillEnd key = some u) : Memory.wf u.ms.mem := by
  unfold State.fillEnd at ht
  grind [State.setRsd_wf, State.countOut_wf]

theorem State.rebuildEnd_wf (hs : Memory.wf s.ms.mem) (key) (ht : s.rebuildEnd key = some u) : Memory.wf u.ms.mem := by
  unfold State.rebuildEnd at ht
  grind [State.setRsd_wf]

theorem execCellError_wf (hs : Memory.wf s.ms.mem) (vdev h) (ht : execCellError vdev h s = .next u) : Memory.wf u.ms.mem := by
  unfold execCellError at ht
  grind [State.setRsd_wf]

theorem execRdtMirrorWrite_wf (hs : Memory.wf s.ms.mem) (vdev h) (ht : execRdtMirrorWrite vdev h s = .next u) : Memory.wf u.ms.mem := by
  unfold execRdtMirrorWrite at ht
  grind [State.setRsd_wf, State.physWr_wf]

theorem State.freeRsd_wf (hs : Memory.wf s.ms.mem) (key) : Memory.wf (s.freeRsd key).ms.mem := by
  unfold State.freeRsd
  grind [State.unwatch_wf, State.setRsd_wf, State.countOut_wf]

theorem State.setRstat_wf (hs : Memory.wf s.ms.mem) (v st reason) : Memory.wf (s.setRstat v st reason).ms.mem := by
  unfold State.setRstat
  grind [State.setReg_wf]

theorem State.revokeRsd_wf (hs : Memory.wf s.ms.mem) (key) : Memory.wf (s.revokeRsd key).ms.mem := by
  unfold State.revokeRsd
  grind [State.setRsd_wf, State.freeRsd_wf]

theorem State.rstatDone_wf (hs : Memory.wf s.ms.mem) (v) : Memory.wf (s.rstatDone v).ms.mem := by
  unfold State.rstatDone
  grind [State.setRstat_wf]

theorem State.settleRevokes_wf (hs : Memory.wf s.ms.mem) : Memory.wf (s.settleRevokes).ms.mem := by
  unfold State.settleRevokes
  grind [foldl_wf, State.rstatDone_wf, State.freeRsd_wf]

theorem State.rsdIssue_wf (hs : Memory.wf s.ms.mem) {body : State → Iss → Block → State} (hbody : ∀ s a b, Memory.wf s.ms.mem → Memory.wf
    (body s a b).ms.mem) (i) (ht : s.rsdIssue i body = .next u) : Memory.wf u.ms.mem := by
  unfold State.rsdIssue at ht
  grind [State.issue_wf, State.trapAt_wf, State.clearDisc_wf]

theorem execRsdAlloc_wf (hs : Memory.wf s.ms.mem) (o) (ht : execRsdAlloc o s = .next u) : Memory.wf u.ms.mem := by
  unfold execRsdAlloc at ht
  grind [State.rsdIssue_wf, State.trapAt_wf, State.retire_wf, State.setRsd_wf]

theorem execRsdLoad_wf (hs : Memory.wf s.ms.mem) (o shard) (ht : execRsdLoad o shard s = .next u) : Memory.wf u.ms.mem := by
  refine State.rsdIssue_wf hs (fun s x b hs => ?_) _ ht
  have htrap (i) : Memory.wf (s.trapAt x i).ms.mem := State.trapAt_wf hs x i
  have hhold (w) : Memory.wf (s.holdAs x w).ms.mem := State.holdAs_wf hs x w
  have hstart (o key r2 r3) : Memory.wf ((((s.unwatch key).addOp o).1.setRsd key r2).startFill key r3).ms.mem :=
    State.startFill_wf (State.setRsd_wf (State.addOp_wf (State.unwatch_wf hs _) _) ..) ..
  dsimp only
  split
  · exact htrap _
  · split
    · exact htrap _
    · split
      · exact htrap _
      · split
        · exact htrap _
        · split
          · exact htrap _
          · split
            · exact htrap _
            · split
              · exact htrap _
              · split
                · exact htrap _
                · split
                  · exact hhold _
                  · split
                    · exact hhold _
                    · split
                      · exact State.retire_wf (hstart ..) ..
                      · exact hstart ..

theorem State.pinRsd_wf (hs : Memory.wf s.ms.mem) (i v) (ht : s.pinRsd i v = .next u) : Memory.wf u.ms.mem := by
  unfold State.pinRsd at ht
  grind [State.rsdIssue_wf, State.trapAt_wf, State.retire_wf, State.setRsd_wf]

theorem execRsdPin_wf (hs : Memory.wf s.ms.mem) (o) (ht : execRsdPin o s = .next u) : Memory.wf u.ms.mem := by
  unfold execRsdPin at ht
  grind [State.pinRsd_wf]

theorem execRsdUnpin_wf (hs : Memory.wf s.ms.mem) (o) (ht : execRsdUnpin o s = .next u) : Memory.wf u.ms.mem := by
  unfold execRsdUnpin at ht
  grind [State.pinRsd_wf]

theorem execRsdQuery_wf (hs : Memory.wf s.ms.mem) (o) (ht : execRsdQuery o s = .next u) : Memory.wf u.ms.mem := by
  unfold execRsdQuery at ht
  grind [State.rsdIssue_wf, State.pend_wf]

theorem execRcmdBadcmd_wf (hs : Memory.wf s.ms.mem) (w) (ht : execRcmdBadcmd w s = .next u) : Memory.wf u.ms.mem := by
  unfold execRcmdBadcmd at ht
  grind [State.setRstat_wf]

theorem State.makeRoom_wf (hs : Memory.wf s.ms.mem) (cl core inc n) : Memory.wf (s.makeRoom cl core inc n).ms.mem := by
  induction n generalizing s with
  | zero => exact hs
  | succ n ih =>
    unfold State.makeRoom
    grind [State.setRsd_wf]

theorem State.resumeRsd_wf (hs : Memory.wf s.ms.mem) (key r) : Memory.wf (s.resumeRsd key r).ms.mem := by
  unfold State.resumeRsd
  grind [getD_wf, State.setRsd_wf, State.enterRebuild_wf, State.startFill_wf]

theorem State.switchRsds_wf (hs : Memory.wf s.ms.mem) (cl out inc) : Memory.wf (s.switchRsds cl out inc).ms.mem := by
  unfold State.switchRsds
  grind [foldl_wf, State.makeRoom_wf, State.resumeRsd_wf]

/-! ### Window -/

theorem State.fabPerform_wf (hs : Memory.wf s.ms.mem) (q op) : Memory.wf (s.fabPerform q op).1.ms.mem := by
  unfold State.fabPerform
  grind [State.perform_wf]

theorem State.fabServe_wf (hs : Memory.wf s.ms.mem) (row col vdev off q op) : Memory.wf (s.fabServe row col vdev off q op).1.ms.mem := by
  unfold State.fabServe
  grind [State.fabPerform_wf]

/-! ### Engine -/

theorem State.engReq_wf (hs : Memory.wf s.ms.mem) (op o phase) : Memory.wf (s.engReq op o phase).ms.mem := by
  unfold State.engReq
  grind [State.addReq_wf]

theorem State.nvPut_wf (hs : Memory.wf s.ms.mem) (ch op i o c) : Memory.wf (s.nvPut ch op i o c).ms.mem := by
  unfold State.nvPut
  grind [State.physWr_wf]

theorem State.nvFeed_wf (hs : Memory.wf s.ms.mem) (ch n) : Memory.wf (s.nvFeed ch n).ms.mem := by
  induction n generalizing s with
  | zero => exact hs
  | succ n ih =>
    unfold State.nvFeed
    grind [State.nvPut_wf]

theorem State.nvSubmit_wf (hs : Memory.wf s.ms.mem) (ch) : Memory.wf (s.nvSubmit ch).ms.mem := by
  unfold State.nvSubmit
  grind [State.nvFeed_wf]

theorem State.engStart_wf (hs : Memory.wf s.ms.mem) (blk b q) : Memory.wf (s.engStart blk b q).1.ms.mem := by
  unfold State.engStart
  grind [State.addOp_wf, State.nvSubmit_wf, State.engReq_wf]

theorem State.engIssue_wf (hs : Memory.wf s.ms.mem) (i mk) (ht : s.engIssue i mk = .next u) : Memory.wf u.ms.mem := by
  unfold State.engIssue at ht
  grind [State.issue_wf, State.trapAt_wf, State.holdAs_wf, State.clearDisc_wf, State.engStart_wf, State.retire_wf]

theorem execCpy_wf (hs : Memory.wf s.ms.mem) (o chg) (ht : execCpy o chg s = .next u) : Memory.wf u.ms.mem := by
  unfold execCpy at ht
  grind [State.engIssue_wf]

theorem execCpy2d_wf (hs : Memory.wf s.ms.mem) (o chg e) (ht : execCpy2d o chg e s = .next u) : Memory.wf u.ms.mem := by
  unfold execCpy2d at ht
  grind [State.engIssue_wf]

theorem execDcx_wf (hs : Memory.wf s.ms.mem) (o chg f e) (ht : execDcx o chg f e s = .next u) : Memory.wf u.ms.mem := by
  unfold execDcx at ht
  grind [State.engIssue_wf]

theorem execSrd_wf (hs : Memory.wf s.ms.mem) (o chg) (ht : execSrd o chg s = .next u) : Memory.wf u.ms.mem := by
  unfold execSrd at ht
  grind [State.engIssue_wf]

theorem State.drawBytes_wf (hs : Memory.wf s.ms.mem) (n) : Memory.wf (s.drawBytes n).1.ms.mem := by
  unfold State.drawBytes
  grind

theorem State.setOp_wf (hs : Memory.wf s.ms.mem) (id o) : Memory.wf (s.setOp id o).ms.mem := by
  unfold State.setOp
  grind

theorem State.goOn_wf (hs : Memory.wf s.ms.mem) (rid r phase va) : Memory.wf (s.goOn rid r phase va).ms.mem := by
  unfold State.goOn
  grind [State.setReq_wf]

theorem State.engDone_wf (hs : Memory.wf s.ms.mem) (id f) : Memory.wf (s.engDone id f).ms.mem := by
  unfold State.engDone
  grind [State.setOp_wf]

theorem State.engReach_wf (hs : Memory.wf s.ms.mem) (id r o ptr n pace op mark) {y} (ht : s.engReach id r o ptr n pace op mark = some
    (u, y)) : Memory.wf u.ms.mem := by
  unfold State.engReach at ht
  grind [State.fabPerform_wf, State.perform_wf]

theorem State.engWrite_wf (hs : Memory.wf s.ms.mem) (id r o ptr bs bad pace) {y} (ht : s.engWrite id r o ptr bs bad pace = some (u, y))
    : Memory.wf u.ms.mem := by
  unfold State.engWrite at ht
  grind [foldl_wf, State.setBlk_wf, State.engReach_wf]

theorem State.engTook_wf (hs : Memory.wf s.ms.mem) (rid id r o bs bad) : Memory.wf (s.engTook rid id r o bs bad).ms.mem := by
  unfold State.engTook
  grind [State.setOp_wf, State.goOn_wf]

theorem State.engReadStep_wf (hs : Memory.wf s.ms.mem) (rid id r o pace) {y} (ht : s.engReadStep rid id r o pace = some (u, y))
    : Memory.wf u.ms.mem := by
  unfold State.engReadStep at ht
  grind [State.engReach_wf, State.engTook_wf, State.engDone_wf, State.setOp_wf]

theorem State.collSpoiled_wf (hs : Memory.wf s.ms.mem) (id o) : Memory.wf (s.collSpoiled id o).ms.mem := by
  unfold State.collSpoiled
  grind [State.drawBytes_wf, State.setOp_wf]

theorem State.collWritten_wf (hs : Memory.wf s.ms.mem) (rid id r) : Memory.wf (s.collWritten rid id r).ms.mem := by
  unfold State.collWritten
  grind [State.goOn_wf, State.collSpoiled_wf, State.engDone_wf]

theorem State.engStop_wf (hs : Memory.wf s.ms.mem) (rid id r o f aux) : Memory.wf (s.engStop rid id r o f aux).ms.mem := by
  unfold State.engStop
  grind [State.collWritten_wf, State.setOp_wf, State.engDone_wf]

theorem State.engWrote_wf (hs : Memory.wf s.ms.mem) (rid id r o n g) : Memory.wf (s.engWrote rid id r o n g).ms.mem := by
  unfold State.engWrote
  grind [State.setOp_wf, State.goOn_wf, State.engDone_wf, State.collWritten_wf]

theorem State.engBytes_wf (hs : Memory.wf s.ms.mem) (o off bs bad) : Memory.wf (s.engBytes o off bs bad).1.ms.mem := by
  unfold State.engBytes
  grind [State.drawBytes_wf]

theorem State.engWriteStep_wf (hs : Memory.wf s.ms.mem) (rid id r o pace) {y} (ht : s.engWriteStep rid id r o pace = some (u, y)) :
    Memory.wf u.ms.mem := by
  unfold State.engWriteStep at ht
  dsimp only at ht
  split at ht
  · cases ht
    exact State.goOn_wf (State.setOp_wf hs ..) ..
  · cases ht
    refine State.engDone_wf (State.setOp_wf ?_ ..) ..
    split
    · exact hs
    · split
      · next hw => exact State.engWrite_wf hs _ _ _ _ _ _ _ hw
      · exact hs
  · split at ht
    · cases ht
    · split at ht
      · cases ht
      · have hb := State.engBytes_wf hs
        split at ht
        · cases ht
        · next hw =>
          cases ht
          exact State.engWrote_wf (State.engWrite_wf (hb ..) _ _ _ _ _ _ _ hw) ..
        · next hw =>
          cases ht
          exact State.engStop_wf (State.engWrite_wf (hb ..) _ _ _ _ _ _ _ hw) ..
        · next hw =>
          cases ht
          exact State.engWrite_wf (hb ..) _ _ _ _ _ _ _ hw

theorem State.engReply_wf (hs : Memory.wf s.ms.mem) (rid id r o a) (ht : s.engReply rid id r o a = some u) : Memory.wf u.ms.mem := by
  unfold State.engReply at ht
  grind [State.engTook_wf, State.engStop_wf, State.engWrote_wf]

theorem execEngineCountOut_wf (hs : Memory.wf s.ms.mem) (id) (ht : execEngineCountOut id s = .next u) : Memory.wf u.ms.mem := by
  unfold execEngineCountOut at ht
  grind [State.engReq_wf, State.collSpoiled_wf, State.countOut_wf]

theorem State.nvTake_wf (hs : Memory.wf s.ms.mem) (ch c status) : Memory.wf (s.nvTake ch c status).ms.mem := by
  unfold State.nvTake
  grind [State.physWr_wf]

theorem State.nvOver_wf (hs : Memory.wf s.ms.mem) (id cmd o c data fault) : Memory.wf (s.nvOver id cmd o c data fault).ms.mem := by
  unfold State.nvOver
  grind [State.chanSettle_wf, State.dropOver_wf, State.nvSubmit_wf, State.setOp_wf]

theorem execNvmeCompletion_wf (hs : Memory.wf s.ms.mem) (id cmd status data) (ht : execNvmeCompletion id cmd status data s = .next u)
    : Memory.wf u.ms.mem := by
  unfold execNvmeCompletion at ht
  grind [State.nvOver_wf, State.nvTake_wf]

theorem execNvmeTimeout_wf (hs : Memory.wf s.ms.mem) (id cmd) (ht : execNvmeTimeout id cmd s = .next u) : Memory.wf u.ms.mem := by
  unfold execNvmeTimeout at ht
  grind [State.nvOver_wf]

theorem execChcfgWrite_wf (hs : Memory.wf s.ms.mem) (w) (ht : execChcfgWrite w s = .next u) : Memory.wf u.ms.mem := by
  unfold execChcfgWrite at ht
  grind [State.chanSettle_wf, State.setReg_wf]

theorem State.waitAc_wf (hs : Memory.wf s.ms.mem) (x n) : Memory.wf (s.waitAc x n).ms.mem := by
  unfold State.waitAc
  grind [State.holdAs_wf, State.trapAt_wf, State.setCtx_wf, State.retire_wf]

theorem execWaitAc_wf (hs : Memory.wf s.ms.mem) (o ac) (ht : execWaitAc o ac s = .next u) : Memory.wf u.ms.mem := by
  unfold execWaitAc at ht
  grind [State.issue_wf, State.trapAt_wf, State.setCtx_wf, State.holdAs_wf, State.clearDisc_wf, State.engStart_wf, State.waitAc_wf]

/-! ### Float -/

theorem State.fpRound_wf (hs : Memory.wf s.ms.mem) (i o t rm f) (ht : s.fpRound i o t rm f = .next u) : Memory.wf u.ms.mem := by
  unfold State.fpRound at ht
  grind [State.rounding_wf]

theorem State.fpPlain_wf (hs : Memory.wf s.ms.mem) (i o t f) (ht : s.fpPlain i o t f = .next u) : Memory.wf u.ms.mem := by
  unfold State.fpPlain at ht
  grind [State.lanewise_wf]

theorem execFadd_wf (hs : Memory.wf s.ms.mem) (o t rm) (ht : execFadd o t rm s = .next u) : Memory.wf u.ms.mem := by
  unfold execFadd at ht
  grind [State.fpRound_wf]

theorem execFsub_wf (hs : Memory.wf s.ms.mem) (o t rm) (ht : execFsub o t rm s = .next u) : Memory.wf u.ms.mem := by
  unfold execFsub at ht
  grind [State.fpRound_wf]

theorem execFmul_wf (hs : Memory.wf s.ms.mem) (o t rm) (ht : execFmul o t rm s = .next u) : Memory.wf u.ms.mem := by
  unfold execFmul at ht
  grind [State.fpRound_wf]

theorem execFfma_wf (hs : Memory.wf s.ms.mem) (o t rm) (ht : execFfma o t rm s = .next u) : Memory.wf u.ms.mem := by
  unfold execFfma at ht
  grind [State.fpRound_wf]

theorem execFmin_wf (hs : Memory.wf s.ms.mem) (o t) (ht : execFmin o t s = .next u) : Memory.wf u.ms.mem := by
  unfold execFmin at ht
  grind [State.fpPlain_wf]

theorem execFmax_wf (hs : Memory.wf s.ms.mem) (o t) (ht : execFmax o t s = .next u) : Memory.wf u.ms.mem := by
  unfold execFmax at ht
  grind [State.fpPlain_wf]

theorem execFabs_wf (hs : Memory.wf s.ms.mem) (o t) (ht : execFabs o t s = .next u) : Memory.wf u.ms.mem := by
  unfold execFabs at ht
  grind [State.fpPlain_wf]

theorem execFneg_wf (hs : Memory.wf s.ms.mem) (o t) (ht : execFneg o t s = .next u) : Memory.wf u.ms.mem := by
  unfold execFneg at ht
  grind [State.fpPlain_wf]

theorem execFrnd_wf (hs : Memory.wf s.ms.mem) (o t rm) (ht : execFrnd o t rm s = .next u) : Memory.wf u.ms.mem := by
  unfold execFrnd at ht
  grind [State.fpRound_wf]

theorem execFcmp_wf (hs : Memory.wf s.ms.mem) (o t cc) (ht : execFcmp o t cc s = .next u) : Memory.wf u.ms.mem := by
  unfold execFcmp at ht
  grind [State.lanewise_wf]

theorem execFclass_wf (hs : Memory.wf s.ms.mem) (o t) (ht : execFclass o t s = .next u) : Memory.wf u.ms.mem := by
  unfold execFclass at ht
  grind [State.lanewise_wf]

theorem execFcvt_wf (hs : Memory.wf s.ms.mem) (o t src rm q) (ht : execFcvt o t src rm q s = .next u) : Memory.wf u.ms.mem := by
  unfold execFcvt at ht
  grind [State.rounding_wf]

theorem execFcvti_wf (hs : Memory.wf s.ms.mem) (o t src rm q) (ht : execFcvti o t src rm q s = .next u) : Memory.wf u.ms.mem := by
  unfold execFcvti at ht
  grind [State.rounding_wf]

theorem execIcvtf_wf (hs : Memory.wf s.ms.mem) (o t src rm q) (ht : execIcvtf o t src rm q s = .next u) : Memory.wf u.ms.mem := by
  unfold execIcvtf at ht
  grind [State.rounding_wf]

theorem State.special1_wf (hs : Memory.wf s.ms.mem) (i o t f) (ht : s.special1 i o t f = .next u) : Memory.wf u.ms.mem := by
  unfold State.special1 at ht
  grind [State.lanewiseVar_wf]

theorem execFrcp_wf (hs : Memory.wf s.ms.mem) (o t) (ht : execFrcp o t s = .next u) : Memory.wf u.ms.mem := by
  unfold execFrcp at ht
  grind [State.special1_wf]

theorem execFrsqrt_wf (hs : Memory.wf s.ms.mem) (o t) (ht : execFrsqrt o t s = .next u) : Memory.wf u.ms.mem := by
  unfold execFrsqrt at ht
  grind [State.special1_wf]

theorem execFsqrt_wf (hs : Memory.wf s.ms.mem) (o t rm) (ht : execFsqrt o t rm s = .next u) : Memory.wf u.ms.mem := by
  unfold execFsqrt at ht
  grind [State.rounding_wf]

theorem execFexp2_wf (hs : Memory.wf s.ms.mem) (o t) (ht : execFexp2 o t s = .next u) : Memory.wf u.ms.mem := by
  unfold execFexp2 at ht
  grind [State.special1_wf]

theorem execFlog2_wf (hs : Memory.wf s.ms.mem) (o t) (ht : execFlog2 o t s = .next u) : Memory.wf u.ms.mem := by
  unfold execFlog2 at ht
  grind [State.special1_wf]

theorem execFsin_wf (hs : Memory.wf s.ms.mem) (o t) (ht : execFsin o t s = .next u) : Memory.wf u.ms.mem := by
  unfold execFsin at ht
  grind [State.special1_wf]

theorem execFcos_wf (hs : Memory.wf s.ms.mem) (o t) (ht : execFcos o t s = .next u) : Memory.wf u.ms.mem := by
  unfold execFcos at ht
  grind [State.special1_wf]

theorem execFtanh_wf (hs : Memory.wf s.ms.mem) (o t) (ht : execFtanh o t s = .next u) : Memory.wf u.ms.mem := by
  unfold execFtanh at ht
  grind [State.special1_wf]

theorem execFdiv_wf (hs : Memory.wf s.ms.mem) (o t rm) (ht : execFdiv o t rm s = .next u) : Memory.wf u.ms.mem := by
  unfold execFdiv at ht
  grind [State.rounding_wf]

/-! ### KvTable -/

theorem State.kvRd_wf (hs : Memory.wf s.ms.mem) (w ptr n) : Memory.wf (s.kvRd w ptr n).1.ms.mem := by
  unfold State.kvRd
  grind [State.cachedRead_wf, State.perform_wf]

theorem State.kvDesc_wf (hs : Memory.wf s.ms.mem) (w ptr) : Memory.wf (s.kvDesc w ptr).1.ms.mem := by
  unfold State.kvDesc
  exact andThen_wf (State.kvRd_wf hs ..) fun s a hs => by grind

theorem State.kvEntry_wf (hs : Memory.wf s.ms.mem) (w d p) : Memory.wf (s.kvEntry w d p).1.ms.mem := by
  unfold State.kvEntry
  exact andThen_wf (State.kvRd_wf hs ..) fun s e hs => by grind

theorem State.kvNode_wf (hs : Memory.wf s.ms.mem) (w d n) : Memory.wf (s.kvNode w d n).1.ms.mem := by
  unfold State.kvNode
  exact andThen_wf (State.kvRd_wf hs ..) fun s o hs => by grind

theorem State.kvProbe_wf (hs : Memory.wf s.ms.mem) (w d seq lblk h n i) : Memory.wf (s.kvProbe w d seq lblk h n i).1.ms.mem := by
  induction n generalizing s i with
  | zero => exact hs
  | succ n ih =>
    unfold State.kvProbe
    exact andThen_wf (State.kvEntry_wf hs ..) fun s e hs => by grind

theorem State.kvChain_wf (hs : Memory.wf s.ms.mem) (w d seq lblk fuel n pred) : Memory.wf (s.kvChain w d seq lblk fuel n pred).1.ms.mem := by
  induction fuel generalizing s n pred with
  | zero =>
    unfold State.kvChain
    grind
  | succ fuel ih =>
    have hnext (o : Nat) (s : State) (hs : Memory.wf s.ms.mem) : Memory.wf (if kvMatch o seq lblk then
        let p := bits o 64 24
        if 2 ^ d.lnb ≤ p then (s, .trap (kvTrap 7 d.ptr))
        else andThen (s.kvEntry w d p) (fun s e =>
          if bits e 56 2 = 1 then (s, .ok (some { p := p, node := some (n, pred) })) else (s, .trap (kvTrap 7 d.ptr)))
      else s.kvChain w d seq lblk fuel (bits o 96 16) (some n)).1.ms.mem := by
      grind [andThen_wf, State.kvEntry_wf]
    unfold State.kvChain
    grind [andThen_wf, State.kvNode_wf]

theorem State.kvLookup_wf (hs : Memory.wf s.ms.mem) (w d seq lblk) : Memory.wf (s.kvLookup w d seq lblk).1.ms.mem := by
  unfold State.kvLookup
  refine andThen_wf (State.kvProbe_wf hs ..) fun s r hs => ?_
  cases r with
  | some x => exact hs
  | none => exact andThen_wf (State.kvEntry_wf hs ..) fun s e hs => State.kvChain_wf hs ..

theorem State.kvChainLen_wf (hs : Memory.wf s.ms.mem) (w d fuel n c) : Memory.wf (s.kvChainLen w d fuel n c).1.ms.mem := by
  induction fuel generalizing s n c with
  | zero => exact hs
  | succ fuel ih =>
    unfold State.kvChainLen
    split
    · exact hs
    · split
      · exact hs
      · exact andThen_wf (State.kvNode_wf hs ..) fun s o hs => ih hs ..

theorem State.kvIssue_wf (hs : Memory.wf s.ms.mem) {body : State → Iss → Block → State} (hbody : ∀ s a b, Memory.wf s.ms.mem → Memory.wf
    (body s a b).ms.mem) (i spoil) (ht : s.kvIssue i spoil body = .next u) : Memory.wf u.ms.mem := by
  unfold State.kvIssue at ht
  grind [State.issue_wf, State.trapAt_wf, State.clearDisc_wf]

theorem State.keepResult_wf (hs : Memory.wf s.ms.mem) (r) : Memory.wf (s.keepResult r).ms.mem := by
  unfold State.keepResult
  grind

theorem State.kvFind_wf (hs : Memory.wf s.ms.mem) (x ptr seq lblk) : Memory.wf (s.kvFind x ptr seq lblk).1.ms.mem := by
  unfold State.kvFind
  dsimp only
  split
  · exact hs
  · refine andThen_wf (State.kvDesc_wf hs ..) fun s d hs => andThen_wf (State.kvLookup_wf hs ..) fun s r hs => ?_
    grind [State.keepResult_wf]

theorem State.lookHold_wf (hs : Memory.wf s.ms.mem) (x) : Memory.wf (s.lookHold x).ms.mem := by
  unfold State.lookHold
  grind [State.holdAs_wf]

theorem State.lookDone_wf (hs : Memory.wf s.ms.mem) (x) : Memory.wf (s.lookDone x).ms.mem := by
  unfold State.lookDone
  grind

theorem execKvFind_wf (hs : Memory.wf s.ms.mem) (o) (ht : execKvFind o s = .next u) : Memory.wf u.ms.mem := by
  unfold execKvFind at ht
  grind [State.kvIssue_wf, State.trapAt_wf, State.holdAs_wf, State.kvFind_wf, State.lookHold_wf, State.lookDone_wf, State.pend_wf]

theorem execKvLookupRestart_wf (hs : Memory.wf s.ms.mem) (w) (ht : execKvLookupRestart w s = .next u) : Memory.wf u.ms.mem := by
  unfold execKvLookupRestart at ht
  grind

theorem State.kvDropTable_wf (hs : Memory.wf s.ms.mem) (w d) : Memory.wf (s.kvDropTable w d).ms.mem := by
  unfold State.kvDropTable
  grind [State.dropCopies_wf]

theorem State.kvUpdate_wf (hs : Memory.wf s.ms.mem) (i o insert) (ht : s.kvUpdate i o insert = .next u) : Memory.wf u.ms.mem := by
  unfold State.kvUpdate at ht
  grind [State.kvIssue_wf, State.trapAt_wf, State.holdAs_wf, State.kvRd_wf, State.kvDropTable_wf, State.setCtx_wf]

theorem execKvInsert_wf (hs : Memory.wf s.ms.mem) (o) (ht : execKvInsert o s = .next u) : Memory.wf u.ms.mem := by
  unfold execKvInsert at ht
  grind [State.kvUpdate_wf]

theorem execKvDelete_wf (hs : Memory.wf s.ms.mem) (o) (ht : execKvDelete o s = .next u) : Memory.wf u.ms.mem := by
  unfold execKvDelete at ht
  grind [State.kvUpdate_wf]

theorem State.kvInsertPlan_wf (hs : Memory.wf s.ms.mem) (w u1 d) : Memory.wf (s.kvInsertPlan w u1 d).1.ms.mem := by
  unfold State.kvInsertPlan
  split
  · exact hs
  · refine andThen_wf (State.kvLookup_wf hs ..) fun s r hs => ?_
    split
    · exact hs
    · refine andThen_wf (State.kvEntry_wf hs ..) fun s e hs => andThen_wf (State.kvEntry_wf hs ..) fun s eh hs => ?_
      grind [andThen_wf, State.kvChainLen_wf, State.kvNode_wf]

theorem State.kvDeletePlan_wf (hs : Memory.wf s.ms.mem) (w u1 d) : Memory.wf (s.kvDeletePlan w u1 d).1.ms.mem := by
  unfold State.kvDeletePlan
  refine andThen_wf (State.kvLookup_wf hs ..) fun s r hs => ?_
  cases r with
  | none => exact hs
  | some hit =>
    refine andThen_wf (State.kvEntry_wf hs ..) fun s e hs => ?_
    grind [andThen_wf, State.kvNode_wf]

theorem State.kvCheckWrites_wf (hs : Memory.wf s.ms.mem) (u1 ws) : Memory.wf (s.kvCheckWrites u1 ws).1.ms.mem := by
  induction ws generalizing s with
  | nil => exact hs
  | cons w ws ih =>
    unfold State.kvCheckWrites
    grind [State.translate_wf]

theorem State.kvWrite_wf (hs : Memory.wf s.ms.mem) (asid w) : Memory.wf (s.kvWrite asid w).1.ms.mem := by
  unfold State.kvWrite
  grind [State.perform_wf]

theorem State.setUpd_wf (hs : Memory.wf s.ms.mem) (u1 v) : Memory.wf (s.setUpd u1 v).ms.mem := by
  unfold State.setUpd
  grind

theorem State.kvPlace_wf (hs : Memory.wf s.ms.mem) (asid f line) : Memory.wf (s.kvPlace asid f line).1.ms.mem := by
  unfold State.kvPlace
  grind [State.addReq_wf]

theorem State.kvWriteStep_wf (hs : Memory.wf s.ms.mem) (u1 w ws) (ht : s.kvWriteStep u1 w ws = some u) : Memory.wf u.ms.mem := by
  unfold State.kvWriteStep at ht
  grind [State.setUpd_wf, State.kvWrite_wf, State.kvPlace_wf]

/-- What the update unit reads and checks before an update begins. -/
theorem State.kvPlans_wf (hs : Memory.wf s.ms.mem) (w up) : Memory.wf (andThen (s.kvDesc w up.desc.toNat) (fun s d =>
    andThen (if up.insert then s.kvInsertPlan w up d else s.kvDeletePlan w up d) (fun s ws =>
      andThen (s.kvCheckWrites up ws) (fun s _ => (s, .ok ws))))).1.ms.mem := by
  refine andThen_wf (State.kvDesc_wf hs ..) fun s d hs => andThen_wf ?_ fun s ws hs => andThen_wf (State.kvCheckWrites_wf hs ..) fun s _ hs => hs
  split
  · exact State.kvInsertPlan_wf hs ..
  · exact State.kvDeletePlan_wf hs ..

theorem State.kvStep_wf (hs : Memory.wf s.ms.mem) (up) (ht : s.kvStep up = some u) : Memory.wf u.ms.mem := by
  have hplan := State.kvPlans_wf hs (kvUnit up) up
  unfold State.kvStep at ht
  dsimp only at ht
  generalize andThen _ _ = r at ht hplan
  grind [State.setUpd_wf, State.takeTrap_wf, State.setCtx_wf, State.kvWriteStep_wf]

theorem execKvUpdate_wf (hs : Memory.wf s.ms.mem) (w) (ht : execKvUpdate w s = .next u) : Memory.wf u.ms.mem := by
  unfold execKvUpdate at ht
  grind [State.kvStep_wf]

/-- A quarantined node at its place, changed or taken out. -/
def State.putQuar (s : State) (i : Nat) (v : Option QNode) : State :=
  { s with kv := { s.kv with quar := s.kv.quar.take i ++ v.toList ++ s.kv.quar.drop (i + 1) } }

theorem State.putQuar_wf (hs : Memory.wf s.ms.mem) (i v) : Memory.wf (s.putQuar i v).ms.mem := hs

/-- A quarantined node held at a window keeps memory canonical. -/
theorem State.placedQuar_wf (hs : Memory.wf s.ms.mem) (i) (q : QNode) (f line) : Memory.wf (match s.kvPlace q.asid f line with
    | (s, some id) => s.putQuar i (some { q with held := some id })
    | (s, none) => s).ms.mem := by
  have hp := State.kvPlace_wf hs q.asid f line
  generalize s.kvPlace q.asid f line = r at hp
  obtain ⟨r, o⟩ := r
  cases o with
  | none => exact hp
  | some id => exact State.putQuar_wf hp ..

/-- A quarantined node's step by what its table is read as. -/
theorem State.quarStep_eq (s : State) (i : Nat) (q : QNode) : s.quarStep i q =
    (let w : KvWho := { asid := q.asid, dev := q.dev, who := fun _ => hubW, core := none, die := 2 }
    let placed (f line : Nat) (s : State) : State := match s.kvPlace q.asid f line with
      | (s, some id) => s.putQuar i (some { q with held := some id })
      | (s, none) => s
    if s.pt < q.due ∨ q.held.isSome then none
    else match s.kvDesc w q.desc.toNat with
      | (s, .hold) => some s
      | (s, .trap _) => some (s.putQuar i none)
      | (s, .ok d) =>
        match q.half with
        | none =>
          if !s.kvQuiet q.table ∨ s.kv.quar.any (fun r => r.table = q.table && r.half.isSome) then none
          else
            (match s.kvNode w d q.node with
             | (s, .ok o) =>
               let o' := putBits (putBits o 56 2 0) 96 16 d.ofree
               (match s.kvWrite q.asid { va := d.obase + 16 * q.node, bytes := kv16 o' } with
                | (s, .ok _ g) => some (s.putQuar i (some { q with half := some g }))
                | (s, .fault _ _ _ _) => some (s.putQuar i none)
                | (s, .window f _ line _) => some (placed f line s)
                | (s, _) => some s)
             | (s, .trap _) => some (s.putQuar i none)
             | (s, .hold) => some s)
        | some g =>
          if s.pt < g then none
          else match s.kvWrite q.asid { va := d.ptr + 36, bytes := leBytes 2 q.node } with
            | (s, .ok _ _) => some (s.putQuar i none)
            | (s, .fault _ _ _ _) => some (s.putQuar i none)
            | (s, .window f _ line _) => some (placed f line s)
            | (s, _) => some s) := rfl

theorem State.quarStep_wf (hs : Memory.wf s.ms.mem) (i q) (ht : s.quarStep i q = some u) : Memory.wf u.ms.mem := by
  rw [State.quarStep_eq] at ht
  have hplaced {r : State} (hr : Memory.wf r.ms.mem) := State.placedQuar_wf hr i q
  have hput {r : State} (hr : Memory.wf r.ms.mem) := State.putQuar_wf hr i
  grind [State.kvDesc_wf, State.kvNode_wf, State.kvWrite_wf]

theorem State.serveKvu_wf (hs : Memory.wf s.ms.mem) (id) (ht : s.serveKvu id = some u) : Memory.wf u.ms.mem := by
  unfold State.serveKvu at ht
  dsimp only at ht
  split at ht
  · cases ht
    have hup := State.setUpd_wf (withReqs_wf hs (s.ms.reqs.erase id))
    exact getD_wf (hup _ _) fun t ht => State.kvStep_wf (hup _ _) _ ht
  · split at ht
    · cases ht
      have hkv := withKv_wf (withReqs_wf hs (s.ms.reqs.erase id))
      exact getD_wf (hkv _) fun t ht => State.quarStep_wf (hkv _) _ _ ht
    · cases ht
      exact hs

theorem execQuarantineRelease_wf (hs : Memory.wf s.ms.mem) (i) (ht : execQuarantineRelease i s = .next u) : Memory.wf u.ms.mem := by
  unfold execQuarantineRelease at ht
  grind [State.quarStep_wf]

/-! ### Coll -/

theorem State.setColl_wf (hs : Memory.wf s.ms.mem) (x) : Memory.wf (s.setColl x).ms.mem := by
  unfold State.setColl
  grind

theorem State.tellRank_wf (hs : Memory.wf s.ms.mem) (x rank m) : Memory.wf (s.tellRank x rank m).ms.mem := by
  unfold State.tellRank
  grind [State.tell_wf]

theorem State.tellAll_wf (hs : Memory.wf s.ms.mem) (x m) : Memory.wf (s.tellAll x m).ms.mem := by
  unfold State.tellAll
  grind [foldl_wf, State.tellRank_wf]

theorem State.collReport_wf (hs : Memory.wf s.ms.mem) (x) : Memory.wf (s.collReport x).ms.mem := by
  unfold State.collReport
  grind [State.setColl_wf, State.tellRank_wf]

theorem State.collAbort_wf (hs : Memory.wf s.ms.mem) (id qual seq cid) : Memory.wf (s.collAbort id qual seq cid).ms.mem := by
  unfold State.collAbort
  grind [State.drawBytes_wf, State.engReq_wf, State.setOp_wf]

theorem State.collFault_wf (hs : Memory.wf s.ms.mem) (id x f aux line) : Memory.wf (s.collFault id x f aux line).ms.mem := by
  unfold State.collFault
  grind [State.drawBytes_wf, State.engReq_wf, State.setOp_wf, State.setColl_wf, State.tellRank_wf]

theorem State.readRuns_wf (hs : Memory.wf s.ms.mem) (w ptr n k i acc) : Memory.wf (s.readRuns w ptr n k i acc).1.ms.mem := by
  induction k generalizing s i acc with
  | zero => exact hs
  | succ k ih =>
    unfold State.readRuns
    split
    · exact hs
    · exact andThen_wf (State.kvRd_wf hs ..) fun s x hs => ih hs ..

theorem State.readComm_wf (hs : Memory.wf s.ms.mem) (x b ptr) : Memory.wf (s.readComm x b ptr).1.ms.mem := by
  unfold State.readComm
  refine andThen_wf (State.kvRd_wf hs ..) fun s head hs => ?_
  dsimp only
  split
  · exact hs
  · split
    · exact hs
    · exact andThen_wf (State.readRuns_wf hs ..) fun s tail hs => hs

theorem State.collStart_wf (hs : Memory.wf s.ms.mem) (blk b q m) : Memory.wf (s.collStart blk b q m).ms.mem := by
  unfold State.collStart
  grind [State.addOp_wf, State.collAbort_wf, State.setColl_wf, State.tellAll_wf, State.engReq_wf]

theorem execColl_wf (hs : Memory.wf s.ms.mem) (o chg kd op ct wcls sig e) (ht : execColl o chg kd op ct wcls sig e s = .next u) :
    Memory.wf u.ms.mem := by
  refine State.issue_wf hs (fun s x hs => ?_) _ _ ht
  have htrap (i) : Memory.wf (s.trapAt x i).ms.mem := State.trapAt_wf hs x i
  have hhold (w) : Memory.wf (s.holdAs x w).ms.mem := State.holdAs_wf hs x w
  beta_reduce
  split
  · exact htrap _
  · next b _ =>
    extract_lets imm n q
    clear_value q
    split
    · exact htrap _
    · split
      · exact hhold _
      · split
        · exact hhold _
        · have hread := State.readComm_wf hs x b q.b.toNat
          generalize s.readComm x b q.b.toNat = r at hread
          grind [State.trapAt_wf, State.holdAs_wf, State.collStart_wf, State.clearDisc_wf, State.retire_wf]

theorem State.collGathered_wf (hs : Memory.wf s.ms.mem) (x own) : Memory.wf (s.collGathered x own).ms.mem := by
  unfold State.collGathered
  grind [foldl_wf, State.tellRank_wf, State.collReport_wf]

theorem State.collReadStep_wf (hs : Memory.wf s.ms.mem) (rid id r o pace) {y} (ht : s.collReadStep rid id r o pace = some (u, y))
    : Memory.wf u.ms.mem := by
  unfold State.collReadStep at ht
  grind [State.engReach_wf, State.collFault_wf, State.setOp_wf, State.goOn_wf, State.collGathered_wf]

theorem State.collSignal_wf (hs : Memory.wf s.ms.mem) (id r o pace) {y} (ht : s.collSignal id r o pace = some (u, y)) : Memory.wf u.ms.mem := by
  unfold State.collSignal at ht
  grind [State.engReach_wf, State.engDone_wf, State.setOp_wf]

theorem State.collResults_wf (hs : Memory.wf s.ms.mem) (id x) : Memory.wf (s.collResults id x).ms.mem := by
  unfold State.collResults
  grind [State.drawBytes_wf, State.engReq_wf, State.setOp_wf]

theorem State.collRefuse_wf (hs : Memory.wf s.ms.mem) (c src q) : Memory.wf (s.collRefuse c src q).ms.mem := by
  unfold State.collRefuse
  grind [State.tell_wf]

theorem execCollData_wf (hs : Memory.wf s.ms.mem) (c rank m) (ht : execCollData c rank m s = .next u) : Memory.wf u.ms.mem := by
  unfold execCollData at ht
  grind [State.collRefuse_wf, State.collReport_wf, State.setColl_wf]

theorem State.collReadyAt_wf (hs : Memory.wf s.ms.mem) (c rank) (ht : s.collReadyAt c rank = .next u) : Memory.wf u.ms.mem := by
  unfold State.collReadyAt at ht
  grind [State.setColl_wf]

theorem execCollReady_wf (hs : Memory.wf s.ms.mem) (c rank) (ht : execCollReady c rank s = .next u) : Memory.wf u.ms.mem := by
  unfold execCollReady at ht
  grind [State.collRefuse_wf, State.collReadyAt_wf]

theorem State.collCommitAt_wf (hs : Memory.wf s.ms.mem) (c) (ht : s.collCommitAt c = .next u) : Memory.wf u.ms.mem := by
  unfold State.collCommitAt at ht
  grind [State.tellAll_wf, State.collResults_wf, State.setColl_wf]

theorem execCollCommit_wf (hs : Memory.wf s.ms.mem) (c) (ht : execCollCommit c s = .next u) : Memory.wf u.ms.mem := by
  unfold execCollCommit at ht
  grind [State.collCommitAt_wf, State.collRefuse_wf]

theorem State.collDecide_wf (hs : Memory.wf s.ms.mem) (x qual) : Memory.wf (s.collDecide x qual).ms.mem := by
  unfold State.collDecide
  grind [State.setColl_wf, State.tellAll_wf, State.collAbort_wf]

theorem State.collAbortAt_wf (hs : Memory.wf s.ms.mem) (c qual) (ht : s.collAbortAt c qual = .next u) : Memory.wf u.ms.mem := by
  unfold State.collAbortAt at ht
  grind [State.collDecide_wf]

theorem execCollAbortDecision_wf (hs : Memory.wf s.ms.mem) (c qual) (ht : execCollAbortDecision c qual s = .next u) : Memory.wf u.ms.mem := by
  unfold execCollAbortDecision at ht
  grind [State.collAbortAt_wf, State.collRefuse_wf]

theorem execCollAbortRequest_wf (hs : Memory.wf s.ms.mem) (c qual) (ht : execCollAbortRequest c qual s = .next u) : Memory.wf u.ms.mem := by
  unfold execCollAbortRequest at ht
  grind [State.collDecide_wf, State.setColl_wf]

theorem execCollDeadline_wf (hs : Memory.wf s.ms.mem) (c) (ht : execCollDeadline c s = .next u) : Memory.wf u.ms.mem := by
  unfold execCollDeadline at ht
  grind [State.setColl_wf, State.tellRank_wf]

theorem execCollNodecision_wf (hs : Memory.wf s.ms.mem) (c) (ht : execCollNodecision c s = .next u) : Memory.wf u.ms.mem := by
  unfold execCollNodecision at ht
  grind [State.collDecide_wf]

theorem State.collKill_wf (hs : Memory.wf s.ms.mem) (dead) : Memory.wf (s.collKill dead).ms.mem := by
  unfold State.collKill
  grind [foldl_wf, State.tellAll_wf, State.tellRank_wf]

theorem State.collRefusal_wf (hs : Memory.wf s.ms.mem) (c cause qual) : Memory.wf (s.collRefusal c cause qual).ms.mem := by
  unfold State.collRefusal
  grind [State.collFault_wf]

theorem State.collSpoil_wf (hs : Memory.wf s.ms.mem) (c) : Memory.wf (s.collSpoil c).ms.mem := by
  unfold State.collSpoil
  grind [State.setOp_wf]

/-! ### Int -/

theorem execAdd_wf (hs : Memory.wf s.ms.mem) (o t sat) (ht : execAdd o t sat s = .next u) : Memory.wf u.ms.mem := by
  unfold execAdd at ht
  grind [State.lanewise_wf]

theorem execSub_wf (hs : Memory.wf s.ms.mem) (o t sat) (ht : execSub o t sat s = .next u) : Memory.wf u.ms.mem := by
  unfold execSub at ht
  grind [State.lanewise_wf]

theorem execMul_wf (hs : Memory.wf s.ms.mem) (o t sat) (ht : execMul o t sat s = .next u) : Memory.wf u.ms.mem := by
  unfold execMul at ht
  grind [State.lanewise_wf]

theorem execMulhi_wf (hs : Memory.wf s.ms.mem) (o t) (ht : execMulhi o t s = .next u) : Memory.wf u.ms.mem := by
  unfold execMulhi at ht
  grind [State.lanewise_wf]

theorem execMad_wf (hs : Memory.wf s.ms.mem) (o t sat) (ht : execMad o t sat s = .next u) : Memory.wf u.ms.mem := by
  unfold execMad at ht
  grind [State.lanewise_wf]

theorem execDiv_wf (hs : Memory.wf s.ms.mem) (o t) (ht : execDiv o t s = .next u) : Memory.wf u.ms.mem := by
  unfold execDiv at ht
  grind [State.lanewiseVar_wf]

theorem execRem_wf (hs : Memory.wf s.ms.mem) (o t) (ht : execRem o t s = .next u) : Memory.wf u.ms.mem := by
  unfold execRem at ht
  grind [State.lanewiseVar_wf]

theorem execMin_wf (hs : Memory.wf s.ms.mem) (o t) (ht : execMin o t s = .next u) : Memory.wf u.ms.mem := by
  unfold execMin at ht
  grind [State.lanewise_wf]

theorem execMax_wf (hs : Memory.wf s.ms.mem) (o t) (ht : execMax o t s = .next u) : Memory.wf u.ms.mem := by
  unfold execMax at ht
  grind [State.lanewise_wf]

theorem execAbs_wf (hs : Memory.wf s.ms.mem) (o t sat) (ht : execAbs o t sat s = .next u) : Memory.wf u.ms.mem := by
  unfold execAbs at ht
  grind [State.lanewise_wf]

theorem execNeg_wf (hs : Memory.wf s.ms.mem) (o t sat) (ht : execNeg o t sat s = .next u) : Memory.wf u.ms.mem := by
  unfold execNeg at ht
  grind [State.lanewise_wf]

theorem execAnd_wf (hs : Memory.wf s.ms.mem) (o t) (ht : execAnd o t s = .next u) : Memory.wf u.ms.mem := by
  unfold execAnd at ht
  grind [State.lanewise_wf]

theorem execOr_wf (hs : Memory.wf s.ms.mem) (o t) (ht : execOr o t s = .next u) : Memory.wf u.ms.mem := by
  unfold execOr at ht
  grind [State.lanewise_wf]

theorem execXor_wf (hs : Memory.wf s.ms.mem) (o t) (ht : execXor o t s = .next u) : Memory.wf u.ms.mem := by
  unfold execXor at ht
  grind [State.lanewise_wf]

theorem execNot_wf (hs : Memory.wf s.ms.mem) (o t) (ht : execNot o t s = .next u) : Memory.wf u.ms.mem := by
  unfold execNot at ht
  grind [State.lanewise_wf]

theorem execShl_wf (hs : Memory.wf s.ms.mem) (o t) (ht : execShl o t s = .next u) : Memory.wf u.ms.mem := by
  unfold execShl at ht
  grind [State.lanewise_wf]

theorem execShr_wf (hs : Memory.wf s.ms.mem) (o t) (ht : execShr o t s = .next u) : Memory.wf u.ms.mem := by
  unfold execShr at ht
  grind [State.lanewise_wf]

theorem execSar_wf (hs : Memory.wf s.ms.mem) (o t) (ht : execSar o t s = .next u) : Memory.wf u.ms.mem := by
  unfold execSar at ht
  grind [State.lanewise_wf]

theorem execRol_wf (hs : Memory.wf s.ms.mem) (o t) (ht : execRol o t s = .next u) : Memory.wf u.ms.mem := by
  unfold execRol at ht
  grind [State.lanewise_wf]

theorem execRor_wf (hs : Memory.wf s.ms.mem) (o t) (ht : execRor o t s = .next u) : Memory.wf u.ms.mem := by
  unfold execRor at ht
  grind [State.lanewise_wf]

theorem execBfx_wf (hs : Memory.wf s.ms.mem) (o t) (ht : execBfx o t s = .next u) : Memory.wf u.ms.mem := by
  unfold execBfx at ht
  grind [State.lanewise_wf]

theorem execBfi_wf (hs : Memory.wf s.ms.mem) (o t) (ht : execBfi o t s = .next u) : Memory.wf u.ms.mem := by
  unfold execBfi at ht
  grind [State.lanewise_wf]

theorem execPopc_wf (hs : Memory.wf s.ms.mem) (o t) (ht : execPopc o t s = .next u) : Memory.wf u.ms.mem := by
  unfold execPopc at ht
  grind [State.lanewise_wf]

theorem execClz_wf (hs : Memory.wf s.ms.mem) (o t) (ht : execClz o t s = .next u) : Memory.wf u.ms.mem := by
  unfold execClz at ht
  grind [State.lanewise_wf]

theorem execCtz_wf (hs : Memory.wf s.ms.mem) (o t) (ht : execCtz o t s = .next u) : Memory.wf u.ms.mem := by
  unfold execCtz at ht
  grind [State.lanewise_wf]

theorem execBrev_wf (hs : Memory.wf s.ms.mem) (o t) (ht : execBrev o t s = .next u) : Memory.wf u.ms.mem := by
  unfold execBrev at ht
  grind [State.lanewise_wf]

theorem execSel_wf (hs : Memory.wf s.ms.mem) (o t) (ht : execSel o t s = .next u) : Memory.wf u.ms.mem := by
  unfold execSel at ht
  grind [State.lanewise_wf]

theorem execMov_wf (hs : Memory.wf s.ms.mem) (o t) (ht : execMov o t s = .next u) : Memory.wf u.ms.mem := by
  unfold execMov at ht
  grind [State.lanewise_wf]

theorem execLea_wf (hs : Memory.wf s.ms.mem) (o t sh) (ht : execLea o t sh s = .next u) : Memory.wf u.ms.mem := by
  unfold execLea at ht
  grind [State.lanewise_wf]

theorem execCmp_wf (hs : Memory.wf s.ms.mem) (o t cc) (ht : execCmp o t cc s = .next u) : Memory.wf u.ms.mem := by
  unfold execCmp at ht
  grind [State.lanewise_wf]

theorem execPand_wf (hs : Memory.wf s.ms.mem) (o nb) (ht : execPand o nb s = .next u) : Memory.wf u.ms.mem := by
  unfold execPand at ht
  grind [State.lanewise_wf]

theorem execPor_wf (hs : Memory.wf s.ms.mem) (o nb) (ht : execPor o nb s = .next u) : Memory.wf u.ms.mem := by
  unfold execPor at ht
  grind [State.lanewise_wf]

theorem execPxor_wf (hs : Memory.wf s.ms.mem) (o nb) (ht : execPxor o nb s = .next u) : Memory.wf u.ms.mem := by
  unfold execPxor at ht
  grind [State.lanewise_wf]

theorem execPnot_wf (hs : Memory.wf s.ms.mem) (o) (ht : execPnot o s = .next u) : Memory.wf u.ms.mem := by
  unfold execPnot at ht
  grind [State.lanewise_wf]

theorem execIxset_wf (hs : Memory.wf s.ms.mem) (o) (ht : execIxset o s = .next u) : Memory.wf u.ms.mem := by
  unfold execIxset at ht
  grind [foldl_wf, State.issue_wf, State.retire_wf]

theorem execIxinc_wf (hs : Memory.wf s.ms.mem) (o) (ht : execIxinc o s = .next u) : Memory.wf u.ms.mem := by
  unfold execIxinc at ht
  grind [foldl_wf, State.issue_wf, State.retire_wf]

theorem execIxget_wf (hs : Memory.wf s.ms.mem) (o) (ht : execIxget o s = .next u) : Memory.wf u.ms.mem := by
  unfold execIxget at ht
  grind [State.lanewise_wf]

theorem execRgrow_wf (hs : Memory.wf s.ms.mem) (o) (ht : execRgrow o s = .next u) : Memory.wf u.ms.mem := by
  unfold execRgrow at ht
  grind [State.issue_wf, State.holdAs_wf, State.retire_wf]

theorem execRshrink_wf (hs : Memory.wf s.ms.mem) (o) (ht : execRshrink o s = .next u) : Memory.wf u.ms.mem := by
  unfold execRshrink at ht
  grind [State.issue_wf, State.holdAs_wf, State.retire_wf]

/-! ### Matrix -/

theorem State.countMiss_wf (hs : Memory.wf s.ms.mem) (cid) : Memory.wf (s.countMiss cid).ms.mem := by
  unfold State.countMiss
  grind [State.setCtx_wf]

/-- A piece read keeps memory canonical. -/
theorem MaRead.piece_wf {r : MaRead} (hr : Memory.wf r.s.ms.mem) (x blk ptr n) : Memory.wf (r.piece x blk ptr n).s.ms.mem := by
  unfold MaRead.piece
  grind [State.performPart_wf, State.countMiss_wf]

theorem MaRead.span_wf {r : MaRead} (hr : Memory.wf r.s.ms.mem) (x blk ptr n) : Memory.wf (r.span x blk ptr n).s.ms.mem := by
  unfold MaRead.span
  dsimp only
  generalize piecesOf _ _ ptr n = ps
  induction ps generalizing r with
  | nil => exact hr
  | cons p ps ih => exact ih (MaRead.piece_wf hr x blk p.1 p.2)

/-- Spans read one after another keep memory canonical. -/
theorem spans_wf {α : Type} (x blk) (f : α → Nat × Nat) (as : List α) {r : MaRead} (hr : Memory.wf r.s.ms.mem) :
    Memory.wf (as.foldl (fun r p => r.span x blk (f p).1 (f p).2) r).s.ms.mem := by
  induction as generalizing r with
  | nil => exact hr
  | cons a as ih => exact ih (MaRead.span_wf hr x blk _ _)

theorem MJob.run_wf (hs : Memory.wf s.ms.mem) (j x blk ps memo us) : Memory.wf (MJob.run j x blk ps s memo us).1.ms.mem := by
  induction ps generalizing s memo us with
  | nil => exact hs
  | cons p ps ih =>
    obtain ⟨b, m, first⟩ := p
    have hread := spans_wf x blk id (j.spans b m first) (r := { s := s, memo := memo }) hs
    unfold MJob.run
    dsimp only
    split
    · exact hread
    · split
      · exact hread
      · exact ih hread _ _

theorem State.matIssue_wf (hs : Memory.wf s.ms.mem) {body : State → Iss → Block → State} (hbody : ∀ s a b, Memory.wf s.ms.mem → Memory.wf
    (body s a b).ms.mem) (i tiles) (ht : s.matIssue i tiles body = .next u) : Memory.wf u.ms.mem := by
  unfold State.matIssue at ht
  grind [State.issue_wf, State.trapAt_wf, State.holdAs_wf]

theorem State.countMacs_wf (hs : Memory.wf s.ms.mem) (cid n) : Memory.wf (s.countMacs cid n).ms.mem := by
  unfold State.countMacs
  grind [State.setCtx_wf]

theorem State.matRun_wf (hs : Memory.wf s.ms.mem) (x b j) : Memory.wf (s.matRun x b j).ms.mem := by
  unfold State.matRun
  grind [foldl_wf, MJob.run_wf, State.holdAs_wf, State.trapAt_wf, State.countMacs_wf, State.setBlk_wf, State.pend_wf]

theorem State.matMul_wf (hs : Memory.wf s.ms.mem) (i k o fa fb tile z) (ht : s.matMul i k o fa fb tile z = .next u) : Memory.wf u.ms.mem := by
  unfold State.matMul at ht
  grind [State.matIssue_wf, State.trapAt_wf, State.holdAs_wf, State.matRun_wf]

theorem execMma_wf (hs : Memory.wf s.ms.mem) (o fa fb tile z) (ht : execMma o fa fb tile z s = .next u) : Memory.wf u.ms.mem := by
  unfold execMma at ht
  grind [State.matMul_wf]

theorem execMmas_wf (hs : Memory.wf s.ms.mem) (o fa fb tile z mx) (ht : execMmas o fa fb tile z mx s = .next u) : Memory.wf u.ms.mem := by
  unfold execMmas at ht
  grind [State.matMul_wf]

theorem execMmx_wf (hs : Memory.wf s.ms.mem) (o fa fb tile z) (ht : execMmx o fa fb tile z s = .next u) : Memory.wf u.ms.mem := by
  unfold execMmx at ht
  grind [State.matMul_wf]

theorem State.resolve_wf (hs : Memory.wf s.ms.mem) (x ptr seq ls acc) : Memory.wf (s.resolve x ptr seq ls acc).1.ms.mem := by
  induction ls generalizing s acc with
  | nil => exact hs
  | cons l ls ih =>
    unfold State.resolve
    exact andThen_wf (State.kvFind_wf hs ..) fun s r hs => by grind

theorem State.mmtKeys_wf (hs : Memory.wf s.ms.mem) (x t r) : Memory.wf (s.mmtKeys x t r).1.ms.mem := by
  unfold State.mmtKeys
  dsimp only
  split
  · exact hs
  · split
    · exact hs
    · exact andThen_wf (State.kvDesc_wf hs ..) fun s d hs => andThen_wf (State.resolve_wf hs ..) fun s ps hs => hs

theorem execMmt_wf (hs : Memory.wf s.ms.mem) (o fa fb tile z) (ht : execMmt o fa fb tile z s = .next u) : Memory.wf u.ms.mem := by
  refine State.matIssue_wf hs (fun s x b hs => ?_) _ _ ht
  have htrap (i) : Memory.wf (s.trapAt x i).ms.mem := State.trapAt_wf hs x i
  dsimp only
  split
  · exact htrap _
  · split
    · exact htrap _
    · split
      · exact htrap _
      · next tr _ =>
        split
        · exact htrap _
        · split
          · exact State.holdAs_wf hs ..
          · have hkeys := State.mmtKeys_wf hs x tr (arecOf x.arec)
            generalize s.mmtKeys x tr (arecOf x.arec) = r at hkeys
            have hdone := State.lookDone_wf hkeys x
            grind [State.lookHold_wf, State.trapAt_wf, State.matRun_wf]

theorem execAccClr_wf (hs : Memory.wf s.ms.mem) (o tiles) (ht : execAccClr o tiles s = .next u) : Memory.wf u.ms.mem := by
  unfold execAccClr at ht
  grind [State.matIssue_wf, State.pend_wf, State.setBlk_wf]

theorem execAccIn_wf (hs : Memory.wf s.ms.mem) (o t tile) (ht : execAccIn o t tile s = .next u) : Memory.wf u.ms.mem := by
  unfold execAccIn at ht
  refine State.matIssue_wf hs (fun s x b hs => ?_) _ _ ht
  dsimp only
  split
  · exact State.trapAt_wf hs ..
  · split
    · exact State.holdAs_wf hs ..
    · have hread := spans_wf x b (fun i => (x.s64 s .a + i * x.s64 s .b, 64 * t.size)) (List.range 64) (r := { s := s, memo := [] }) hs
      generalize List.foldl _ ({ s := s, memo := [] } : MaRead) (List.range 64) = r at hread ⊢
      split
      · exact State.holdAs_wf hread ..
      · split
        · exact State.trapAt_wf hread ..
        · exact State.pend_wf (State.setBlk_wf hread ..) ..

theorem State.accIssue_wf (hs : Memory.wf s.ms.mem) (x es sr) : Memory.wf (s.accIssue x es sr).ms.mem := by
  unfold State.accIssue
  grind [foldl_wf, State.dropL1_wf, State.setCtx_wf]

theorem execAccOut_wf (hs : Memory.wf s.ms.mem) (o t rm tile) (ht : execAccOut o t rm tile s = .next u) : Memory.wf u.ms.mem := by
  unfold execAccOut at ht
  grind [State.matIssue_wf, State.trapAt_wf, State.holdAs_wf, State.clearDisc_wf, State.accIssue_wf]

theorem execAccCvt_wf (hs : Memory.wf s.ms.mem) (o kd rm tile sh) (ht : execAccCvt o kd rm tile sh s = .next u) : Memory.wf u.ms.mem := by
  unfold execAccCvt at ht
  grind [State.matIssue_wf, State.pend_wf]

theorem execMrpRd_wf (hs : Memory.wf s.ms.mem) (o) (ht : execMrpRd o s = .next u) : Memory.wf u.ms.mem := by
  unfold execMrpRd at ht
  grind [State.issue_wf, State.retire_wf, State.holdAs_wf, State.pend_wf]

theorem execMrpWr_wf (hs : Memory.wf s.ms.mem) (o) (ht : execMrpWr o s = .next u) : Memory.wf u.ms.mem := by
  unfold execMrpWr at ht
  grind [State.issue_wf, State.retire_wf, State.holdAs_wf, State.trapAt_wf, State.setBlk_wf]

/-! ### System -/

theorem execTrap_wf (hs : Memory.wf s.ms.mem) (o c q) (ht : execTrap o c q s = .next u) : Memory.wf u.ms.mem := by
  unfold execTrap at ht
  grind [State.issue_wf, State.trapAt_wf]

theorem execSvc_wf (hs : Memory.wf s.ms.mem) (o n) (ht : execSvc o n s = .next u) : Memory.wf u.ms.mem := by
  unfold execSvc at ht
  grind [State.issue_wf, State.trapAt_wf]

theorem execBrk_wf (hs : Memory.wf s.ms.mem) (o n) (ht : execBrk o n s = .next u) : Memory.wf u.ms.mem := by
  unfold execBrk at ht
  grind [State.issue_wf, State.trapAt_wf]

theorem State.skipMrp_wf (hs : Memory.wf s.ms.mem) (cid sp) : Memory.wf (s.skipMrp cid sp).ms.mem := by
  unfold State.skipMrp
  grind [State.setBlk_wf]

theorem State.tresume_wf (hs : Memory.wf s.ms.mem) (tok mode mask g) : Memory.wf (s.tresume tok mode mask g).1.ms.mem := by
  unfold State.tresume
  grind [State.tell_wf, State.returnFromTrap_wf, State.skipMrp_wf]

theorem State.peerTresume_wf (hs : Memory.wf s.ms.mem) (tok mode mask g) : Memory.wf (s.peerTresume tok mode mask g).ms.mem := by
  unfold State.peerTresume
  grind [State.tresume_wf]

theorem execTresume_wf (hs : Memory.wf s.ms.mem) (o e) (ht : execTresume o e s = .next u) : Memory.wf u.ms.mem := by
  unfold execTresume at ht
  grind [State.issue_wf, State.trapAt_wf, State.holdAs_wf, State.tresume_wf, State.retire_wf]

theorem execWrpriv_wf (hs : Memory.wf s.ms.mem) (o num) (ht : execWrpriv o num s = .next u) : Memory.wf u.ms.mem := by
  unfold execWrpriv at ht
  grind [State.issue_wf, State.retire_wf]

theorem execRdpriv_wf (hs : Memory.wf s.ms.mem) (o num) (ht : execRdpriv o num s = .next u) : Memory.wf u.ms.mem := by
  unfold execRdpriv at ht
  grind [State.issue_wf, State.pend_wf]

theorem execRdctr_wf (hs : Memory.wf s.ms.mem) (o n) (ht : execRdctr o n s = .next u) : Memory.wf u.ms.mem := by
  unfold execRdctr at ht
  grind [State.issue_wf, State.pend_wf]

/-! ### Tier -/

theorem execTierHint_wf (hs : Memory.wf s.ms.mem) (o) (ht : execTierHint o s = .next u) : Memory.wf u.ms.mem := by
  unfold execTierHint at ht
  grind [State.issue_wf, State.trapAt_wf, State.holdAs_wf, State.retire_wf]

theorem State.pinReq_wf (hs : Memory.wf s.ms.mem) (x va kind) : Memory.wf (s.pinReq x va kind).1.ms.mem := by
  unfold State.pinReq
  grind [State.addReq_wf]

theorem State.pinReqs_wf (hs : Memory.wf s.ms.mem) (x ls done ids) : Memory.wf (s.pinReqs x ls done ids).1.ms.mem := by
  induction ls generalizing s done ids with
  | nil => exact hs
  | cons l ls ih =>
    unfold State.pinReqs
    grind [State.pinReq_wf]

theorem State.pinWait_wf (hs : Memory.wf s.ms.mem) (x ids ptrs) : Memory.wf (s.pinWait x ids ptrs).ms.mem := by
  unfold State.pinWait
  grind [State.setCtx_wf]

theorem State.tierAccess_wf (hs : Memory.wf s.ms.mem) (i o pin) (ht : s.tierAccess i o pin = .next u) : Memory.wf u.ms.mem := by
  unfold State.tierAccess at ht
  grind [State.issue_wf, State.trapAt_wf, State.holdAs_wf, State.pinReqs_wf, State.clearDisc_wf, State.pinWait_wf]

theorem execTierPin_wf (hs : Memory.wf s.ms.mem) (o) (ht : execTierPin o s = .next u) : Memory.wf u.ms.mem := by
  unfold execTierPin at ht
  grind [State.tierAccess_wf]

theorem execTierUnpin_wf (hs : Memory.wf s.ms.mem) (o) (ht : execTierUnpin o s = .next u) : Memory.wf u.ms.mem := by
  unfold execTierUnpin at ht
  grind [State.tierAccess_wf]

theorem execTierQuery_wf (hs : Memory.wf s.ms.mem) (o) (ht : execTierQuery o s = .next u) : Memory.wf u.ms.mem := by
  unfold execTierQuery at ht
  grind [State.issue_wf, State.holdAs_wf, State.pend_wf]

theorem State.takeFrame_wf (hs : Memory.wf s.ms.mem) (v t asid n) : Memory.wf (s.takeFrame v t asid n).1.ms.mem := by
  induction n generalizing s with
  | zero => exact hs
  | succ n ih =>
    unfold State.takeFrame
    grind [State.setFld_wf, State.postComp_wf]

theorem State.startMig_wf (hs : Memory.wf s.ms.mem) (h t e dst) : Memory.wf (s.startMig h t e dst).ms.mem := by
  rw [State.startMig]
  grind [foldl_wf, State.physWr_wf, State.usedAdd_wf, State.writeBack_wf]

theorem State.pinEnd_wf (hs : Memory.wf s.ms.mem) (h st) : Memory.wf (s.pinEnd h st).ms.mem := by
  unfold State.pinEnd
  grind

theorem State.hintStep_wf (hs : Memory.wf s.ms.mem) (h t e) : Memory.wf (s.hintStep h t e).ms.mem := by
  unfold State.hintStep
  grind [State.takeFrame_wf, State.startMig_wf]

theorem State.useLeaf_wf (hs : Memory.wf s.ms.mem) (h t) : Memory.wf (s.useLeaf h t).1.ms.mem := by
  unfold State.useLeaf
  grind [State.walk_wf]

/-- What becomes of a pin keeps memory canonical. -/
theorem State.pinStep_wf (hs : Memory.wf s.ms.mem) (h t) (ht : s.pinStep h t = .over u) : Memory.wf u.ms.mem := by
  unfold State.pinStep at ht
  dsimp only at ht
  split at ht
  · cases ht
    exact State.pinEnd_wf hs ..
  · split at ht
    · cases ht
      exact State.pinEnd_wf hs ..
    · split at ht
      · cases ht
        exact State.pinEnd_wf hs ..
      · have hleaf := State.useLeaf_wf hs h t
        have hwr := State.physWr_wf hleaf t.leafPA (leBytes 8 ((s.useLeaf h t).2 ||| 0x80))
        split at ht
        · split at ht
          · cases ht
            exact hleaf
          · cases ht
        · split at ht
          · cases ht
            exact State.pinEnd_wf hwr ..
          · grind [State.pinEnd_wf, State.takeFrame_wf, State.useLeaf_wf, State.startMig_wf]

theorem State.migLook_wf (hs : Memory.wf s.ms.mem) (h) (ht : s.migLook h = .over u) : Memory.wf u.ms.mem := by
  unfold State.migLook at ht
  split at ht
  · cases ht
  · cases ht
    exact State.pinEnd_wf hs ..
  · split at ht
    · exact State.pinStep_wf hs _ _ ht
    · cases ht
      exact State.hintStep_wf hs ..

theorem execMigAccept_wf (hs : Memory.wf s.ms.mem) (ht : execMigAccept s = .next u) : Memory.wf u.ms.mem := by
  unfold execMigAccept at ht
  split at ht
  · cases ht
  · dsimp only at ht
    split at ht
    · next hlook =>
      cases ht
      refine State.migLook_wf ?_ _ hlook
      exact hs
    · cases ht
      exact hs
    · cases ht

theorem State.pinRetry_wf (hs : Memory.wf s.ms.mem) (before hints) (ht : s.pinRetry before hints = some u) : Memory.wf u.ms.mem := by
  induction hints generalizing before with
  | nil => cases before <;> cases ht
  | cons h rest ih =>
    unfold State.pinRetry at ht
    split at ht
    · next hlook =>
      cases ht
      refine State.migLook_wf ?_ _ hlook
      exact hs
    · exact ih _ ht

theorem execPinRetry_wf (hs : Memory.wf s.ms.mem) (ht : execPinRetry s = .next u) : Memory.wf u.ms.mem := by
  unfold execPinRetry at ht
  grind [State.pinRetry_wf]

theorem State.unpinStep_wf (hs : Memory.wf s.ms.mem) (r) : Memory.wf (s.unpinStep r).1.ms.mem := by
  unfold State.unpinStep
  grind [State.walk_wf, State.physWr_wf]

theorem State.setFwd_wf (hs : Memory.wf s.ms.mem) (i f) : Memory.wf (s.setFwd i f).ms.mem := by
  unfold State.setFwd
  grind

theorem State.carryPoison_wf (hs : Memory.wf s.ms.mem) (src dst n) : Memory.wf (s.carryPoison src dst n).ms.mem := by
  unfold State.carryPoison
  grind [foldl_wf, State.setPoison_wf]

theorem State.poisonOff_wf (hs : Memory.wf s.ms.mem) (dev line n) : Memory.wf (s.poisonOff dev line n).ms.mem := by
  unfold State.poisonOff
  grind [foldl_wf, State.poisonLine_wf]

theorem execChunkCopy_wf (hs : Memory.wf s.ms.mem) (f) (ht : execChunkCopy f s = .next u) : Memory.wf u.ms.mem := by
  unfold execChunkCopy at ht
  grind [State.poisonOff_wf, State.carryPoison_wf, State.wrBytes_wf, State.setFwd_wf]

theorem State.handLine_wf (hs : Memory.wf s.ms.mem) (v a b) : Memory.wf (s.handLine v a b).ms.mem := by
  unfold State.handLine
  grind [State.setDir_wf]

theorem State.handWatch_wf (hs : Memory.wf s.ms.mem) (src dst) : Memory.wf (s.handWatch src dst).ms.mem := by
  unfold State.handWatch
  grind [foldl_wf]

theorem State.releaseWindow_wf (hs : Memory.wf s.ms.mem) (f) : Memory.wf (s.releaseWindow f).ms.mem := by
  unfold State.releaseWindow
  grind [foldl_wf]

theorem execCatchSwap_wf (hs : Memory.wf s.ms.mem) (f) (ht : execCatchSwap f s = .next u) : Memory.wf u.ms.mem := by
  unfold execCatchSwap at ht
  grind [foldl_wf, State.carryPoison_wf, State.dirtyLog_wf, State.physWr_wf, State.handLine_wf, State.usedAdd_wf, State.handWatch_wf,
    State.setFwd_wf, State.releaseWindow_wf, State.pinsDone_wf]

theorem execCatchTimeout_wf (hs : Memory.wf s.ms.mem) (f) (ht : execCatchTimeout f s = .next u) : Memory.wf u.ms.mem := by
  unfold execCatchTimeout at ht
  grind [State.releaseWindow_wf, State.setFwd_wf, State.abandon_wf]

theorem execCatchRetry_wf (hs : Memory.wf s.ms.mem) (f) (ht : execCatchRetry f s = .next u) : Memory.wf u.ms.mem := by
  unfold execCatchRetry at ht
  grind [State.setFwd_wf]

theorem execMigRetire_wf (hs : Memory.wf s.ms.mem) (f) (ht : execMigRetire f s = .next u) : Memory.wf u.ms.mem := by
  unfold execMigRetire at ht
  grind [State.postComp_wf, State.dropFwd_wf]

/-! ### Launch -/

theorem State.queueEvent_wf (hs : Memory.wf s.ms.mem) (q ev code qual index) : Memory.wf (s.queueEvent q ev code qual index).ms.mem := by
  unfold State.queueEvent
  grind [State.setReg_wf, State.setFld_wf, State.interrupt_wf]

theorem State.queueStop_wf (hs : Memory.wf s.ms.mem) (q) : Memory.wf (s.queueStop q).ms.mem := by
  unfold State.queueStop
  grind [State.setFld_wf]

theorem State.ringFault_wf (hs : Memory.wf s.ms.mem) (q c qual index) : Memory.wf (s.ringFault q c qual index).ms.mem := by
  unfold State.ringFault
  grind [State.queueEvent_wf, State.queueStop_wf]

theorem execQcfgWrite_wf (hs : Memory.wf s.ms.mem) (w) (ht : execQcfgWrite w s = .next u) : Memory.wf u.ms.mem := by
  have hreg (off v) : Memory.wf (s.setReg off v).ms.mem := State.setReg_wf hs off v
  have hfld (off lo n v) : Memory.wf (s.setFld off lo n v).ms.mem := State.setFld_wf hs off lo n v
  rw [execQcfgWrite] at ht
  dsimp only at ht
  split at ht
  · rw [← Host.Outcome.next.inj ht]
    split
    · exact State.setFld_wf (hfld ..) ..
    · exact hs
  · split at ht
    · split at ht
      · split at ht
        · cases ht
          exact hs
        · cases ht
          exact withSch_wf (State.setFld_wf (hreg ..) ..) _
      · cases ht
        exact hreg ..
    · split at ht
      · cases ht
        exact hreg ..
      · split at ht
        · cases ht
          exact hreg ..
        · split at ht
          · cases ht
            exact hfld ..
          · cases ht
            exact hs

theorem State.setLaunch_wf (hs : Memory.wf s.ms.mem) (l x) : Memory.wf (s.setLaunch l x).ms.mem := by
  unfold State.setLaunch
  grind

theorem State.dropClaim_wf (hs : Memory.wf s.ms.mem) (row col id) : Memory.wf (s.dropClaim row col id).ms.mem := by
  unfold State.dropClaim
  grind

theorem State.dropLaunch_wf (hs : Memory.wf s.ms.mem) (l) : Memory.wf (s.dropLaunch l).ms.mem := by
  unfold State.dropLaunch
  grind

theorem State.releaseClaims_wf (hs : Memory.wf s.ms.mem) (l x) : Memory.wf (s.releaseClaims l x).ms.mem := by
  unfold State.releaseClaims
  grind [foldl_wf, State.dropClaim_wf, State.tell_wf]

theorem State.complete_wf (hs : Memory.wf s.ms.mem) (l) : Memory.wf (s.complete l).ms.mem := by
  unfold State.complete
  grind [State.releaseClaims_wf, State.dropLaunch_wf, State.setReg_wf, State.interrupt_wf]

theorem State.memberEnds_wf (hs : Memory.wf s.ms.mem) (l) : Memory.wf (s.memberEnds l).ms.mem := by
  unfold State.memberEnds
  grind [State.tell_wf, State.setLaunch_wf]

theorem State.signal_wf (hs : Memory.wf s.ms.mem) (l val) : Memory.wf (s.signal l val).ms.mem := by
  unfold State.signal
  grind [State.complete_wf, State.addReq_wf, State.setLaunch_wf]

theorem State.sigStep_wf (hs : Memory.wf s.ms.mem) (r) : Memory.wf (s.sigStep r).1.ms.mem := by
  unfold State.sigStep
  grind [State.complete_wf, State.queueEvent_wf, State.perform_wf]

theorem State.refuse_wf (hs : Memory.wf s.ms.mem) (l code) : Memory.wf (s.refuse l code).ms.mem := by
  unfold State.refuse
  grind [State.releaseClaims_wf, State.setLaunch_wf, State.queueStop_wf, State.signal_wf, State.queueEvent_wf]

theorem State.launchDone_wf (hs : Memory.wf s.ms.mem) (l) : Memory.wf (s.launchDone l).ms.mem := by
  unfold State.launchDone
  grind [State.memberEnds_wf, State.setLaunch_wf, State.signal_wf]

theorem State.claimNext_wf (hs : Memory.wf s.ms.mem) (l) : Memory.wf (s.claimNext l).ms.mem := by
  unfold State.claimNext
  grind [State.tell_wf]

theorem State.take_wf (hs : Memory.wf s.ms.mem) (q bytes) : Memory.wf (s.take q bytes).ms.mem := by
  unfold State.take
  grind [State.setFld_wf, State.refuse_wf, State.claimNext_wf]

theorem State.qread_wf (hs : Memory.wf s.ms.mem) (q va n) : Memory.wf (s.qread q va n).1.ms.mem := by
  unfold State.qread
  grind [State.perform_wf]

theorem execLaunchTake_wf (hs : Memory.wf s.ms.mem) (q) (ht : execLaunchTake q s = .next u) : Memory.wf u.ms.mem := by
  unfold execLaunchTake at ht
  grind [State.qread_wf, State.ringFault_wf, State.take_wf, State.perform_wf]

/-- The tail that the hub reads, and where it stands, noted; a bad one stops its queue. -/
theorem State.tailTook_wf (hs : Memory.wf s.ms.mem) (q : Nat) (v head : Nat) (bad : Bool) :
    Memory.wf (if bad then ((s.setFld (qreg q 0x18) 32 32 v).queueStop q).queueEvent q 3 0 0 head
      else s.setFld (qreg q 0x18) 32 32 v).ms.mem := by
  split
  · exact State.queueEvent_wf (State.queueStop_wf (State.setFld_wf hs ..) _) ..
  · exact State.setFld_wf hs ..

theorem execTailWatch_wf (hs : Memory.wf s.ms.mem) (q) (ht : execTailWatch q s = .next u) : Memory.wf u.ms.mem := by
  have hread := State.qread_wf hs q (s.fld (qreg q 0x10) 4 52 * 16) 4
  rw [execTailWatch] at ht
  dsimp only at ht
  split at ht
  · cases ht
  · split at ht
    · next he =>
      rw [he] at hread
      cases ht
      apply State.tailTook_wf
      split
      · exact withSch_wf hread _
      · exact hread
    · next he =>
      rw [he] at hread
      cases ht
      exact State.ringFault_wf hread ..
    · cases ht

theorem execLaunch_wf (hs : Memory.wf s.ms.mem) (o) (ht : execLaunch o s = .next u) : Memory.wf u.ms.mem := by
  refine State.issue_wf hs (fun s x hs => ?_) _ _ ht
  have htrap (i) : Memory.wf (s.trapAt x i).ms.mem := State.trapAt_wf hs x i
  dsimp only
  split
  · exact htrap _
  · next b _ =>
    split
    · exact htrap _
    · split
      · exact State.holdAs_wf hs ..
      · have hread (w ptr) : Memory.wf (andThen (s.kvRd w ptr 128) (fun s lo =>
            andThen (s.kvRd w (ptr + 128) 128) (fun s hi => (s, .ok (lo + hi * 2 ^ 1024))))).1.ms.mem :=
          andThen_wf (State.kvRd_wf hs ..) fun s lo hs => andThen_wf (State.kvRd_wf hs ..) fun s hi hs => hs
        have hread := hread { asid := b.asid, dev := b.dev, who := threadW x.cid, core := none, die := 2, cid := some x.cid } (x.s64 s .a)
        generalize andThen _ _ = r at hread
        grind [State.trapAt_wf, State.holdAs_wf, State.clearDisc_wf, State.setFld_wf, State.take_wf, State.retire_wf]

theorem State.loadRoutes_wf (hs : Memory.wf s.ms.mem) (l) : Memory.wf (s.loadRoutes l).ms.mem := by
  unfold State.loadRoutes
  grind [foldl_wf, State.setLaunch_wf, State.tell_wf]

theorem State.rectAnswer_wf (hs : Memory.wf s.ms.mem) (l refused) : Memory.wf (s.rectAnswer l refused).ms.mem := by
  unfold State.rectAnswer
  grind [State.refuse_wf, State.setLaunch_wf, State.loadRoutes_wf, State.claimNext_wf]

theorem State.rectRoutes_wf (hs : Memory.wf s.ms.mem) (row col id table) : Memory.wf (s.rectRoutes row col id table).ms.mem := by
  unfold State.rectRoutes
  grind [State.setLaunch_wf]

theorem State.takeRect_wf (hs : Memory.wf s.ms.mem) (r) : Memory.wf (s.takeRect r).ms.mem := by
  unfold State.takeRect
  grind

theorem execRectClaim_wf (hs : Memory.wf s.ms.mem) (r) (ht : execRectClaim r s = .next u) : Memory.wf u.ms.mem := by
  unfold execRectClaim at ht
  grind [State.rectAnswer_wf, State.tell_wf, State.takeRect_wf]

theorem execRectClaimTimeout_wf (hs : Memory.wf s.ms.mem) (l member) (ht : execRectClaimTimeout l member s = .next u) : Memory.wf u.ms.mem := by
  unfold execRectClaimTimeout at ht
  grind [State.refuse_wf]

theorem execRectRouteReport_wf (hs : Memory.wf s.ms.mem) (l member good) (ht : execRectRouteReport l member good s = .next u)
    : Memory.wf u.ms.mem := by
  unfold execRectRouteReport at ht
  grind [State.setLaunch_wf, State.tell_wf, State.refuse_wf]

theorem execRectStart_wf (hs : Memory.wf s.ms.mem) (l) (ht : execRectStart l s = .next u) : Memory.wf u.ms.mem := by
  unfold execRectStart at ht
  grind [foldl_wf, State.setLaunch_wf, State.tell_wf, State.launchDone_wf]

theorem execRectMemberRetire_wf (hs : Memory.wf s.ms.mem) (l member) (ht : execRectMemberRetire l member s = .next u) : Memory.wf u.ms.mem := by
  unfold execRectMemberRetire at ht
  grind [State.setLaunch_wf, State.signal_wf]

/-! ### Sync -/

theorem execBarArrive_wf (hs : Memory.wf s.ms.mem) (o n) (ht : execBarArrive o n s = .next u) : Memory.wf u.ms.mem := by
  unfold execBarArrive at ht
  grind [State.issue_wf, State.trapAt_wf, State.holdAs_wf, State.retire_wf, State.setBlk_wf, State.pend_wf]

theorem execBarWait_wf (hs : Memory.wf s.ms.mem) (o n) (ht : execBarWait o n s = .next u) : Memory.wf u.ms.mem := by
  unfold execBarWait at ht
  grind [State.issue_wf, State.retire_wf, State.holdAs_wf]

theorem execGangArrive_wf (hs : Memory.wf s.ms.mem) (o n) (ht : execGangArrive o n s = .next u) : Memory.wf u.ms.mem := by
  unfold execGangArrive at ht
  grind [State.issue_wf, State.trapAt_wf, State.holdAs_wf, State.retire_wf, State.setBlk_wf]

theorem execGangWait_wf (hs : Memory.wf s.ms.mem) (o n) (ht : execGangWait o n s = .next u) : Memory.wf u.ms.mem := by
  unfold execGangWait at ht
  grind [State.issue_wf, State.retire_wf, State.holdAs_wf]

theorem execDqPush_wf (hs : Memory.wf s.ms.mem) (o) (ht : execDqPush o s = .next u) : Memory.wf u.ms.mem := by
  unfold execDqPush at ht
  grind [State.issue_wf, State.holdAs_wf, State.retire_wf, State.setBlk_wf]

theorem execDqPop_wf (hs : Memory.wf s.ms.mem) (o p) (ht : execDqPop o p s = .next u) : Memory.wf u.ms.mem := by
  unfold execDqPop at ht
  grind [State.issue_wf, State.retire_wf, State.pend_wf, State.setBlk_wf, State.holdAs_wf]

/-! ### Place -/

theorem State.startGroup_wf (hs : Memory.wf s.ms.mem) (l bid g segAt x cl core) : Memory.wf (s.startGroup l bid g segAt x cl core).ms.mem := by
  unfold State.startGroup
  grind [foldl_wf, State.setCtx_wf]

theorem State.startBlock_wf (hs : Memory.wf s.ms.mem) (l x num gsize rank lead cl core) : Memory.wf
    (s.startBlock l x num gsize rank lead cl core).ms.mem := by
  unfold State.startBlock
  grind [foldl_wf, State.setBlk_wf, State.setCtx_wf, State.startGroup_wf]

theorem State.retune_wf (hs : Memory.wf s.ms.mem) : Memory.wf (s.retune).ms.mem := by
  unfold State.retune
  grind [foldl_wf, State.setFld_wf]

theorem execOppStable_wf (hs : Memory.wf s.ms.mem) (die) (ht : execOppStable die s = .next u) : Memory.wf u.ms.mem := by
  unfold execOppStable at ht
  grind [State.setFld_wf]

theorem State.trySwitch_wf (hs : Memory.wf s.ms.mem) (c) : Memory.wf (s.trySwitch c).ms.mem := by
  unfold State.trySwitch
  grind [State.retune_wf, State.switchRsds_wf]

theorem State.switchAll_wf (hs : Memory.wf s.ms.mem) : Memory.wf (s.switchAll).ms.mem := by
  unfold State.switchAll
  grind [foldl_wf, State.trySwitch_wf]

theorem State.startGang_wf (hs : Memory.wf s.ms.mem) (l x b n cl ks) : Memory.wf (s.startGang l x b n cl ks).ms.mem := by
  unfold State.startGang
  grind [foldl_wf, State.startBlock_wf]

theorem State.noteStart_wf (hs : Memory.wf s.ms.mem) (l x cl) : Memory.wf (s.noteStart l x cl).ms.mem := by
  unfold State.noteStart
  grind

theorem execBlockStart_wf (hs : Memory.wf s.ms.mem) (l) (ht : execBlockStart l s = .next u) : Memory.wf u.ms.mem := by
  unfold execBlockStart at ht
  grind [State.setLaunch_wf, State.retune_wf, State.noteStart_wf, State.startGang_wf]

theorem State.pack_wf (hs : Memory.wf s.ms.mem) (cl core grown) : Memory.wf (s.pack cl core grown).ms.mem := by
  unfold State.pack
  grind [foldl_wf, State.setCtx_wf]

theorem execSegmentRelocation_wf (hs : Memory.wf s.ms.mem) (core) (ht : execSegmentRelocation core s = .next u) : Memory.wf u.ms.mem := by
  unfold execSegmentRelocation at ht
  grind [State.pack_wf]

theorem execRgrowGrant_wf (hs : Memory.wf s.ms.mem) (cid) (ht : execRgrowGrant cid s = .next u) : Memory.wf u.ms.mem := by
  unfold execRgrowGrant at ht
  grind [State.setCtx_wf, State.pack_wf]

theorem execRgrowDeny_wf (hs : Memory.wf s.ms.mem) (core) (ht : execRgrowDeny core s = .next u) : Memory.wf u.ms.mem := by
  unfold execRgrowDeny at ht
  grind [State.setCtx_wf]

theorem State.postLatches_wf (hs : Memory.wf s.ms.mem) (cid c) : Memory.wf (s.postLatches cid c).ms.mem := by
  unfold State.postLatches
  grind [foldl_wf, State.enterRecord_wf]

theorem State.dropThreads_wf (hs : Memory.wf s.ms.mem) (b) : Memory.wf (s.dropThreads b).ms.mem := by
  unfold State.dropThreads
  grind

theorem State.freeBlock_wf (hs : Memory.wf s.ms.mem) (b x) : Memory.wf (s.freeBlock b x).ms.mem := by
  unfold State.freeBlock
  grind [foldl_wf, State.postLatches_wf, State.dropThreads_wf, State.setBlk_wf]

theorem State.countRetired_wf (hs : Memory.wf s.ms.mem) (x) : Memory.wf (s.countRetired x).ms.mem := by
  unfold State.countRetired
  grind [State.setLaunch_wf, State.launchDone_wf]

theorem execBlockRetire_wf (hs : Memory.wf s.ms.mem) (b) (ht : execBlockRetire b s = .next u) : Memory.wf u.ms.mem := by
  unfold execBlockRetire at ht
  grind [State.retune_wf, State.trySwitch_wf, State.countRetired_wf, State.freeBlock_wf]

theorem execRsdFree_wf (hs : Memory.wf s.ms.mem) (o) (ht : execRsdFree o s = .next u) : Memory.wf u.ms.mem := by
  unfold execRsdFree at ht
  grind [State.rsdIssue_wf, State.trapAt_wf, State.holdAs_wf, State.switchAll_wf, State.freeRsd_wf, State.retire_wf]

theorem execRcmdRevoke_wf (hs : Memory.wf s.ms.mem) (w) (ht : execRcmdRevoke w s = .next u) : Memory.wf u.ms.mem := by
  unfold execRcmdRevoke at ht
  grind [State.setRstat_wf, State.switchAll_wf, State.rstatDone_wf, State.revokeRsd_wf]

theorem execRcmdRevokeAll_wf (hs : Memory.wf s.ms.mem) (w) (ht : execRcmdRevokeAll w s = .next u) : Memory.wf u.ms.mem := by
  unfold execRcmdRevokeAll at ht
  grind [foldl_wf, State.switchAll_wf, State.rstatDone_wf, State.revokeRsd_wf]

theorem execFillComplete_wf (hs : Memory.wf s.ms.mem) (vdev h) (ht : execFillComplete vdev h s = .next u) : Memory.wf u.ms.mem := by
  unfold execFillComplete at ht
  grind [State.fillEnd_wf, State.switchAll_wf]

theorem execRebuildComplete_wf (hs : Memory.wf s.ms.mem) (vdev h) (ht : execRebuildComplete vdev h s = .next u) : Memory.wf u.ms.mem := by
  unfold execRebuildComplete at ht
  grind [State.rebuildEnd_wf, State.countOut_wf, State.switchAll_wf]

/-! ### Preempt -/

theorem State.dropReqs_wf (hs : Memory.wf s.ms.mem) (f) : Memory.wf (s.dropReqs f).ms.mem := by
  unfold State.dropReqs
  grind

theorem State.freeSlot_wf (hs : Memory.wf s.ms.mem) (v slot) : Memory.wf (s.freeSlot v slot).ms.mem := by
  unfold State.freeSlot
  grind

theorem State.dropOps_wf (hs : Memory.wf s.ms.mem) (b) : Memory.wf (s.dropOps b).ms.mem := by
  unfold State.dropOps
  grind [foldl_wf, State.dropReqs_wf, State.collKill_wf, State.chanSettle_wf, State.nvSubmit_wf]

theorem State.dropBlock_wf (hs : Memory.wf s.ms.mem) (b) : Memory.wf (s.dropBlock b).ms.mem := by
  unfold State.dropBlock
  grind [foldl_wf, State.dropOps_wf, State.dropReqs_wf, State.dropToken_wf, State.freeSlot_wf, State.settleRevokes_wf, State.dropThreads_wf]

theorem State.discardGang_wf (hs : Memory.wf s.ms.mem) (x) : Memory.wf (s.discardGang x).ms.mem := by
  unfold State.discardGang
  grind [foldl_wf, State.dropBlock_wf, State.setLaunch_wf]

theorem State.dropBlocks_wf (hs : Memory.wf s.ms.mem) (l) : Memory.wf (s.dropBlocks l).ms.mem := by
  unfold State.dropBlocks
  grind [foldl_wf, State.dropBlock_wf]

theorem State.killLaunch_wf (hs : Memory.wf s.ms.mem) (l) : Memory.wf (s.killLaunch l).ms.mem := by
  unfold State.killLaunch
  grind [State.dropBlocks_wf, State.tell_wf, State.setLaunch_wf, State.signal_wf, State.releaseClaims_wf]

theorem State.killQueue_wf (hs : Memory.wf s.ms.mem) (q) : Memory.wf (s.killQueue q).ms.mem := by
  unfold State.killQueue
  grind [foldl_wf, State.setFld_wf, State.killLaunch_wf, State.enterRecord_wf, State.interrupt_wf]

/-- Bytes written by the hub one after another keep memory canonical. -/
theorem foldWr_wf (f : State → Nat × List Byte → Nat) (ps : List (Nat × List Byte)) (hs : Memory.wf s.ms.mem) :
    Memory.wf (ps.foldl (fun s p => (s.physWr (f s p) p.2).1) s).ms.mem :=
  foldl_wf (f := fun s p => (s.physWr (f s p) p.2).1) (fun s p h => State.physWr_wf h (f s p) p.2) ps hs

theorem State.writeImage_wf (hs : Memory.wf s.ms.mem) (b) : Memory.wf (s.writeImage b).ms.mem := by
  unfold State.writeImage
  split
  · exact hs
  · next x _ =>
    split
    · next i _ => exact foldWr_wf (fun s p => s.slotAt x.dev i + p.1) (s.imageOf b x) hs
    · next i _ => exact foldWr_wf (fun s p => s.slotAt x.dev i + p.1) (s.imageOf b x) hs
    · exact hs

theorem State.scramble_wf (hs : Memory.wf s.ms.mem) (b x) : Memory.wf (s.scramble b x).ms.mem := by
  unfold State.scramble
  grind [foldl_wf, State.setCtx_wf, State.setBlk_wf]

theorem State.beginSave_wf (hs : Memory.wf s.ms.mem) (x) : Memory.wf (s.beginSave x).ms.mem := by
  unfold State.beginSave
  grind [foldl_wf, State.setBlk_wf]

theorem State.saveMore_wf (hs : Memory.wf s.ms.mem) : Memory.wf (s.saveMore).ms.mem := by
  unfold State.saveMore
  grind [foldl_wf, State.beginSave_wf]

theorem State.blocksGone_wf (hs : Memory.wf s.ms.mem) : Memory.wf (s.blocksGone).ms.mem := by
  unfold State.blocksGone
  grind [State.retune_wf, State.switchAll_wf, State.saveMore_wf]

theorem State.applyMode_wf (hs : Memory.wf s.ms.mem) (v cl m) : Memory.wf (s.applyMode v cl m).ms.mem := by
  unfold State.applyMode
  grind [foldl_wf, State.discardGang_wf, State.beginSave_wf]

theorem execSliceEnd_wf (hs : Memory.wf s.ms.mem) (cl) (ht : execSliceEnd cl s = .next u) : Memory.wf u.ms.mem := by
  unfold execSliceEnd at ht
  grind [State.retune_wf, State.trySwitch_wf, State.applyMode_wf]

theorem State.stopMatrix_wf (hs : Memory.wf s.ms.mem) (b) : Memory.wf (s.stopMatrix b).ms.mem := by
  unfold State.stopMatrix
  grind [foldl_wf, State.setBlk_wf]

theorem State.saveBlock_wf (hs : Memory.wf s.ms.mem) (b i x) : Memory.wf (s.saveBlock b i x).ms.mem := by
  unfold State.saveBlock
  grind [State.stopMatrix_wf, State.setBlk_wf, State.writeImage_wf]

theorem execSaveComplete_wf (hs : Memory.wf s.ms.mem) (b) (ht : execSaveComplete b s = .next u) : Memory.wf u.ms.mem := by
  unfold execSaveComplete at ht
  grind [State.retune_wf, State.trySwitch_wf, State.saveBlock_wf]

/-- A fold that carries more than the state keeps memory canonical if each of its steps does. -/
theorem foldlPair_wf {α β : Type} {f : State × β → α → State × β} (hf : ∀ r a, Memory.wf r.1.ms.mem → Memory.wf (f r a).1.ms.mem)
    {r : State × β} (hr : Memory.wf r.1.ms.mem) (l : List α) : Memory.wf (l.foldl f r).1.ms.mem := by
  induction l generalizing r with
  | nil => exact hr
  | cons a l ih => exact ih (hf r a hr)

theorem State.resumeBlock_wf (hs : Memory.wf s.ms.mem) (b cl core) : Memory.wf (s.resumeBlock b cl core).ms.mem := by
  unfold State.resumeBlock
  split
  · exact hs
  · next x _ =>
    split
    · next slot _ =>
      dsimp only
      generalize (s.room (s.needOf b x) cl core).getD (0, 0, 0) = gr
      obtain ⟨g0, a0, t0⟩ := gr
      generalize hr : List.foldl _ (s, g0, _) (s.threadsOf b) = r
      have hfold : Memory.wf r.1.ms.mem := by
        rw [← hr]
        refine foldlPair_wf (fun r p hr => ?_) hs _
        split
        · exact State.setCtx_wf hr ..
        · exact State.setCtx_wf hr ..
      dsimp only
      have hend (y) : Memory.wf ((r.1.setBlk b y).freeSlot x.dev slot).ms.mem := State.freeSlot_wf (State.setBlk_wf hfold b y) ..
      split
      · exact hend _
      · exact State.scramble_wf (hend _) ..
    · exact hs

theorem execBlockResume_wf (hs : Memory.wf s.ms.mem) (b) (ht : execBlockResume b s = .next u) : Memory.wf u.ms.mem := by
  unfold execBlockResume at ht
  grind [foldl_wf, State.retune_wf, State.saveMore_wf, State.resumeBlock_wf]

theorem State.killLaunches_wf (hs : Memory.wf s.ms.mem) (ls) : Memory.wf (s.killLaunches ls).ms.mem := by
  unfold State.killLaunches
  grind [foldl_wf, State.killLaunch_wf, State.killQueue_wf]

theorem execPreemptDeadline_wf (hs : Memory.wf s.ms.mem) (cl) (ht : execPreemptDeadline cl s = .next u) : Memory.wf u.ms.mem := by
  unfold execPreemptDeadline at ht
  grind [State.blocksGone_wf, State.killLaunches_wf]

theorem State.rectRelease_wf (hs : Memory.wf s.ms.mem) (row col id) : Memory.wf (s.rectRelease row col id).ms.mem := by
  unfold State.rectRelease
  grind [State.dropLaunch_wf, State.dropBlocks_wf, State.blocksGone_wf, State.dropClaim_wf]

theorem State.rectKill_wf (hs : Memory.wf s.ms.mem) (l) : Memory.wf (s.rectKill l).ms.mem := by
  unfold State.rectKill
  grind [State.blocksGone_wf, State.killQueue_wf]

/-! ### Results -/

theorem State.matUpdate_wf (hs : Memory.wf s.ms.mem) (c ms clr) : Memory.wf (s.matUpdate c ms clr).ms.mem := by
  unfold State.matUpdate
  grind [foldl_wf, State.setBlk_wf]

theorem State.landRes_wf (hs : Memory.wf s.ms.mem) (cid key c r) : Memory.wf (s.landRes cid key c r).ms.mem := by
  unfold State.landRes
  grind [State.setCtx_wf, State.matUpdate_wf, State.switchAll_wf, State.settleRevokes_wf]

theorem execVariableLatencyResult_wf (hs : Memory.wf s.ms.mem) (cid i) (ht : execVariableLatencyResult cid i s = .next u)
    : Memory.wf u.ms.mem := by
  unfold execVariableLatencyResult at ht
  grind [State.landRes_wf, State.setCtx_wf, State.matUpdate_wf]

/-! ### Keys -/

theorem State.setKstat_wf (hs : Memory.wf s.ms.mem) (v st reason) : Memory.wf (s.setKstat v st reason).ms.mem := by
  unfold State.setKstat
  grind [State.setReg_wf]

theorem State.clearKdata_wf (hs : Memory.wf s.ms.mem) (v) : Memory.wf (s.clearKdata v).ms.mem := by
  unfold State.clearKdata
  grind

theorem State.setKey_wf (hs : Memory.wf s.ms.mem) (k x) : Memory.wf (s.setKey k x).ms.mem := by
  unfold State.setKey
  grind

theorem State.kprog_wf (hs : Memory.wf s.ms.mem) {f : State → ℕ → ℕ → State} (hf : ∀ s a b, Memory.wf s.ms.mem → Memory.wf (f s a b).ms.mem)
    (w) : Memory.wf (s.kprog w f).ms.mem := by
  unfold State.kprog
  grind [State.clearKdata_wf, State.setKstat_wf]

theorem execKeyOff_wf (hs : Memory.wf s.ms.mem) (w) (ht : execKeyOff w s = .next u) : Memory.wf u.ms.mem := by
  unfold execKeyOff at ht
  grind [foldl_wf, State.kprog_wf, State.writeBack_wf, State.setKey_wf]

theorem execKeyXts_wf (hs : Memory.wf s.ms.mem) (w) (ht : execKeyXts w s = .next u) : Memory.wf u.ms.mem := by
  unfold execKeyXts at ht
  grind [foldl_wf, State.kprog_wf, State.setKey_wf, State.writeBack_wf]

theorem execKeyPlain_wf (hs : Memory.wf s.ms.mem) (w) (ht : execKeyPlain w s = .next u) : Memory.wf u.ms.mem := by
  unfold execKeyPlain at ht
  grind [foldl_wf, State.kprog_wf, State.setKey_wf, State.writeBack_wf]

theorem execKeyBadcmd_wf (hs : Memory.wf s.ms.mem) (w) (ht : execKeyBadcmd w s = .next u) : Memory.wf u.ms.mem := by
  unfold execKeyBadcmd at ht
  grind [State.kprog_wf]

/-! ### Caches -/

theorem execTranslationLeaseExpiry_wf (hs : Memory.wf s.ms.mem) (key) (ht : execTranslationLeaseExpiry key s = .next u) : Memory.wf u.ms.mem := by
  unfold execTranslationLeaseExpiry at ht
  grind [State.tlbDrop_wf]

theorem execLeaseExpiry_wf (hs : Memory.wf s.ms.mem) (key) (ht : execLeaseExpiry key s = .next u) : Memory.wf u.ms.mem := by
  unfold execLeaseExpiry at ht
  grind

theorem execLeaseRenewal_wf (hs : Memory.wf s.ms.mem) (key) (ht : execLeaseRenewal key s = .next u) : Memory.wf u.ms.mem := by
  unfold execLeaseRenewal at ht
  grind [State.stretch_wf, State.passDown_wf, State.renewed_wf, State.renewAtHA_wf]

theorem execOwnershipRequest_wf (hs : Memory.wf s.ms.mem) (die asid va vdev) (ht : execOwnershipRequest die asid va vdev s = .next u)
    : Memory.wf u.ms.mem := by
  unfold execOwnershipRequest at ht
  grind [State.translate_wf, State.count_wf, State.grantOwn_wf]

theorem execOwnershipRecall_wf (hs : Memory.wf s.ms.mem) (line) (ht : execOwnershipRecall line s = .next u) : Memory.wf u.ms.mem := by
  unfold execOwnershipRecall at ht
  grind [State.writeBack_wf]

theorem execOwnershipExpiry_wf (hs : Memory.wf s.ms.mem) (line) (ht : execOwnershipExpiry line s = .next u) : Memory.wf u.ms.mem := by
  unfold execOwnershipExpiry at ht
  grind

theorem execL2Eviction_wf (hs : Memory.wf s.ms.mem) (line) (ht : execL2Eviction line s = .next u) : Memory.wf u.ms.mem := by
  unfold execL2Eviction at ht
  grind [State.letGo_wf]

theorem execDirectoryDrop_wf (hs : Memory.wf s.ms.mem) (line) (ht : execDirectoryDrop line s = .next u) : Memory.wf u.ms.mem := by
  unfold execDirectoryDrop at ht
  grind [State.writeBack_wf]

theorem execCounterWriteback_wf (hs : Memory.wf s.ms.mem) (key) (ht : execCounterWriteback key s = .next u) : Memory.wf u.ms.mem := by
  unfold execCounterWriteback at ht
  grind [State.physWr_wf]

/-! ### Pool -/

theorem State.setPot_wf (hs : Memory.wf s.ms.mem) (st reason seq) : Memory.wf (s.setPot st reason seq).ms.mem := by
  unfold State.setPot
  grind [State.setFld_wf]

theorem State.putPot_wf (hs : Memory.wf s.ms.mem) (n e) : Memory.wf (s.putPot n e).ms.mem := by
  unfold State.putPot
  grind [State.physWr_wf]

theorem State.setFact_wf (hs : Memory.wf s.ms.mem) (n f) : Memory.wf (s.setFact n f).ms.mem := by
  unfold State.setFact
  grind

theorem State.potCmd_wf (hs : Memory.wf s.ms.mem) : Memory.wf (s.potCmd).ms.mem := by
  unfold State.potCmd
  grind

theorem State.potAsk_wf (hs : Memory.wf s.ms.mem) (n e) : Memory.wf (s.potAsk n e).ms.mem := by
  unfold State.potAsk
  grind [State.setPot_wf, State.setFact_wf, State.tell_wf]

theorem State.potForce_wf (hs : Memory.wf s.ms.mem) (n e) : Memory.wf (s.potForce n e).ms.mem := by
  unfold State.potForce
  grind [State.putPot_wf, State.setPot_wf, State.setFact_wf]

theorem State.potTake_wf (hs : Memory.wf s.ms.mem) (force ppn) : Memory.wf (s.potTake force ppn).ms.mem := by
  unfold State.potTake
  grind [State.setPot_wf, State.potForce_wf, State.potAsk_wf]

theorem State.potGo_wf (hs : Memory.wf s.ms.mem) : Memory.wf (s.potGo).ms.mem := by
  unfold State.potGo
  grind [State.potTake_wf]

theorem execPotcmdRequest_wf (hs : Memory.wf s.ms.mem) (w) (ht : execPotcmdRequest w s = .next u) : Memory.wf u.ms.mem := by
  unfold execPotcmdRequest at ht
  grind [State.potTake_wf, State.potCmd_wf]

theorem execPotcmdForce_wf (hs : Memory.wf s.ms.mem) (w) (ht : execPotcmdForce w s = .next u) : Memory.wf u.ms.mem := by
  unfold execPotcmdForce at ht
  grind [State.potTake_wf, State.potCmd_wf]

theorem execPotcmdBadcmd_wf (hs : Memory.wf s.ms.mem) (_w) (ht : execPotcmdBadcmd _w s = .next u) : Memory.wf u.ms.mem := by
  unfold execPotcmdBadcmd at ht
  grind [State.setPot_wf, State.potCmd_wf]

theorem State.potReply_wf (hs : Memory.wf s.ms.mem) (reason seq) : Memory.wf (s.potReply reason seq).ms.mem := by
  unfold State.potReply
  grind

theorem execHandoverRequest_wf (hs : Memory.wf s.ms.mem) (ppn frm) (ht : execHandoverRequest ppn frm s = .next u) : Memory.wf u.ms.mem := by
  unfold execHandoverRequest at ht
  grind [foldl_wf, State.potReply_wf, State.putPot_wf, State.setFact_wf, State.writeBack_wf]

theorem execHandoverCommit_wf (hs : Memory.wf s.ms.mem) (ppn) (ht : execHandoverCommit ppn s = .next u) : Memory.wf u.ms.mem := by
  unfold execHandoverCommit at ht
  grind [State.putPot_wf, State.potReply_wf, State.setFact_wf]

theorem execHandoverReply_wf (hs : Memory.wf s.ms.mem) (ppn refused owner seq) (ht : execHandoverReply ppn refused owner seq s = .next u)
    : Memory.wf u.ms.mem := by
  unfold execHandoverReply at ht
  grind [State.setFact_wf, State.setPot_wf]

theorem execHandoverTimeout_wf (hs : Memory.wf s.ms.mem) (ht : execHandoverTimeout s = .next u) : Memory.wf u.ms.mem := by
  unfold execHandoverTimeout at ht
  grind [State.poisonLine_wf, State.setPot_wf]

/-! ### Links -/

theorem execFwinWrite_wf (hs : Memory.wf s.ms.mem) (w) (ht : execFwinWrite w s = .next u) : Memory.wf u.ms.mem := by
  unfold execFwinWrite at ht
  dsimp only at ht
  split at ht
  · cases ht
  · split at ht
    · cases ht
      exact hs
    · split at ht
      · cases ht
        exact hs
      · cases ht
        exact State.setReg_wf hs ..

theorem execFlowStop_wf (hs : Memory.wf s.ms.mem) (port tc) (ht : execFlowStop port tc s = .next u) : Memory.wf u.ms.mem := by
  unfold execFlowStop at ht
  grind

theorem execFlowGo_wf (hs : Memory.wf s.ms.mem) (port tc) (ht : execFlowGo port tc s = .next u) : Memory.wf u.ms.mem := by
  unfold execFlowGo at ht
  grind

theorem State.noteMargin_wf (hs : Memory.wf s.ms.mem) (m v) : Memory.wf (s.noteMargin m v).ms.mem := by
  unfold State.noteMargin
  grind [State.setFld_wf]

theorem State.setLink_wf (hs : Memory.wf s.ms.mem) (port width speed) : Memory.wf (s.setLink port width speed).ms.mem := by
  unfold State.setLink
  grind [State.setFld_wf, State.setReg_wf, State.noteMargin_wf]

theorem execLinkStateChange_wf (hs : Memory.wf s.ms.mem) (port width speed) (ht : execLinkStateChange port width speed s = .next u)
    : Memory.wf u.ms.mem := by
  unfold execLinkStateChange at ht
  grind [State.setLink_wf, State.potGo_wf]

theorem execLaneMarginRemove_wf (hs : Memory.wf s.ms.mem) (port) (ht : execLaneMarginRemove port s = .next u) : Memory.wf u.ms.mem := by
  unfold execLaneMarginRemove at ht
  grind [State.setLink_wf]

/-! ### HostThread -/

theorem State.htStat_wf (hs : Memory.wf s.ms.mem) (n cmd reason) : Memory.wf (s.htStat n cmd reason).ms.mem := by
  unfold State.htStat
  grind [State.setFld_wf]

theorem State.htRun_wf (hs : Memory.wf s.ms.mem) (n v) : Memory.wf (s.htRun n v).ms.mem := by
  unfold State.htRun
  grind [State.setFld_wf]

theorem State.loadThread_wf (hs : Memory.wf s.ms.mem) (n pa) (ht : s.loadThread n pa = .ok u) : Memory.wf u.ms.mem := by
  unfold State.loadThread at ht
  grind [State.htRun_wf, State.setCtx_wf]

theorem execHtcmdStart_wf (hs : Memory.wf s.ms.mem) (w) (ht : execHtcmdStart w s = .next u) : Memory.wf u.ms.mem := by
  unfold execHtcmdStart at ht
  grind [State.htStat_wf, State.loadThread_wf]

theorem State.unpark_wf (hs : Memory.wf s.ms.mem) (n) : Memory.wf (s.unpark n).ms.mem := by
  unfold State.unpark
  grind [foldl_wf, State.dropToken_wf]

theorem State.htHalt_wf (hs : Memory.wf s.ms.mem) (n why) : Memory.wf (s.htHalt n why).ms.mem := by
  unfold State.htHalt
  grind [State.htStat_wf, State.setCtx_wf, State.unpark_wf]

theorem execHtcmdStop_wf (hs : Memory.wf s.ms.mem) (w) (ht : execHtcmdStop w s = .next u) : Memory.wf u.ms.mem := by
  unfold execHtcmdStop at ht
  grind [State.htStat_wf, State.htHalt_wf]

theorem execHtcmdSwap_wf (hs : Memory.wf s.ms.mem) (w) (ht : execHtcmdSwap w s = .next u) : Memory.wf u.ms.mem := by
  unfold execHtcmdSwap at ht
  grind [State.htStat_wf, State.htHalt_wf]

theorem execHtcmdBadcmd_wf (hs : Memory.wf s.ms.mem) (w) (ht : execHtcmdBadcmd w s = .next u) : Memory.wf u.ms.mem := by
  unfold execHtcmdBadcmd at ht
  grind [State.htStat_wf]

theorem State.htGone_wf (hs : Memory.wf s.ms.mem) (n) : Memory.wf (s.htGone n).ms.mem := by
  unfold State.htGone
  grind [State.unpark_wf, State.htRun_wf]

theorem execHtcmdStopDone_wf (hs : Memory.wf s.ms.mem) (n) (ht : execHtcmdStopDone n s = .next u) : Memory.wf u.ms.mem := by
  rw [execHtcmdStopDone] at ht
  split at ht
  · split at ht
    · cases ht
    · dsimp only at ht
      split at ht
      · cases ht
        exact State.htStat_wf (withPart_wf hs _) ..
      · split at ht
        · cases ht
          exact State.htStat_wf (withPart_wf hs _) ..
        · next hload =>
          cases ht
          exact State.htStat_wf (State.setFld_wf (State.loadThread_wf (withPart_wf hs _) _ _ hload) ..) ..
  · split at ht
    · cases ht
    · split at ht
      · cases ht
      · split at ht
        · cases ht
        · split at ht
          · have hgone := State.htGone_wf hs n
            cases ht
            dsimp only
            split
            · exact State.htStat_wf hgone ..
            · exact hgone
          · cases ht
            exact withPart_wf (State.htGone_wf (State.physWr_wf hs ..) n) _

theorem execHalarmExpiry_wf (hs : Memory.wf s.ms.mem) (n) (ht : execHalarmExpiry n s = .next u) : Memory.wf u.ms.mem := by
  unfold execHalarmExpiry at ht
  grind [State.interrupt_wf, State.setCtx_wf]

/-! ### Mgmt -/

theorem State.bootRun_wf (hs : Memory.wf s.ms.mem) (i) : Memory.wf (s.bootRun i).ms.mem := by
  unfold State.bootRun
  grind [State.htRun_wf, State.setCtx_wf]

/-- A package made blank keeps of memory what a reset leaves. -/
theorem blankFrom_wf {r : State} (hr : Memory.wf r.ms.mem) (p cs sys ag fr mg) :
    Memory.wf ({ r with pwr := p, ctxs := cs, sys := sys, agenda := ag, fresh := fr, mgmt := mg } : State).ms.mem := hr

theorem State.blank_wf (s : State) (p) : Memory.wf (s.blank p).ms.mem := blankFrom_wf reset_mem_wf ..

theorem State.coldReset_wf (hs : Memory.wf s.ms.mem) : Memory.wf (s.coldReset).ms.mem := by
  unfold State.coldReset
  grind [State.blank_wf, State.bootRun_wf]

theorem execColdReset_wf (hs : Memory.wf s.ms.mem) (ht : execColdReset s = .next u) : Memory.wf u.ms.mem := by
  unfold execColdReset at ht
  grind [State.coldReset_wf]

theorem execTftpRetry_wf (hs : Memory.wf s.ms.mem) (img) (ht : execTftpRetry img s = .next u) : Memory.wf u.ms.mem := by
  unfold execTftpRetry at ht
  grind [State.bootRun_wf]

theorem execThermtrip_wf (hs : Memory.wf s.ms.mem) (ht : execThermtrip s = .next u) : Memory.wf u.ms.mem := by
  unfold execThermtrip at ht
  grind [State.blank_wf]

theorem execPowerLoss_wf (hs : Memory.wf s.ms.mem) (ht : execPowerLoss s = .next u) : Memory.wf u.ms.mem := by
  unfold execPowerLoss at ht
  grind [State.blank_wf]

theorem execThermalStep_wf (hs : Memory.wf s.ms.mem) (die) (ht : execThermalStep die s = .next u) : Memory.wf u.ms.mem := by
  unfold execThermalStep at ht
  grind [State.retune_wf]

theorem State.mgmtEnd_wf (hs : Memory.wf s.ms.mem) (st res pay) : Memory.wf (s.mgmtEnd st res pay).ms.mem := by
  unfold State.mgmtEnd
  grind [State.setReg_wf, State.physWr_wf]

theorem State.mgmtRun_wf (hs : Memory.wf s.ms.mem) {f : State → State} (hf : ∀ s, Memory.wf s.ms.mem → Memory.wf (f s ).ms.mem) (code name)
    (ht : s.mgmtRun code name f = .next u) : Memory.wf u.ms.mem := by
  unfold State.mgmtRun at ht
  grind

theorem execIdentity_wf (hs : Memory.wf s.ms.mem) (nonce) (ht : execIdentity nonce s = .next u) : Memory.wf u.ms.mem := by
  unfold execIdentity at ht
  grind [State.mgmtRun_wf, State.mgmtEnd_wf]

theorem execCert_wf (hs : Memory.wf s.ms.mem) (i) (ht : execCert i s = .next u) : Memory.wf u.ms.mem := by
  unfold execCert at ht
  grind [State.mgmtRun_wf, State.mgmtEnd_wf]

theorem execFreeze_wf (hs : Memory.wf s.ms.mem) (ht : execFreeze s = .next u) : Memory.wf u.ms.mem := by
  unfold execFreeze at ht
  grind [State.mgmtRun_wf, State.mgmtEnd_wf]

theorem execThaw_wf (hs : Memory.wf s.ms.mem) (ht : execThaw s = .next u) : Memory.wf u.ms.mem := by
  unfold execThaw at ht
  grind [State.mgmtRun_wf, State.mgmtEnd_wf]

theorem execColdresetCmd_wf (hs : Memory.wf s.ms.mem) (ht : execColdresetCmd s = .next u) : Memory.wf u.ms.mem := by
  unfold execColdresetCmd at ht
  grind [State.mgmtRun_wf, State.coldReset_wf, State.mgmtEnd_wf]

theorem execUpdate_wf (hs : Memory.wf s.ms.mem) (img) (ht : execUpdate img s = .next u) : Memory.wf u.ms.mem := by
  unfold execUpdate at ht
  grind [State.mgmtRun_wf, State.mgmtEnd_wf]

theorem execCommit_wf (hs : Memory.wf s.ms.mem) (ht : execCommit s = .next u) : Memory.wf u.ms.mem := by
  unfold execCommit at ht
  grind [State.mgmtRun_wf, State.mgmtEnd_wf]

theorem execKey0_wf (hs : Memory.wf s.ms.mem) (mode) (ht : execKey0 mode s = .next u) : Memory.wf u.ms.mem := by
  unfold execKey0 at ht
  grind [foldl_wf, State.mgmtRun_wf, State.mgmtEnd_wf, State.writeBack_wf, State.setKey_wf]

theorem execSetcfg_wf (hs : Memory.wf s.ms.mem) (r) (ht : execSetcfg r s = .next u) : Memory.wf u.ms.mem := by
  unfold execSetcfg at ht
  grind [State.mgmtRun_wf, State.mgmtEnd_wf, State.retune_wf]

theorem execScan_wf (hs : Memory.wf s.ms.mem) (c w) (ht : execScan c w s = .next u) : Memory.wf u.ms.mem := by
  unfold execScan at ht
  grind [State.mgmtRun_wf, State.mgmtEnd_wf]

theorem State.answer_wf (hs : Memory.wf s.ms.mem) (r st) : Memory.wf (s.answer r st).ms.mem := by
  unfold State.answer
  grind

theorem State.accept_wf (hs : Memory.wf s.ms.mem) (r) : Memory.wf (s.accept r).ms.mem := by
  unfold State.accept
  grind [State.answer_wf]

theorem execMgmtRequest_wf (hs : Memory.wf s.ms.mem) (r) (ht : execMgmtRequest r s = .next u) : Memory.wf u.ms.mem := by
  unfold execMgmtRequest at ht
  grind [State.answer_wf, State.accept_wf]

theorem State.mailCommand_wf (hs : Memory.wf s.ms.mem) (code) : Memory.wf (s.mailCommand code).ms.mem := by
  unfold State.mailCommand
  grind [State.setReg_wf]

/-! ### Partition -/

theorem State.relevel_wf (hs : Memory.wf s.ms.mem) (v) : Memory.wf (s.relevel v).ms.mem := by
  unfold State.relevel
  grind [foldl_wf, State.setFld_wf]

theorem State.rcApply_wf (hs : Memory.wf s.ms.mem) (e) : Memory.wf (s.rcApply e).ms.mem := by
  unfold State.rcApply
  grind [State.setFld_wf, State.setReg_wf, State.relevel_wf]

theorem State.rcEntry_wf (hs : Memory.wf s.ms.mem) (issuer own e) (ht : s.rcEntry issuer own e = .ok u) : Memory.wf u.ms.mem := by
  unfold State.rcEntry at ht
  grind [State.rcApply_wf]

theorem State.rcRun_wf (hs : Memory.wf s.ms.mem) (issuer at_ n i) (ht : s.rcRun issuer at_ n i = .ok u) : Memory.wf u.ms.mem := by
  induction n generalizing s i with
  | zero =>
    cases ht
    exact hs
  | succ n ih =>
    unfold State.rcRun at ht
    grind [State.rcEntry_wf]

theorem State.keepWindows_wf (hs : Memory.wf s.ms.mem) (r) : Memory.wf (s.keepWindows r).ms.mem := by
  unfold State.keepWindows
  grind [foldl_wf]

theorem State.moveRsds_wf (hs : Memory.wf s.ms.mem) (r) : Memory.wf (s.moveRsds r).ms.mem := by
  unfold State.moveRsds
  grind [foldl_wf, State.setRsd_wf, State.countOut_wf, State.resumeRsd_wf]

theorem State.setRc_wf (hs : Memory.wf s.ms.mem) (v st reason index) : Memory.wf (s.setRc v st reason index).ms.mem := by
  unfold State.setRc
  grind [State.setReg_wf]

theorem State.rcFail_wf (hs : Memory.wf s.ms.mem) (v reason index) : Memory.wf (s.rcFail v reason index).ms.mem := by
  unfold State.rcFail
  grind [State.interrupt_wf, State.setRc_wf]

theorem State.rcStart_wf (hs : Memory.wf s.ms.mem) (v j) : Memory.wf (s.rcStart v j).ms.mem := by
  unfold State.rcStart
  grind [State.setRc_wf]

theorem execReconfigCommand_wf (hs : Memory.wf s.ms.mem) (w) (ht : execReconfigCommand w s = .next u) : Memory.wf u.ms.mem := by
  unfold execReconfigCommand at ht
  grind [State.rcFail_wf, State.rcRun_wf, State.switchAll_wf, State.moveRsds_wf, State.keepWindows_wf, State.retune_wf, State.rcStart_wf,
    State.setReg_wf]

theorem State.resetRings_wf (hs : Memory.wf s.ms.mem) (v) : Memory.wf (s.resetRings v).ms.mem := by
  unfold State.resetRings
  grind [foldl_wf, State.setFld_wf, State.setReg_wf]

theorem State.resetRest_wf (hs : Memory.wf s.ms.mem) (ds) : Memory.wf (s.resetRest ds).ms.mem := by
  unfold State.resetRest
  grind [foldl_wf, State.revokeRsd_wf, State.switchAll_wf, State.resetRings_wf]

theorem execReconfigDone_wf (hs : Memory.wf s.ms.mem) (dev) (ht : execReconfigDone dev s = .next u) : Memory.wf u.ms.mem := by
  unfold execReconfigDone at ht
  grind [State.resetRest_wf, State.interrupt_wf, State.setRc_wf]

theorem State.budgetWrite_wf (hs : Memory.wf s.ms.mem) (issuer e) : Memory.wf (s.budgetWrite issuer e).ms.mem := by
  unfold State.budgetWrite
  grind [State.rcEntry_wf]

theorem execRquotaWrite_wf (hs : Memory.wf s.ms.mem) (w) (ht : execRquotaWrite w s = .next u) : Memory.wf u.ms.mem := by
  unfold execRquotaWrite at ht
  grind [State.budgetWrite_wf]

theorem execQkill_wf (hs : Memory.wf s.ms.mem) (w) (ht : execQkill w s = .next u) : Memory.wf u.ms.mem := by
  unfold execQkill at ht
  grind [State.rcFail_wf, State.blocksGone_wf, State.rcStart_wf, State.killQueue_wf]

theorem State.resetThread_wf (hs : Memory.wf s.ms.mem) (n) : Memory.wf (s.resetThread n).ms.mem := by
  unfold State.resetThread
  grind [State.setCtx_wf, State.unpark_wf]

theorem execRreset_wf (hs : Memory.wf s.ms.mem) (w) (ht : execRreset w s = .next u) : Memory.wf u.ms.mem := by
  unfold execRreset at ht
  grind [foldl_wf, State.rcFail_wf, State.killQueue_wf, State.resetThread_wf, State.blocksGone_wf, State.rcStart_wf]

theorem State.repend_wf (hs : Memory.wf s.ms.mem) (v) : Memory.wf (s.repend v).ms.mem := by
  unfold State.repend
  grind [foldl_wf, State.migIrq_wf, State.faultIrq_wf]

theorem execIpendWrite_wf (hs : Memory.wf s.ms.mem) (w) (ht : execIpendWrite w s = .next u) : Memory.wf u.ms.mem := by
  unfold execIpendWrite at ht
  grind [State.repend_wf, State.setReg_wf]

/-! ### Traps -/

theorem execHeldRecordEnter_wf (hs : Memory.wf s.ms.mem) (slot) (ht : execHeldRecordEnter slot s = .next u) : Memory.wf u.ms.mem := by
  unfold execHeldRecordEnter at ht
  grind [State.ringPut_wf, State.tailLater_wf]

theorem State.setWin_wf (hs : Memory.wf s.ms.mem) (n x) : Memory.wf (s.setWin n x).ms.mem := by
  unfold State.setWin
  grind

theorem State.winLetGo_wf (hs : Memory.wf s.ms.mem) (n tok) : Memory.wf (s.winLetGo n tok).ms.mem := by
  unfold State.winLetGo
  grind [State.tell_wf]

theorem State.twsel_wf (hs : Memory.wf s.ms.mem) (n tok) : Memory.wf (s.twsel n tok).ms.mem := by
  unfold State.twsel
  grind [State.winLetGo_wf, State.setWin_wf, State.tell_wf]

theorem State.peerBind_wf (hs : Memory.wf s.ms.mem) (row col n tok) : Memory.wf (s.peerBind row col n tok).ms.mem := by
  unfold State.peerBind
  grind [State.setWin_wf, State.tellWin_wf]

theorem execTwselWrite_wf (hs : Memory.wf s.ms.mem) (w) (ht : execTwselWrite w s = .next u) : Memory.wf u.ms.mem := by
  unfold execTwselWrite at ht
  grind [State.twsel_wf]

theorem State.peerWindow_wf (hs : Memory.wf s.ms.mem) (n stat) : Memory.wf (s.peerWindow n stat).ms.mem := by
  unfold State.peerWindow
  grind [State.setWin_wf]

theorem execTwBindComplete_wf (hs : Memory.wf s.ms.mem) (win) (ht : execTwBindComplete win s = .next u) : Memory.wf u.ms.mem := by
  unfold execTwBindComplete at ht
  grind [State.tellWin_wf]

theorem State.twWrite_wf (hs : Memory.wf s.ms.mem) (n r val) : Memory.wf (s.twWrite n r val).ms.mem := by
  unfold State.twWrite
  dsimp only
  split
  · exact hs
  · split
    · exact State.tell_wf hs ..
    · exact hs
    · next k sp _ _ =>
      split
      · exact hs
      · next c _ =>
        have hput := State.setCtx_wf hs k.cid (c.twPut sp r val.toNat)
        generalize s.setCtx k.cid (c.twPut sp r val.toNat) = t at hput
        grind [State.setBlk_wf, State.writeImage_wf]

theorem execTwWrite_wf (hs : Memory.wf s.ms.mem) (w) (ht : execTwWrite w s = .next u) : Memory.wf u.ms.mem := by
  unfold execTwWrite at ht
  grind [State.twWrite_wf]

theorem State.peerWrite_wf (hs : Memory.wf s.ms.mem) (row col n r val) : Memory.wf (s.peerWrite row col n r val).ms.mem := by
  unfold State.peerWrite
  grind [State.twWrite_wf]

theorem State.peerRead_wf (hs : Memory.wf s.ms.mem) (row col n r) : Memory.wf (s.peerRead row col n r).ms.mem := by
  unfold State.peerRead
  grind [State.tell_wf]

theorem State.peerTrapAt_wf (hs : Memory.wf s.ms.mem) (lv f) : Memory.wf (s.peerTrapAt lv f).1.ms.mem := by
  unfold State.peerTrapAt
  grind [State.faultIrq_wf, State.setFld_wf, State.twsel_wf, State.twWrite_wf]

theorem State.peerTrap_wf (hs : Memory.wf s.ms.mem) (f) : Memory.wf (s.peerTrap f).ms.mem := by
  unfold State.peerTrap
  grind [State.peerTrapAt_wf]

theorem State.peerFault_wf (hs : Memory.wf s.ms.mem) (row col vdev hthr time) : Memory.wf (s.peerFault row col vdev hthr time).ms.mem := by
  unfold State.peerFault
  grind [State.intAppend_wf]

/-! ### Regs -/

theorem State.rcClear_wf (hs : Memory.wf s.ms.mem) (u1 off) : Memory.wf (s.rcClear u1 off).ms.mem := by
  unfold State.rcClear
  grind [State.setReg_wf]

theorem State.regStore_wf (hs : Memory.wf s.ms.mem) (w) : Memory.wf (s.regStore w).ms.mem := by
  unfold State.regStore
  grind

theorem State.drainPosts_wf (hs : Memory.wf s.ms.mem) : Memory.wf (s.drainPosts).ms.mem := by
  unfold State.drainPosts
  grind [foldl_wf, State.postComp_wf]

theorem State.enableIrqs_wf (hs : Memory.wf s.ms.mem) (v old new) : Memory.wf (s.enableIrqs v old new).ms.mem := by
  unfold State.enableIrqs
  grind [foldl_wf, State.intSend_wf]

theorem State.afterWrite_wf (hs : Memory.wf s.ms.mem) (off old new) : Memory.wf (s.afterWrite off old new).ms.mem := by
  unfold State.afterWrite
  grind [State.migIrq_wf, State.drainPosts_wf, State.faultIrq_wf, State.saveMore_wf, State.enableIrqs_wf]

theorem State.budgetPart_wf (hs : Memory.wf s.ms.mem) (w) : Memory.wf (s.budgetPart w).ms.mem := by
  unfold State.budgetPart
  grind [State.budgetWrite_wf]

theorem execRegisterWrite_wf (hs : Memory.wf s.ms.mem) (w) (ht : execRegisterWrite w s = .next u) : Memory.wf u.ms.mem := by
  unfold execRegisterWrite at ht
  grind [State.mailCommand_wf, State.budgetPart_wf, State.afterWrite_wf, State.setReg_wf]

/-! ### Serve -/

theorem State.noteG_wf (hs : Memory.wf s.ms.mem) (r g) : Memory.wf (s.noteG r g).ms.mem := by
  unfold State.noteG
  grind [State.setCtx_wf]

theorem State.fall8_wf (hs : Memory.wf s.ms.mem) (r) : Memory.wf (s.fall8 r).ms.mem := by
  unfold State.fall8
  grind [State.setCtx_wf]

theorem State.endReq_wf (hs : Memory.wf s.ms.mem) (id r st) : Memory.wf (s.endReq id r st).ms.mem := by
  unfold State.endReq
  grind [State.setReq_wf, State.noteG_wf, State.fall8_wf, State.fallRmt_wf, State.settleAcc_wf]

theorem State.fixHeld_wf (hs : Memory.wf s.ms.mem) (r t) : Memory.wf (s.fixHeld r t).1.ms.mem := by
  unfold State.fixHeld
  grind [State.fixRuns_wf]

theorem State.landReq_wf (hs : Memory.wf s.ms.mem) (id r x) (ht : s.landReq id r x = some u) : Memory.wf u.ms.mem := by
  unfold State.landReq at ht
  grind [State.endReq_wf, State.setReq_wf, State.fixHeld_wf]

theorem State.drawWin_wf (hs : Memory.wf s.ms.mem) (off) : Memory.wf (s.drawWin off).ms.mem := by
  unfold State.drawWin
  grind

theorem State.serveReg_wf (hs : Memory.wf s.ms.mem) (id r) : Memory.wf (s.serveReg id r).ms.mem := by
  rw [State.serveReg]
  split
  · exact State.endReq_wf hs ..
  · split
    · exact State.endReq_wf (State.regStore_wf hs _) ..
    · exact State.endReq_wf (State.drawWin_wf hs _) ..

theorem State.serveRc_wf (hs : Memory.wf s.ms.mem) (name id ok) (ht : s.serveRc name id ok = .next u) : Memory.wf u.ms.mem := by
  unfold State.serveRc at ht
  grind [State.endReq_wf, State.rcClear_wf]

theorem State.serveFab_wf (hs : Memory.wf s.ms.mem) (id r pace) (ht : s.serveFab id r pace = some u) : Memory.wf u.ms.mem := by
  unfold State.serveFab at ht
  grind [State.endReq_wf, State.fabPerform_wf, State.setReq_wf, State.landReq_wf]

theorem State.serveBank_wf (hs : Memory.wf s.ms.mem) (id r c) (ht : s.serveBank id r c = some u) : Memory.wf u.ms.mem := by
  unfold State.serveBank at ht
  grind [State.endReq_wf, State.setBlk_wf]

theorem State.translateReq_wf (hs : Memory.wf s.ms.mem) (c r) : Memory.wf (s.translateReq c r).ms.mem := by
  unfold State.translateReq
  grind [foldl_wf, State.translate_wf]

theorem State.aliasHold_wf (hs : Memory.wf s.ms.mem) (c id r) : Memory.wf (s.aliasHold c id r).1.ms.mem := by
  unfold State.aliasHold
  grind [foldl_wf, State.translateReq_wf]

theorem State.shareVia_wf (hs : Memory.wf s.ms.mem) (r j) : Memory.wf (s.shareVia r j).ms.mem := by
  unfold State.shareVia
  grind [State.setReq_wf]

theorem State.shareFate_wf (hs : Memory.wf s.ms.mem) (id js) : Memory.wf (s.shareFate id js).ms.mem := by
  unfold State.shareFate
  grind [foldl_wf, State.endReq_wf, State.shareVia_wf]

theorem State.serveThread_wf (hs : Memory.wf s.ms.mem) (id r pace) (ht : s.serveThread id r pace = some u) : Memory.wf u.ms.mem := by
  unfold State.serveThread at ht
  grind [State.serveReg_wf, State.serveBank_wf, State.aliasHold_wf, State.serveFab_wf, State.performReq_wf, State.landReq_wf]

theorem State.servePtr_wf (hs : Memory.wf s.ms.mem) (id r pace) (ht : s.servePtr id r pace = some u) : Memory.wf u.ms.mem := by
  unfold State.servePtr at ht
  grind [State.serveThread_wf, State.shareFate_wf]

theorem landHub_wf {x2 : Option (State × HaRes)} (hx2 : ∀ t y, x2 = some (t, y) → Memory.wf t.ms.mem) (id r)
    (ht : landHub id r x2 = some u) : Memory.wf u.ms.mem := by
  unfold landHub at ht
  grind [State.landReq_wf]

theorem State.answerFar_wf (hs : Memory.wf s.ms.mem) (a g) : Memory.wf (s.answerFar a g).ms.mem := by
  unfold State.answerFar
  grind

theorem State.farDone_wf (hs : Memory.wf s.ms.mem) (k n x3) (ht : s.farDone k n x3 = some u) : Memory.wf u.ms.mem := by
  unfold State.farDone at ht
  grind [State.answerFar_wf]

theorem State.serveFar_wf (hs : Memory.wf s.ms.mem) (id r pace) (ht : s.serveFar id r pace = some u) : Memory.wf u.ms.mem := by
  unfold State.serveFar at ht
  grind [State.fabPerform_wf, State.farDone_wf, State.landReq_wf]

theorem execFabricAccessArrive_wf (hs : Memory.wf s.ms.mem) (f) (ht : execFabricAccessArrive f s = .next u) : Memory.wf u.ms.mem := by
  have hserve := State.fabServe_wf hs f.srow f.scol f.svdev f.off (fabReq f) (fabOp f)
  unfold execFabricAccessArrive at ht
  grind [getD_wf, State.farDone_wf, State.addReq_wf, State.landReq_wf]

theorem State.serveRead_wf (hs : Memory.wf s.ms.mem) (id pace) (ht : s.serveRead id pace = some u) : Memory.wf u.ms.mem := by
  unfold State.serveRead at ht
  grind [landHub_wf, State.fillLine_wf, State.collReadStep_wf, State.engReadStep_wf, State.serveFar_wf, State.servePtr_wf]

theorem State.serveWrite_wf (hs : Memory.wf s.ms.mem) (id pace) (ht : s.serveWrite id pace = some u) : Memory.wf u.ms.mem := by
  unfold State.serveWrite at ht
  grind [landHub_wf, State.collSignal_wf, State.engWriteStep_wf, State.unpinStep_wf, State.landReq_wf, State.sigStep_wf, State.serveFar_wf,
    State.serveKvu_wf, State.servePtr_wf]

theorem execHaRead_wf (hs : Memory.wf s.ms.mem) (id) (ht : execHaRead id s = .next u) : Memory.wf u.ms.mem := by
  unfold execHaRead at ht
  grind [State.serveRead_wf]

theorem execHaWrite_wf (hs : Memory.wf s.ms.mem) (id) (ht : execHaWrite id s = .next u) : Memory.wf u.ms.mem := by
  unfold execHaWrite at ht
  grind [State.serveWrite_wf]

theorem execEloglostRead_wf (hs : Memory.wf s.ms.mem) (id) (ht : execEloglostRead id s = .next u) : Memory.wf u.ms.mem := by
  unfold execEloglostRead at ht
  grind [State.serveRc_wf]

theorem execQevtRead_wf (hs : Memory.wf s.ms.mem) (id) (ht : execQevtRead id s = .next u) : Memory.wf u.ms.mem := by
  unfold execQevtRead at ht
  grind [State.serveRc_wf]

theorem execIovfRead_wf (hs : Memory.wf s.ms.mem) (id) (ht : execIovfRead id s = .next u) : Memory.wf u.ms.mem := by
  unfold execIovfRead at ht
  grind [State.serveRc_wf]

theorem execPrestatRead_wf (hs : Memory.wf s.ms.mem) (id) (ht : execPrestatRead id s = .next u) : Memory.wf u.ms.mem := by
  unfold execPrestatRead at ht
  grind [State.serveRc_wf]

theorem State.serveSide_wf (hs : Memory.wf s.ms.mem) (id r) (ht : s.serveSide id r = some u) : Memory.wf u.ms.mem := by
  unfold State.serveSide at ht
  grind [State.setReq_wf, State.serveRead_wf, State.serveWrite_wf]

theorem execSideQueueRelease_wf (hs : Memory.wf s.ms.mem) (key) (ht : execSideQueueRelease key s = .next u) : Memory.wf u.ms.mem := by
  unfold execSideQueueRelease at ht
  dsimp only at ht
  split at ht
  · cases ht
  · split at ht
    · cases ht
    · split at ht
      · cases ht
        exact hs
      · split at ht
        · next hserve =>
          cases ht
          exact State.serveSide_wf (withSide_wf hs _) _ _ hserve
        · cases ht

theorem execGangPeerAccess_wf (hs : Memory.wf s.ms.mem) (id) (ht : execGangPeerAccess id s = .next u) : Memory.wf u.ms.mem := by
  unfold execGangPeerAccess at ht
  grind [State.endReq_wf, State.setBlk_wf]

theorem State.engAnswer_wf (hs : Memory.wf s.ms.mem) (id op r a) (ht : s.engAnswer id op r a = some u) : Memory.wf u.ms.mem := by
  unfold State.engAnswer at ht
  grind [State.engReply_wf]

theorem State.fabReply_wf (hs : Memory.wf s.ms.mem) (id a) (ht : s.fabReply id a = some u) : Memory.wf u.ms.mem := by
  unfold State.fabReply at ht
  grind [State.engAnswer_wf, State.setReq_wf, State.endReq_wf]

theorem State.carry_wf (hs : Memory.wf s.ms.mem) : Memory.wf (s.carry).ms.mem := by
  unfold State.carry
  grind

theorem State.fabAnswer_wf (hs : Memory.wf s.ms.mem) (id a) (ht : s.fabAnswer id a = some u) : Memory.wf u.ms.mem := by
  unfold State.fabAnswer at ht
  grind [State.fabReply_wf]

theorem execRemoteWriteAck_wf (hs : Memory.wf s.ms.mem) (id a) (ht : execRemoteWriteAck id a s = .next u) : Memory.wf u.ms.mem := by
  have hans (r) : s.fabAnswer id a = some r → Memory.wf r.ms.mem := State.fabAnswer_wf hs id a
  have hend {r : State} (hr : Memory.wf r.ms.mem) (q st) : Memory.wf (r.endReq id q st).ms.mem := State.endReq_wf hr id q st
  unfold execRemoteWriteAck at ht
  split at ht
  · cases ht
  · split at ht
    · grind
    · grind
    · grind

theorem State.engLost_wf (hs : Memory.wf s.ms.mem) (rid id r o pa) : Memory.wf (s.engLost rid id r o pa).ms.mem := by
  unfold State.engLost
  grind [State.lostLine_wf, State.engDone_wf, State.setOp_wf, State.engWrote_wf, State.collFault_wf, State.engTook_wf]

theorem execLinkTimeout_wf (hs : Memory.wf s.ms.mem) (id) (ht : execLinkTimeout id s = .next u) : Memory.wf u.ms.mem := by
  have hlost (pa dev) : Memory.wf (s.lostLine pa dev).ms.mem := State.lostLine_wf hs pa dev
  unfold execLinkTimeout at ht
  extract_lets no at ht
  have hno : no ≠ .next u := by simp [no]
  split at ht
  · exact absurd ht hno
  · extract_lets late isOpen at ht
    dsimp only at ht
    split at ht
    · exact absurd ht hno
    · split at ht
      · split at ht
        · exact absurd ht hno
        · split at ht
          · split at ht
            · exact absurd ht hno
            · cases ht
              exact State.engLost_wf hs ..
          · split at ht
            · exact absurd ht hno
            · split at ht
              · next hrep =>
                cases ht
                exact State.fabReply_wf hs _ _ hrep
              · exact absurd ht hno
      · split at ht
        · split at ht
          · exact absurd ht hno
          · cases ht
            exact State.fillTook_wf (hlost ..) ..
        · exact absurd ht hno
      · split at ht
        · split at ht
          · exact absurd ht hno
          · cases ht
            exact State.endReq_wf hs ..
        · split at ht
          · exact absurd ht hno
          · split at ht
            · exact absurd ht hno
            · split at ht
              · cases ht
                exact hlost ..
              · split at ht
                · cases ht
                  exact State.endReq_wf (hlost ..) ..
                · cases ht
                  exact State.endReq_wf (hlost ..) ..

theorem execReleaseWaitEnd_wf (hs : Memory.wf s.ms.mem) (w) (ht : execReleaseWaitEnd w s = .next u) : Memory.wf u.ms.mem := by
  have hgo (c) : Memory.wf (s.setCtx w.cid c).ms.mem := State.setCtx_wf hs ..
  unfold execReleaseWaitEnd at ht
  dsimp only at ht
  split at ht
  · cases ht
  · split at ht
    · cases ht
    · split at ht
      · split at ht
        · cases ht
          exact hgo _
        · cases ht
      · split at ht
        · cases ht
          exact hgo _
        · cases ht
      · split at ht
        · cases ht
        · split at ht
          · next hserve =>
            cases ht
            split at hserve
            · exact State.serveWrite_wf hs _ _ hserve
            · exact State.serveRead_wf hs _ _ hserve
          · cases ht

/-! ### Auto -/

/-- The event tried that is performed first keeps memory canonical. -/
theorem tryEvents_wf {ex : Instr → State → Out} (hex : ∀ i s t, Memory.wf s.ms.mem → ex i s = .next t → Memory.wf t.ms.mem)
    (hs : Memory.wf s.ms.mem) (is) (ht : tryEvents ex s is = some (.next u)) : Memory.wf u.ms.mem := by
  induction is with
  | nil => cases ht
  | cons i is ih =>
    unfold tryEvents at ht
    split at ht
    · next hi =>
      cases ht
      exact hex _ _ _ hs hi
    · exact ih ht

theorem State.autoStep_wf {ex : Instr → State → Out} (hex : ∀ i s t, Memory.wf s.ms.mem → ex i s = .next t → Memory.wf t.ms.mem)
    (hs : Memory.wf s.ms.mem) (ht : s.autoStep ex = .next u) : Memory.wf u.ms.mem := by
  have hend := State.endHolds_wf hex hs
  have hpick (cid k) : (s.endHolds ex).runThread ex cid k = .next u → Memory.wf u.ms.mem := State.runThread_wf hex hend cid k
  unfold State.autoStep at ht
  dsimp only at ht
  split at ht
  · split at ht
    · next htry =>
      subst ht
      exact tryEvents_wf hex hend _ htry
    · split at ht
      · exact hpick _ _ ht
      · cases ht
        exact hend
  · split at ht
    · exact hpick _ _ ht
    · cases htry : tryEvents ex (s.endHolds ex) (s.endHolds ex).dueOrder with
      | none =>
        rw [htry] at ht
        cases ht
        exact hend
      | some r =>
        rw [htry] at ht
        subst ht
        exact tryEvents_wf hex hend _ htry

theorem State.doTodo_wf {ex : Instr → State → Out} (hex : ∀ i s t, Memory.wf s.ms.mem → ex i s = .next t → Memory.wf t.ms.mem) (hs
    : Memory.wf s.ms.mem) (i) (ht : s.doTodo ex i = .next u) : Memory.wf u.ms.mem := by
  unfold State.doTodo at ht
  grind

theorem doAll_wf {ex : Instr → State → Out} (hex : ∀ i s t, Memory.wf s.ms.mem → ex i s = .next t → Memory.wf t.ms.mem) (hs
    : Memory.wf s.ms.mem) (is) : Memory.wf (doAll ex s is).ms.mem := by
  unfold doAll
  grind [foldl_wf]

theorem State.turn_wf {ex : Instr → State → Out} (hex : ∀ i s t, Memory.wf s.ms.mem → ex i s = .next t → Memory.wf t.ms.mem)
    (hs : Memory.wf s.ms.mem) (x) (ht : s.turn ex x = .next u) : Memory.wf u.ms.mem := by
  unfold State.turn at ht
  grind [getD_wf, State.runThread_wf, State.fabAnswer_wf, State.carry_wf, State.rectAnswer_wf, State.rectRoutes_wf, State.rectRelease_wf,
    State.rectKill_wf, State.collSpoil_wf, State.collRefusal_wf, State.peerTrap_wf, State.peerTresume_wf, State.peerFault_wf,
    State.peerBind_wf, State.peerWrite_wf, State.peerRead_wf, State.peerWindow_wf, State.noteMargin_wf]

theorem State.runStep_wf {ex : Instr → State → Out} (hex : ∀ i s t, Memory.wf s.ms.mem → ex i s = .next t → Memory.wf t.ms.mem) (hs
    : Memory.wf s.ms.mem) {next : State → Out} (hnext : ∀ s t, Memory.wf s.ms.mem → next s = .next t → Memory.wf t.ms.mem)
      (ht : s.runStep ex next = .next u) : Memory.wf u.ms.mem := by
  unfold State.runStep at ht
  grind [doAll_wf]

theorem State.stillStep_wf {ex : Instr → State → Out} (hex : ∀ i s t, Memory.wf s.ms.mem → ex i s = .next t → Memory.wf t.ms.mem)
    (hs : Memory.wf s.ms.mem) (ht : s.stillStep ex = .next u) : Memory.wf u.ms.mem := by
  unfold State.stillStep at ht
  split at ht
  · exact State.doTodo_wf hex (withTodo_wf hs _) _ ht
  · split at ht
    · exact hex _ _ _ (withAgenda_wf hs _) ht
    · cases ht
      exact hs

theorem State.stepWith_wf {ex : Instr → State → Out} (hex : ∀ i s t, Memory.wf s.ms.mem → ex i s = .next t → Memory.wf t.ms.mem)
    (hs : Memory.wf s.ms.mem) (ht : s.stepWith ex = .next u) : Memory.wf u.ms.mem := by
  unfold State.stepWith at ht
  split at ht
  · exact State.stillStep_wf hex hs ht
  · exact State.stillStep_wf hex hs ht
  · exact State.doTodo_wf hex (withTodo_wf hs _) _ ht
  · exact State.runStep_wf hex (State.tick_wf hs) (fun s t hs ht => State.turn_wf hex (withAgenda_wf hs _) _ ht) ht
  · exact State.runStep_wf hex (State.tick_wf hs) (fun s t hs ht => State.autoStep_wf hex hs ht) ht

/-! ### Errors -/

theorem execRefreshWindowEnd_wf (hs : Memory.wf s.ms.mem) (ctl) (ht : execRefreshWindowEnd ctl s = .next u) : Memory.wf u.ms.mem := by
  unfold execRefreshWindowEnd at ht
  grind

theorem execCorrectableError_wf (hs : Memory.wf s.ms.mem) (ctl pa) (ht : execCorrectableError ctl pa s = .next u) : Memory.wf u.ms.mem := by
  unfold execCorrectableError at ht
  grind [State.errorLog_wf]

theorem execPatrolScrub_wf (hs : Memory.wf s.ms.mem) (pa bad) (ht : execPatrolScrub pa bad s = .next u) : Memory.wf u.ms.mem := by
  unfold execPatrolScrub at ht
  grind [State.poisonLine_wf]

theorem execUncorrectableError_wf (hs : Memory.wf s.ms.mem) (pa vdev cls) (ht : execUncorrectableError pa vdev cls s = .next u)
    : Memory.wf u.ms.mem := by
  unfold execUncorrectableError at ht
  grind [State.poisonLine_wf]

/-- Every instruction and every event keeps memory canonical. -/
theorem exec_wf (i : Instr) (s u : State) (hs : Memory.wf s.ms.mem) (ht : exec i s = .next u) : Memory.wf u.ms.mem := by
  cases i with
  | add o t sat => exact execAdd_wf hs o t sat ht
  | sub o t sat => exact execSub_wf hs o t sat ht
  | mul o t sat => exact execMul_wf hs o t sat ht
  | mulhi o t => exact execMulhi_wf hs o t ht
  | mad o t sat => exact execMad_wf hs o t sat ht
  | div o t => exact execDiv_wf hs o t ht
  | rem o t => exact execRem_wf hs o t ht
  | min o t => exact execMin_wf hs o t ht
  | max o t => exact execMax_wf hs o t ht
  | abs o t sat => exact execAbs_wf hs o t sat ht
  | neg o t sat => exact execNeg_wf hs o t sat ht
  | and o t => exact execAnd_wf hs o t ht
  | or o t => exact execOr_wf hs o t ht
  | xor o t => exact execXor_wf hs o t ht
  | not o t => exact execNot_wf hs o t ht
  | shl o t => exact execShl_wf hs o t ht
  | shr o t => exact execShr_wf hs o t ht
  | sar o t => exact execSar_wf hs o t ht
  | rol o t => exact execRol_wf hs o t ht
  | ror o t => exact execRor_wf hs o t ht
  | bfx o t => exact execBfx_wf hs o t ht
  | bfi o t => exact execBfi_wf hs o t ht
  | popc o t => exact execPopc_wf hs o t ht
  | clz o t => exact execClz_wf hs o t ht
  | ctz o t => exact execCtz_wf hs o t ht
  | brev o t => exact execBrev_wf hs o t ht
  | sel o t => exact execSel_wf hs o t ht
  | mov o t => exact execMov_wf hs o t ht
  | lea o t sh => exact execLea_wf hs o t sh ht
  | cmp o t cc => exact execCmp_wf hs o t cc ht
  | pand o nb => exact execPand_wf hs o nb ht
  | por o nb => exact execPor_wf hs o nb ht
  | pxor o nb => exact execPxor_wf hs o nb ht
  | pnot o => exact execPnot_wf hs o ht
  | ixset o => exact execIxset_wf hs o ht
  | ixinc o => exact execIxinc_wf hs o ht
  | ixget o => exact execIxget_wf hs o ht
  | rgrow o => exact execRgrow_wf hs o ht
  | rshrink o => exact execRshrink_wf hs o ht
  | fadd o t rm => exact execFadd_wf hs o t rm ht
  | fsub o t rm => exact execFsub_wf hs o t rm ht
  | fmul o t rm => exact execFmul_wf hs o t rm ht
  | ffma o t rm => exact execFfma_wf hs o t rm ht
  | fmin o t => exact execFmin_wf hs o t ht
  | fmax o t => exact execFmax_wf hs o t ht
  | fabs o t => exact execFabs_wf hs o t ht
  | fneg o t => exact execFneg_wf hs o t ht
  | fcmp o t cc => exact execFcmp_wf hs o t cc ht
  | fcvt o t src rm q => exact execFcvt_wf hs o t src rm q ht
  | fcvti o t src rm q => exact execFcvti_wf hs o t src rm q ht
  | icvtf o t src rm q => exact execIcvtf_wf hs o t src rm q ht
  | frnd o t rm => exact execFrnd_wf hs o t rm ht
  | fclass o t => exact execFclass_wf hs o t ht
  | frcp o t => exact execFrcp_wf hs o t ht
  | frsqrt o t => exact execFrsqrt_wf hs o t ht
  | fsqrt o t rm => exact execFsqrt_wf hs o t rm ht
  | fexp2 o t => exact execFexp2_wf hs o t ht
  | flog2 o t => exact execFlog2_wf hs o t ht
  | fsin o t => exact execFsin_wf hs o t ht
  | fcos o t => exact execFcos_wf hs o t ht
  | ftanh o t => exact execFtanh_wf hs o t ht
  | fdiv o t rm => exact execFdiv_wf hs o t rm ht
  | hadd o sat => exact execHadd_wf hs o sat ht
  | hsub o sat => exact execHsub_wf hs o sat ht
  | hmul o sat => exact execHmul_wf hs o sat ht
  | hmad o sat => exact execHmad_wf hs o sat ht
  | hmin o => exact execHmin_wf hs o ht
  | hmax o => exact execHmax_wf hs o ht
  | hsar o rnd => exact execHsar_wf hs o rnd ht
  | hclamp o => exact execHclamp_wf hs o ht
  | pxunpk o w => exact execPxunpk_wf hs o w ht
  | pxpack o w => exact execPxpack_wf hs o w ht
  | perm o t m => exact execPerm_wf hs o t m ht
  | lmask o m => exact execLmask_wf hs o m ht
  | lgrp o t m => exact execLgrp_wf hs o t m ht
  | lred o t op => exact execLred_wf hs o t op ht
  | lpre o t op => exact execLpre_wf hs o t op ht
  | kaclr o => exact execKaclr_wf hs o ht
  | kaadd o => exact execKaadd_wf hs o ht
  | kamad o => exact execKamad_wf hs o ht
  | karead o t rm => exact execKaread_wf hs o t rm ht
  | kast o ord sc => exact execKast_wf hs o ord sc ht
  | kald o ord sc => exact execKald_wf hs o ord sc ht
  | kaaddm o ord sc => exact execKaaddm_wf hs o ord sc ht
  | ld o t ord sc => exact execLd_wf hs o t ord sc ht
  | st o t ord sc => exact execSt_wf hs o t ord sc ht
  | atom o t op ord sc => exact execAtom_wf hs o t op ord sc ht
  | red o t op ord sc => exact execRed_wf hs o t op ord sc ht
  | cas o w ord sc => exact execCas_wf hs o w ord sc ht
  | fence o ord sc => exact execFence_wf hs o ord sc ht
  | prefetch o lv => exact execPrefetch_wf hs o lv ht
  | waitAc o ac => exact execWaitAc_wf hs o ac ht
  | accLd o t rm => exact execAccLd_wf hs o t rm ht
  | bra o tgt j => exact execBra_wf hs o tgt j ht
  | brx o j => exact execBrx_wf hs o j ht
  | call o tgt => exact execCall_wf hs o tgt ht
  | callx o => exact execCallx_wf hs o ht
  | ret o => exact execRet_wf hs o ht
  | join o => exact execJoin_wf hs o ht
  | joinT o => exact execJoinT_wf hs o ht
  | exit o => exact execExit_wf hs o ht
  | nop o => exact execNop_wf hs o ht
  | mma o fa fb tile z => exact execMma_wf hs o fa fb tile z ht
  | mmas o fa fb tile z mx => exact execMmas_wf hs o fa fb tile z mx ht
  | mmx o fa fb tile z => exact execMmx_wf hs o fa fb tile z ht
  | mmt o fa fb tile z => exact execMmt_wf hs o fa fb tile z ht
  | accClr o tiles => exact execAccClr_wf hs o tiles ht
  | accIn o t tile => exact execAccIn_wf hs o t tile ht
  | accOut o t rm tile => exact execAccOut_wf hs o t rm tile ht
  | accCvt o kd rm tile sh => exact execAccCvt_wf hs o kd rm tile sh ht
  | mrpRd o => exact execMrpRd_wf hs o ht
  | mrpWr o => exact execMrpWr_wf hs o ht
  | rsdAlloc o => exact execRsdAlloc_wf hs o ht
  | rsdLoad o shard => exact execRsdLoad_wf hs o shard ht
  | rsdPin o => exact execRsdPin_wf hs o ht
  | rsdUnpin o => exact execRsdUnpin_wf hs o ht
  | rsdFree o => exact execRsdFree_wf hs o ht
  | rsdQuery o => exact execRsdQuery_wf hs o ht
  | treeClr o => exact execTreeClr_wf hs o ht
  | treeAdd o => exact execTreeAdd_wf hs o ht
  | treeMask o => exact execTreeMask_wf hs o ht
  | treePos o => exact execTreePos_wf hs o ht
  | treeAccept o => exact execTreeAccept_wf hs o ht
  | treePrune o => exact execTreePrune_wf hs o ht
  | treeRd o => exact execTreeRd_wf hs o ht
  | kvFind o => exact execKvFind_wf hs o ht
  | kvInsert o => exact execKvInsert_wf hs o ht
  | kvDelete o => exact execKvDelete_wf hs o ht
  | cpy o chg => exact execCpy_wf hs o chg ht
  | cpy2d o chg e => exact execCpy2d_wf hs o chg e ht
  | dcx o chg f e => exact execDcx_wf hs o chg f e ht
  | srd o chg => exact execSrd_wf hs o chg ht
  | coll o chg kd op ct wcls sig e => exact execColl_wf hs o chg kd op ct wcls sig e ht
  | launch o => exact execLaunch_wf hs o ht
  | barArrive o n => exact execBarArrive_wf hs o n ht
  | barWait o n => exact execBarWait_wf hs o n ht
  | dqPush o => exact execDqPush_wf hs o ht
  | dqPop o p => exact execDqPop_wf hs o p ht
  | gangArrive o n => exact execGangArrive_wf hs o n ht
  | gangWait o n => exact execGangWait_wf hs o n ht
  | tierHint o => exact execTierHint_wf hs o ht
  | tierPin o => exact execTierPin_wf hs o ht
  | tierUnpin o => exact execTierUnpin_wf hs o ht
  | tierQuery o => exact execTierQuery_wf hs o ht
  | trap o c q => exact execTrap_wf hs o c q ht
  | svc o n => exact execSvc_wf hs o n ht
  | brk o n => exact execBrk_wf hs o n ht
  | tresume o e => exact execTresume_wf hs o e ht
  | wrpriv o num => exact execWrpriv_wf hs o num ht
  | rdpriv o num => exact execRdpriv_wf hs o num ht
  | rdctr o n => exact execRdctr_wf hs o n ht
  | variableLatencyResult cid n => exact execVariableLatencyResult_wf hs cid n ht
  | accessConfirm w => exact execAccessConfirm_wf hs w ht
  | haRead id => exact execHaRead_wf hs id ht
  | haWrite id => exact execHaWrite_wf hs id ht
  | counterWriteback key => exact execCounterWriteback_wf hs key ht
  | migAccept => exact execMigAccept_wf hs ht
  | chunkCopy f => exact execChunkCopy_wf hs f ht
  | catchSwap f => exact execCatchSwap_wf hs f ht
  | catchTimeout f => exact execCatchTimeout_wf hs f ht
  | catchRetry f => exact execCatchRetry_wf hs f ht
  | migRetire f => exact execMigRetire_wf hs f ht
  | pinRetry => exact execPinRetry_wf hs ht
  | potcmdRequest w => exact execPotcmdRequest_wf hs w ht
  | potcmdForce w => exact execPotcmdForce_wf hs w ht
  | potcmdBadcmd w => exact execPotcmdBadcmd_wf hs w ht
  | handoverCommit ppn => exact execHandoverCommit_wf hs ppn ht
  | handoverTimeout => exact execHandoverTimeout_wf hs ht
  | sideQueueRelease key => exact execSideQueueRelease_wf hs key ht
  | eloglostRead id => exact execEloglostRead_wf hs id ht
  | fillComplete vdev h => exact execFillComplete_wf hs vdev h ht
  | rebuildComplete vdev h => exact execRebuildComplete_wf hs vdev h ht
  | rdtMirrorWrite vdev h => exact execRdtMirrorWrite_wf hs vdev h ht
  | rcmdRevoke w => exact execRcmdRevoke_wf hs w ht
  | rcmdRevokeAll w => exact execRcmdRevokeAll_wf hs w ht
  | rcmdBadcmd w => exact execRcmdBadcmd_wf hs w ht
  | rquotaWrite w => exact execRquotaWrite_wf hs w ht
  | kvUpdate w => exact execKvUpdate_wf hs w ht
  | quarantineRelease n => exact execQuarantineRelease_wf hs n ht
  | launchTake q => exact execLaunchTake_wf hs q ht
  | tailWatch q => exact execTailWatch_wf hs q ht
  | blockStart l => exact execBlockStart_wf hs l ht
  | blockRetire b => exact execBlockRetire_wf hs b ht
  | joinTimeout w => exact execJoinTimeout_wf hs w ht
  | segmentRelocation core => exact execSegmentRelocation_wf hs core ht
  | rgrowGrant cid => exact execRgrowGrant_wf hs cid ht
  | rgrowDeny core => exact execRgrowDeny_wf hs core ht
  | gangPeerAccess id => exact execGangPeerAccess_wf hs id ht
  | remoteWriteAck id r => exact execRemoteWriteAck_wf hs id r ht
  | engineCountOut id => exact execEngineCountOut_wf hs id ht
  | nvmeTimeout id cmd => exact execNvmeTimeout_wf hs id cmd ht
  | chcfgWrite w => exact execChcfgWrite_wf hs w ht
  | collDeadline c => exact execCollDeadline_wf hs c ht
  | collNodecision c => exact execCollNodecision_wf hs c ht
  | qcfgWrite w => exact execQcfgWrite_wf hs w ht
  | qevtRead id => exact execQevtRead_wf hs id ht
  | oppStable die => exact execOppStable_wf hs die ht
  | rectClaimTimeout l member => exact execRectClaimTimeout_wf hs l member ht
  | rectStart l => exact execRectStart_wf hs l ht
  | heldRecordEnter slot => exact execHeldRecordEnter_wf hs slot ht
  | twselWrite w => exact execTwselWrite_wf hs w ht
  | twBindComplete win => exact execTwBindComplete_wf hs win ht
  | twWrite w => exact execTwWrite_wf hs w ht
  | sliceEnd cl => exact execSliceEnd_wf hs cl ht
  | saveComplete b => exact execSaveComplete_wf hs b ht
  | blockResume b => exact execBlockResume_wf hs b ht
  | preemptDeadline cl => exact execPreemptDeadline_wf hs cl ht
  | reconfigCommand w => exact execReconfigCommand_wf hs w ht
  | reconfigDone dev => exact execReconfigDone_wf hs dev ht
  | qkill w => exact execQkill_wf hs w ht
  | rreset w => exact execRreset_wf hs w ht
  | ipendWrite w => exact execIpendWrite_wf hs w ht
  | iovfRead id => exact execIovfRead_wf hs id ht
  | prestatRead id => exact execPrestatRead_wf hs id ht
  | halarmExpiry n => exact execHalarmExpiry_wf hs n ht
  | keyOff w => exact execKeyOff_wf hs w ht
  | keyXts w => exact execKeyXts_wf hs w ht
  | keyPlain w => exact execKeyPlain_wf hs w ht
  | keyBadcmd w => exact execKeyBadcmd_wf hs w ht
  | htcmdStart w => exact execHtcmdStart_wf hs w ht
  | htcmdStop w => exact execHtcmdStop_wf hs w ht
  | htcmdSwap w => exact execHtcmdSwap_wf hs w ht
  | htcmdBadcmd w => exact execHtcmdBadcmd_wf hs w ht
  | htcmdStopDone n => exact execHtcmdStopDone_wf hs n ht
  | fwinWrite w => exact execFwinWrite_wf hs w ht
  | linkTimeout id => exact execLinkTimeout_wf hs id ht
  | identity nonce => exact execIdentity_wf hs nonce ht
  | cert n => exact execCert_wf hs n ht
  | freeze => exact execFreeze_wf hs ht
  | thaw => exact execThaw_wf hs ht
  | scan c w => exact execScan_wf hs c w ht
  | coldresetCmd => exact execColdresetCmd_wf hs ht
  | update img => exact execUpdate_wf hs img ht
  | commit => exact execCommit_wf hs ht
  | key0 mode => exact execKey0_wf hs mode ht
  | setcfg rec => exact execSetcfg_wf hs rec ht
  | registerWrite w => exact execRegisterWrite_wf hs w ht
  | collCommit c => exact execCollCommit_wf hs c ht
  | collAbortDecision c qual => exact execCollAbortDecision_wf hs c qual ht
  | rectClaim r => exact execRectClaim_wf hs r ht
  | rectRouteReport l member good => exact execRectRouteReport_wf hs l member good ht
  | lineFetch w => exact execLineFetch_wf hs w ht
  | translationLeaseExpiry key => exact execTranslationLeaseExpiry_wf hs key ht
  | leaseRenewal key => exact execLeaseRenewal_wf hs key ht
  | leaseExpiry key => exact execLeaseExpiry_wf hs key ht
  | ownershipRequest die asid va vdev => exact execOwnershipRequest_wf hs die asid va vdev ht
  | ownershipRecall line => exact execOwnershipRecall_wf hs line ht
  | ownershipExpiry line => exact execOwnershipExpiry_wf hs line ht
  | l2Eviction line => exact execL2Eviction_wf hs line ht
  | directoryDrop line => exact execDirectoryDrop_wf hs line ht
  | handoverRequest ppn frm => exact execHandoverRequest_wf hs ppn frm ht
  | handoverReply ppn refused owner seq => exact execHandoverReply_wf hs ppn refused owner seq ht
  | refreshWindowEnd ctl => exact execRefreshWindowEnd_wf hs ctl ht
  | correctableError ctl pa => exact execCorrectableError_wf hs ctl pa ht
  | patrolScrub pa bad => exact execPatrolScrub_wf hs pa bad ht
  | uncorrectableError pa vdev cls => exact execUncorrectableError_wf hs pa vdev cls ht
  | cellError vdev h => exact execCellError_wf hs vdev h ht
  | kvLookupRestart w => exact execKvLookupRestart_wf hs w ht
  | nvmeCompletion id cmd status data => exact execNvmeCompletion_wf hs id cmd status data ht
  | collData c rank m => exact execCollData_wf hs c rank m ht
  | collReady c rank => exact execCollReady_wf hs c rank ht
  | collAbortRequest c qual => exact execCollAbortRequest_wf hs c qual ht
  | rectMemberRetire l member => exact execRectMemberRetire_wf hs l member ht
  | fabricAccessArrive f => exact execFabricAccessArrive_wf hs f ht
  | flowStop port tc => exact execFlowStop_wf hs port tc ht
  | flowGo port tc => exact execFlowGo_wf hs port tc ht
  | linkStateChange port width speed => exact execLinkStateChange_wf hs port width speed ht
  | laneMarginRemove port => exact execLaneMarginRemove_wf hs port ht
  | thermalStep die => exact execThermalStep_wf hs die ht
  | thermtrip => exact execThermtrip_wf hs ht
  | coldReset => exact execColdReset_wf hs ht
  | tftpRetry img => exact execTftpRetry_wf hs img ht
  | mgmtRequest r => exact execMgmtRequest_wf hs r ht
  | releaseWaitEnd w => exact execReleaseWaitEnd_wf hs w ht
  | powerLoss => exact execPowerLoss_wf hs ht

/-- So does a step of the package. -/
theorem step_wf (hs : Memory.wf s.ms.mem) (ht : step s = .next u) : Memory.wf u.ms.mem :=
  State.stepWith_wf exec_wf hs ht

/-- Settles O60: each of the functions that a step is made of keeps memory canonical, from the writes of bytes up to the instructions, the
events and the turns of the agenda. -/
theorem memoryStaysCanonical : Obligations.MemoryStaysCanonical := fun _ _ hs ht => step_wf hs ht

end
end Sys2Proof.Machine
